-- ==== Sys2Proof/Word.lean ====
section
/-! DEFINITION. The word types of the machine and their plainest readings.
Register contents, addresses under computation and encoding fields are bit vectors; memory records and
physical addresses used as keys are natural numbers. -/
namespace Sys2Proof

/-- One byte of a location of memory (00 R3). -/
abbrev Byte := BitVec 8

/-- The 32 bits of a vector or uniform register (01 R13). -/
abbrev Word := BitVec 32

/-- The 64 bits of a register pair, a host register or a control register (01 R13, 10 R245). -/
abbrev Dword := BitVec 64

end Sys2Proof
end

