-- ==== Sys2Proof/Syntax.lean ====
section
/-! DEFINITION. The instruction set as syntax: format tags, operands, the shared layout of a device
instruction, the two slots of a pair, the host extension, and the names of the module's own events.
`Instr` has one constructor per row of the opcode table. -/
namespace Sys2Proof

/-- The format tags a register may carry (01 R16). Code 15 is reserved and held by no register, so it has
no constructor. -/
inductive Tag where
  | i32 | n32 | f32 | bf16x2 | f16x2 | e4m3x4 | e5m2x4 | e3m2x5 | e2m1x8
  | i8x4 | n8x4 | i16x2 | sc10x3 | raw | fx
  deriving DecidableEq, Repr

/-- The sixteen constant operands, in the order of their codes 328 to 343 (03 R69). -/
inductive Const where
  | zero | one | mone | half | f1 | f2 | lane | pi | ln2 | log2e | fm1 | fzero | finf | fmax | bf1x2 | ones
  deriving DecidableEq, Repr

/-- What a 9-bit operand field names (03 R69, R70). A field of class "unused" holds code 0 and is `unused`. -/
inductive Operand where
  | unused
  | v (n : Fin 256)
  | s (n : Fin 64)
  | p (n : Fin 8)
  | k (c : Const)
  deriving DecidableEq, Repr

/-- The length codes of a single instruction (03 R65). -/
inductive Len where
  | l64 | l96 | l128
  deriving DecidableEq, Repr

/-- A guard: the predicate `p`, inverted when `neg` (03 R71). -/
structure Guard where
  neg : Bool
  p   : Fin 8
  deriving DecidableEq, Repr

/-- The fields of a device instruction as 03 R68 lays them out. `e` to `h` and `xmod` are those of the
extended layout and `imm` the bits beyond [63:0] that are an immediate. -/
structure Dev where
  guard : Guard
  len   : Len
  mod   : BitVec 12
  d     : Operand
  a     : Operand
  b     : Operand
  c     : Operand
  e     : Operand
  f     : Operand
  g     : Operand
  h     : Operand
  xmod  : BitVec 12
  imm   : BitVec 64
  deriving DecidableEq, Repr

/-- The pairable operations (03 R77). -/
inductive PairOp where
  | iadd | isub | imul | imulh | imad | imin | imax | iabs | ineg | iaddc | isubb | isad | idp4 |
  and | or | xor | not | andn | lop3 | shl | shr | sar | rotl | shf | bfe | bfi | brev | popc |
  clz | ctz | prmt | icmp | sel | mov | lea | add64 | sub64 | cmp64 | plop | pmov | fadd | fsub |
  fmul | ffma | fmin | fmax | fcmp
  deriving DecidableEq, Repr

/-- One V62 slot of a P128 pair: its operation and its L64 fields (03 R76). -/
structure Slot where
  op : PairOp
  x  : Dev
  deriving DecidableEq, Repr

/-- The fields of a host-extension instruction: rd, rs1, rs2 and the TAFF bits of funct7 (22 R418). -/
structure HostOp where
  rd   : Fin 32
  rs1  : Fin 32
  rs2  : Fin 32
  taff : Fin 4
  deriving DecidableEq, Repr

/-- A wave's place: its core 0-255 and its WAVEID slot 0-63 (01 R24, 06 R141). -/
structure WaveRef where
  core : Nat
  slot : Nat
  deriving DecidableEq, Repr

/-- A thread's place: a wave and a lane (06 R141). -/
structure ThreadRef where
  wave : WaveRef
  lane : Nat
  deriving DecidableEq, Repr

/-- What an access needs of its leaf (10 R255); `loadX` is a load of a hart under MXR, to which an executable page is readable
(22 R415). -/
inductive Access where
  | fetch | load | loadX | store | atomic | prefetch | engineRead | engineWrite
  deriving DecidableEq, Repr

/-- What may hold a line for a home agent: a die's L2, the CPU die, a peer module (13 R324). -/
inductive Holder where
  | die (d : Fin 8) | cpu | peer (k : Fin 8)
  deriving DecidableEq, Repr

/-- A link that carries flits: a circuit of a table entry, an electrical link between two nodes, or the
neighbour link of a die (21 R404, R407). -/
inductive Link where
  | circuit (entry : Nat)
  | neighbour (die : Fin 8)
  | fallback (a b : Fin 4)
  | cpuLink (hub : Fin 4)
  deriving DecidableEq, Repr

/-- A block of the module with a power and a temperature limit (25 R449). -/
inductive PowerBlock where
  | die (d : Fin 8) | stack (hub : Fin 4) (s : Fin 8) | hub (h : Fin 4) | cpu | crown | lpd6 | vault
  | serdes | other
  deriving DecidableEq, Repr

/-- The read-only sensors of the sideband (25 R454). -/
inductive Sensor where
  | power (b : PowerBlock) | temperature (b : PowerBlock) | clk (b : PowerBlock)
  | errstatDie (d : Fin 8) | errstatHub (h : Fin 4) | resetCause
  deriving DecidableEq, Repr

/-- The instructions and events of the opcode table, one constructor per row. Device instructions carry
`Dev`, a pair its two slots, the host extension `HostOp`; an event carries the names of what it acts on. -/
inductive Instr where
  /-- NOP (R120): Advances the PC by the instruction's length and does nothing else. -/
  | nop (x : Dev)
  /-- BRA (R111): Branches to PC plus the signed IMM32 displacement, modulo 2^60. -/
  | bra (x : Dev)
  /-- BRX (R112): Branches to an absolute target in a wide register, or a relative one under .rel. -/
  | brx (x : Dev)
  /-- CALL (R111): Writes the link to a wide destination and branches by the IMM32 displacement. -/
  | call (x : Dev)
  /-- CALLX (R112): Writes the link and branches to a target held in a wide register. -/
  | callx (x : Dev)
  /-- RET (R112): Branches to the absolute address held in a wide register. -/
  | ret (x : Dev)
  /-- EXIT (R113): Ends each guarded thread and seals its open copy batch, while work the thread already issued still completes. -/
  | exit (x : Dev)
  /-- TRAP (R115): Raises the precise fault TRAP with CODE in TRAPINFO. -/
  | trap (x : Dev)
  /-- BKPT (R115): Raises the precise fault BKPT with CODE in TRAPINFO. -/
  | bkpt (x : Dev)
  /-- YIELD (R116): Advances the PC and gives up the wave's claim on the current issue round. -/
  | yield (x : Dev)
  /-- NAP (R116): Makes the thread not ready for a saturated cycle count. -/
  | nap (x : Dev)
  /-- WAITW (R117): Reads a 32-bit word until it meets a condition or a timeout passes, and writes the outcome to a predicate. -/
  | waitw (x : Dev)
  /-- SAFEPT (R119): Resets the wave's safe-point count and marks a stop point for pre-emption. -/
  | safept (x : Dev)
  /-- IADD (R91): Adds two scalar or packed integers, with wrapping or saturation. -/
  | iadd (x : Dev)
  /-- ISUB (R91): Subtracts two scalar or packed integers. -/
  | isub (x : Dev)
  /-- IMUL (R91): Multiplies two scalar integers. -/
  | imul (x : Dev)
  /-- IMULH (R92): Writes the high 32 bits of the 64-bit product. -/
  | imulh (x : Dev)
  /-- IMAD (R91): Computes a × b + c on scalar integers. -/
  | imad (x : Dev)
  /-- IMADW (R92): Computes a × b plus a 64-bit c into a wide destination. -/
  | imadw (x : Dev)
  /-- IDIV (R93): Divides with the quotient truncated toward zero; division by zero sets DZ. -/
  | idiv (x : Dev)
  /-- IREM (R93): Writes the remainder of a truncating division. -/
  | irem (x : Dev)
  /-- IMIN (R91): Writes the minimum of scalar or packed integers. -/
  | imin (x : Dev)
  /-- IMAX (R91): Writes the maximum of scalar or packed integers. -/
  | imax (x : Dev)
  /-- IABS (R91): Writes the absolute value. -/
  | iabs (x : Dev)
  /-- INEG (R91): Writes the negation. -/
  | ineg (x : Dev)
  /-- IADDC (R95): Adds with a carry-in predicate and writes a carry-out predicate. -/
  | iaddc (x : Dev)
  /-- ISUBB (R95): Subtracts with a borrow-in predicate and writes a borrow-out predicate. -/
  | isubb (x : Dev)
  /-- ISAD (R91): Computes |a − b| + c. -/
  | isad (x : Dev)
  /-- IDP4 (R94): Adds the four-way byte dot product of A and B to C. -/
  | idp4 (x : Dev)
  /-- AND (R98): Bitwise AND. -/
  | and (x : Dev)
  /-- OR (R98): Bitwise OR. -/
  | or (x : Dev)
  /-- XOR (R98): Bitwise XOR. -/
  | xor (x : Dev)
  /-- NOT (R98): Bitwise complement. -/
  | not (x : Dev)
  /-- ANDN (R98): Computes a & ~b. -/
  | andn (x : Dev)
  /-- LOP3 (R98): Applies a three-input lookup table to each bit position. -/
  | lop3 (x : Dev)
  /-- SHL (R99): Shifts left. -/
  | shl (x : Dev)
  /-- SHR (R99): Shifts right logically. -/
  | shr (x : Dev)
  /-- SAR (R99): Shifts right arithmetically. -/
  | sar (x : Dev)
  /-- ROTL (R99): Rotates left. -/
  | rotl (x : Dev)
  /-- SHF (R99): Funnel-shifts a 64-bit value built from A and B. -/
  | shf (x : Dev)
  /-- BFE (R100): Extracts a bit field, signed or unsigned. -/
  | bfe (x : Dev)
  /-- BFI (R100): Inserts the low bits of B into a field of A. -/
  | bfi (x : Dev)
  /-- BREV (R98): Reverses the bit order. -/
  | brev (x : Dev)
  /-- POPC (R98): Counts the 1 bits. -/
  | popc (x : Dev)
  /-- CLZ (R98): Counts the leading zeros. -/
  | clz (x : Dev)
  /-- CTZ (R98): Counts the trailing zeros. -/
  | ctz (x : Dev)
  /-- PRMT (R101): Builds each result byte from a selected, filled, zeroed or inverted source byte. -/
  | prmt (x : Dev)
  /-- ICMP (R96): Compares integers and combines the outcome into a predicate. -/
  | icmp (x : Dev)
  /-- SEL (R97): Selects A or B by a predicate. -/
  | sel (x : Dev)
  /-- MOV (R102): Copies a register, or a register pair, together with its tag. -/
  | mov (x : Dev)
  /-- MOVI (R102): Writes IMM32 with tag RTAG. -/
  | movi (x : Dev)
  /-- MOVW (R102): Writes IMM64 to a pair with tag RTAG. -/
  | movw (x : Dev)
  /-- LEA (R104): Forms a 64-bit address from a base and a shifted index. -/
  | lea (x : Dev)
  /-- ADD64 (R103): Adds 64-bit values, saturating for FX operands. -/
  | add64 (x : Dev)
  /-- SUB64 (R103): Subtracts 64-bit values. -/
  | sub64 (x : Dev)
  /-- CMP64 (R96): Compares 64-bit values into a predicate. -/
  | cmp64 (x : Dev)
  /-- PLOP (R105): Applies a lookup table to three predicates. -/
  | plop (x : Dev)
  /-- PMOV (R107): Tests a register into a predicate, or packs or unpacks the predicates. -/
  | pmov (x : Dev)
  /-- FADD (R124): Adds floating-point values per element. -/
  | fadd (x : Dev)
  /-- FSUB (R124): Subtracts floating-point values per element. -/
  | fsub (x : Dev)
  /-- FMUL (R124): Multiplies floating-point values per element. -/
  | fmul (x : Dev)
  /-- FFMA (R124): Fused multiply-add with one rounding. -/
  | ffma (x : Dev)
  /-- FMIN (R125): Writes the floating-point minimum per element. -/
  | fmin (x : Dev)
  /-- FMAX (R125): Writes the floating-point maximum per element. -/
  | fmax (x : Dev)
  /-- FCMP (R126): Compares F32 values into a predicate. -/
  | fcmp (x : Dev)
  /-- FCLASS (R127): Writes a class mask per element. -/
  | fclass (x : Dev)
  /-- FRINT (R128): Rounds each element to an integral value. -/
  | frint (x : Dev)
  /-- FSCALE (R129): Scales each element by 2^n. -/
  | fscale (x : Dev)
  /-- FDOT (R130): Writes the F32 dot product of packed elements, with one rounding. -/
  | fdot (x : Dev)
  /-- FDOTA (R130): Writes the dot product plus an F32 addend, with one rounding. -/
  | fdota (x : Dev)
  /-- FRCP (R131): Computes the reciprocal. -/
  | frcp (x : Dev)
  /-- FRSQ (R131): Computes the reciprocal square root. -/
  | frsq (x : Dev)
  /-- FSQRT (R131): Computes the correctly rounded square root. -/
  | fsqrt (x : Dev)
  /-- FEXP2 (R131): Computes 2^x. -/
  | fexp2 (x : Dev)
  /-- FLOG2 (R131): Computes log2 x. -/
  | flog2 (x : Dev)
  /-- FSIN (R131): Computes the sine of the reduced argument. -/
  | fsin (x : Dev)
  /-- FCOS (R131): Computes the cosine of the reduced argument. -/
  | fcos (x : Dev)
  /-- FTANH (R131): Computes the hyperbolic tangent. -/
  | ftanh (x : Dev)
  /-- FDIV (R131): Computes the correctly rounded quotient. -/
  | fdiv (x : Dev)
  /-- CVT (R132): Converts one register to the target that TGT selects. -/
  | cvt (x : Dev)
  /-- PACK (R133): Converts two scalars into the low elements of a packed result. -/
  | pack (x : Dev)
  /-- UNPK (R134): Widens one packed element. -/
  | unpk (x : Dev)
  /-- QNT (R136): Quantises one 32-element block held across the cohort's lanes. -/
  | qnt (x : Dev)
  /-- DQNT (R137): Dequantises one element under an SC10 scale. -/
  | dqnt (x : Dev)
  /-- SCLX (R138): Moves values between F32 and SC10. -/
  | sclx (x : Dev)
  /-- TAGRD (R139): Writes the operand's tag code. -/
  | tagrd (x : Dev)
  /-- RETAG (R139): Copies bits with a new tag. -/
  | retag (x : Dev)
  /-- SHFL (R164): Gives each active lane the value of a source lane within its segment. -/
  | shfl (x : Dev)
  /-- VOTE (R165): Combines a predicate over the active lanes. -/
  | vote (x : Dev)
  /-- WRED (R169): Reduces over the lanes with a fixed tree. -/
  | wred (x : Dev)
  /-- WSCAN (R169): Scans over the lanes with a fixed tree. -/
  | wscan (x : Dev)
  /-- MATCH (R167): Writes the mask of active lanes that hold equal bits. -/
  | matchLanes (x : Dev)
  /-- ELECT (R166): Sets the predicate in the leader lane only. -/
  | elect (x : Dev)
  /-- ACTMASK (R166): Writes the mask of active lanes. -/
  | actmask (x : Dev)
  /-- RAGLD (R170): Maps the lanes onto rows and offsets of a ragged array. -/
  | ragld (x : Dev)
  /-- SEGRED (R169): Reduces within segments that heads mark. -/
  | segred (x : Dev)
  /-- SEGSCAN (R169): Scans within segments that heads mark. -/
  | segscan (x : Dev)
  /-- LD (R285): Loads from global memory. -/
  | ld (x : Dev)
  /-- ST (R285): Stores to global memory. -/
  | st (x : Dev)
  /-- LDS (R285): Loads from the scratchpad. -/
  | lds (x : Dev)
  /-- STS (R285): Stores to the scratchpad. -/
  | sts (x : Dev)
  /-- LDP (R285): Loads from private memory. -/
  | ldp (x : Dev)
  /-- STP (R285): Stores to private memory. -/
  | stp (x : Dev)
  /-- ATOM (R287): Performs an atomic read-modify-write on global memory. -/
  | atom (x : Dev)
  /-- ATOMS (R287): Performs an atomic read-modify-write on the scratchpad. -/
  | atoms (x : Dev)
  /-- RED (R289): Issues an atomic reduction with no result. -/
  | red (x : Dev)
  /-- FENCE (R290): Orders the thread's accesses at a scope. -/
  | fence (x : Dev)
  /-- PREF (R291): Asks for a line to be prefetched. -/
  | pref (x : Dev)
  /-- CCTL (R291): Invalidates or unlocks cache lines. -/
  | cctl (x : Dev)
  /-- PIN (R294): Increments the device-thread pin counts of a range. -/
  | pin (x : Dev)
  /-- UNPIN (R294): Decrements the device-thread pin counts of a range. -/
  | unpin (x : Dev)
  /-- MHINT (R295): Writes TAFF in a range and requests moves to the preferred tier. -/
  | mhint (x : Dev)
  /-- MQRY (R296): Writes the placement state of a page. -/
  | mqry (x : Dev)
  /-- MMOVE (R295): Requests moves of a range to a target tier, hub or stack. -/
  | mmove (x : Dev)
  /-- CUROPEN (R301): Opens an append cursor at its committed slot. -/
  | curopen (x : Dev)
  /-- CURADV (R303): Closes appended slots and advances the cursor. -/
  | curadv (x : Dev)
  /-- CURQ (R304): Reads cursor state, or waits for a slot to become ready. -/
  | curq (x : Dev)
  /-- QAPP (R302): Appends one scaled E4M3 element per lane to the current slot. -/
  | qapp (x : Dev)
  /-- BINIT (R173): Sets a barrier's expected count. -/
  | binit (x : Dev)
  /-- BARV (R173): Arrives at a barrier and returns the phase token. -/
  | barv (x : Dev)
  /-- BWAIT (R173): Waits until a barrier's phase differs from a token. -/
  | bwait (x : Dev)
  /-- BARW (R173): Arrives at a barrier and waits for the phase to complete. -/
  | barw (x : Dev)
  /-- BTEST (R173): Tests a barrier's phase without waiting. -/
  | btest (x : Dev)
  /-- SWARM (R292): Arms a sync word with a target. -/
  | swarm (x : Dev)
  /-- SWADD (R292): Contributes an amount to a sync word. -/
  | swadd (x : Dev)
  /-- SWWAIT (R292): Waits until a sync word passes a generation. -/
  | swwait (x : Dev)
  /-- SWTEST (R292): Tests whether a sync word has passed a generation. -/
  | swtest (x : Dev)
  /-- TSPAWN (R178): Submits a task record to the pool. -/
  | tspawn (x : Dev)
  /-- TDEP (R179): Adds a dependency edge between two live tasks. -/
  | tdep (x : Dev)
  /-- TFIRE (R180): Delivers one signal to a task, or to the early-signal table. -/
  | tfire (x : Dev)
  /-- TWAIT (R182): Waits for a completion record's STATUS to become nonzero. -/
  | twait (x : Dev)
  /-- TCNCL (R181): Cancels a live task. -/
  | tcncl (x : Dev)
  /-- TEVT (R183): Posts a software event. -/
  | tevt (x : Dev)
  /-- GLOOP (R237): Submits a guess-carried loop task. -/
  | gloop (x : Dev)
  /-- GCARRY (R238): Writes a word of the strand's produced carry, or sets EXIT. -/
  | gcarry (x : Dev)
  /-- GGUESS (R238): Writes a guess word and can seal the guess. -/
  | gguess (x : Dev)
  /-- GCMP (R239): Seals the produced carry and waits for the verdict. -/
  | gcmp (x : Dev)
  /-- GSTAT (R240): Reads a piece of loop state. -/
  | gstat (x : Dev)
  /-- TIDSET (R335): Installs a new generation of a tensor record. -/
  | tidset (x : Dev)
  /-- TIDRD (R336): Copies the bound tensor record to memory. -/
  | tidrd (x : Dev)
  /-- TIDCLR (R335): Makes a new invalid generation current. -/
  | tidclr (x : Dev)
  /-- CPYB (R338): Posts a box copy between a tensor and an image. -/
  | cpyb (x : Dev)
  /-- CPYL (R347): Posts one 16-byte copy per lane. -/
  | cpyl (x : Dev)
  /-- CSEAL (R348): Seals the open copy batch. -/
  | cseal (x : Dev)
  /-- CWAIT (R348): Waits until few enough sealed batches remain unfinished. -/
  | cwait (x : Dev)
  /-- CQRY (R349): Reads copy batch state or the copy failure record. -/
  | cqry (x : Dev)
  /-- NMCMD (R352): Checks a near-memory command record and posts it. -/
  | nmcmd (x : Dev)
  /-- MLDS (R208): Requests that a plane be loaded. -/
  | mlds (x : Dev)
  /-- MSTRM (R208): Posts a pass that streams scratchpad rows against a plane. -/
  | mstrm (x : Dev)
  /-- MDRN (R209): Posts a drain of accumulator rows to the scratchpad. -/
  | mdrn (x : Dev)
  /-- MPASS (R208): Posts a pass of tensor A rows against a plane. -/
  | mpass (x : Dev)
  /-- MZRO (R211): Posts the zeroing of accumulator rows. -/
  | mzro (x : Dev)
  /-- ACCLD (R210): Posts a load of accumulator rows from memory. -/
  | accld (x : Dev)
  /-- ACCST (R210): Posts a store of accumulator rows to memory. -/
  | accst (x : Dev)
  /-- ACCSC (R212): Posts the scaling of accumulator rows by an F32 value. -/
  | accsc (x : Dev)
  /-- MSYNC (R213): Waits for the block's covered matrix operations and returns the earliest failure code. -/
  | msync (x : Dev)
  /-- MRST (R214): Sets or clears the block's restart address. -/
  | mrst (x : Dev)
  /-- ACCMRG (R358): Posts a merge of a partial attention state into the rows. -/
  | accmrg (x : Dev)
  /-- ATTN (R357): Posts an attention tile over a range of keys. -/
  | attn (x : Dev)
  /-- SRD (R380): Reads a special register. -/
  | srd (x : Dev)
  /-- SWR (R380): Clears the FSTAT bits named by the lanes. -/
  | swr (x : Dev)
  /-- TRET (R381): Leaves the trap handler and restores state from the trap frame. -/
  | tret (x : Dev)
  /-- HLT (R382): Aborts the task with code 0x0100 + CODE. -/
  | hlt (x : Dev)
  /-- PERF (R383): Reads a core or hub performance counter. -/
  | perf (x : Dev)
  /-- CLK (R383): Reads the core's clock state. -/
  | clk (x : Dev)
  /-- REGSHR (R384): Lowers the wave's register allotment. -/
  | regshr (x : Dev)
  /-- REGGRW (R384): Raises the wave's register allotment, waiting for register space. -/
  | reggrw (x : Dev)
  /-- DBGMK (R385): Writes a trace marker record. -/
  | dbgmk (x : Dev)
  /-- ISYNC (R385): Orders the thread's later instruction fetches after its earlier stores. -/
  | isync (x : Dev)
  /-- PAIR (R78): Issues two pairable slots of a P128 bundle as one instruction. -/
  | pair (a b : Slot)
  /-- HSUBMIT (R419): Host submission of a task record, after a release. -/
  | hsubmit (h : HostOp)
  /-- HWAIT (R419): Host wait for a completion record, with a timeout in host cycles. -/
  | hwait (h : HostOp)
  /-- HPIN (R419): Host pin of a range on the host-thread count. -/
  | hpin (h : HostOp)
  /-- HUNPIN (R419): Host unpin of a range. -/
  | hunpin (h : HostOp)
  /-- HMHINT (R419): Host write of TAFF in a range, with move or handover requests. -/
  | hmhint (h : HostOp)
  /-- HMQRY (R419): Host query of a page's placement word. -/
  | hmqry (h : HostOp)
  /-- SAFEPT_OVERRUN (R387): The wave's issue count exceeds SAFE_DIST; the cohort faults and the task aborts. -/
  | safeptOverrun (w : WaveRef)
  /-- NAP_EXPIRY (R116): A napping thread's cycle count expires and the thread becomes ready. -/
  | napExpiry (t : ThreadRef)
  /-- WAITW_POLL (R117): A waiting WAITW re-reads its word after a change or after 256 cycles. -/
  | waitwPoll (t : ThreadRef)
  /-- WAITW_TIMEOUT (R117): A WAITW's timeout passes and it writes pd = 0. -/
  | waitwTimeout (t : ThreadRef)
  /-- REGGRW_GRANT (R384): A waiting REGGRW is granted once register space frees, in issue order. -/
  | reggrwGrant (core : Nat)
  /-- BLOCK_DISPATCH (R155): A dispatcher starts a block on a core with enough resources, after checking the kernel header. -/
  | blockDispatch (core : Nat)
  /-- GANG_DISPATCH (R156): All blocks of a co-residency task start together within one instance of the level. -/
  | gangDispatch (task inst : Nat)
  /-- GANG_RESERVE (R156): After 65,536 cycles ready, the slice reserves freed resources for the gang task. -/
  | gangReserve (task inst : Nat)
  /-- HOST_TASK_DISPATCH (R420): A ready KIND 1 task is queued for the tenant and an IMSIC interrupt is sent. -/
  | hostTaskDispatch (slice : Nat)
  /-- NM_TASK_START (R352): A ready KIND 2 task reads its command record and posts it to the near-memory unit. -/
  | nmTaskStart (slice : Nat)
  /-- COPY_TASK_START (R350): A ready KIND 3 task reads its copy descriptor and starts the copy. -/
  | copyTaskStart (slice engine : Nat)
  /-- LOOP_START (R219): A loop task starts, binds generations, reads its state block and begins round 0. -/
  | loopStart (slice : Nat)
  /-- TASK_COMPLETE (R158): A task completes, writes its completion record, posts its event and signals its successors. -/
  | taskComplete (task : Nat)
  /-- TASK_ABORT (R371): A task aborts: no block starts and its threads are discarded. -/
  | taskAbort (task : Nat)
  /-- STRAND_START (R220): A strand starts once its guess is sealed and the strand below has started. -/
  | strandStart (loop strand : Nat)
  /-- LOOP_COMMIT (R225): A finished round publishes, advances cursors, writes the state block and ends the loop or begins the next round. -/
  | loopCommit (loop : Nat)
  /-- HANDLER_ENTRY (R370): A thread with a handler-class fault writes its trap frame and jumps to the handler. -/
  | handlerEntry (t : ThreadRef)
  /-- FAULT_RECORD_WRITE (R366): A hub writes a buffered fault entry to the tenant fault ring once there is room, and interrupts. -/
  | faultRecordWrite (hub tenant : Nat)
  /-- MOVE_START (R315): The migration engine takes a destination frame, sets MOVING and sets MIP, or abandons the move. -/
  | moveStart (hub : Nat)
  /-- MOVE_LINE_COPY (R316): One line is copied indivisibly to the destination and its bit is set. -/
  | moveLineCopy (move : Nat)
  /-- SWITCH_OVER (R317): With every bitmap bit set, or 4,096 cycles after an abandon, the Cuff opens and the source lines are recalled. -/
  | switchOver (move : Nat)
  /-- FORWARDING_INSTALL (R317): The forwarding entry is installed, the leaf is rewritten, the Cuff closes and a shootdown starts. -/
  | forwardingInstall (move : Nat)
  /-- CUFF_ABANDON (R318): A 65th held request or a 5,000-cycle hold abandons the switch-over. -/
  | cuffAbandon (move : Nat)
  /-- FORWARDING_RETIRE (R319): Once the shootdown is acknowledged and old accesses are performed, the entry retires and the source frame is released. -/
  | forwardingRetire (move : Nat)
  /-- HANDOVER_COMPLETE (R438): After the recall, the owner entry names the new owner and held requests are forwarded. -/
  | handoverComplete (frame : Nat)
  /-- PLANE_LOAD_START (R201): A named plane starts loading into SHADOW once SHADOW holds no needed plane. -/
  | planeLoadStart (engine : Nat)
  /-- PLANE_LOAD_COMPLETE (R195): A plane and its column corrections finish loading. -/
  | planeLoadComplete (engine : Nat)
  /-- ARRAY_RUN_GRANT (R201): At a row boundary with the array free, the arbiter starts a run of ready passes on the ACTIVE plane. -/
  | arrayRunGrant (engine : Nat)
  /-- RUN_END (R201): A run ends after its last row enters, and SHADOW may become ACTIVE. -/
  | runEnd (engine : Nat)
  /-- MATRIX_OP_COMPLETE (R205): A matrix or attention operation ends, writes STATUS, ORs flags, contributes to its sync word and frees its entry. -/
  | matrixOpComplete (engine op : Nat)
  /-- COPY_START (R342): A copy engine starts a copy and fixes BYTES. -/
  | copyStart (copy : Nat)
  /-- DDW_PAGE_STEP (R345): A deduplicating copy shares or writes one image page and updates the fingerprint table. -/
  | ddwPageStep (copy : Nat)
  /-- COPY_COMPLETE (R342): A copy completes, contributes BYTES or a failure mark, and finishes in its batch. -/
  | copyComplete (copy : Nat)
  /-- NM_COMMAND_START (R354): A near-memory unit translates the command's pages and begins updating lines. -/
  | nmCommandStart (cmd : Nat)
  /-- NM_COMMAND_COMPLETE (R355): A near-memory command finishes and writes its completion record. -/
  | nmCommandComplete (cmd : Nat)
  /-- TLBINV_COMPLETE (R260): An invalidation finishes and BUSY reads 0. -/
  | tlbinvComplete (hub : Nat)
  /-- FLR (R425): A write of TMC_CTL.FLR = 1 starts a function-level reset of one tenant. -/
  | flr (tenant : Nat) (v : Dword)
  /-- FLR_COMPLETE (R425): When no tagged flit remains, EN and FLR clear and the tensor-ID entries reset. -/
  | flrComplete (tenant : Nat)
  /-- SAVE_BLOCK_STOP (R389): A pre-emptable block has its engine operations cancelled and drains, and its record is written. -/
  | saveBlockStop (block : Nat)
  /-- SAVE_COMPLETE (R389): After the drains, the sections and header are written and RESULT becomes DONE. -/
  | saveComplete (tenant : Nat)
  /-- RESTORE (R396): TMC_PRE CMD 1 checks an image and reinstates the tenant's pool state and blocks. -/
  | restore (tenant : Nat) (v : Dword)
  /-- PARTITION_CHANGE_COMPLETE (R424): Once the affected partitions are empty, the mode changes and dispatch resumes. -/
  | partitionChangeComplete
  /-- CIRCUIT_UP (R409): The rings finish tuning and the circuit enters UP. -/
  | circuitUp (entry : Nat)
  /-- CIRCUIT_DRAINED (R410): A draining circuit's last message is delivered and its entry becomes FREE. -/
  | circuitDrained (entry : Nat)
  /-- MODULE_RESET (R429): A module reset runs the boot steps and loads the driver. -/
  | moduleReset (failedStep : Option Nat)
  /-- BLOCK_RESTART (R377): After in-flight work drains, the block's threads resume at RSTPC with barriers reset. -/
  | blockRestart (block : Nat)
  /-- VISOR_SAMPLE (R398): Each PERIOD interval a core samples one resident wave and writes a stall record. -/
  | visorSample (core : Nat)
  /-- PLDM_DISCOVERY (R454): A PLDM Base discovery request on the sideband port. -/
  | pldmDiscovery
  /-- PLDM_SENSOR_READ (R454): A PLDM Platform Monitoring read of a sensor. -/
  | pldmSensorRead (sensor : Sensor)
  /-- PLDM_FIRMWARE_UPDATE (R454): A PLDM Firmware Update writes a signed image to the vault in installation mode. -/
  | pldmFirmwareUpdate (image : List Byte)
  /-- HTENANT_WRITE (R417): An S-mode write of the htenant CSR selects the tenant for host-extension instructions. -/
  | htenantWrite (hart : Nat) (csr : Nat) (v : Dword)
  /-- PAGE_WALK (R258): A walker translates a missed page and updates A and D, posting tier-miss events. -/
  | pageWalk (die tenant va : Nat) (a : Access)
  /-- HOME_READ (R325): A home agent serves a read request by the directory table and counts the frame's access. -/
  | homeRead (x : Holder) (line : Nat)
  /-- HOME_OWNERSHIP (R325): A home agent grants ownership and invalidates the other holders. -/
  | homeOwnership (x : Holder) (line : Nat)
  /-- HOME_EXECUTE (R325): A home agent executes an operation at memory after invalidating every holder. -/
  | homeExecute (x : Holder) (line : Nat)
  /-- HOME_DROP (R325): A holder's drop clears its directory bit and writes dirty data back. -/
  | homeDrop (x : Holder) (line : Nat)
  /-- CAPACITY_DISPLACEMENT (R325): A directory entry displaced by capacity recalls its line. -/
  | capacityDisplacement (line : Nat)
  /-- COW_RESOLUTION (R346): A write to a copy-on-write page is resolved at the frame's home before it is performed. -/
  | cowResolution (tenant va : Nat)
  /-- HANDOVER_REQUEST (R438): A pool owner's home serves a handover request and checks its pins. -/
  | handoverRequest (frame requester : Nat)
  /-- TLBINV_PAGE (R259): TLBINV KIND 0 invalidates the translations of one page of an ASID. -/
  | tlbinvPage (hub : Nat) (v : Dword)
  /-- TLBINV_ASID (R259): TLBINV KIND 1 invalidates every translation of an ASID. -/
  | tlbinvAsid (hub : Nat) (v : Dword)
  /-- TLBINV_ALL (R259): TLBINV KIND 2 invalidates every translation. -/
  | tlbinvAll (hub : Nat) (v : Dword)
  /-- FSTQ_RELOAD (R308): HUB_FSTQ RELOAD rereads a frame state entry's driver fields. -/
  | fstqReload (hub : Nat) (v : Dword)
  /-- FSTQ_READ (R308): HUB_FSTQ READ places a frame's RAW in COUNT. -/
  | fstqRead (hub : Nat) (v : Dword)
  /-- FSTQ_WRITE (R308): HUB_FSTQ WRITE sets a frame's RAW from COUNT. -/
  | fstqWrite (hub : Nat) (v : Dword)
  /-- FLTRES_REPLAY (R367): HUB_FLTRES ACTION 0 frees a fault entry and replays what is parked on it. -/
  | fltresReplay (hub : Nat) (v : Dword)
  /-- FLTRES_UNRESOLVED (R367): HUB_FLTRES ACTION 1 frees an entry and completes its waiters with a fault of CAUSE 63. -/
  | fltresUnresolved (hub : Nat) (v : Dword)
  /-- CONTEXT_CREATE (R422): A write of TMC_CTL.EN = 1 checks the version choices and creates the context. -/
  | contextCreate (tenant : Nat) (v : Dword)
  /-- SAVE (R389): TMC_PRE CMD 0 holds dispatch, sizes the image and starts a context save. -/
  | save (tenant : Nat) (v : Dword)
  /-- PARTITION_CHANGE (R424): A MOD_PART write starts a change of partition mode. -/
  | partitionChange (v : Dword)
  /-- CTE_UP (R409): A connection-table UP command checks and sets up a circuit. -/
  | cteUp (entry : Nat) (v : Dword)
  /-- CTE_DOWN (R410): A connection-table DOWN command starts draining a circuit. -/
  | cteDown (entry : Nat) (v : Dword)
  /-- WAVELENGTH_FAILURE (R410): A wavelength of an UP circuit fails; with none left, the circuit drains to LOST. -/
  | wavelengthFailure (entry wavelength : Nat)
  /-- FLIT_CRC_ERROR (R407): A flit fails its CRC and is sent again from the replay buffer. -/
  | flitCrcError (l : Link)
  /-- LINK_DOWN (R407): Ten failed replays take a link down and its traffic moves to other links. -/
  | linkDown (l : Link)
  /-- POOL_LINK_DOWN (R414): A pool port link goes down, and accesses to its frames are answered as R457 gives. -/
  | poolLinkDown (hub port : Nat)
  /-- CHANNEL_HALF_WIDTH (R412): A temperature limit or a lane fault puts an HBM channel at half width. -/
  | channelHalfWidth (stack channel : Nat) (laneFault : Bool)
  /-- CHANNEL_FULL_WIDTH (R412): A thermal condition clears and the channel returns to full width. -/
  | channelFullWidth (stack channel : Nat)
  /-- POWER_LIMIT (R450): A block reaches its power limit and lowers its clock or delays its accesses. -/
  | powerLimit (b : PowerBlock) (mhz : Nat)
  /-- TEMPERATURE_LIMIT (R451): A block reaches its temperature limit and lowers its clock. -/
  | temperatureLimit (b : PowerBlock) (mhz : Nat)
  /-- CRITICAL_TEMPERATURE (R452): A block at critical temperature stops and the module enters reset. -/
  | criticalTemperature (b : PowerBlock)
  /-- REGISTER_FILE_ERROR (R376): An uncorrectable register-file error kills the wave and aborts its task with CONTEXT_ERROR. -/
  | registerFileError (w : WaveRef)
  /-- ACC_ERROR (R377): An uncorrectable accumulator error cancels the block's operations and starts its restart. -/
  | accError (block : Nat)
  /-- MOD_ATTEST (R430): A write to MOD_ATTEST writes a signed attestation report. -/
  | modAttest (v : Dword)
  /-- MOD_VAULTRD (R432): A write to MOD_VAULTRD reads this module's shard of a weight image. -/
  | modVaultrd (v : Dword)
  /-- POOL_ACQUIRE (R438): POOL_CMD ACQUIRE requests ownership of a pool frame. -/
  | poolAcquire (v : Dword)
  /-- POOL_SHARE (R441): POOL_CMD SHARE moves an owned pool frame to SHARED_RO. -/
  | poolShare (v : Dword)
  /-- HTASK_TAKE (R420): A read of TMC_HTASK takes the oldest queued host task. -/
  | htaskTake (hart rd tenant : Nat)
  /-- HDONE (R420): A write of TMC_HDONE completes a taken host task. -/
  | hdone (tenant : Nat) (v : Dword)
  /-- EVQ_CONFIG_WRITE (R420): A write of TMC_EVQ that changes the ring or EN sets HEAD to TAIL. -/
  | evqConfigWrite (tenant : Nat) (v : Dword)
  /-- EVQ_HEAD_WRITE (R420): A write of HEAD frees event records, and is ignored if it would exceed the ring. -/
  | evqHeadWrite (tenant : Nat) (v : Dword)
  /-- PERFSEL_LOAD (R400): A write of TMC_PERFSEL reads the 160-byte selector table. -/
  | perfselLoad (tenant : Nat) (v : Dword)
  /-- DIRTY_LOG_ENABLE (R427): Setting TMC_DIRTY.EN recalls the tenant's E and M lines and starts logging writes. -/
  | dirtyLogEnable (tenant : Nat) (v : Dword)
  /-- REGISTER_WRITE (R416): A host write to a register that has no behaviour of its own sets its RW fields. -/
  | registerWrite (pa : Nat) (v : Dword)
  /-- POOL_LINK_UP (R457): A pool port link that was down comes back up, and accesses to its frames are served normally again. -/
  | poolLinkUp (hub port : Nat)
  /-- PEER_LINK_DOWN (R439): A peer CXL link goes down, so an owner module may become unreachable and its pool frames are answered as R457 gives. -/
  | peerLinkDown (peer : Nat)
  /-- PEER_LINK_UP (R457): A peer link comes back up, so its owner is reachable again and the peer counts toward context version checks (R422). -/
  | peerLinkUp (peer : Nat)
  /-- TEMPERATURE_LIMIT_CLEARED (R451): A block's temperature falls below its limit, so its clock is no longer lowered and CLK d[16] returns to 0. -/
  | temperatureLimitCleared (b : PowerBlock)
  /-- POWER_LIMIT_CLEARED (R450): A block's draw falls below its limit, so it stops lowering its clock or delaying accesses and CLK d[17] returns to 0. -/
  | powerLimitCleared (b : PowerBlock)
  /-- VAULT_SHARD_RELAY (R432): A request from a peer module whose own vault lacks its shard is served by this module, which reads that shard from its vault and relays it. -/
  | vaultShardRelay (peer image : Nat)
  deriving DecidableEq, Repr

end Sys2Proof
end

