-- ==== Sys2Proof/Config.lean ====
section
/-! DEFINITION. What is fixed for one module (its signed configuration record and edition) and the free values:
constants with no body that stand for what the spec leaves open. -/
namespace Sys2Proof.Config

/-- Free: how many extra arithmetic-clock cycles a step takes, by the count of free values drawn so far. Latencies bind
nothing (00 R6). -/
opaque elapsed : Nat → Nat

/-- Free: which of several possible next steps comes first, by the count of free values drawn so far. -/
opaque choice : Nat → Nat

/-- Fixed: how often the module may pass over something that it may do before that comes first. Every ready thread issues in the end
(06 R161). -/
opaque patience : Nat

/-- Fixed: which of its hub's 524,288 directory sets of 16 ways a line belongs to (13 R324). -/
opaque dirSet : (line : Nat) → Fin 524288

/-- Fixed: whether PMP grants S-mode a register address (22 R416). -/
opaque pmpGrants : (pa : Nat) → Bool

/-- Free: a bit the spec leaves open, by the count of free values drawn so far. -/
opaque freeBit : Nat → Bool

/-- Free: a 64-bit value the spec leaves open, by the count of free values drawn so far. -/
opaque freeWord : Nat → BitVec 64

/-- Free: the result bits of a special function within its accuracy bound, by function number and operand bits
(02 R61, R62). -/
opaque specialBits : Nat → BitVec 32 → BitVec 32

/-- Fixed: the size of the CXL pool in bytes, at most 256 TiB, from the signed configuration record (10 R251). -/
opaque poolBytes : Nat

/-- Fixed: MODULE_ORD of this module, 0-7, from the signed configuration record (22 R429, 23 R433). -/
opaque moduleOrd : Fin 8

/-- Fixed: the wavelengths that the signed configuration record disables at a node's port (21 R409, 22 R429). -/
opaque disabledWavelengths : (node port : Nat) → BitVec 8

/-- Fixed: whether the configuration record selects installation mode (22 R431). -/
opaque installMode : Bool

/-- Free: the next cycle count of the modules' power and temperature figures as a sensor reads them (25 R454). -/
opaque sensorReading : Nat → BitVec 64

/-- Fixed: the versions that a peer module reports for an interface, lowest and highest (22 R422). -/
opaque peerVersions : (peer interface : Nat) → Nat × Nat

/-- Fixed: whether a firmware image bears a good signature, by its bytes; the key is not in the spec (22 R429). -/
opaque firmwareVerifies : List (BitVec 8) → Bool

/-- Fixed: whether the header of a weight image bears a good signature, by its bytes; the key is not in the spec (22 R429, R431). -/
opaque headerVerifies : List (BitVec 8) → Bool

/-- Fixed: SHA-512 of the firmware image, of the configuration record, the serial number and the identity modulus and
signature bytes of the attestation report, which no rule states (22 R430). -/
opaque firmwareDigest : BitVec 512
opaque configDigest : BitVec 512
opaque serialNumber : BitVec 128
opaque identityModulus : BitVec 4096
opaque attestSignature : (draw : Nat) → (report : List Byte) → BitVec 4096

/-- The versions of 00 R11 in its order: task record, tensor record, kernel header, context image, pool protocol, host
extension. -/
def versionHigh : List Nat := [0x0102, 0x0101, 0x0103, 0x0200, 0x0100, 0x0100]

/-- The lowest version of each interface (22 R422). -/
def versionLow : List Nat := [0x0100, 0x0100, 0x0100, 0x0200, 0x0100, 0x0100]

/-- What a byte of memory that nothing has written reads as. DESIGN CHOICE (log entry 1): the spec gives no reset contents;
unsafe. -/
def initialByte : Byte := 0

/-- The arithmetic clock of a core that no limit lowers, in MHz (01 R26, 17 R383). -/
def fullClock : Nat := 2500

end Sys2Proof.Config
end

