-- ==== Sys2Proof/Machine/Bits.lean ====
section
/-! DEFINITION. Bit fields of records and registers held as natural numbers, little-endian byte lists,
and two's-complement readings. -/
namespace Sys2Proof

/-- Bits [hi:lo] of x, as the spec writes `x[hi:lo]` (00 R3). -/
def fld (x hi lo : Nat) : Nat := (x >>> lo) % 2 ^ (hi + 1 - lo)

/-- Bit i of x. -/
def bit (x i : Nat) : Bool := (x >>> i) % 2 == 1

/-- x with bits [hi:lo] replaced by v modulo the width of the field. -/
def setFld (x hi lo v : Nat) : Nat :=
  x - (fld x hi lo) <<< lo + (v % 2 ^ (hi + 1 - lo)) <<< lo

/-- 1 or 0 for a condition. -/
def b2n (b : Bool) : Nat := if b then 1 else 0

/-- The unsigned value of a little-endian byte list (00 R3). -/
def leNat : List Byte → Nat
  | [] => 0
  | b :: bs => b.toNat + 256 * leNat bs

/-- The n low bytes of x, lowest address first (00 R3). -/
def natBytes : Nat → Nat → List Byte
  | 0, _ => []
  | n + 1, x => BitVec.ofNat 8 x :: natBytes n (x / 256)

/-- `sext(x, n)` of 00 R8: the two's-complement value of the n low bits of x. -/
def sextN (x n : Nat) : Int :=
  let u := x % 2 ^ n
  if u < 2 ^ (n - 1) then (u : Int) else (u : Int) - ((2 ^ n : Nat) : Int)

/-- An integer modulo 2^n, as an unsigned value. -/
def wrapN (i : Int) (n : Nat) : Nat := (i % ((2 ^ n : Nat) : Int)).toNat

/-- Integer saturation to [lo, hi] (00 R8). -/
def satI (y lo hi : Int) : Int := if y < lo then lo else if hi < y then hi else y

/-- Ceiling of a / b. -/
def ceilDiv (a b : Nat) : Nat := (a + b - 1) / b

/-- x aligned down to a multiple of a. -/
def alignDown (x a : Nat) : Nat := x / a * a

/-- x rounded up to a multiple of a. -/
def alignUp (x a : Nat) : Nat := ceilDiv x a * a

end Sys2Proof
end

