-- ==== Sys2Proof/Machine/State.lean ====
section
/-! DEFINITION. The state of the module: threads, waves, blocks, tasks and loops, memory, the hubs' tables, the
engines, the tenants' and the module's registers, the host harts, and the schedule of outside inputs. All of it is plain
data. -/
namespace Sys2Proof.Machine

/-- Memory as (address, byte) pairs: addresses strictly rising and no byte equal to what an unlisted address reads as. -/
abbrev Memory := List Host.Cell

/-- A vector or uniform register: 32 bits and a tag (01 R13, R16). -/
structure Reg where
  val : Word
  tag : Tag
  deriving DecidableEq, Repr

/-- A register at dispatch (01 R18). -/
def Reg.zero : Reg := ⟨0, .i32⟩

/-- Who raises a fault of a thread, with everything a trap frame, a fault record or a completion record says of it
(17 R363, R366, R369, R370). -/
structure FInfo where
  code     : Nat              -- R363
  cause    : Nat := 0         -- TRAPINFO CAUSE
  access   : Nat := 3         -- TRAPINFO ACCESS
  operand  : Nat := 0         -- TRAPINFO CODE
  addr     : Nat := 0         -- FAULT_ADDR
  detail   : Nat := 0         -- MIGRATION detail word
  replay   : Bool := false    -- sent to the fault queue
  slotB    : Bool := false    -- TRAPINFO PSLOT
  after    : Bool := false    -- the resume point is the next instruction (TRAP, BKPT, WATCH)
  pc       : Nat := 0         -- the PC of the instruction once it is known
  resume   : Nat := 0         -- RESUME_PC once it is known
  lanes    : Nat := 0         -- LANEMASK once it is known
  noted    : Bool := false    -- Visor has its record (18 R397)
  deriving DecidableEq, Repr

/-- A wait that an instruction has entered and that leaves the thread not ready (06 R142). The instruction has issued; its
PC stands at it until the wait ends. -/
inductive Wait where
  /-- NAP until a cycle (04 R116). -/
  | nap (wake : Nat)
  /-- WAITW or TWAIT: address, condition (3: STATUS nonzero), comparand, start, limit, the level its reads complete at, destination (04 R117,
  07 R182; 11 R265). -/
  | waitw (ea cond : Nat) (b : Word) (t0 limit level : Nat) (dest : Operand)
  /-- BWAIT, or BARW when `barw`, on a barrier with a token (07 R173). -/
  | barrier (idx : Nat) (token : Word) (barw : Bool)
  /-- SWWAIT on a sync word for a generation (12 R292). -/
  | sync (off : Nat) (g : Word)
  /-- MSYNC on ticket t when c was the last ticket issued, held as t + 2^32 × c (08 R213). -/
  | msync (ticket : Nat) (dest : Operand)
  /-- CWAIT until at most n sealed batches are unfinished (15 R348). -/
  | cwait (n : Nat)
  /-- REGGRW to an allotment (17 R384). -/
  | reggrw (allot : Nat)
  /-- GCMP for a verdict (09 R239). -/
  | gcmp (dest : Operand)
  /-- CURQ.wait: cursor record, slot, destination (12 R304). -/
  | curq (cursor slot : Nat) (dest : Operand)
  /-- MMOVE.wait for the moves it queued (12 R295). -/
  | moves (ids : List Nat) (dest : Operand)
  deriving DecidableEq, Repr

/-- Why a thread that reached an instruction is held before it acts; it runs the instruction when the reason is gone
(06 R142). -/
inductive Hold where
  /-- A full reservation table of the thread's core (08 R199). -/
  | posting (core : Nat)
  /-- Full copy queues of a hub (15 R337). -/
  | copyQueue (hub : Nat)
  /-- Seventeen sealed batches (15 R348). -/
  | batchLimit
  /-- A strand that waits for its position (09 R228, R229). -/
  | strand
  /-- A task instruction held by a save (18 R388). -/
  | saving
  /-- A full early-signal table (07 R180). -/
  | earlyFull
  /-- A request held in the Cuff of a move (13 R317). -/
  | cuff (move : Nat)
  /-- A full move queue of a hub (13 R315). -/
  | moveQueue (hub : Nat)
  /-- A pin of a page that is moving (12 R294). -/
  | pinMoving (ppn : Nat)
  /-- A read of a slot that an earlier strand owns and has not made ready (09 R230). -/
  | slot (va : Nat)
  /-- No free frame or release-ring room for a copy-on-write resolution (15 R346). -/
  | frames (hub : Nat)
  /-- A pool frame in handover (23 R438). -/
  | handover (frame : Nat)
  /-- A fault entry of a hub's own access on behalf of this one (15 R346). -/
  | device (entry : Nat)
  deriving DecidableEq, Repr

/-- Where a thread stands between issues. -/
inductive TStatus where
  /-- It may issue. -/
  | run
  /-- It has exited (04 R113). -/
  | exited
  /-- It waits in an instruction that has issued; `next` is the PC after it. -/
  | waiting (w : Wait) (next : BitVec 60)
  /-- It is held before an instruction acts. -/
  | held (h : Hold)
  /-- Its lane is parked on a fault entry with its own fault (10 R261); `entering` is the handler fault whose trap frame met the fault (17
  R370). -/
  | parked (entry : Nat) (f : FInfo) (entering : Option FInfo)
  /-- Its fault entry has been resolved and its lane is to be replayed (17 R365). -/
  | replay
  /-- It has a handler-class fault that waits for the wave's replay (17 R365). -/
  | pending (f : FInfo)
  /-- It is in a speculative strand and holds a fault (09 R232). -/
  | heldFault (f : FInfo)
  deriving DecidableEq, Repr

/-- An instruction of a cohort that has lanes outstanding (held, or to be replayed): a name of the model's for it, and the lowest lane
that has written its uniform destination (01 R15). -/
structure Inst where
  id  : Nat
  low : Option Nat
  deriving DecidableEq, Repr

/-- A sealed batch of copies of a thread: its number and how many of its copies have not completed (15 R348). -/
structure Batch where
  num  : Nat
  left : Nat
  deriving DecidableEq, Repr

/-- Where the range of an MMOVE, MHINT or PIN goes on when its lane issues again: the address of the page that stopped it, its index, and the
moves that the earlier pages have queued (12 R295). -/
structure Redo where
  va  : Nat
  idx : Nat
  ids : List Nat
  deriving DecidableEq, Repr

/-- One thread: registers, predicates, program counter, TRAPINFO, its standing, and its copy batches (01 R13, R18, R19,
R24; 15 R348, R349). -/
structure Thread where
  ltid     : Nat
  regs     : List Reg               -- v0 to v(A-1)
  preds    : BitVec 7               -- p0 to p6
  pc       : BitVec 60
  trapinfo : Word
  status   : TStatus
  turns    : Nat                    -- turns of the wave since it became ready without issuing (06 R144)
  retry    : Bool                   -- its next issue repeats one already counted (18 R387)
  stopped  : Bool                   -- stopped at a stop point for a save (18 R388)
  again    : Bool                   -- its lane is being replayed (17 R365)
  inst     : Option Inst            -- the instruction that it is outstanding in, or waits in beside outstanding lanes
  watch    : Option FInfo           -- the WATCH that it raises when the wait that it is in ends (18 R399)
  redo     : Option Redo            -- how far its placement request has come (12 R295)
  batch    : Nat                    -- batch counter
  openLeft : Nat                    -- copies of the open batch that have not completed
  openSize : Nat                    -- copies of the open batch
  sealed   : List Batch             -- sealed batches, oldest first, finished ones removed
  lastSeal : Nat                    -- number of the last sealed batch
  doneUpTo : Nat                    -- highest number whose batch and all earlier ones are finished
  copyErr  : Nat                    -- failure record of CQRY.err
  deriving DecidableEq, Repr

/-- One wave (06 R141): its place, its block, allotment, uniform registers, FSTAT, safe-point count, private frame, and the
memory-context registers it latched at dispatch (10 R245). -/
structure Wave where
  ref      : WaveRef
  block    : Nat
  index    : Nat                    -- which wave of its block
  allot    : Nat
  sregs    : List Reg
  fstat    : Word
  safeCnt  : Nat
  frame    : Option Nat
  root     : Dword
  priv     : Dword
  privsz   : Dword
  threads  : List Thread
  deriving DecidableEq, Repr

/-- A named barrier (07 R171). -/
structure Barrier where
  phase    : Word
  arrived  : Nat
  expected : Nat
  init     : Bool
  deriving DecidableEq, Repr

/-- One accumulator row: 256 words and KIND (08 R193). -/
structure AccRow where
  kind  : Nat
  words : List Word
  deriving DecidableEq, Repr

/-- A resident block: its task, its header's figures, scratchpad, barriers, accumulator rows, tickets and restart address
(01 R28, 06 R155, 07 R171, 08 R193, R199, R214). -/
structure Block where
  id         : Nat
  task       : Nat
  blockId    : Nat
  core       : Nat
  threads    : Nat                  -- T
  scratchLen : Nat                  -- SCRATCH_BYTES rounded
  safeDist   : Nat
  clusterWin : Bool
  scratch    : Memory
  scratchBad : List Nat             -- poisoned 16-byte granules
  barriers   : List Barrier
  accRows    : List AccRow
  nextTicket : Nat
  opCodes    : List (Nat × Nat)     -- codes of completed operations by ticket, for MSYNC (08 R213)
  cancelLo   : Nat                  -- tickets that the save cancelled from which the block was restored, 0 for none (18 R396)
  cancelHi   : Nat
  saveLo     : Nat                  -- tickets that the save in progress has cancelled, 0 for none (18 R392)
  saveHi     : Nat
  slots      : List Nat             -- the wave slots that it holds until it ends (06 R155)
  rstpc      : Nat                  -- address, 1 for none as the image has it
  header     : Nat                  -- address of the kernel header
  restarts   : Nat                  -- restarts without a SAFEPT (17 R377)
  restarting : Nat                  -- code of the event that restarts the block, 0 for none
  strand     : Option (Nat × Nat)   -- loop and strand of a body instance (09 R221)
  guessOf    : Option Nat           -- loop of a guess-routine instance
  deriving DecidableEq, Repr

/-- How far a task of the pool has come (06 R150-R157). -/
inductive TaskPhase where
  | waiting | ready | running | ending
  deriving DecidableEq, Repr

/-- What an engine or the pool says of the instruction or operation that ended a task (06 R158). -/
structure TaskEnd where
  status    : Nat
  fault     : Nat
  faultPc   : Nat
  faultAddr : Nat
  deriving DecidableEq, Repr

/-- A live task of the pool: its slice's own copy of the record, operands and successors, its counts, and its progress
(06 R147-R158). -/
structure Task where
  id       : Nat
  tenant   : Nat
  addr     : Nat                    -- record address
  record   : Nat                    -- the 128 bytes
  ops      : List Nat               -- tile operands, 32 bytes each
  succs    : List Nat
  added    : List Nat               -- successors added by TDEP
  slice    : Nat
  seq      : Nat                    -- acceptance order
  count    : Nat
  evWait   : Bool
  waitsOn  : List Nat               -- earlier conflicting tasks still live (06 R151)
  phase    : TaskPhase
  readyAt  : Nat                    -- clock when it became ready (06 R156)
  nextBlk  : Nat
  started  : Nat                    -- BLOCKS_RUN
  startClk : Nat
  ending   : Option TaskEnd         -- no further block starts
  aborting : Bool                   -- its threads do not issue again (17 R371)
  detail   : Nat
  pending  : List (Nat × Nat)       -- operations outstanding by core (06 R157)
  bound    : List (Nat × Nat)       -- tensor generations bound at the start: TID and slot (15 R333)
  dieOf    : Nat                    -- die of the submitter, for placing and crediting
  strand   : Option (Nat × Nat)     -- body instance of a loop's strand
  guessOf  : Option Nat             -- guess instance of a loop
  hdrWait  : Option Nat             -- fault entry that a read at the task's start waits on (01 R29)
  gang     : Option Nat             -- instance of the level that is reserved for the task (06 R156)
  begun    : Bool                   -- its first block or command has started, so that it binds generations (15 R333)
  saved    : Nat                    -- its blocks that stand in the image of the save in progress (18 R389)
  deriving DecidableEq, Repr

/-- Deficit round robin of one slice (06 R154): a level is 4 × kind + priority. -/
structure Slice where
  nextSeq  : Nat
  deficits : List (Nat × Nat)       -- 64 × level + tenant, and the deficit
  lastTen  : List (Nat × Nat)       -- level and the tenant that it serves
  lastQ    : List (Nat × Nat)       -- 64 × level + tenant, and the queue served last
  deriving DecidableEq, Repr

/-- A verdict on a strand (09 R223). -/
inductive Verdict where
  | none | match_ | mismatch | conflict | last | dropped | quota | exited
  deriving DecidableEq, Repr

/-- A strand's standing (09 R240). -/
inductive StrandPhase where
  | notStarted | running | completed | rejected
  deriving DecidableEq, Repr

/-- Who stored an entry of a write set: the die, which publishes it (13 R312), the TMC_ROOT of the store, and GRAPHID and TASK_NUM of its
task (13 R323). -/
structure Origin where
  die   : Nat
  root  : Nat
  graph : Nat
  num   : Nat
  deriving DecidableEq, Repr

/-- One entry of a strand's write set (09 R227): a stored byte, or a RED with its OP, TYPE and operand, the wave whose FSTAT it
sets, and its block. `cow` marks a page to be resolved at publication. -/
inductive StrandOp where
  | byte (src : Origin) (va pa : Nat) (cow : Bool) (v : Byte)
  | red (src : Origin) (va pa : Nat) (cow : Bool) (op type val : Nat) (wave : WaveRef) (block : Nat)
  deriving DecidableEq, Repr

/-- One strand of a round (09 R220-R231). -/
structure Strand where
  phase    : StrandPhase
  input    : List Reg
  sealedIn : Bool                   -- g_s is sealed
  prod     : List Reg
  sealed   : Bool                   -- P_s is sealed
  exit     : Bool
  verdict  : Verdict
  writes   : List StrandOp          -- the write set, oldest first
  reads    : List (Nat × Nat × Nat) -- line read by VA and by PA, and 0 for memory or 1 + the strand that served it
  nextSlot : List Nat               -- how many slots it has closed in each listed cursor
  byExit   : Bool                   -- it was rejected because a strand below it set EXIT (09 R225)
  tasks    : List Nat               -- record indices of its body instance that have completed
  fail     : Option TaskEnd
  deriving DecidableEq, Repr

/-- The pool's copy of a task record with its operands and successors (06 R149, 09 R218). -/
structure RecCopy where
  addr   : Nat
  record : Nat
  ops    : List Nat
  succs  : List Nat
  deriving DecidableEq, Repr

/-- A guess-carried loop: the pool's copies and the state of its round (09 R217-R226). -/
structure Loop where
  task     : Nat
  tenant   : Nat
  record   : Nat
  body     : List RecCopy
  guess    : RecCopy
  bound    : List (Nat × Nat)
  carry    : List Reg
  iter     : Nat
  rounds   : Nat
  accepted : Nat
  rejected : Nat
  width    : Nat                    -- S_r; 0 while no round runs
  strands  : List Strand
  guessEnd : Option Bool            -- the guess routine has ended, with OK or not
  commits  : List Nat               -- committed slot of each cursor at the round's start
  cancel   : Bool
  ending   : Option TaskEnd
  hold     : Bool                   -- the loop is being saved
  deriving DecidableEq, Repr

/-- A fault entry of a hub's buffer (10 R261, 17 R366). `slot` is none while the buffer is full, `written` says whether its
record is in the ring. -/
structure FaultEntry where
  id      : Nat
  hub     : Nat
  tenant  : Nat
  slot    : Option Nat
  asid    : Nat
  page    : Nat
  access  : Nat
  info    : FInfo
  engine  : Bool
  time    : Nat
  written : Bool
  deriving DecidableEq, Repr

/-- A translation cache (10 R258): a core's, a cluster's, a die's, or a hart's own (22 R415). -/
inductive TlbAt where
  | core (c : Nat)
  | cluster (k : Nat)
  | die (d : Nat)
  | hart (h : Nat)
  deriving DecidableEq, Repr

/-- A cached translation (10 R257, R258): the cache that holds it, the address space, the page and the leaf. -/
structure TlbEntry where
  at_  : TlbAt
  asid : Nat
  page : Nat                        -- VA of the page's first byte
  size : Nat
  leaf : Nat
  deriving DecidableEq, Repr

/-- States of a directory entry other than I (13 R324). -/
inductive DirState where
  | s | e | o | m
  deriving DecidableEq, Repr

/-- A directory entry (13 R324). -/
structure DirEntry where
  line  : Nat                       -- PA / 64
  state : DirState
  owner : Option Holder
  dies  : BitVec 8
  cpu   : Bool
  peers : BitVec 8
  deriving DecidableEq, Repr

/-- A line locked against capacity eviction in a die's L2 (`core` none, HOME 01) or in a core's L1 (HOME 10), with the translation that
placed it (10 R248). -/
structure CacheLock where
  die  : Nat
  core : Option Nat
  line : Nat
  asid : Nat
  ppn  : Nat
  deriving DecidableEq, Repr

/-- Where an uncorrectable error stands that nothing has read yet (17 R373, R374; 19 R402). -/
inductive ErrPlace where
  /-- A line of memory. -/
  | memory (line : Nat)
  /-- A modified line of a die's L2. -/
  | l2 (die line : Nat)
  /-- A modified private line of a core's L1. -/
  | l1 (core line : Nat)
  /-- A granule of a resident block's scratchpad. -/
  | scratch (block granule : Nat)
  /-- A 64-byte line of a weight image in the vault. -/
  | vault (image line : Nat)
  deriving DecidableEq, Repr

/-- A frame state entry as the hub that is home to the frame caches it (13 R307, R308). -/
structure FrameState where
  ppn    : Nat
  size   : Nat
  multi  : Bool
  lvalid : Bool
  leafPa : Nat
  oasid  : Nat
  base   : Nat
  raw    : Nat
  frozen : Bool
  moving : Bool
  deriving DecidableEq, Repr

/-- A pinned page's three counts (12 R294, 13 R328). -/
structure PinEntry where
  ppn    : Nat
  device : Nat
  host   : Nat
  driver : Nat
  deriving DecidableEq, Repr

/-- How far a move has come (13 R315-R319). -/
inductive MovePhase where
  | queued | copying | cuff | installed
  deriving DecidableEq, Repr

/-- Whose request a Cuff holds (13 R317): a thread's, an engine operation's, a hart's, each of which asks again, or one that carries all it
needs: a write of a hub, the pool or a bus agent, and a directory request of a holder (0 read, 1 ownership, 2 an operation at home). -/
inductive HeldBy where
  | thread (r : ThreadRef)
  | op (id : Nat)
  | hart (h : Nat)
  | data (tenant pa : Nat) (count : Bool) (bytes : List Byte)
  | request (x : Holder) (kind : Nat)
  deriving DecidableEq, Repr

/-- A request that a Cuff holds: whose it is, its line, whether it writes, and when it arrived (13 R317, R318). -/
structure HeldReq where
  by_   : HeldBy
  line  : Nat
  write : Bool
  time  : Nat
  deriving DecidableEq, Repr

/-- A move of a page between frames (13 R315-R320). -/
structure Move where
  id       : Nat
  hub      : Nat                    -- the home hub of the source
  src      : Nat                    -- PPN of the page's first frame
  size     : Nat
  tier     : Nat
  destHub  : Nat
  destStk  : Option Nat
  dest     : Option Nat             -- PPN
  auto     : Bool
  phase    : MovePhase
  copied   : Nat                    -- lines copied, in ascending order
  retryAt  : Nat                    -- clock before which the switch-over is not tried again
  held     : List HeldReq           -- requests in the Cuff, oldest first
  heldCnt  : Nat                    -- counts held for the destination while the move is queued (14 R329)
  behind   : Option Nat             -- an earlier move of the same page
  tenant   : Nat
  deriving DecidableEq, Repr

/-- A forwarding entry (13 R317, R319). -/
structure Forward where
  move : Nat
  src  : Nat
  dest : Nat
  size : Nat
  deriving DecidableEq, Repr

/-- A pool handover under way (23 R438). -/
structure Handover where
  frame     : Nat                   -- PPN
  requester : Nat                   -- MODULE_ORD
  fromReg   : Bool                  -- requested through POOL_CMD
  seq       : Nat
  deriving DecidableEq, Repr

/-- A hub's registers and tables (13 R307-R319, 17 R367, R374). -/
structure Hub where
  fst      : List Dword             -- HUB_FST0 to HUB_FST9
  fstq     : Dword
  migctl   : Dword
  rings    : Dword
  tlbinv   : Dword
  fltres   : Dword
  errstat  : Dword
  erraddr  : Dword
  pins     : List PinEntry
  frames   : List FrameState
  lastStk  : List Nat               -- the stack ring last used, by size (13 R314)
  portsUp  : List Bool              -- the two pool ports (21 R414)
  deriving DecidableEq, Repr

/-- A die's registers (17 R374). -/
structure Die where
  errstat : Dword
  erraddr : Dword
  deriving DecidableEq, Repr

/-- What lowers a core's clock: the clocks that a temperature and a power limit call for (25 R450, R451). -/
structure CoreClock where
  thermal : Option Nat
  power   : Option Nat
  deriving DecidableEq, Repr

/-- A core: the wave of each quadrant that had the previous turn, whether it yielded, waiting REGGRW requests in issue
order, and when it last sampled each tenant for Visor (06 R143, R155; 17 R384; 18 R397). -/
structure Core where
  lastTurn : List Nat
  reggrw   : List ThreadRef
  visorAt  : List (Nat × Nat)       -- tenant, and the clock of the core's last sample of it
  deriving DecidableEq, Repr

/-- A current or retained generation of a tensor ID (15 R330-R333). -/
structure TensorGen where
  gen     : Nat
  valid   : Bool
  record  : Nat                     -- the 64-byte record
  deriving DecidableEq, Repr

/-- One entry of a tenant's tensor table: eight slots and the current one (15 R330). -/
structure TensorEntry where
  tid     : Nat
  slots   : List (Option TensorGen)
  current : Option Nat
  lastGen : Nat
  deriving DecidableEq, Repr

/-- A block of a restored image with its waves, until a core has room for it (18 R396). -/
structure RestBlock where
  block : Block
  waves : List Wave
  deriving DecidableEq, Repr

/-- How far a save or restore of a tenant has come (18 R389, R396). -/
inductive SavePhase where
  | idle | saving | restoring
  deriving DecidableEq, Repr

/-- A tenant: its registers (10 R245; 15 R330, R344; 17 R366, R368; 18 R386, R397, R399, R400; 22 R420-R427) and what the
pool and the hubs keep for it. -/
structure Tenant where
  ctl      : Dword
  vera     : Dword
  verb     : Dword
  root     : Dword
  priv     : Dword
  privsz   : Dword
  tid      : Dword
  ddw      : Dword
  fq       : Dword
  fqhead   : Dword
  trap     : Dword
  save     : Dword
  pre      : Dword
  vis      : Dword
  vishead  : Dword
  watch    : List Dword
  perfsel  : Dword
  evq      : Dword
  evqhead  : Dword
  hdone    : Dword
  dirty    : Dword
  clkOff   : Nat                    -- clock offset (01 R26)
  early    : List Nat               -- early signals by record address (06 R150)
  evSeq    : Nat
  evLost   : Bool
  fqSeq    : Nat
  visSeq   : Nat
  visLost  : Nat
  hostQ    : List Nat               -- queued host tasks by record address (22 R420)
  taken    : List Nat               -- taken host tasks
  tensors  : List TensorEntry
  perfSels : List Nat
  perfCore : List Nat
  perfHub  : List (List Nat)
  copyRem  : List Nat               -- copied bytes of each hub beyond whole 64s (18 R400)
  phase    : SavePhase
  savePos  : Nat                    -- offset of the next block record of the save in progress
  saveCnt  : Nat                    -- block records written
  rest     : List RestBlock         -- blocks of a restored image that have not been placed (18 R396)
  restClk  : Nat                    -- SAVE_CLOCK of the image that is being restored (18 R396)
  deriving DecidableEq, Repr

/-- The privilege modes of a hart (22 R415-R417). -/
inductive HMode where
  | u | s | m
  deriving DecidableEq, Repr

/-- The RISC-V exceptions that a host-extension instruction or a register access raises (22 R415-R419). -/
inductive HExc where
  | illegalInstruction | loadMisaligned | storeMisaligned | loadPageFault (va : Nat) | storePageFault (va : Nat)
  | fetchPageFault (va : Nat) | accessFault (pa : Nat)
  deriving DecidableEq, Repr

/-- The atomic operations of a hart's AMOs. PRESUMED (log entry 80): 11 R282 names AMOs and no list of them. -/
inductive AmoOp where
  | swap | add | xor | and | or | min | max | minu | maxu
  deriving DecidableEq, Repr

/-- What a hart's own instruction asks of memory or of a register of the device (11 R282, 22 R416, R417): a load of n bytes into a register,
a store, an AMO, LR, SC, a fence by its predecessor and successor sets (bit 1 reads, bit 0 writes), and a read of a CSR. -/
inductive HartOp where
  | load (rd : Fin 32) (n : Nat) (signed : Bool)
  | store (n : Nat) (v : Dword)
  | amo (op : AmoOp) (rd : Fin 32) (n : Nat) (v : Dword) (aq rl : Bool)
  | lr (rd : Fin 32) (n : Nat) (aq rl : Bool)
  | sc (rd : Fin 32) (n : Nat) (v : Dword) (aq rl : Bool)
  | fence (pred succ : BitVec 2)
  | csrRead (rd : Fin 32) (csr : Nat)
  deriving DecidableEq, Repr

/-- What a hart asks again until it is no longer held: an instruction of the host extension, or an access of its own instruction (13 R317, 15
R346). -/
inductive HartHeld where
  | ext
  | access (op : HartOp) (va : Nat)
  deriving DecidableEq, Repr

/-- A host hart: x0 to x31, pc, mode, the SUM and MXR bits of its status, satp, htenant, a reservation, a pending RISC-V exception, and an
HWAIT in progress (22 R415-R419). -/
structure Hart where
  x       : List Dword              -- x0 to x31; x0 reads as zero
  pc      : Dword
  mode    : HMode
  sum     : Bool
  mxr     : Bool
  satp    : Dword
  htenant : Dword
  resv    : Option Nat              -- the line that LR reserved (22 R415; 11 R282)
  exc     : Option HExc
  wait    : Option (Nat × Nat × Nat)   -- address, start, limit
  redo    : Option Redo             -- how far its HMHINT has come (22 R419)
  held    : Option HartHeld         -- what it is held in
  deriving DecidableEq, Repr

/-- A circuit's entry of the connection table with what its register does not show: whether it drains because its last wavelength
failed, and the wavelengths that have failed since it came up (21 R405-R410). -/
structure Cte where
  reg  : Dword
  lost : Bool
  down : BitVec 8
  deriving DecidableEq, Repr

/-- A weight image of the vault (22 R431): its header, which carries the shard map, its shard bytes, and whether boot marked it absent. -/
structure VaultImage where
  index   : Nat
  header  : List Byte
  bytes   : List Byte               -- this module's own shard and those it holds, from offset 0 of the image
  absent  : Bool
  deriving DecidableEq, Repr

/-- An interrupt sent to the host: identity HIRQ to a tenant's IMSIC file for a host task, the fault ring's to a tenant's
file, or the driver's for an uncorrectable error of a hub or a die (17 R366, R374; 22 R420). -/
inductive Irq where
  | hostTask (tenant identity : Nat)
  | faultRing (tenant : Nat)
  | errorHub (hub : Nat)
  | errorDie (die : Nat)
  deriving DecidableEq, Repr

/-- An ARRAY_PARITY machine check: the die, the cluster, the band and the column (08 R216). -/
structure ArrayCheck where
  die     : Nat
  cluster : Nat
  band    : Nat
  column  : Nat
  deriving DecidableEq, Repr

/-- A plane's identity (08 R195). -/
structure PlaneId where
  tenant : Nat
  tid    : Nat
  gen    : Nat
  batch  : Nat
  k0     : Nat
  n0     : Nat
  deriving DecidableEq, Repr

/-- A band-block of one operand: its 32 element codes and its SC10 scale (08 R186). -/
structure BandBlock where
  codes : List Nat
  scale : Nat
  deriving DecidableEq, Repr

/-- A loaded plane: the record FMT of its elements, its band-blocks by column and then by number, and the column corrections CB
in the same order (08 R187, R195). -/
structure Plane where
  id   : PlaneId
  fmt  : Nat
  cols : List (List BandBlock)
  cb   : List (List Nat)
  deriving DecidableEq, Repr

/-- A cluster's matrix engine: its plane slots, the plane being loaded into SHADOW with the operation that caused the load, the
operations of the run in progress, and the band and column whose cells, chain or correction register are in error (08 R187, R195,
R201). -/
structure Engine where
  active  : Option Plane
  shadow  : Option Plane
  loading : Option (PlaneId × Nat)
  run     : List Nat
  corrupt : Option (Nat × Nat)
  deriving DecidableEq, Repr

/-- The operations that a reservation table holds (08 R206, 15 R360). -/
inductive MatKind where
  | mlds | mstrm | mdrn | mpass | mzro | accld | accst | accsc | attn | accmrg
  deriving DecidableEq, Repr

/-- A snapshot of a tensor record: its tensor ID, the slot and number of its generation, and the record, none where it is not
valid (08 R196, 15 R333). -/
structure Snap where
  tid    : Nat
  slot   : Nat
  gen    : Nat
  record : Option Nat
  deriving DecidableEq, Repr

/-- Who posted an engine operation, and whose tables it translates through. -/
structure Poster where
  tenant : Nat
  task   : Nat
  block  : Option Nat               -- none for a task's own operation
  thread : Option ThreadRef
  core   : Nat
  die    : Nat
  root   : Nat
  strand : Option (Nat × Nat)
  pc     : Nat                      -- of the posting instruction (18 R398)
  deriving DecidableEq, Repr

/-- What an operation waits on besides its turn: a fault entry, or nothing; `table` says that the entry is that of a hub's own read for
it (15 R346), and `bad` that its own entry was completed unresolved. -/
structure Park where
  entry : Option Nat
  table : Bool
  bad   : Bool
  deriving DecidableEq, Repr

/-- Nothing is waited on. -/
def Park.clear : Park := ⟨none, false, false⟩

/-- How far a matrix operation has come: posted, streaming in the run, its rows done, or ended with a code. -/
inductive MatPhase where
  | waiting | inRun | streamed
  deriving DecidableEq, Repr

/-- One entry of a reservation table (08 R199-R205). -/
structure MatOp where
  id       : Nat
  by_      : Poster
  engine   : Nat
  kind     : MatKind
  ticket   : Nat
  postedAt : Nat
  off      : Nat                    -- scratchpad offset of the parameter block
  pb       : Nat                    -- the parameter block, or for MZRO and ACCSC first row, rows and value
  sem      : Nat
  scope    : Nat
  snapA    : Option Snap            -- A, or K of ATTN
  snapB    : Option Snap            -- B, or V of ATTN
  phase    : MatPhase
  code     : Nat                    -- 0 until the operation has failed or done its rows
  flags    : BitVec 9
  rowsDone : Nat
  chunk    : Nat                    -- ATTN: chunks done
  vPass    : Bool                   -- ATTN: the chunk's V pass is next
  probs    : List (Option (List Word))   -- ATTN: the chunk's p by row, none for a skipped row
  begun    : Bool                   -- its checks of KIND are done, and ATTN has its state
  qrows    : List (List Nat)        -- ATTN: the Q rows read so far, as BF16 codes
  work     : List AccRow            -- ATTN: its rows O, m and l until the last chunk is done
  park     : Park
  deriving DecidableEq, Repr

/-- What a copy copies (15 R338-R341, R347). -/
inductive CopyKind where
  /-- CPYB or a copy task: tensor, box origin and extent, image, pitch, fill, MODE, DIR, SCL. -/
  | box (snap : Option Snap) (tid origin extent image pitch fill mode : Nat) (dirIn scl : Bool)
  /-- CPYL: destination and source. -/
  | lane (dst src : Nat)
  deriving DecidableEq, Repr

/-- A posted copy (15 R337-R349). `batch` is none for a copy task's own copy. -/
structure Copy where
  id      : Nat
  hub     : Nat
  by_     : Poster
  kind    : CopyKind
  sw      : Option Nat              -- scratchpad offset of a sync word of the posting block
  sem     : Nat
  scope   : Nat
  batch   : Option Nat
  inTask  : Bool                    -- the copy of a KIND 3 task
  started : Bool
  bytes   : Nat
  next    : Nat                     -- pieces of the image done
  page    : Nat                     -- pages of a DDW image done
  code    : Nat
  flags   : BitVec 9
  failVa  : Nat
  park    : Park
  deriving DecidableEq, Repr

/-- A line that an engine operation under way has read or written, by its virtual address, and whether its data was bad: it counts once
(13 R309, 15 R350). -/
structure EngLine where
  op    : Nat
  line  : Nat
  write : Bool
  bad   : Bool
  deriving DecidableEq, Repr

/-- A near-memory command (15 R351-R355). `next` counts its lines, then its result word, then its completion record. -/
structure NmCmd where
  id      : Nat
  by_     : Poster
  record  : Nat
  inTask  : Bool
  started : Bool
  clock   : Nat                     -- when the unit began it
  frames  : List Nat                -- frames held against migration
  next    : Nat
  sum     : Nat                     -- the running sum of SUM
  flags   : BitVec 9
  poisons : Nat
  reason  : Nat
  failVa  : Nat
  park    : Park
  deriving DecidableEq, Repr

/-- The cohort that an instruction is executed for: its wave, its lanes and their PC (06 R144). -/
structure Cohort where
  wave  : WaveRef
  lanes : List Nat
  pc    : BitVec 60
  deriving DecidableEq, Repr

/-- What the outside world, or the software of a hart that is not of the host extension, does to the machine. The host's
base instruction set is RISC-V, which the spec does not give, so its effects arrive as inputs. -/
inductive Act where
  /-- A quadrant of a core takes its issue turn. -/
  | issue (core quadrant : Nat)
  /-- A hart executes the host-extension instruction at its pc. -/
  | hart (h : Nat)
  /-- An event of the opcode table happens. -/
  | event (i : Instr)
  /-- A hart's own instructions have left these register values. -/
  | hartState (h : Nat) (x : List Dword) (pc satp : Dword) (mode : HMode) (sum mxr : Bool)
  /-- An access of a hart's own instruction at a virtual address (11 R282, 22 R415-R417). -/
  | hartAccess (h : Nat) (op : HartOp) (va : Nat)
  /-- SFENCE.VMA of a hart drops its own cached translations of an address and an address space, or of all (22 R415). -/
  | sfence (h : Nat) (va asid : Option Nat)
  /-- A bus agent's store of bytes to memory. -/
  | store (pa : Nat) (bytes : List Byte)
  /-- A cell, chain or correction register of an engine goes bad at a band and column, or is good again (08 R187). -/
  | corruptArray (engine : Nat) (place : Option (Nat × Nat))
  /-- Data goes bad beyond correction at a place, or a line's directory entry does (17 R373-R375). -/
  | poison (p : ErrPlace)
  | dirError (line : Nat)
  /-- A corrected error of a hub or of a die (17 R373, R374). -/
  | correctedHub (hub : Nat)
  | correctedDie (die : Nat)
  /-- The driver pins or unpins a frame (12 R294). -/
  | driverPin (ppn : Nat) (up : Bool)
  /-- A weight image is installed in the vault, in installation mode (22 R431). -/
  | install (v : VaultImage)
  deriving DecidableEq, Repr

/-- An input with the clock from which it lands, between two steps. -/
structure Input where
  due : Nat
  act : Act
  deriving DecidableEq, Repr

/-- The state of the module. -/
structure State where
  clock    : Nat                    -- arithmetic-clock cycles since module reset (01 R26)
  free     : Nat                    -- the model's count of free values drawn
  nextId   : Nat                    -- the model's next name for a task, block, entry or operation
  agenda   : List Input             -- the model's schedule of inputs
  ages     : List (Act × Nat)       -- how often the module has passed over what it may do
  cur      : Option Cohort          -- the cohort now executing
  curHart  : Option Nat             -- the hart now executing
  inReset  : Bool                   -- the module is in reset (22 R429, 25 R452)
  resetWhy : Nat                    -- reset cause as the sideband reports it (25 R452)
  mem      : Memory                 -- by physical address
  poison   : List Nat               -- poisoned 64-byte lines
  tenants  : List Tenant
  hubs     : List Hub
  dies     : List Die
  cores    : List Core
  clocks   : List (PowerBlock × CoreClock)   -- blocks whose clock is lowered
  harts    : List Hart
  tasks    : List Task
  slices   : List Slice
  blocks   : List Block
  waves    : List Wave
  loops    : List Loop
  faults   : List FaultEntry
  tlb      : List TlbEntry          -- newest first
  dir      : List DirEntry
  l1       : List (Nat × Nat)       -- core and line
  locks    : List CacheLock
  latent   : List ErrPlace          -- uncorrectable errors that nothing has read yet
  moves    : List Move
  forwards : List Forward
  handovers : List Handover
  modPart  : Dword
  attest   : Dword
  vaultrd  : Dword
  poolOwt  : Dword
  poolCmd  : Dword
  engines  : List Engine            -- by cluster of the module
  mats     : List MatOp             -- the reservation tables, in order of arrival
  copies   : List Copy              -- the copy queues, in order of posting
  nms      : List NmCmd
  touched  : List EngLine           -- of the engine operations under way
  ctes     : List Cte
  wstat    : List Dword
  laneFlt  : List (Nat × Nat)       -- stack and channel at half width for a lane fault
  linksDown : List Link
  peersUp  : List Bool              -- peer modules whose link is up
  vault    : List VaultImage
  firmware : Option (List Byte)     -- the firmware image written to the vault, none for the one installed first (25 R454)
  booted   : Option (List Byte)     -- the firmware image that booted, likewise (22 R429)
  relays   : List (Nat × Nat × List Byte)   -- shards sent to peers: peer, image and bytes, newest first (22 R432)
  sideband : Option Dword           -- the last reply of the sideband port (25 R454)
  irqs     : List Irq               -- interrupts sent, newest first
  checks   : List ArrayCheck        -- machine checks of the arrays, newest first
  capver   : List Dword             -- MOD_CAPVER0 to MOD_CAPVER5 (22 R422)
  badPages : List (Nat × Nat)       -- tenant and page of a device access whose fault entry was completed unresolved
  deriving DecidableEq, Repr

/-- A hub at reset (13 R307-R313, 10 R259, 17 R367, R374; 21 R414: every port up). -/
def Hub.reset : Hub :=
  { fst := List.replicate 10 0, fstq := 0, migctl := 0, rings := 0, tlbinv := 0, fltres := 0, errstat := 0, erraddr := 0,
    pins := [], frames := [], lastStk := [7, 7, 7, 7], portsUp := [true, true] }

/-- A tenant's registers at reset, each 0 (10 R245, 17 R366, R368, 18 R386, R397-R400, 22 R420, R421, R427), and nothing
live. -/
def Tenant.reset : Tenant :=
  { ctl := 0, vera := 0, verb := 0, root := 0, priv := 0, privsz := 0, tid := 0, ddw := 0, fq := 0, fqhead := 0, trap := 0,
    save := 0, pre := 0, vis := 0, vishead := 0, watch := [0, 0, 0, 0], perfsel := 0, evq := 0, evqhead := 0, hdone := 0,
    dirty := 0, clkOff := 0, early := [], evSeq := 0, evLost := false, fqSeq := 0, visSeq := 0, visLost := 0, hostQ := [],
    taken := [], tensors := [], perfSels := List.replicate 80 0, perfCore := List.replicate 16 0,
    perfHub := List.replicate 4 (List.replicate 64 0), copyRem := [0, 0, 0, 0], phase := .idle, savePos := 0, saveCnt := 0, rest := [], restClk := 0 }

/-- A hart at reset. DESIGN CHOICE (log entry 5): the spec gives no reset values of the harts; unsafe. -/
def Hart.reset : Hart :=
  { x := List.replicate 32 0, pc := 0, mode := .m, sum := false, mxr := false, satp := 0, htenant := 0, resv := none, exc := none
    wait := none, redo := none, held := none }

/-- A core at reset: no wave has had a turn. -/
def Core.reset : Core := { lastTurn := [63, 63, 63, 63], reggrw := [], visorAt := [] }

/-- A slice at reset. -/
def Slice.reset : Slice := { nextSeq := 0, deficits := [], lastTen := [], lastQ := [] }

/-- MOD_CAPVER0 to MOD_CAPVER5: HIGH in [31:16] and LOW in [15:0] (22 R422). -/
def capverReset : List Dword :=
  (List.range 6).map fun i => BitVec.ofNat 64 (Config.versionHigh.getD i 0 * 2 ^ 16 + Config.versionLow.getD i 0)

/-- The machine right after reset: the boot of 22 R429 has succeeded and loaded the driver, which has written nothing yet;
registers hold their reset values, memory lists nothing, no task is live. The schedule of inputs is empty. -/
def State.reset : State :=
  { clock := 0, free := 0, nextId := 1, agenda := [], ages := [], cur := none, curHart := none, inReset := false, resetWhy := 0,
    mem := [], poison := [],
    tenants := List.replicate 64 Tenant.reset, hubs := List.replicate 4 Hub.reset, dies := List.replicate 8 ⟨0, 0⟩,
    cores := List.replicate 256 Core.reset, clocks := [], harts := List.replicate 64 Hart.reset, tasks := [],
    slices := List.replicate 4 Slice.reset, blocks := [], waves := [], loops := [], faults := [], tlb := [], dir := [],
    l1 := [], locks := [], latent := [], moves := [], forwards := [], handovers := [], modPart := 0,
    attest := 0, vaultrd := 0, poolOwt := BitVec.ofNat 64 (16 * Config.moduleOrd.val),
    poolCmd := 0, engines := List.replicate 64 ⟨none, none, none, [], none⟩, mats := [], copies := [], nms := [], touched := [],
    ctes := List.replicate 512 ⟨0, false, 0⟩, wstat := List.replicate 32 0, laneFlt := [], linksDown := [],
    peersUp := List.replicate 8 false, vault := [], firmware := none, booted := none, relays := [], sideband := none, irqs := [],
    checks := [], capver := capverReset, badPages := [] }

/-- Why a step stops with a fault. Each is safe: no claim about a next state covers it. -/
inductive Fault where
  /-- A hart is stepped that holds a pending RISC-V exception; its trap entry is the RISC-V privileged architecture's, which the
  spec does not give. Raised by `step` for the harts. Safe. -/
  | hartException (h : Nat) (e : HExc)
  deriving DecidableEq, Repr

/-- Why an instruction has no meaning here. Each is safe. -/
inductive Refusal where
  /-- An instruction of the opcode table that this model does not give a meaning. Safe. -/
  | notModelled (mnemonic : String)
  /-- A hart's word that is not of the host extension: an instruction of the harts' own RISC-V set, which the spec does not
  give. Raised by `step`. Safe. -/
  | hostBaseIsa (h : Nat)
  deriving DecidableEq, Repr

end Sys2Proof.Machine
end

