-- ==== Sys2Proof/Machine/Flags.lean ====
section
/-! DEFINITION. The sticky conditions of FSTAT (01 R27) as a nine-bit set, and how they are raised and cleared. -/
namespace Sys2Proof.Machine

/-- A set of FSTAT conditions: bit i is FSTAT[i] (01 R27). -/
abbrev Flags := BitVec 9

/-- Invalid operation. -/
def fNV : Flags := 0x001
/-- Divide by zero. -/
def fDZ : Flags := 0x002
/-- Overflow. -/
def fOF : Flags := 0x004
/-- Underflow. -/
def fUF : Flags := 0x008
/-- Inexact. -/
def fNX : Flags := 0x010
/-- A saturating narrowing or integer operation changed its value. -/
def fSAT : Flags := 0x040
/-- An append clipped a value to its page scale. -/
def fCLIP : Flags := 0x080
/-- An exact integer accumulation saturated. -/
def fACCSAT : Flags := 0x100

/-- The flag when a condition holds. -/
def flagIf (b : Bool) (f : Flags) : Flags := if b then f else 0

/-- A raised condition sets its bit and leaves every other bit (01 R27). -/
def raiseFlags (fstat : Word) (f : Flags) : Word := fstat ||| f.setWidth 32

/-- Writing 1 clears a bit; reserved bits read as zero and stay (01 R27, 17 R380). -/
def clearFlags (fstat : Word) (w : Word) : Word := fstat &&& ~~~(w &&& 0x1DF)

end Sys2Proof.Machine
end

