-- ==== Sys2Proof/Machine/Float.lean ====
section
/-! DEFINITION. Floating-point formats bit by bit, exact values, rounding in every mode, narrowing, and conversions to
and from integers (02 R35-R47, R56). -/
namespace Sys2Proof.Machine

/-- Rounding modes by their RM codes (02 R39). -/
inductive Rm where
  | rne | rtz | rdn | rup
  deriving DecidableEq, Repr

/-- The mode of an RM code (02 R39). -/
def Rm.ofCode (n : Nat) : Rm :=
  match n % 4 with
  | 0 => .rne | 1 => .rtz | 2 => .rdn | _ => .rup

/-- How a format's all-ones exponent field is read (02 R36, R37). -/
inductive Specials where
  /-- Infinities and NaNs. -/
  | ieee
  /-- One NaN magnitude, no infinity (E4M3). -/
  | nanOnly
  /-- Neither (E3M2, E2M1). -/
  | finite
  deriving DecidableEq, Repr

/-- A floating-point format: exponent and mantissa widths, bias and specials (02 R35). -/
structure Fmt where
  ebits : Nat
  mbits : Nat
  bias  : Nat
  spec  : Specials
  deriving DecidableEq, Repr

/-- binary32. -/
def fmtF32 : Fmt := ⟨8, 23, 127, .ieee⟩
/-- binary16. -/
def fmtF16 : Fmt := ⟨5, 10, 15, .ieee⟩
/-- bfloat16. -/
def fmtBF16 : Fmt := ⟨8, 7, 127, .ieee⟩
/-- E4M3. -/
def fmtE4M3 : Fmt := ⟨4, 3, 7, .nanOnly⟩
/-- E5M2. -/
def fmtE5M2 : Fmt := ⟨5, 2, 15, .ieee⟩
/-- E3M2. -/
def fmtE3M2 : Fmt := ⟨3, 2, 3, .finite⟩
/-- E2M1. -/
def fmtE2M1 : Fmt := ⟨2, 1, 1, .finite⟩

/-- Width of a code in bits. -/
def Fmt.width (f : Fmt) : Nat := 1 + f.ebits + f.mbits

/-- Exponent of the smallest normal value (02 R35). -/
def Fmt.emin (f : Fmt) : Int := 1 - (f.bias : Int)

/-- Significand of the largest finite value as an integer of mbits + 1 bits (02 R35). -/
def Fmt.maxMant (f : Fmt) : Nat :=
  match f.spec with
  | .nanOnly => 2 ^ (f.mbits + 1) - 2
  | _ => 2 ^ (f.mbits + 1) - 1

/-- Exponent of the largest finite value (02 R35). -/
def Fmt.emax (f : Fmt) : Int :=
  match f.spec with
  | .ieee => (2 ^ f.ebits - 2 : Nat) - (f.bias : Int)
  | _ => (2 ^ f.ebits - 1 : Nat) - (f.bias : Int)

/-- The code of the largest finite value of a sign. -/
def Fmt.maxCode (f : Fmt) (neg : Bool) : Nat :=
  b2n neg <<< (f.ebits + f.mbits) +
    match f.spec with
    | .ieee => (2 ^ f.ebits - 2) <<< f.mbits + (2 ^ f.mbits - 1)
    | .nanOnly => (2 ^ f.ebits - 1) <<< f.mbits + (2 ^ f.mbits - 2)
    | .finite => (2 ^ f.ebits - 1) <<< f.mbits + (2 ^ f.mbits - 1)

/-- The code of an infinity of a format that has them (02 R37). -/
def Fmt.infCode (f : Fmt) (neg : Bool) : Nat :=
  b2n neg <<< (f.ebits + f.mbits) + (2 ^ f.ebits - 1) <<< f.mbits

/-- The one NaN code a format produces (02 R37); +0 for the formats without a NaN (02 R45). -/
def Fmt.nanCode (f : Fmt) : Nat :=
  match f.spec with
  | .ieee => (2 ^ f.ebits - 1) <<< f.mbits + 2 ^ (f.mbits - 1)
  | .nanOnly => (2 ^ f.ebits - 1) <<< f.mbits + (2 ^ f.mbits - 1)
  | .finite => 0

/-- The code of a zero of a sign. -/
def Fmt.zeroCode (f : Fmt) (neg : Bool) : Nat := b2n neg <<< (f.ebits + f.mbits)

/-- A value of a format: finite (sign, m × 2^e), infinite, or NaN (signalling or not). -/
inductive FVal where
  | fin (neg : Bool) (m : Nat) (e : Int)
  | inf (neg : Bool)
  | nan (signalling : Bool)
  deriving DecidableEq, Repr

/-- The value of a code (02 R36-R38). -/
def Fmt.value (f : Fmt) (code : Nat) : FVal :=
  let neg := bit code (f.ebits + f.mbits)
  let e := (code >>> f.mbits) % 2 ^ f.ebits
  let m := code % 2 ^ f.mbits
  let finite : FVal :=
    if e == 0 then .fin neg m (f.emin - f.mbits)
    else .fin neg (2 ^ f.mbits + m) ((e : Int) - f.bias - f.mbits)
  if e == 2 ^ f.ebits - 1 then
    match f.spec with
    | .ieee => if m == 0 then .inf neg else .nan (!bit m (f.mbits - 1))
    | .nanOnly => if m == 2 ^ f.mbits - 1 then .nan false else finite
    | .finite => finite
  else finite

/-- Whether a code is a nonzero subnormal. -/
def Fmt.isSubnormal (f : Fmt) (code : Nat) : Bool :=
  (code >>> f.mbits) % 2 ^ f.ebits == 0 && code % 2 ^ f.mbits != 0

/-- A subnormal code as a zero of its sign (02 R43). -/
def Fmt.flush (f : Fmt) (ftz : Bool) (code : Nat) : Nat :=
  if ftz && f.isSubnormal code then f.zeroCode (bit code (f.ebits + f.mbits)) else code

/-- A nonzero magnitude: m × 2^e, or a value strictly between it and (m + 1) × 2^e when `sticky`. With `sticky`, m holds at
least two bits more than the precision it is rounded to. -/
structure Mag where
  m : Nat
  e : Int
  sticky : Bool := false
  deriving DecidableEq, Repr

/-- A magnitude to a multiple of 2^q in a mode: the multiple, and whether it differs from the value (02 R39). -/
def roundAt (rm : Rm) (neg : Bool) (x : Mag) (q : Int) : Nat × Bool :=
  if q ≤ x.e then (x.m <<< (x.e - q).toNat, x.sticky)
  else
    let sh := (q - x.e).toNat
    -- beyond one bit above the magnitude nothing but the remainder is left
    let sh := if Nat.log2 x.m + 2 < sh then Nat.log2 x.m + 2 else sh
    let k := x.m >>> sh
    let rem := x.m % 2 ^ sh
    let half := 2 ^ (sh - 1)
    let nx := rem != 0 || x.sticky
    let up : Bool :=
      match rm with
      | .rne => decide (half < rem) || (rem == half && (x.sticky || k % 2 == 1))
      | .rtz => false
      | .rdn => neg && nx
      | .rup => !neg && nx
    (if up then k + 1 else k, nx)

/-- The exponent of the leading bit of a nonzero magnitude. -/
def Mag.exp (x : Mag) : Int := (Nat.log2 x.m : Int) + x.e

/-- A magnitude rounded to a format's precision with its exponent range unbounded above and its subnormal grid below: the
multiple, the grid exponent, inexactness and tininess before rounding (00 R8, 02 R43). -/
def roundGrid (f : Fmt) (rm : Rm) (neg : Bool) (x : Mag) : Nat × Int × Bool × Bool :=
  let E := x.exp
  let q : Int := if E < f.emin then f.emin - f.mbits else E - f.mbits
  let (k, nx) := roundAt rm neg x q
  (k, q, nx, decide (E < f.emin))

/-- Whether k × 2^q is beyond the largest finite value. -/
def Fmt.beyond (f : Fmt) (k : Nat) (q : Int) : Bool :=
  if k == 0 then false
  else
    let E := (Nat.log2 k : Int) + q
    decide (f.emax < E) || (decide (E = f.emax) && decide (f.maxMant <<< (Nat.log2 k) < k <<< f.mbits))

/-- The code of k × 2^q, a multiple on the format's grid within its range. -/
def Fmt.codeOf (f : Fmt) (neg : Bool) (k : Nat) (q : Int) : Nat :=
  let s := b2n neg <<< (f.ebits + f.mbits)
  if k == 0 then s
  else
    let L := Nat.log2 k
    if L < f.mbits then s + k
    else
      let E := (L : Int) + q
      s + ((E + f.bias).toNat <<< f.mbits) + ((k <<< f.mbits) >>> L) % 2 ^ f.mbits

/-- A result that overflowed, in a mode (00 R8, 02 R40). -/
def Fmt.overflowCode (f : Fmt) (rm : Rm) (neg : Bool) : Nat :=
  let inf := if f.spec = .ieee then f.infCode neg else f.nanCode
  match rm, neg with
  | .rne, _ => inf
  | .rtz, _ => f.maxCode neg
  | .rdn, false => f.maxCode false
  | .rdn, true => inf
  | .rup, false => inf
  | .rup, true => f.maxCode true

/-- A result code after `.ftz`: a subnormal becomes a zero of its sign and sets UF and NX (02 R43). -/
def flushResult (f : Fmt) (ftz : Bool) (code : Nat) (fl : Flags) : Nat × Flags :=
  if ftz && f.isSubnormal code then (f.zeroCode (bit code (f.ebits + f.mbits)), fl ||| fUF ||| fNX)
  else (code, fl)

/-- A nonzero exact value rounded once to a format (00 R8, 02 R39, R40, R43). -/
def roundMag (f : Fmt) (rm : Rm) (ftz : Bool) (neg : Bool) (x : Mag) : Nat × Flags :=
  let (k, q, nx, tiny) := roundGrid f rm neg x
  if f.beyond k q then (f.overflowCode rm neg, fOF ||| fNX)
  else flushResult f ftz (f.codeOf neg k q) (flagIf nx fNX ||| flagIf (tiny && nx) fUF)

/-- A value rounded to a format with infinities passed through and NaN made the format's own (00 R8, 02 R38). -/
def roundVal (f : Fmt) (rm : Rm) (ftz : Bool) (v : FVal) : Nat × Flags :=
  match v with
  | .nan sig => (f.nanCode, flagIf sig fNV)
  | .inf neg => (f.overflowCode .rne neg, 0)
  | .fin neg m e => if m == 0 then (f.zeroCode neg, 0) else roundMag f rm ftz neg ⟨m, e, false⟩

/-- A nonzero magnitude narrowed with `.sat` or `.nosat` (02 R44). -/
def narrowMag (f : Fmt) (rm : Rm) (sat ftz neg : Bool) (x : Mag) : Nat × Flags :=
  let (k, q, nx, tiny) := roundGrid f rm neg x
  if f.beyond k q then
    if sat then (f.maxCode neg, fOF ||| fNX ||| fSAT) else (f.overflowCode rm neg, fOF ||| fNX)
  else flushResult f ftz (f.codeOf neg k q) (flagIf nx fNX ||| flagIf (tiny && nx) fUF)

/-- A narrowing convert with `.sat` or `.nosat` (02 R44, R45). -/
def narrowVal (f : Fmt) (rm : Rm) (sat ftz : Bool) (v : FVal) : Nat × Flags :=
  match v with
  | .nan sig =>
    (f.nanCode, flagIf (sig || f.spec == .finite) fNV)
  | .inf neg =>
    if sat then (f.maxCode neg, fSAT)
    else if f.spec = .ieee then (f.infCode neg, 0)
    else (f.nanCode, fNV)
  | .fin neg m e =>
    if m == 0 then (f.zeroCode neg, 0) else narrowMag f rm sat ftz neg ⟨m, e, false⟩

/-- An integer times 2^e as a value; a zero is +0. -/
def intVal (i : Int) (e : Int) : FVal := .fin (decide (i < 0)) i.natAbs e

/-- The signed integer that a finite value is at a grid exponent not above its own. -/
def atExp (neg : Bool) (m : Nat) (e q : Int) : Int :=
  let k : Int := (m <<< (e - q).toNat : Nat)
  if neg then -k else k

/-- The sign of an exact sum of zero: that of its addends when all are zeros of one sign, else − under RDN only (02
R42). -/
def zeroSign (rm : Rm) (addends : List (Bool × Nat)) : Bool :=
  if addends.all fun a => a.1 && a.2 == 0 then true
  else if addends.all fun a => !a.1 && a.2 == 0 then false
  else rm = .rdn

/-- The exact sum of finite values as a value, its zero's sign by 02 R42. -/
def sumFin (rm : Rm) (xs : List (Bool × Nat × Int)) : FVal :=
  let q := xs.foldl (fun q x => if x.2.2 < q then x.2.2 else q) (match xs with | x :: _ => x.2.2 | [] => 0)
  let t := xs.foldl (fun t x => t + atExp x.1 x.2.1 x.2.2 q) 0
  if t = 0 then .fin (zeroSign rm (xs.map fun x => (x.1, x.2.1))) 0 0 else intVal t q

/-- The operand value −x (02 R42). -/
def FVal.neg (x : FVal) : FVal :=
  match x with
  | .fin s m e => .fin (!s) m e
  | .inf s => .inf (!s)
  | .nan g => .nan g

/-- Whether a value is a NaN. -/
def FVal.isNan (x : FVal) : Bool :=
  match x with
  | .nan _ => true
  | _ => false

/-- Whether a value is a signalling NaN. -/
def FVal.isSnan (x : FVal) : Bool :=
  match x with
  | .nan g => g
  | _ => false

/-- x + y exactly, with NV for ∞ − ∞ and signalling NaNs (05 R124). -/
def addVal (rm : Rm) (x y : FVal) : FVal × Flags :=
  if x.isNan || y.isNan then (.nan false, flagIf (x.isSnan || y.isSnan) fNV)
  else
    match x, y with
    | .inf a, .inf b => if a == b then (.inf a, 0) else (.nan false, fNV)
    | .inf a, _ => (.inf a, 0)
    | _, .inf b => (.inf b, 0)
    | .fin a m e, .fin b n g => (sumFin rm [(a, m, e), (b, n, g)], 0)
    | _, _ => (.nan false, 0)

/-- x × y exactly, with NV for ∞ × 0 and signalling NaNs (05 R124). -/
def mulVal (x y : FVal) : FVal × Flags :=
  if x.isNan || y.isNan then (.nan false, flagIf (x.isSnan || y.isSnan) fNV)
  else
    match x, y with
    | .fin a m e, .fin b n g => (.fin (a != b) (m * n) (e + g), 0)
    | .inf a, .fin b n _ => if n == 0 then (.nan false, fNV) else (.inf (a != b), 0)
    | .fin a m _, .inf b => if m == 0 then (.nan false, fNV) else (.inf (a != b), 0)
    | .inf a, .inf b => (.inf (a != b), 0)
    | _, _ => (.nan false, 0)

/-- x × y + z exactly; an ∞ × 0 product sets NV even when z is a quiet NaN (05 R124). -/
def fmaVal (rm : Rm) (x y z : FVal) : FVal × Flags :=
  let (p, fp) := mulVal x y
  let sn := flagIf (x.isSnan || y.isSnan || z.isSnan) fNV
  if x.isNan || y.isNan || z.isNan then (.nan false, sn ||| fp)
  else if p.isNan then (.nan false, fp)
  else addVal rm p z

/-- An exact operation's value and flags rounded to a format. -/
def finish (f : Fmt) (rm : Rm) (ftz : Bool) (r : FVal × Flags) : Nat × Flags :=
  let (c, fl) := roundVal f rm ftz r.1
  (c, fl ||| r.2)

/-- The order of two values that are not NaN: less, equal or greater; −0 and +0 are equal. -/
def cmpVal (x y : FVal) : Ordering :=
  match x, y with
  | .inf a, .inf b => if a == b then .eq else if a then .lt else .gt
  | .inf a, _ => if a then .lt else .gt
  | _, .inf b => if b then .gt else .lt
  | .fin a m e, .fin b n g =>
    let q := if e < g then e else g
    compare (atExp a m e q) (atExp b n g q)
  | _, _ => .eq

/-- The sign of a value; NaN counts as positive. -/
def FVal.sign (x : FVal) : Bool :=
  match x with
  | .fin s _ _ => s
  | .inf s => s
  | .nan _ => false

/-- The lesser (or with `max` the greater) of two operand codes of a format, −0 below +0, one NaN ignored (05 R125). -/
def minMaxCode (f : Fmt) (max ftz : Bool) (a b : Nat) : Nat × Flags :=
  let a := f.flush ftz a
  let b := f.flush ftz b
  let x := f.value a
  let y := f.value b
  let fl := flagIf (x.isSnan || y.isSnan) fNV
  if x.isNan && y.isNan then (f.nanCode, fl)
  else if x.isNan then (b, fl)
  else if y.isNan then (a, fl)
  else
    match cmpVal x y with
    | .lt => (if max then b else a, fl)
    | .gt => (if max then a else b, fl)
    | .eq => (if x.sign != max then a else b, fl)

/-- The integer a finite value rounds to in a mode, and whether it differs (02 R46). -/
def roundInt (rm : Rm) (neg : Bool) (m : Nat) (e : Int) : Int × Bool :=
  if m == 0 then (0, false)
  else
    let (k, nx) := roundAt rm neg ⟨m, e, false⟩ 0
    (if neg then -(k : Int) else k, nx)

/-- A convert to an integer range (02 R46). -/
def toIntRange (rm : Rm) (lo hi : Int) (v : FVal) : Int × Flags :=
  match v with
  | .nan _ => (0, fNV)
  | .inf neg => (if neg then lo else hi, fSAT ||| fNV)
  | .fin neg m e =>
    if 80 < (Nat.log2 m : Int) + e then (if neg then lo else hi, fSAT ||| fNV)
    else
      let (i, nx) := roundInt rm neg m e
      if i < lo then (lo, fSAT ||| fNV)
      else if hi < i then (hi, fSAT ||| fNV)
      else (i, flagIf nx fNX)

/-- The range of a 64-bit two's-complement integer. -/
def lo64 : Int := -9223372036854775808
/-- The upper end of that range. -/
def hi64 : Int := 9223372036854775807

/-- A convert of a real to FX64 with f fraction bits (02 R56). -/
def toFx (f : Nat) (v : FVal) : Int × Flags :=
  match v with
  | .nan _ => (0, fNV)
  | .inf neg => (if neg then lo64 else hi64, fSAT)
  | .fin neg m e =>
    if 80 < (Nat.log2 m : Int) + e then (if neg then lo64 else hi64, fSAT)
    else
      let (i, _) := roundInt .rne neg m (e + f)
      if i < lo64 then (lo64, fSAT) else if hi64 < i then (hi64, fSAT) else (i, 0)

/-- The value of an SC10, none for NaN (02 R47). -/
def sc10Value (c : Nat) : Option (Nat × Int) :=
  let e := fld c 9 2
  if e == 255 then none else some (4 + c % 4, (e : Int) - 127 - 2)

/-- The SC10 NaN that the device produces (02 R47). -/
def sc10Nan : Nat := 0x3FC

/-- A positive finite magnitude rounded to SC10 with RNE and clamped (02 R47). -/
def sc10Round (m : Nat) (e : Int) : Nat × Flags :=
  let E : Int := (Nat.log2 m : Int) + e
  let (k, nx) := roundAt .rne false ⟨m, e, false⟩ (E - 2)
  let (k, E) := if k == 8 then (4, E + 1) else (k, E)
  -- below 2^-127, judged on the value rounded with its exponent range unbounded
  if E < -127 then (0, fUF ||| fNX)
  else if 127 < E then (0x3FB, fSAT ||| fNX)
  else ((E + 127).toNat * 4 + (k - 4), flagIf nx fNX)

/-- The exact value of an SC10 times a finite value (02 R51). -/
def scaleBySc (sc : Nat) (v : FVal) : FVal :=
  match sc10Value sc, v with
  | none, _ => .nan false
  | _, .nan g => .nan g
  | some _, .inf s => .inf s
  | some (k, g), .fin s m e => .fin s (m * k) (e + g)

/-- A quotient of magnitudes with enough bits to round to 60 and a sticky remainder. -/
def divMag (m : Nat) (e : Int) (n : Nat) (g : Int) : Mag :=
  let sh := 256 + Nat.log2 n
  let k := m <<< sh
  ⟨k / n, e - g - sh, k % n != 0⟩

/-- An integer square root by bits, from the 2^i place down. -/
def sqrtBits (n : Nat) : Nat → Nat → Nat
  | 0, r => r
  | i + 1, r => let t := r + 2 ^ i; sqrtBits n i (if t * t ≤ n then t else r)

/-- A square root of a magnitude with at least 160 bits and a sticky remainder. -/
def sqrtMag (m : Nat) (e : Int) : Mag :=
  let sh := if e % 2 = 0 then 320 else 321
  let k := m <<< sh
  let r := sqrtBits k (Nat.log2 k / 2 + 1) 0
  ⟨r, (e - sh) / 2, r * r != k⟩

/-- x / y in a format and mode (02 R63, 05 R131). -/
def divCode (f : Fmt) (rm : Rm) (ftz : Bool) (a b : Nat) : Nat × Flags :=
  let x := f.value (f.flush ftz a)
  let y := f.value (f.flush ftz b)
  let s := x.sign != y.sign
  if x.isNan || y.isNan then (f.nanCode, flagIf (x.isSnan || y.isSnan) fNV)
  else
    match x, y with
    | .inf _, .inf _ => (f.nanCode, fNV)
    | .inf _, _ => (f.infCode s, 0)
    | _, .inf _ => (f.zeroCode s, 0)
    | .fin _ m e, .fin _ n g =>
      if n == 0 then if m == 0 then (f.nanCode, fNV) else (f.infCode s, fDZ)
      else if m == 0 then (f.zeroCode s, 0)
      else roundMag f rm ftz s (divMag m e n g)
    | _, _ => (f.nanCode, 0)

/-- √x in a format and mode (02 R63, 05 R131). -/
def sqrtCode (f : Fmt) (rm : Rm) (ftz : Bool) (a : Nat) : Nat × Flags :=
  let a := f.flush ftz a
  match f.value a with
  | .nan g => (f.nanCode, flagIf g fNV)
  | .inf neg => if neg then (f.nanCode, fNV) else (f.infCode false, 0)
  | .fin neg m e =>
    if m == 0 then (a, 0)
    else if neg then (f.nanCode, fNV)
    else roundMag f rm ftz false (sqrtMag m e)

end Sys2Proof.Machine
end

