-- ==== Sys2Proof/Machine/AtomOps.lean ====
section
/-! DEFINITION. The read-modify-write functions of atomics and reductions (12 R288). -/
namespace Sys2Proof.Machine

/-- Bytes of an atomic's location by its TYPE: 8 for FX (12 R287). -/
def atomBytes (type : Nat) : Nat := if type == 14 then 8 else 4

/-- A function of two BF16 codes applied to each half. -/
def perBf16 (f : Nat → Nat → Nat × Flags) (m c : Nat) : Nat × Flags :=
  let (lo, fl) := f (fld m 15 0) (fld c 15 0)
  let (hi, fh) := f (fld m 31 16) (fld c 31 16)
  (lo + hi * 65536, fl ||| fh)

/-- `.add` (12 R288). -/
def atomAdd (type m c : Nat) : Nat × Flags :=
  match type with
  | 2 => finish fmtF32 .rne false (addVal .rne (fmtF32.value m) (fmtF32.value c))
  | 3 => perBf16 (fun a b => finish fmtBF16 .rne false (addVal .rne (fmtBF16.value a) (fmtBF16.value b))) m c
  | 14 =>
    let y := sextN m 64 + sextN c 64
    let z := satI y lo64 hi64
    (wrapN z 64, flagIf (y != z) fSAT)
  | _ => ((m + c) % 2 ^ 32, 0)

/-- `.min`, or with `max` `.max` (12 R288). -/
def atomMinMax (max : Bool) (type m c : Nat) : Nat × Flags :=
  let pick := fun (lt : Bool) => if lt != max then m else c
  match type with
  | 0 => (pick (decide (sextN m 32 < sextN c 32)), 0)
  | 1 => (pick (decide (m < c)), 0)
  | 2 => minMaxCode fmtF32 max false m c
  | 3 => perBf16 (minMaxCode fmtBF16 max false) m c
  | _ => (pick (decide (sextN m 64 < sextN c 64)), 0)

/-- new(m, c) for OP 0-7; `.exch` and `.cas` store c (12 R288). -/
def atomNew (op type m c : Nat) : Nat × Flags :=
  match op with
  | 0 => atomAdd type m c
  | 1 => atomMinMax false type m c
  | 2 => atomMinMax true type m c
  | 3 => (m &&& c, 0)
  | 4 => (m ||| c, 0)
  | 5 => (m ^^^ c, 0)
  | _ => (c, 0)

end Sys2Proof.Machine
end

