-- ==== Sys2Proof/Machine/Sha512.lean ====
section
/-! DEFINITION. SHA-512, which the spec names for fingerprints and digests (15 R344, 18 R391, 22 R430-R432). Its text is not in
the spec: it is the Secure Hash Standard's (log entry 15). The constants are computed here as that standard defines them, from
the roots of the first primes, and the two chains of working words are written as one recurrence. -/
namespace Sys2Proof.Machine

/-- The largest r below 2^bits, built on `top` from its high bit down, whose p-th power is at most n. -/
def rootDown (p n : Nat) : Nat → Nat → Nat
  | 0, top => top
  | bits + 1, top =>
    let more := top + 2 ^ bits
    rootDown p n bits (if more ^ p ≤ n then more else top)

/-- The first 64 bits of the fraction of the p-th root of x, a number whose root is below 8. -/
def rootFraction (p x : Nat) : Nat := rootDown p (x * 2 ^ (64 * p)) 67 0 % 2 ^ 64

/-- The primes below n, found among the numbers from 2 up. -/
def primesBelow (n : Nat) : List Nat :=
  (List.range n).filter fun q => 2 ≤ q && (List.range q).all fun d => d < 2 || q % d != 0

/-- The eighty round constants: the cube roots of the primes up to 409. -/
def roundWords : List Nat := (primesBelow 410).map (rootFraction 3)

/-- The eight starting words: the square roots of the primes up to 19. -/
def startWords : List Nat := (primesBelow 20).map (rootFraction 2)

/-- A 64-bit word turned right by r places. -/
def turn (word r : Nat) : Nat := word / 2 ^ r + word % 2 ^ r * 2 ^ (64 - r)

/-- The exclusive or of a word turned by i, turned by j, and a third word. -/
def mix (word i j third : Nat) : Nat := Nat.xor (Nat.xor (turn word i) (turn word j)) third

/-- The bits of `yes` where `sel` has ones and of `no` where it has zeros. -/
def chooseBits (sel yes no : Nat) : Nat := Nat.xor no (Nat.land sel (Nat.xor yes no))

/-- The bits that at least two of three words have. -/
def agreeBits (p q r : Nat) : Nat := Nat.lor (Nat.land p q) (Nat.land r (Nat.lor p q))

/-- The two chains of working words, the newest of each first, four words each. -/
structure Chains where
  left  : List Nat
  right : List Nat
  deriving DecidableEq, Repr

/-- One round: the sum enters the right chain with the oldest left word, and the left chain with a mix of the newest left ones. -/
def Chains.round (ch : Chains) (roundInput : Nat) : Chains :=
  let l := fun i => ch.left.getD i 0
  let r := fun i => ch.right.getD i 0
  let sum := roundInput + r 3 + chooseBits (r 0) (r 1) (r 2) + mix (r 0) 14 18 (turn (r 0) 41)
  { left := (sum + mix (l 0) 28 34 (turn (l 0) 39) + agreeBits (l 0) (l 1) (l 2)) % 2 ^ 64 :: ch.left.take 3
    right := (sum + l 3) % 2 ^ 64 :: ch.right.take 3 }

/-- The message words of the further rounds. `past` holds the sixteen latest, the oldest first. -/
def laterWords : Nat → List Nat → List Nat
  | 0, _ => []
  | rounds + 1, past =>
    let old := past.getD 1 0
    let late := past.getD 14 0
    let fresh := (past.getD 0 0 + past.getD 9 0 + mix old 1 8 (old / 2 ^ 7) + mix late 19 61 (late / 2 ^ 6)) % 2 ^ 64
    fresh :: laterWords rounds (past.drop 1 ++ [fresh])

/-- One block of sixteen words over the eight chaining words. -/
def shaBlock (chain : List Nat) (block : List Nat) : List Nat :=
  let schedule := block ++ laterWords 64 block
  let fin := (List.zipWith (· + ·) roundWords schedule).foldl Chains.round ⟨chain.take 4, chain.drop 4⟩
  List.zipWith (fun old new => (old + new) % 2 ^ 64) chain (fin.left ++ fin.right)

/-- The big-endian value of a byte list. -/
def beNat (l : List Byte) : Nat := l.foldl (fun n b => 256 * n + b.toNat) 0

/-- The n-byte big-endian form of a number. -/
def beBytes (n x : Nat) : List Byte := (natBytes n x).reverse

/-- The first n words of a byte list. -/
def shaWords : Nat → List Byte → List Nat
  | 0, _ => []
  | n + 1, l => beNat (l.take 8) :: shaWords n (l.drop 8)

/-- The blocks of a padded message. -/
def shaBlocks : Nat → List Byte → List Nat → List Nat
  | 0, _, chain => chain
  | n + 1, l, chain => shaBlocks n (l.drop 128) (shaBlock chain (shaWords 16 l))

/-- The 64-byte digest of a message. -/
def sha512 (m : List Byte) : List Byte :=
  let blocks := (m.length + 144) / 128
  let tail := 0x80#8 :: (List.replicate (128 * blocks - m.length - 17) 0#8 ++ beBytes 16 (8 * m.length))
  (shaBlocks blocks (m ++ tail) startWords).flatMap (beBytes 8)

/-- Bytes 0-15 of the digest, byte 0 in bits [7:0] (15 R344, 18 R391). -/
def fingerprint (m : List Byte) : Nat := leNat ((sha512 m).take 16)

end Sys2Proof.Machine
end

