-- ==== Sys2Proof/Machine/Encoding.lean ====
section
/-! DEFINITION. The encoding tables: operand and tag codes, the opcode map, the field classes of every
instruction with their dependence on MOD, and the MOD values that are rejected. The decoder, the encoder
and well-formedness are all read off these tables. -/
namespace Sys2Proof

/-- The 4-bit code of a tag (01 R16). -/
def Tag.code (t : Tag) : Nat :=
  match t with
  | .i32 => 0 | .n32 => 1 | .f32 => 2 | .bf16x2 => 3 | .f16x2 => 4 | .e4m3x4 => 5 | .e5m2x4 => 6
  | .e3m2x5 => 7 | .e2m1x8 => 8 | .i8x4 => 9 | .n8x4 => 10 | .i16x2 => 11 | .sc10x3 => 12 | .raw => 13
  | .fx => 14

/-- The tag of a code; code 15 is reserved (01 R16). -/
def Tag.ofCode? (n : Nat) : Option Tag :=
  match n with
  | 0 => some .i32 | 1 => some .n32 | 2 => some .f32 | 3 => some .bf16x2 | 4 => some .f16x2
  | 5 => some .e4m3x4 | 6 => some .e5m2x4 | 7 => some .e3m2x5 | 8 => some .e2m1x8 | 9 => some .i8x4
  | 10 => some .n8x4 | 11 => some .i16x2 | 12 => some .sc10x3 | 13 => some .raw | 14 => some .fx
  | _ => none

/-- The place of a constant operand in the list that starts at code 328 (03 R69). -/
def Const.index (c : Const) : Nat :=
  match c with
  | .zero => 0 | .one => 1 | .mone => 2 | .half => 3 | .f1 => 4 | .f2 => 5 | .lane => 6 | .pi => 7
  | .ln2 => 8 | .log2e => 9 | .fm1 => 10 | .fzero => 11 | .finf => 12 | .fmax => 13 | .bf1x2 => 14
  | .ones => 15

/-- The constant operand of an index 0-15 (03 R69). -/
def Const.ofIndex (n : Nat) : Const :=
  match n with
  | 0 => .zero | 1 => .one | 2 => .mone | 3 => .half | 4 => .f1 | 5 => .f2 | 6 => .lane | 7 => .pi
  | 8 => .ln2 | 9 => .log2e | 10 => .fm1 | 11 => .fzero | 12 => .finf | 13 => .fmax | 14 => .bf1x2
  | _ => .ones

/-- The 9-bit code of an operand (03 R69); an unused field holds 0 (03 R70). -/
def Operand.code (o : Operand) : Nat :=
  match o with
  | .unused => 0
  | .v n => n.val
  | .s n => 256 + n.val
  | .p n => 320 + n.val
  | .k c => 328 + c.index

/-- The operand of a code below 344 (03 R69). -/
def Operand.ofCode (n : Nat) : Operand :=
  if n < 256 then .v (Fin.ofNat 256 n)
  else if n < 320 then .s (Fin.ofNat 64 (n - 256))
  else if n < 328 then .p (Fin.ofNat 8 (n - 320))
  else .k (Const.ofIndex (n - 328))

/-- The classes of a field: unused; 32-bit destination (T); 32-bit source (S); predicate (P); wide
destination or source (W); quad of vector registers (Q) (03 R70, 04 R90, 12 R283). -/
inductive FieldClass where
  | unused | t | s | p | w | q
  deriving DecidableEq, Repr

/-- Whether a code below 344 is of a class (03 R70, 12 R283). -/
def FieldClass.accepts (c : FieldClass) (n : Nat) : Bool :=
  match c with
  | .unused => n == 0
  | .t => decide (n < 320)
  | .s => decide (n < 320) || (decide (328 ≤ n) && decide (n < 344))
  | .p => decide (320 ≤ n) && decide (n < 328)
  | .w => decide (n < 320) && n % 2 == 0
  | .q => decide (n < 256) && n % 4 == 0

/-- Whether an operand may stand in a field of a class. -/
def FieldClass.holds (c : FieldClass) (o : Operand) : Bool :=
  match c, o with
  | .unused, .unused => true
  | .unused, _ => false
  | _, .unused => false
  | c, o => c.accepts o.code

/-- How many consecutive registers a field of a class names (03 R70, 12 R283). -/
def FieldClass.span (c : FieldClass) : Nat :=
  match c with
  | .w => 2
  | .q => 4
  | _ => 1

/-- The base forms (03 R67, R79). -/
inductive BaseForm where
  | l64 | l96 | l128 | l128x
  deriving DecidableEq, Repr

/-- The length of a single instruction in bytes (03 R65). -/
def Len.bytes (l : Len) : Nat :=
  match l with
  | .l64 => 8 | .l96 => 12 | .l128 => 16

/-- The shortest length at which a base form is complete (03 R67). -/
def BaseForm.bytes (b : BaseForm) : Nat :=
  match b with
  | .l64 => 8 | .l96 => 12 | .l128 => 16 | .l128x => 16

/-- The class of every field of an instruction, and whether its MOD and XMOD values are accepted. -/
structure Form where
  base : BaseForm
  d : FieldClass
  a : FieldClass
  b : FieldClass
  c : FieldClass
  ok : Bool
  e : FieldClass := .unused
  f : FieldClass := .unused
  g : FieldClass := .unused
  h : FieldClass := .unused
  deriving DecidableEq, Repr

/-- MOD bits outside `mask` are zero (03 R74). -/
def modWithin (m mask : Nat) : Bool := m &&& (0xFFF - mask) == 0

/-- TCHK = 1 with TTAG = 15 is rejected (03 R74). -/
def ttagOk (m : Nat) : Bool := !(bit m 8 && fld m 7 4 == 15)

/-- SCOPE = 7 is rejected (03 R74). -/
def scopeOk (m : Nat) : Bool := fld m 2 0 != 7

/-- TYPE = 15 is rejected (03 R74). -/
def typeOk (m : Nat) : Bool := fld m 8 5 != 15

/-- A plain access carries no scope (12 R283, 15 R338, R347). -/
def plainOk (m : Nat) : Bool := fld m 4 3 != 0 || fld m 2 0 == 0

/-- The MOD rules of loads (12 R283, R284). -/
def loadModOk (priv : Bool) (m : Nat) : Bool :=
  let size := fld m 11 9
  let ty := fld m 8 5
  scopeOk m && typeOk m && plainOk m && decide (fld m 4 3 ≤ 1)
    && decide (size ≤ if priv then 2 else 4) && (!priv || fld m 4 0 == 0)
    && (if size ≤ 1 then ty == 0 || ty == 1 || ty == 13 else ty != 14 || size == 3)

/-- The MOD rules of stores (12 R283). -/
def storeModOk (priv : Bool) (m : Nat) : Bool :=
  let size := fld m 11 9
  scopeOk m && plainOk m && fld m 8 5 == 0 && (fld m 4 3 == 0 || fld m 4 3 == 2)
    && decide (size ≤ if priv then 2 else 4) && (!priv || fld m 4 0 == 0)

/-- The TYPE values that each atomic operation accepts (12 R288). -/
def atomTypeOk (op ty : Nat) : Bool :=
  if op ≤ 2 then ty == 0 || ty == 1 || ty == 2 || ty == 3 || ty == 14
  else if op ≤ 5 then ty == 0 || ty == 1 || ty == 13 || ty == 14
  else ty == 0 || ty == 1 || ty == 2 || ty == 3 || ty == 13 || ty == 14

/-- The MOD rules of ATOM, ATOMS and RED (12 R283, R288). -/
def atomModOk (red : Bool) (m : Nat) : Bool :=
  scopeOk m && typeOk m && plainOk m && atomTypeOk (fld m 11 9) (fld m 8 5)
    && (!red || (decide (fld m 11 9 ≤ 5) && (fld m 4 3 == 0 || fld m 4 3 == 2)))

/-- The MOD rules of the reduction layout (07 R163). -/
def redModOk (scan : Bool) (m : Nat) : Bool :=
  modWithin m (if scan then 0xFFD else 0xFFC) && ttagOk m && decide (fld m 11 9 ≤ 5)
    && !(bit m 3 && decide (3 ≤ fld m 11 9))

/-- The MOD rules of the barrier instructions (07 R163). -/
def barModOk (m : Nat) : Bool := !(bit m 11 && fld m 10 0 != 0)

/-- The MOD layout of the posting instructions with a parameter block (08 R206, 15 R360). -/
def postModOk (m : Nat) : Bool := modWithin m 0x01F && scopeOk m

/-- The fields of every device instruction under its MOD and XMOD (04 R90, R110; 05 R123; 07 R163;
08 R206; 09 R236; 12 R283; 15 R334, R338, R347-R349, R352, R360; 17 R379). -/
def formOf (opc m xm : Nat) : Option Form :=
  match opc with
  -- control (04 R110)
  | 0x000 | 0x006 | 0x009 | 0x00C | 0x282 | 0x289 =>
      some { base := .l64, d := .unused, a := .unused, b := .unused, c := .unused, ok := m == 0 }
  | 0x001 => some { base := .l96, d := .unused, a := .unused, b := .unused, c := .unused, ok := m == 0 }
  | 0x002 => some { base := .l64, d := .unused, a := .w, b := .unused, c := .unused, ok := modWithin m 1 }
  | 0x003 => some { base := .l96, d := .w, a := .unused, b := .unused, c := .unused, ok := m == 0 }
  | 0x004 => some { base := .l64, d := .w, a := .w, b := .unused, c := .unused, ok := modWithin m 1 }
  | 0x005 => some { base := .l64, d := .unused, a := .w, b := .unused, c := .unused, ok := m == 0 }
  | 0x007 | 0x008 | 0x283 =>
      some { base := .l64, d := .unused, a := .unused, b := .unused, c := .unused, ok := modWithin m 0x0FF }
  | 0x00A | 0x286 | 0x287 | 0x1D3 =>
      some { base := .l64, d := .unused, a := .s, b := .unused, c := .unused, ok := m == 0 }
  | 0x00B =>
      some {
        base := .l64, d := .p, a := .w, b := .s, c := .s,
        ok := modWithin m 0x61F && scopeOk m && fld m 10 9 != 3 && decide (fld m 4 3 ≤ 1) }
  -- integer, logic, address, predicate (04 R90)
  | 0x040 | 0x041 | 0x042 | 0x046 | 0x048 | 0x049 =>
      some { base := .l64, d := .t, a := .s, b := .s, c := .unused, ok := modWithin m 0x1F8 && ttagOk m }
  | 0x043 | 0x047 =>
      some { base := .l64, d := .t, a := .s, b := .s, c := .unused, ok := modWithin m 0x1F0 && ttagOk m }
  | 0x044 | 0x04E | 0x04F =>
      some { base := .l64, d := .t, a := .s, b := .s, c := .s, ok := modWithin m 0x1F8 && ttagOk m }
  | 0x045 => some { base := .l64, d := .w, a := .s, b := .s, c := .w, ok := modWithin m 0x1F8 && ttagOk m }
  | 0x04A | 0x04B =>
      some { base := .l64, d := .t, a := .s, b := .unused, c := .unused, ok := modWithin m 0x1F8 && ttagOk m }
  | 0x04C | 0x04D =>
      some { base := .l64, d := .t, a := .s, b := .s, c := .p, ok := modWithin m 0x3F7 && ttagOk m }
  | 0x050 | 0x051 | 0x052 | 0x054 | 0x056 | 0x057 | 0x058 | 0x059 =>
      some { base := .l64, d := .t, a := .s, b := .s, c := .unused, ok := m == 0 }
  | 0x053 | 0x05D | 0x05E | 0x05F | 0x060 =>
      some { base := .l64, d := .t, a := .s, b := .unused, c := .unused, ok := m == 0 }
  | 0x055 => some { base := .l64, d := .t, a := .s, b := .s, c := .s, ok := modWithin m 0x0FF }
  | 0x05A => some { base := .l64, d := .t, a := .s, b := .s, c := .s, ok := modWithin m 1 }
  | 0x05B => some { base := .l64, d := .t, a := .s, b := .s, c := .unused, ok := modWithin m 1 }
  | 0x05C | 0x061 => some { base := .l64, d := .t, a := .s, b := .s, c := .s, ok := m == 0 }
  | 0x062 =>
      some {
        base := .l64, d := .p, a := .s, b := .s, c := if fld m 10 9 == 0 then .unused else .p,
        ok := modWithin m 0x7F7 && ttagOk m && decide (fld m 2 0 ≤ 5) }
  | 0x063 =>
      let cls := if bit m 1 then FieldClass.w else .s
      some { base := .l64, d := if bit m 1 then .w else .t, a := cls, b := cls, c := .p, ok := modWithin m 3 }
  | 0x064 =>
      some {
        base := .l64, d := if bit m 0 then .w else .t, a := if bit m 0 then .w else .s,
        b := .unused, c := .unused, ok := modWithin m 1 }
  | 0x065 =>
      some {
        base := .l96, d := .t, a := .unused, b := .unused, c := .unused,
        ok := modWithin m 0x0F0 && fld m 7 4 != 15 }
  | 0x066 =>
      some {
        base := .l128, d := .w, a := .unused, b := .unused, c := .unused,
        ok := modWithin m 0x0F0 && fld m 7 4 != 15 }
  | 0x067 => some { base := .l64, d := .w, a := .w, b := .s, c := .unused, ok := modWithin m 0x207 }
  | 0x068 | 0x069 => some { base := .l64, d := .w, a := .w, b := .w, c := .unused, ok := m == 0 }
  | 0x06A =>
      some {
        base := .l64, d := .p, a := .w, b := .w, c := if fld m 10 9 == 0 then .unused else .p,
        ok := modWithin m 0x607 && decide (fld m 2 0 ≤ 5) }
  | 0x06B => some { base := .l64, d := .p, a := .p, b := .p, c := .p, ok := modWithin m 0x0FF }
  | 0x06C =>
      some {
        base := .l64,
        d := if m == 0 then .p else if m == 1 then .t else .unused,
        a := if m == 1 then .unused else .s, b := .unused, c := .unused, ok := decide (m ≤ 2) }
  -- floating point, special functions, conversions (05 R123)
  | 0x0C0 | 0x0C1 | 0x0C2 | 0x0E8 =>
      some { base := .l64, d := .t, a := .s, b := .s, c := .unused, ok := modWithin m 0x1F7 && ttagOk m }
  | 0x0C3 => some { base := .l64, d := .t, a := .s, b := .s, c := .s, ok := modWithin m 0x1F7 && ttagOk m }
  | 0x0C4 | 0x0C5 =>
      some { base := .l64, d := .t, a := .s, b := .s, c := .unused, ok := modWithin m 0x1F4 && ttagOk m }
  | 0x0C6 => some { base := .l64, d := .p, a := .s, b := .s, c := .unused, ok := modWithin m 0xFF4 && ttagOk m }
  | 0x0C7 | 0x106 =>
      some { base := .l64, d := .t, a := .s, b := .unused, c := .unused, ok := modWithin m 0x1F0 && ttagOk m }
  | 0x0C8 =>
      some {
        base := .l64, d := .t, a := .s, b := .unused, c := .unused,
        ok := modWithin m 0x3F7 && ttagOk m }
  | 0x0C9 => some { base := .l64, d := .t, a := .s, b := .s, c := .unused, ok := modWithin m 0x007 }
  | 0x0CA => some { base := .l64, d := .t, a := .s, b := .s, c := .unused, ok := modWithin m 0x004 }
  | 0x0CB => some { base := .l64, d := .t, a := .s, b := .s, c := .s, ok := modWithin m 0x004 }
  | 0x0E0 | 0x0E1 | 0x0E3 | 0x0E4 | 0x0E5 | 0x0E6 | 0x0E7 =>
      some { base := .l64, d := .t, a := .s, b := .unused, c := .unused, ok := modWithin m 0x1F4 && ttagOk m }
  | 0x0E2 =>
      some {
        base := .l64, d := .t, a := .s, b := .unused, c := .unused,
        ok := modWithin m 0x1F7 && ttagOk m }
  | 0x100 =>
      let g := fld m 11 9
      let fx := g == 3 || g == 4
      some {
        base := .l64, d := if g == 3 then .w else .t, a := if g == 4 then .w else .s,
        b := if fx then .s else .unused, c := .unused,
        ok := if fx then modWithin m 0xE0C else ttagOk m }
  | 0x101 =>
      let pt := fld m 11 9
      some {
        base := .l64, d := .t, a := .s, b := .s, c := if pt ≤ 1 then .unused else .s,
        ok := modWithin m 0xE0F && !(decide (2 ≤ pt) && decide (pt ≤ 5) && fld m 1 0 != 0)
        && !((pt == 4 || pt == 5) && bit m 3) }
  | 0x102 =>
      some {
        base := .l64, d := .t, a := .s, b := .unused, c := .unused,
        ok := modWithin m 0xFF4 && ttagOk m }
  | 0x103 =>
      some {
        base := .l64, d := .w, a := .s, b := .unused, c := .unused,
        ok := modWithin m 0xFFC && ttagOk m && decide (fld m 11 9 ≤ 3) && !(decide (fld m 11 9 ≤ 1) && bit m 3) }
  | 0x104 => some { base := .l64, d := .t, a := .s, b := .s, c := .unused, ok := modWithin m 0xE07 }
  | 0x105 =>
      let op := fld m 11 9
      some {
        base := .l64, d := .t, a := .s, b := if 4 ≤ op ∧ op ≤ 6 then .s else .unused, c := .unused,
        ok := modWithin m 0xE04 && decide (op ≤ 6) }
  | 0x107 => some { base := .l64, d := .t, a := .s, b := .s, c := .unused, ok := m == 0 }
  -- cross-lane, ragged, barriers, tasks (07 R163)
  | 0x120 =>
      some {
        base := .l64, d := .t, a := .s, b := .s, c := .unused,
        ok := modWithin m 0x0FF && decide (fld m 4 2 ≤ 5) }
  | 0x121 =>
      some {
        base := .l64, d := if fld m 1 0 == 3 then .t else .p, a := .p, b := .unused, c := .unused,
        ok := modWithin m 7 }
  | 0x122 => some { base := .l64, d := .t, a := .s, b := .unused, c := .unused, ok := redModOk false m }
  | 0x123 => some { base := .l64, d := .t, a := .s, b := .unused, c := .unused, ok := redModOk true m }
  | 0x124 =>
      some {
        base := .l64, d := .t, a := if bit m 0 then .w else .s, b := .unused, c := .unused,
        ok := modWithin m 1 }
  | 0x125 =>
      some {
        base := .l64, d := .p, a := if bit m 0 then .t else .unused, b := .unused, c := .unused,
        ok := modWithin m 1 }
  | 0x126 | 0x1D2 | 0x1B3 | 0x285 =>
      some { base := .l64, d := .t, a := .unused, b := .unused, c := .unused, ok := m == 0 }
  | 0x130 => some { base := .l64, d := .w, a := .w, b := .s, c := .s, ok := modWithin m 7 }
  | 0x131 => some { base := .l64, d := .t, a := .s, b := .unused, c := .p, ok := redModOk false m }
  | 0x132 => some { base := .l64, d := .t, a := .s, b := .unused, c := .p, ok := redModOk true m }
  | 0x180 | 0x182 =>
      some {
        base := .l64, d := .unused, a := .s, b := if bit m 11 then .s else .unused,
        c := .unused, ok := barModOk m }
  | 0x181 =>
      some {
        base := .l64, d := .t, a := .unused, b := if bit m 11 then .s else .unused,
        c := .unused, ok := barModOk m }
  | 0x183 =>
      some {
        base := .l64, d := .unused, a := .unused, b := if bit m 11 then .s else .unused,
        c := .unused, ok := barModOk m }
  | 0x184 =>
      some {
        base := .l64, d := .p, a := .s, b := if bit m 11 then .s else .unused,
        c := .unused, ok := barModOk m }
  | 0x1A0 | 0x1A2 | 0x1A4 | 0x1B0 | 0x170 | 0x1D5 =>
      some { base := .l64, d := .t, a := .w, b := .unused, c := .unused, ok := m == 0 }
  | 0x1A1 => some { base := .l64, d := .t, a := .w, b := .w, c := .unused, ok := m == 0 }
  | 0x1A3 | 0x171 | 0x160 | 0x161 =>
      some { base := .l64, d := .t, a := .w, b := .s, c := .unused, ok := m == 0 }
  | 0x1A5 => some { base := .l64, d := .unused, a := .s, b := .w, c := .unused, ok := m == 0 }
  -- memory (12 R283)
  | 0x140 | 0x142 =>
      some {
        base := .l96, d := if fld m 11 9 == 3 then .w else if fld m 11 9 == 4 then .q else .t,
        a := .w, b := .s, c := .unused, ok := loadModOk false m }
  | 0x141 | 0x143 =>
      some {
        base := .l96, d := .unused, a := .w, b := .s,
        c := if fld m 11 9 == 3 then .w else if fld m 11 9 == 4 then .q else .s, ok := storeModOk false m }
  | 0x144 => some { base := .l96, d := .t, a := .w, b := .s, c := .unused, ok := loadModOk true m }
  | 0x145 => some { base := .l96, d := .unused, a := .w, b := .s, c := .s, ok := storeModOk true m }
  | 0x146 | 0x147 =>
      let fx := fld m 8 5 == 14
      some {
        base := .l96, d := if fx then .w else .t, a := .w, b := .s, c := if fx then .w else .s,
        ok := atomModOk false m }
  | 0x148 =>
      some {
        base := .l96, d := .unused, a := .w, b := .s, c := if fld m 8 5 == 14 then .w else .s,
        ok := atomModOk true m }
  | 0x149 =>
      some {
        base := .l96, d := .unused, a := .unused, b := .unused, c := .unused,
        ok := modWithin m 0x01F && scopeOk m && fld m 4 3 != 0 }
  | 0x14A =>
      some {
        base := .l96, d := .unused, a := .w, b := .s, c := .unused,
        ok := modWithin m 0xE00 && decide (fld m 11 9 ≤ 2) }
  | 0x14B =>
      some {
        base := .l96, d := .unused, a := .w, b := .s, c := .unused,
        ok := modWithin m 0xE00 && decide (fld m 11 9 ≤ 3) }
  | 0x162 => some { base := .l64, d := .t, a := .w, b := .s, c := .s, ok := m == 0 }
  | 0x163 => some { base := .l64, d := .w, a := .w, b := .unused, c := .unused, ok := m == 0 }
  | 0x164 | 0x173 => some { base := .l64, d := .t, a := .w, b := .s, c := .s, ok := modWithin m 1 }
  | 0x172 =>
      some {
        base := .l64, d := .t, a := .w,
        b := if 3 ≤ fld m 11 9 ∧ fld m 11 9 ≤ 5 then .s else .unused, c := .unused,
        ok := modWithin m 0xE00 && decide (fld m 11 9 ≤ 5) }
  | 0x185 | 0x186 | 0x187 =>
      some {
        base := .l64, d := .unused, a := .w, b := .s, c := .unused,
        ok := modWithin m 0xFE7 && scopeOk m }
  | 0x188 => some { base := .l64, d := .p, a := .w, b := .s, c := .unused, ok := modWithin m 0xFE7 && scopeOk m }
  -- loops (09 R236)
  | 0x1B1 =>
      some {
        base := .l64, d := .t, a := if bit m 5 then .unused else .s, b := .unused, c := .unused,
        ok := modWithin m 0x03F && !(bit m 5 && (!bit m 4 || fld m 3 0 != 0)) }
  | 0x1B2 =>
      some {
        base := .l64, d := .t, a := .s, b := .unused, c := .unused,
        ok := modWithin m 0x0FF && fld m 6 4 != 0 }
  | 0x1B4 =>
      some {
        base := .l64, d := .t, a := if 4 ≤ fld m 3 0 ∧ fld m 3 0 ≤ 6 then .s else .unused,
        b := .unused, c := .unused, ok := modWithin m 0x00F && decide (fld m 3 0 ≤ 7) }
  -- tensor IDs and asynchronous engines (15 R334, R338, R347-R349, R352)
  | 0x1C0 | 0x1C1 => some { base := .l64, d := .t, a := .s, b := .w, c := .unused, ok := m == 0 }
  | 0x1C2 | 0x20A => some { base := .l64, d := .t, a := .s, b := .unused, c := .unused, ok := m == 0 }
  | 0x1D0 =>
      let mode := fld xm 1 0
      some {
        base := .l128x, d := .t, a := .s, b := .q, c := .q, e := .w,
        f := if bit xm 4 then .s else .unused, g := .s, h := if mode == 3 then .s else .unused,
        ok := modWithin m 0x01F && scopeOk m && plainOk m && xm &&& 0xFE0 == 0
        && !((mode == 1 || mode == 2) && bit xm 2) && !(bit xm 3 && (mode == 1 || mode == 3)) }
  | 0x1D1 =>
      some {
        base := .l64, d := .unused, a := .w, b := .w, c := if bit m 9 then .s else .unused,
        ok := modWithin m 0x21F && scopeOk m && plainOk m }
  | 0x1D4 => some { base := .l64, d := .t, a := .unused, b := .unused, c := .unused, ok := decide (m ≤ 4) }
  -- matrix, accumulator, attention (08 R206, 15 R360)
  | 0x200 | 0x201 | 0x202 | 0x203 | 0x205 | 0x206 | 0x208 | 0x209 =>
      some { base := .l64, d := .t, a := .s, b := .unused, c := .unused, ok := postModOk m }
  | 0x204 => some { base := .l64, d := .t, a := .s, b := .s, c := .unused, ok := modWithin m 0x200 }
  | 0x207 => some { base := .l64, d := .t, a := .s, b := .s, c := .s, ok := m == 0 }
  | 0x20B =>
      some {
        base := .l64, d := .unused, a := if bit m 0 then .unused else .w, b := .unused,
        c := .unused, ok := modWithin m 1 }
  -- system (17 R379)
  | 0x280 =>
      some {
        base := .l64, d := if m == 0x0C then .w else .t, a := .unused, b := .unused, c := .unused,
        ok := decide (m ≤ 0x0E) }
  | 0x281 => some { base := .l64, d := .unused, a := .s, b := .unused, c := .unused, ok := m == 0x0D }
  | 0x284 => some { base := .l64, d := .w, a := .s, b := .unused, c := .unused, ok := modWithin m 1 }
  | 0x288 => some { base := .l64, d := .unused, a := .s, b := .unused, c := .unused, ok := true }
  | _ => none

/-- The opcode and the fields of a device instruction (03 R79); none for a pair, the host extension and the
events. -/
def Instr.dev? (i : Instr) : Option (Nat × Dev) :=
  match i with
  | .nop x => some (0x000, x)
  | .bra x => some (0x001, x)
  | .brx x => some (0x002, x)
  | .call x => some (0x003, x)
  | .callx x => some (0x004, x)
  | .ret x => some (0x005, x)
  | .exit x => some (0x006, x)
  | .trap x => some (0x007, x)
  | .bkpt x => some (0x008, x)
  | .yield x => some (0x009, x)
  | .nap x => some (0x00A, x)
  | .waitw x => some (0x00B, x)
  | .safept x => some (0x00C, x)
  | .iadd x => some (0x040, x)
  | .isub x => some (0x041, x)
  | .imul x => some (0x042, x)
  | .imulh x => some (0x043, x)
  | .imad x => some (0x044, x)
  | .imadw x => some (0x045, x)
  | .idiv x => some (0x046, x)
  | .irem x => some (0x047, x)
  | .imin x => some (0x048, x)
  | .imax x => some (0x049, x)
  | .iabs x => some (0x04A, x)
  | .ineg x => some (0x04B, x)
  | .iaddc x => some (0x04C, x)
  | .isubb x => some (0x04D, x)
  | .isad x => some (0x04E, x)
  | .idp4 x => some (0x04F, x)
  | .and x => some (0x050, x)
  | .or x => some (0x051, x)
  | .xor x => some (0x052, x)
  | .not x => some (0x053, x)
  | .andn x => some (0x054, x)
  | .lop3 x => some (0x055, x)
  | .shl x => some (0x056, x)
  | .shr x => some (0x057, x)
  | .sar x => some (0x058, x)
  | .rotl x => some (0x059, x)
  | .shf x => some (0x05A, x)
  | .bfe x => some (0x05B, x)
  | .bfi x => some (0x05C, x)
  | .brev x => some (0x05D, x)
  | .popc x => some (0x05E, x)
  | .clz x => some (0x05F, x)
  | .ctz x => some (0x060, x)
  | .prmt x => some (0x061, x)
  | .icmp x => some (0x062, x)
  | .sel x => some (0x063, x)
  | .mov x => some (0x064, x)
  | .movi x => some (0x065, x)
  | .movw x => some (0x066, x)
  | .lea x => some (0x067, x)
  | .add64 x => some (0x068, x)
  | .sub64 x => some (0x069, x)
  | .cmp64 x => some (0x06A, x)
  | .plop x => some (0x06B, x)
  | .pmov x => some (0x06C, x)
  | .fadd x => some (0x0C0, x)
  | .fsub x => some (0x0C1, x)
  | .fmul x => some (0x0C2, x)
  | .ffma x => some (0x0C3, x)
  | .fmin x => some (0x0C4, x)
  | .fmax x => some (0x0C5, x)
  | .fcmp x => some (0x0C6, x)
  | .fclass x => some (0x0C7, x)
  | .frint x => some (0x0C8, x)
  | .fscale x => some (0x0C9, x)
  | .fdot x => some (0x0CA, x)
  | .fdota x => some (0x0CB, x)
  | .frcp x => some (0x0E0, x)
  | .frsq x => some (0x0E1, x)
  | .fsqrt x => some (0x0E2, x)
  | .fexp2 x => some (0x0E3, x)
  | .flog2 x => some (0x0E4, x)
  | .fsin x => some (0x0E5, x)
  | .fcos x => some (0x0E6, x)
  | .ftanh x => some (0x0E7, x)
  | .fdiv x => some (0x0E8, x)
  | .cvt x => some (0x100, x)
  | .pack x => some (0x101, x)
  | .unpk x => some (0x102, x)
  | .qnt x => some (0x103, x)
  | .dqnt x => some (0x104, x)
  | .sclx x => some (0x105, x)
  | .tagrd x => some (0x106, x)
  | .retag x => some (0x107, x)
  | .shfl x => some (0x120, x)
  | .vote x => some (0x121, x)
  | .wred x => some (0x122, x)
  | .wscan x => some (0x123, x)
  | .matchLanes x => some (0x124, x)
  | .elect x => some (0x125, x)
  | .actmask x => some (0x126, x)
  | .ragld x => some (0x130, x)
  | .segred x => some (0x131, x)
  | .segscan x => some (0x132, x)
  | .ld x => some (0x140, x)
  | .st x => some (0x141, x)
  | .lds x => some (0x142, x)
  | .sts x => some (0x143, x)
  | .ldp x => some (0x144, x)
  | .stp x => some (0x145, x)
  | .atom x => some (0x146, x)
  | .atoms x => some (0x147, x)
  | .red x => some (0x148, x)
  | .fence x => some (0x149, x)
  | .pref x => some (0x14A, x)
  | .cctl x => some (0x14B, x)
  | .pin x => some (0x160, x)
  | .unpin x => some (0x161, x)
  | .mhint x => some (0x162, x)
  | .mqry x => some (0x163, x)
  | .mmove x => some (0x164, x)
  | .curopen x => some (0x170, x)
  | .curadv x => some (0x171, x)
  | .curq x => some (0x172, x)
  | .qapp x => some (0x173, x)
  | .binit x => some (0x180, x)
  | .barv x => some (0x181, x)
  | .bwait x => some (0x182, x)
  | .barw x => some (0x183, x)
  | .btest x => some (0x184, x)
  | .swarm x => some (0x185, x)
  | .swadd x => some (0x186, x)
  | .swwait x => some (0x187, x)
  | .swtest x => some (0x188, x)
  | .tspawn x => some (0x1A0, x)
  | .tdep x => some (0x1A1, x)
  | .tfire x => some (0x1A2, x)
  | .twait x => some (0x1A3, x)
  | .tcncl x => some (0x1A4, x)
  | .tevt x => some (0x1A5, x)
  | .gloop x => some (0x1B0, x)
  | .gcarry x => some (0x1B1, x)
  | .gguess x => some (0x1B2, x)
  | .gcmp x => some (0x1B3, x)
  | .gstat x => some (0x1B4, x)
  | .tidset x => some (0x1C0, x)
  | .tidrd x => some (0x1C1, x)
  | .tidclr x => some (0x1C2, x)
  | .cpyb x => some (0x1D0, x)
  | .cpyl x => some (0x1D1, x)
  | .cseal x => some (0x1D2, x)
  | .cwait x => some (0x1D3, x)
  | .cqry x => some (0x1D4, x)
  | .nmcmd x => some (0x1D5, x)
  | .mlds x => some (0x200, x)
  | .mstrm x => some (0x201, x)
  | .mdrn x => some (0x202, x)
  | .mpass x => some (0x203, x)
  | .mzro x => some (0x204, x)
  | .accld x => some (0x205, x)
  | .accst x => some (0x206, x)
  | .accsc x => some (0x207, x)
  | .accmrg x => some (0x208, x)
  | .attn x => some (0x209, x)
  | .msync x => some (0x20A, x)
  | .mrst x => some (0x20B, x)
  | .srd x => some (0x280, x)
  | .swr x => some (0x281, x)
  | .tret x => some (0x282, x)
  | .hlt x => some (0x283, x)
  | .perf x => some (0x284, x)
  | .clk x => some (0x285, x)
  | .regshr x => some (0x286, x)
  | .reggrw x => some (0x287, x)
  | .dbgmk x => some (0x288, x)
  | .isync x => some (0x289, x)
  | _ => none

/-- The device instruction of an opcode of the map (03 R79). -/
def mkDev (opc : Nat) : Option (Dev → Instr) :=
  match opc with
  | 0x000 => some .nop
  | 0x001 => some .bra
  | 0x002 => some .brx
  | 0x003 => some .call
  | 0x004 => some .callx
  | 0x005 => some .ret
  | 0x006 => some .exit
  | 0x007 => some .trap
  | 0x008 => some .bkpt
  | 0x009 => some .yield
  | 0x00A => some .nap
  | 0x00B => some .waitw
  | 0x00C => some .safept
  | 0x040 => some .iadd
  | 0x041 => some .isub
  | 0x042 => some .imul
  | 0x043 => some .imulh
  | 0x044 => some .imad
  | 0x045 => some .imadw
  | 0x046 => some .idiv
  | 0x047 => some .irem
  | 0x048 => some .imin
  | 0x049 => some .imax
  | 0x04A => some .iabs
  | 0x04B => some .ineg
  | 0x04C => some .iaddc
  | 0x04D => some .isubb
  | 0x04E => some .isad
  | 0x04F => some .idp4
  | 0x050 => some .and
  | 0x051 => some .or
  | 0x052 => some .xor
  | 0x053 => some .not
  | 0x054 => some .andn
  | 0x055 => some .lop3
  | 0x056 => some .shl
  | 0x057 => some .shr
  | 0x058 => some .sar
  | 0x059 => some .rotl
  | 0x05A => some .shf
  | 0x05B => some .bfe
  | 0x05C => some .bfi
  | 0x05D => some .brev
  | 0x05E => some .popc
  | 0x05F => some .clz
  | 0x060 => some .ctz
  | 0x061 => some .prmt
  | 0x062 => some .icmp
  | 0x063 => some .sel
  | 0x064 => some .mov
  | 0x065 => some .movi
  | 0x066 => some .movw
  | 0x067 => some .lea
  | 0x068 => some .add64
  | 0x069 => some .sub64
  | 0x06A => some .cmp64
  | 0x06B => some .plop
  | 0x06C => some .pmov
  | 0x0C0 => some .fadd
  | 0x0C1 => some .fsub
  | 0x0C2 => some .fmul
  | 0x0C3 => some .ffma
  | 0x0C4 => some .fmin
  | 0x0C5 => some .fmax
  | 0x0C6 => some .fcmp
  | 0x0C7 => some .fclass
  | 0x0C8 => some .frint
  | 0x0C9 => some .fscale
  | 0x0CA => some .fdot
  | 0x0CB => some .fdota
  | 0x0E0 => some .frcp
  | 0x0E1 => some .frsq
  | 0x0E2 => some .fsqrt
  | 0x0E3 => some .fexp2
  | 0x0E4 => some .flog2
  | 0x0E5 => some .fsin
  | 0x0E6 => some .fcos
  | 0x0E7 => some .ftanh
  | 0x0E8 => some .fdiv
  | 0x100 => some .cvt
  | 0x101 => some .pack
  | 0x102 => some .unpk
  | 0x103 => some .qnt
  | 0x104 => some .dqnt
  | 0x105 => some .sclx
  | 0x106 => some .tagrd
  | 0x107 => some .retag
  | 0x120 => some .shfl
  | 0x121 => some .vote
  | 0x122 => some .wred
  | 0x123 => some .wscan
  | 0x124 => some .matchLanes
  | 0x125 => some .elect
  | 0x126 => some .actmask
  | 0x130 => some .ragld
  | 0x131 => some .segred
  | 0x132 => some .segscan
  | 0x140 => some .ld
  | 0x141 => some .st
  | 0x142 => some .lds
  | 0x143 => some .sts
  | 0x144 => some .ldp
  | 0x145 => some .stp
  | 0x146 => some .atom
  | 0x147 => some .atoms
  | 0x148 => some .red
  | 0x149 => some .fence
  | 0x14A => some .pref
  | 0x14B => some .cctl
  | 0x160 => some .pin
  | 0x161 => some .unpin
  | 0x162 => some .mhint
  | 0x163 => some .mqry
  | 0x164 => some .mmove
  | 0x170 => some .curopen
  | 0x171 => some .curadv
  | 0x172 => some .curq
  | 0x173 => some .qapp
  | 0x180 => some .binit
  | 0x181 => some .barv
  | 0x182 => some .bwait
  | 0x183 => some .barw
  | 0x184 => some .btest
  | 0x185 => some .swarm
  | 0x186 => some .swadd
  | 0x187 => some .swwait
  | 0x188 => some .swtest
  | 0x1A0 => some .tspawn
  | 0x1A1 => some .tdep
  | 0x1A2 => some .tfire
  | 0x1A3 => some .twait
  | 0x1A4 => some .tcncl
  | 0x1A5 => some .tevt
  | 0x1B0 => some .gloop
  | 0x1B1 => some .gcarry
  | 0x1B2 => some .gguess
  | 0x1B3 => some .gcmp
  | 0x1B4 => some .gstat
  | 0x1C0 => some .tidset
  | 0x1C1 => some .tidrd
  | 0x1C2 => some .tidclr
  | 0x1D0 => some .cpyb
  | 0x1D1 => some .cpyl
  | 0x1D2 => some .cseal
  | 0x1D3 => some .cwait
  | 0x1D4 => some .cqry
  | 0x1D5 => some .nmcmd
  | 0x200 => some .mlds
  | 0x201 => some .mstrm
  | 0x202 => some .mdrn
  | 0x203 => some .mpass
  | 0x204 => some .mzro
  | 0x205 => some .accld
  | 0x206 => some .accst
  | 0x207 => some .accsc
  | 0x208 => some .accmrg
  | 0x209 => some .attn
  | 0x20A => some .msync
  | 0x20B => some .mrst
  | 0x280 => some .srd
  | 0x281 => some .swr
  | 0x282 => some .tret
  | 0x283 => some .hlt
  | 0x284 => some .perf
  | 0x285 => some .clk
  | 0x286 => some .regshr
  | 0x287 => some .reggrw
  | 0x288 => some .dbgmk
  | 0x289 => some .isync
  | _ => none

/-- The opcode of a pairable operation (03 R77). -/
def PairOp.opcode (o : PairOp) : Nat :=
  match o with
  | .iadd => 0x040
  | .isub => 0x041
  | .imul => 0x042
  | .imulh => 0x043
  | .imad => 0x044
  | .imin => 0x048
  | .imax => 0x049
  | .iabs => 0x04A
  | .ineg => 0x04B
  | .iaddc => 0x04C
  | .isubb => 0x04D
  | .isad => 0x04E
  | .idp4 => 0x04F
  | .and => 0x050
  | .or => 0x051
  | .xor => 0x052
  | .not => 0x053
  | .andn => 0x054
  | .lop3 => 0x055
  | .shl => 0x056
  | .shr => 0x057
  | .sar => 0x058
  | .rotl => 0x059
  | .shf => 0x05A
  | .bfe => 0x05B
  | .bfi => 0x05C
  | .brev => 0x05D
  | .popc => 0x05E
  | .clz => 0x05F
  | .ctz => 0x060
  | .prmt => 0x061
  | .icmp => 0x062
  | .sel => 0x063
  | .mov => 0x064
  | .lea => 0x067
  | .add64 => 0x068
  | .sub64 => 0x069
  | .cmp64 => 0x06A
  | .plop => 0x06B
  | .pmov => 0x06C
  | .fadd => 0x0C0
  | .fsub => 0x0C1
  | .fmul => 0x0C2
  | .ffma => 0x0C3
  | .fmin => 0x0C4
  | .fmax => 0x0C5
  | .fcmp => 0x0C6

/-- The pairable operation of an opcode (03 R77). -/
def PairOp.ofOpcode? (opc : Nat) : Option PairOp :=
  match opc with
  | 0x040 => some .iadd
  | 0x041 => some .isub
  | 0x042 => some .imul
  | 0x043 => some .imulh
  | 0x044 => some .imad
  | 0x048 => some .imin
  | 0x049 => some .imax
  | 0x04A => some .iabs
  | 0x04B => some .ineg
  | 0x04C => some .iaddc
  | 0x04D => some .isubb
  | 0x04E => some .isad
  | 0x04F => some .idp4
  | 0x050 => some .and
  | 0x051 => some .or
  | 0x052 => some .xor
  | 0x053 => some .not
  | 0x054 => some .andn
  | 0x055 => some .lop3
  | 0x056 => some .shl
  | 0x057 => some .shr
  | 0x058 => some .sar
  | 0x059 => some .rotl
  | 0x05A => some .shf
  | 0x05B => some .bfe
  | 0x05C => some .bfi
  | 0x05D => some .brev
  | 0x05E => some .popc
  | 0x05F => some .clz
  | 0x060 => some .ctz
  | 0x061 => some .prmt
  | 0x062 => some .icmp
  | 0x063 => some .sel
  | 0x064 => some .mov
  | 0x067 => some .lea
  | 0x068 => some .add64
  | 0x069 => some .sub64
  | 0x06A => some .cmp64
  | 0x06B => some .plop
  | 0x06C => some .pmov
  | 0x0C0 => some .fadd
  | 0x0C1 => some .fsub
  | 0x0C2 => some .fmul
  | 0x0C3 => some .ffma
  | 0x0C4 => some .fmin
  | 0x0C5 => some .fmax
  | 0x0C6 => some .fcmp
  | _ => none

/-- The immediate bits that a base form leaves to the instruction; the rest of [127:64] is zero
(03 R67, R68). FENCE alone has an IMM32 that must be zero (12 R283). -/
def immFits (opc : Nat) (base : BaseForm) (imm : Nat) : Bool :=
  match base with
  | .l64 => imm == 0
  | .l96 => decide (imm < 2 ^ 32) && (opc != 0x149 || imm == 0)
  | .l128 => true
  | .l128x => imm == 0

/-- The classes of the eight fields, in the order D, A, B, C, E, F, G, H. -/
def Form.classes (fm : Form) : List FieldClass := [fm.d, fm.a, fm.b, fm.c, fm.e, fm.f, fm.g, fm.h]

/-- The operands of the eight fields, in the order D, A, B, C, E, F, G, H. -/
def Dev.operands (x : Dev) : List Operand := [x.d, x.a, x.b, x.c, x.e, x.f, x.g, x.h]

/-- The register and predicate codes an operand of a class names; constants name none (03 R77). -/
def unitsOf (c : FieldClass) (o : Operand) : List Nat :=
  match o with
  | .unused => []
  | .k _ => []
  | .p n => [320 + n.val]
  | o => (List.range c.span).map (o.code + ·)

/-- The registers and predicates a slot writes, implicit destinations included (03 R77, 04 R108). -/
def slotWrites (opc : Nat) (fm : Form) (x : Dev) : List Nat :=
  unitsOf fm.d x.d
    ++ (if opc == 0x04C || opc == 0x04D then [320 + fld x.mod.toNat 2 0] else [])
    ++ (if opc == 0x06C && x.mod.toNat == 2 then (List.range 7).map (320 + ·) else [])

/-- The registers and predicates a slot reads, its guard included unless it names p7 (03 R77, 04 R108). -/
def slotReads (opc : Nat) (fm : Form) (x : Dev) : List Nat :=
  unitsOf fm.a x.a ++ unitsOf fm.b x.b ++ unitsOf fm.c x.c
    ++ (if x.guard.p.val == 7 then [] else [320 + x.guard.p.val])
    ++ (if opc == 0x06C && x.mod.toNat == 1 then (List.range 7).map (320 + ·) else [])

/-- The multiply-add class (03 R77). -/
def isMulAdd (opc : Nat) : Bool := opc == 0x044 || opc == 0x043 || opc == 0x0C3

/-- How many distinct vector registers of a bank a list of codes names (03 R77). -/
def bankCount (codes : List Nat) (bank : Nat) : Nat :=
  ((codes.filter fun r => decide (r < 256) && r % 4 == bank).eraseDups).length

/-- The conditions of 03 R77 on two pairable slots. -/
def pairLegal (oa : Nat) (fa : Form) (xa : Dev) (ob : Nat) (fb : Form) (xb : Dev) : Bool :=
  let wa := slotWrites oa fa xa
  let wb := slotWrites ob fb xb
  let ra := slotReads oa fa xa
  let rb := slotReads ob fb xb
  !(isMulAdd oa && isMulAdd ob) && wa.all (fun r => !wb.contains r) && ra.all (fun r => !wb.contains r)
    && rb.all (fun r => !wa.contains r)
    && (List.range 4).all (fun k => decide (bankCount (ra ++ rb) k ≤ 2))

/-- Whether every vector register an operand names lies below the allotment (01 R31, R32). -/
def operandWithin (allot : Nat) (c : FieldClass) (o : Operand) : Bool :=
  match o with
  | .v n => decide (n.val + c.span ≤ allot)
  | _ => true

/-- Whether every vector register of a form lies below the allotment (01 R32, 03 R73). -/
def formWithin (allot : Nat) (fm : Form) (x : Dev) : Bool :=
  (List.zip fm.classes x.operands).all fun (c, o) => operandWithin allot c o

end Sys2Proof
end

