-- ==== Sys2Proof/Machine/Operands.lean ====
section
/-! DEFINITION. What one lane of a cohort reads from its operands, what it answers, and the typed readings of MOD
(01 R13-R15, 03 R69-R74). -/
namespace Sys2Proof

/-- The operand `i` registers above one: the halves of a pair and the words of a quad (01 R13, 12 R283). -/
def Operand.plus (o : Operand) (i : Nat) : Operand :=
  match o with
  | .v n => .v (Fin.ofNat 256 (n.val + i))
  | .s n => .s (Fin.ofNat 64 (n.val + i))
  | o => o

/-- The number of a predicate operand; 7 discards. -/
def Operand.predNo (o : Operand) : Nat :=
  match o with
  | .p n => n.val
  | _ => 7

/-- MOD as a number. -/
def Dev.m (x : Dev) : Nat := x.mod.toNat

/-- SEM of a memory instruction, MOD[4:3] (12 R284). -/
def Dev.sem (x : Dev) : Nat := fld x.m 4 3

/-- SCOPE of a memory instruction, MOD[2:0] (12 R284). -/
def Dev.scope (x : Dev) : Nat := fld x.m 2 0

/-- IMM32 as a signed number (03 R75). -/
def Dev.imm32 (x : Dev) : Int := sextN x.imm.toNat 32

end Sys2Proof

namespace Sys2Proof.Machine

/-- What a lane of the cohort sees of the machine before anything of the instruction is written: its thread, its wave, its lane
number, and the length of the instruction. -/
structure LaneCtx where
  lane : Nat
  th   : Thread
  wave : Wave
  len  : Nat
  deriving DecidableEq, Repr

/-- The name of a lane's thread. -/
def LaneCtx.ref (c : LaneCtx) : ThreadRef := ⟨c.wave.ref, c.lane⟩

/-- The PC after the instruction (01 R19). -/
def LaneCtx.nextPc (c : LaneCtx) : BitVec 60 := c.th.pc + BitVec.ofNat 60 c.len

/-- The value and tag of a constant operand; LANE gives the reader's lane (03 R69). -/
def constReg (lane : Nat) (k : Const) : Reg :=
  match k with
  | .zero => ⟨0x00000000, .i32⟩
  | .one => ⟨0x00000001, .i32⟩
  | .mone => ⟨0xFFFFFFFF, .i32⟩
  | .half => ⟨0x3F000000, .f32⟩
  | .f1 => ⟨0x3F800000, .f32⟩
  | .f2 => ⟨0x40000000, .f32⟩
  | .lane => ⟨BitVec.ofNat 32 lane, .n32⟩
  | .pi => ⟨0x40490FDB, .f32⟩
  | .ln2 => ⟨0x3F317218, .f32⟩
  | .log2e => ⟨0x3FB8AA3B, .f32⟩
  | .fm1 => ⟨0xBF800000, .f32⟩
  | .fzero => ⟨0x00000000, .f32⟩
  | .finf => ⟨0x7F800000, .f32⟩
  | .fmax => ⟨0x7F7FFFFF, .f32⟩
  | .bf1x2 => ⟨0x3F803F80, .bf16x2⟩
  | .ones => ⟨0xFFFFFFFF, .raw⟩

/-- A 32-bit source operand (03 R69, R70). -/
def LaneCtx.src (c : LaneCtx) (o : Operand) : Reg :=
  match o with
  | .v n => c.th.regs.getD n.val Reg.zero
  | .s n => c.wave.sregs.getD n.val Reg.zero
  | .k k => constReg c.lane k
  | .p _ => Reg.zero
  | .unused => Reg.zero

/-- The 32 bits of a source as an unsigned number, whatever its tag. -/
def LaneCtx.srcN (c : LaneCtx) (o : Operand) : Nat := (c.src o).val.toNat

/-- The two halves of a wide source, low first (01 R13, R14). -/
def LaneCtx.srcW (c : LaneCtx) (o : Operand) : Reg × Reg := (c.src o, c.src (o.plus 1))

/-- The 64 bits of a wide source as an unsigned number, whatever its tags. -/
def LaneCtx.srcWN (c : LaneCtx) (o : Operand) : Nat :=
  (c.src o).val.toNat + 2 ^ 32 * (c.src (o.plus 1)).val.toNat

/-- The bits of a quad source as an unsigned number (12 R283). -/
def LaneCtx.srcQN (c : LaneCtx) (o : Operand) : Nat :=
  c.srcWN o + 2 ^ 64 * c.srcWN (o.plus 2)

/-- A predicate: p7 reads as 1 (01 R13, R15). -/
def Thread.pred (t : Thread) (n : Nat) : Bool := n == 7 || t.preds.getLsbD n

/-- A predicate operand. -/
def LaneCtx.pred (c : LaneCtx) (o : Operand) : Bool :=
  match o with
  | .p n => c.th.pred n.val
  | _ => false

/-- Whether a thread's guard is true (03 R71). -/
def Thread.guard (t : Thread) (g : Guard) : Bool := (t.pred g.p.val) != g.neg

/-- What a lane that completes the instruction writes: registers, predicates, FSTAT conditions, a PC other than the next
instruction's, whether it exits, whether it leaves a handler, and a fault raised after it (17 R364, WATCH). -/
structure LaneOut where
  regs   : List (Operand × Reg) := []
  preds  : List (Nat × Bool) := []
  flags  : Flags := 0
  pc     : Option (BitVec 60) := none
  exits  : Bool := false
  leaves : Bool := false
  after  : Option FInfo := none
  deriving DecidableEq, Repr

/-- What becomes of a lane: it completes; it faults; it has issued a wait, after which it raises a WATCH if there is one; or it is
held before it acts. -/
inductive LaneRes where
  | done (o : LaneOut)
  | fault (f : FInfo)
  | wait (w : Wait) (watch : Option FInfo := none)
  | hold (h : Hold)
  deriving DecidableEq, Repr

/-- A 32-bit result with its tag and conditions. -/
def result (d : Operand) (v : Word) (t : Tag) (fl : Flags := 0) : LaneRes :=
  .done { regs := [(d, ⟨v, t⟩)], flags := fl }

/-- A 64-bit result with the tags of its halves and conditions. -/
def resultW (d : Operand) (v : Nat) (lo hi : Tag) (fl : Flags := 0) : LaneRes :=
  .done { regs := [(d, ⟨BitVec.ofNat 32 v, lo⟩), (d.plus 1, ⟨BitVec.ofNat 32 (v / 2 ^ 32), hi⟩)], flags := fl }

/-- A predicate result (01 R15). -/
def resultP (d : Operand) (b : Bool) (fl : Flags := 0) : LaneRes := .done { preds := [(d.predNo, b)], flags := fl }

/-- A code result, tag N32. -/
def resultN (d : Operand) (n : Nat) : LaneRes := result d (BitVec.ofNat 32 n) .n32

/-- Fault codes of 17 R363. -/
def cILLEGAL_OP : Nat := 1
def cILLEGAL_PAIR : Nat := 2
def cREG_RANGE : Nat := 3
def cTAG_MISMATCH : Nat := 4
def cMISALIGN : Nat := 5
def cPAGE_ABSENT : Nat := 6
def cPAGE_PERM : Nat := 7
def cMIGRATION : Nat := 8
def cPOISON : Nat := 9
def cSCALE_CLIP : Nat := 10
def cTRAP : Nat := 11
def cBKPT : Nat := 12
def cWATCH : Nat := 13
def cSAFEPT_OVERRUN : Nat := 14
def cCONTEXT_ERROR : Nat := 15
def cARRAY_PARITY : Nat := 16
def cACC_ERROR : Nat := 17
def cHALT : Nat := 0x100

/-- TAG_MISMATCH, which concerns no access (17 R369). -/
def tagFault : LaneRes := .fault { code := cTAG_MISMATCH }

/-- TCHK = 1 and some tagged source carries a tag other than TTAG (03 R74). -/
def tchkFails (m : Nat) (tags : List Tag) : Bool := bit m 8 && tags.any fun t => t.code != fld m 7 4

end Sys2Proof.Machine
end

