-- ==== Sys2Proof/Machine/Access.lean ====
section
/-! DEFINITION. Lookups and updates of the parts of the state, the geography of the module, and the drawing of free
values. -/
namespace Sys2Proof.Machine

/-! ## Geography (00 R1, 06 R146) -/

/-- The die of a core. -/
def dieOfCore (c : Nat) : Nat := c / 32
/-- The cluster of a core within its die: CLUSTERID. -/
def clusterOfCore (c : Nat) : Nat := c % 32 / 4
/-- The cluster of a core within the module, which is also the number of its matrix engine. -/
def engineOfCore (c : Nat) : Nat := c / 4
/-- The hub nearest a die: HUBID. -/
def hubOfDie (d : Nat) : Nat := d / 2
/-- What stands for a tenant where a hub acts for none. -/
def noTenant : Nat := 64
/-- What stands for a die where hart h asks: its own translation caches (22 R415). -/
def hartDie (h : Nat) : Nat := 8 + h

/-! ## Parts by number or name -/

def State.tenant (s : State) (t : Nat) : Tenant := s.tenants.getD t Tenant.reset
def State.updTenant (s : State) (t : Nat) (f : Tenant → Tenant) : State := { s with tenants := s.tenants.modify t f }
def State.hub (s : State) (h : Nat) : Hub := s.hubs.getD h Hub.reset
def State.updHub (s : State) (h : Nat) (f : Hub → Hub) : State := { s with hubs := s.hubs.modify h f }
def State.die (s : State) (d : Nat) : Die := s.dies.getD d ⟨0, 0⟩
def State.updDie (s : State) (d : Nat) (f : Die → Die) : State := { s with dies := s.dies.modify d f }
def State.core (s : State) (c : Nat) : Core := s.cores.getD c Core.reset
def State.updCore (s : State) (c : Nat) (f : Core → Core) : State := { s with cores := s.cores.modify c f }
def State.hart (s : State) (h : Nat) : Hart := s.harts.getD h Hart.reset
def State.updHart (s : State) (h : Nat) (f : Hart → Hart) : State := { s with harts := s.harts.modify h f }
def State.slice (s : State) (h : Nat) : Slice := s.slices.getD h Slice.reset
def State.updSlice (s : State) (h : Nat) (f : Slice → Slice) : State := { s with slices := s.slices.modify h f }

def State.wave? (s : State) (r : WaveRef) : Option Wave := s.waves.find? fun w => w.ref == r
def State.updWave (s : State) (r : WaveRef) (f : Wave → Wave) : State :=
  { s with waves := s.waves.map fun w => if w.ref == r then f w else w }
def Wave.updThread (w : Wave) (lane : Nat) (f : Thread → Thread) : Wave := { w with threads := w.threads.modify lane f }
def State.thread? (s : State) (r : ThreadRef) : Option Thread := (s.wave? r.wave).bind fun w => w.threads[r.lane]?
def State.updThread (s : State) (r : ThreadRef) (f : Thread → Thread) : State :=
  s.updWave r.wave fun w => w.updThread r.lane f
/-- Every thread of every wave changed by a function of its name. -/
def State.mapThreads (s : State) (f : ThreadRef → Thread → Thread) : State :=
  { s with waves := s.waves.map fun w => { w with threads := w.threads.mapIdx fun i t => f ⟨w.ref, i⟩ t } }
/-- All threads with their names and waves. -/
def State.threads (s : State) : List (ThreadRef × Wave × Thread) :=
  s.waves.flatMap fun w => w.threads.mapIdx fun i t => (⟨w.ref, i⟩, w, t)

def State.block? (s : State) (b : Nat) : Option Block := s.blocks.find? fun x => x.id == b
def State.updBlock (s : State) (b : Nat) (f : Block → Block) : State :=
  { s with blocks := s.blocks.map fun x => if x.id == b then f x else x }
def State.blockWaves (s : State) (b : Nat) : List Wave := s.waves.filter fun w => w.block == b
def State.task? (s : State) (t : Nat) : Option Task := s.tasks.find? fun x => x.id == t
def State.updTask (s : State) (t : Nat) (f : Task → Task) : State :=
  { s with tasks := s.tasks.map fun x => if x.id == t then f x else x }
def State.loop? (s : State) (l : Nat) : Option Loop := s.loops.find? fun x => x.task == l
def State.updLoop (s : State) (l : Nat) (f : Loop → Loop) : State :=
  { s with loops := s.loops.map fun x => if x.task == l then f x else x }
def State.move? (s : State) (m : Nat) : Option Move := s.moves.find? fun x => x.id == m
def State.updMove (s : State) (m : Nat) (f : Move → Move) : State :=
  { s with moves := s.moves.map fun x => if x.id == m then f x else x }

/-- The live task of a tenant with a record address (06 R149); a loop's instances are not named by addresses (09 R220). -/
def State.liveTask? (s : State) (tenant addr : Nat) : Option Task :=
  s.tasks.find? fun x => x.tenant == tenant && x.addr == addr && x.strand.isNone && x.guessOf.isNone

/-- The block of a wave, and the task of a block. -/
def State.blockOf (s : State) (w : Wave) : Option Block := s.block? w.block
def State.taskOf (s : State) (b : Block) : Option Task := s.task? b.task
/-- The task of a wave. -/
def State.taskOfWave (s : State) (w : Wave) : Option Task := (s.block? w.block).bind s.taskOf
/-- The tenant of a wave; 0 stands where the wave's task is gone, which no live wave's is. -/
def State.tenantOfWave (s : State) (w : Wave) : Nat := ((s.taskOfWave w).map (·.tenant)).getD 0

/-! ## Fields of a tenant's registers -/

def Tenant.en (t : Tenant) : Bool := bit t.ctl.toNat 0
def Tenant.flr (t : Tenant) : Bool := bit t.ctl.toNat 2
def Tenant.part (t : Tenant) : Nat := fld t.ctl.toNat 27 26
def Tenant.weight (t : Tenant) : Nat := fld t.ctl.toNat 35 28
def Tenant.asid (t : Tenant) : Nat := fld t.root.toNat 12 4
/-- PRIV_FRAMES and PRIV_UNITS with their limits (10 R245). -/
def Tenant.privFrames (t : Tenant) : Nat := min (fld t.privsz.toNat 31 16) 16384
/-- A 64-bit register with bits [hi:lo] replaced. -/
def setBits (r : Dword) (hi lo v : Nat) : Dword := BitVec.ofNat 64 (setFld r.toNat hi lo v)

/-! ## Fields of a task record (06 R147) -/

def Task.f (t : Task) (hi lo : Nat) : Nat := fld t.record hi lo
def Task.kind (t : Task) : Nat := t.f 19 16
def Task.prio (t : Task) : Nat := t.f 21 20
def Task.colevel (t : Task) : Nat := t.f 23 22
def Task.queue (t : Task) : Nat := t.f 37 32
def Task.codeVa (t : Task) : Nat := t.f 127 64
def Task.blocks (t : Task) : Nat := t.f 159 128
def Task.threadsPer (t : Task) : Nat := t.f 175 160
def Task.complVa (t : Task) : Nat := t.f 447 384
def Task.taskNum (t : Task) : Nat := t.f 543 512
def Task.graphId (t : Task) : Nat := t.f 575 544
def Task.onFail (t : Task) : Bool := bit t.record 27
def Task.evtCode (t : Task) : Nat := t.f 255 240

/-! ## Free values and names -/

/-- The next free bit. -/
def State.drawBit (s : State) : Bool × State := (Config.freeBit s.free, { s with free := s.free + 1 })
/-- The next free word. -/
def State.drawWord (s : State) : Nat × State := ((Config.freeWord s.free).toNat, { s with free := s.free + 1 })
/-- A name not used before. -/
def State.newId (s : State) : Nat × State := (s.nextId, { s with nextId := s.nextId + 1 })

/-- CLOCK of a tenant context (01 R26). While a restore is under way it shows what its offset would be if it completed now, so that no thread
reads less than before the save or after the restore (18 R396; DEDUCED, log entry 33). -/
def State.clockOf (s : State) (tenant : Nat) : Nat :=
  let t := s.tenant tenant
  (if t.phase == .restoring then max s.clock t.restClk else s.clock + t.clkOff) % 2 ^ 64

/-! ## Counters (18 R400) -/

/-- A counter after n more events: it wraps below the unavailable code. -/
def perfAdd (c n : Nat) : Nat := (c + n) % 0xFFFFFFFFFFFFFFF0

/-- Every core-class counter of a tenant that selects an event counts n more of it. -/
def State.perfCoreEvent (s : State) (tenant ev n : Nat) : State :=
  s.updTenant tenant fun t => { t with perfCore := t.perfCore.mapIdx fun i c => if t.perfSels.getD i 0 == ev then perfAdd c n else c }

/-- Every hub-class counter of a tenant that selects an event counts n more of it at a hub. -/
def State.perfHubEvent (s : State) (tenant hub ev n : Nat) : State :=
  s.updTenant tenant fun t =>
    { t with perfHub := t.perfHub.modify hub fun l => l.mapIdx fun i c => if t.perfSels.getD (16 + i) 0 == ev then perfAdd c n else c }

/-! ## What an access or an instruction that cannot go on answers -/

/-- Why an access stops: a fault, or something it is held for. -/
inductive Stop where
  | fault (f : FInfo)
  | hold (h : Hold)
  deriving DecidableEq, Repr

/-- An operation that changes the state and answers a value or stops; what it did before it stopped stays done. -/
abbrev Op (α : Type) := EStateM Stop State α

/-- The state after an operation that may have stopped, and its answer if it gave one. -/
def Op.run? {α : Type} (x : Op α) (s : State) : Option α × State :=
  match x s with
  | .ok a s' => (some a, s')
  | .error _ s' => (none, s')

/-- An operation's answer as a value, with the reason where it stopped. -/
def Op.attempt {α : Type} (x : Op α) (s : State) : Except Stop α × State :=
  match x s with
  | .ok a s' => (.ok a, s')
  | .error e s' => (.error e, s')

/-- A fault stop. -/
def Op.fault {α : Type} (f : FInfo) : Op α := throw (.fault f)

/-- PAGE_PERM with a cause; causes 0 and 3 go to the fault queue unless said otherwise (17 R363, R369). -/
def pagePerm (cause access addr : Nat) (replay : Bool) : FInfo :=
  { code := cPAGE_PERM, cause := cause, access := access, addr := addr, replay := replay }

/-- The state after applying a function for each element of a list in order. -/
def State.forEach {α : Type} (l : List α) (f : α → State → State) (s : State) : State := l.foldl (fun s a => f a s) s

end Sys2Proof.Machine
end

