-- ==== Sys2Proof/Machine/Mem.lean ====
section
/-! DEFINITION. Memory as bytes: reading, writing, the canonical form, poisoned lines, and records held in memory
(00 R3, 17 R375). -/
namespace Sys2Proof.Machine

/-- The byte at an address. -/
def Memory.read (m : Memory) (a : Nat) : Byte :=
  match m with
  | [] => Config.initialByte
  | (k, b) :: rest => if k == a then b else if a < k then Config.initialByte else Memory.read rest a

/-- Memory with one byte replaced, in canonical form. -/
def Memory.write (m : Memory) (a : Nat) (v : Byte) : Memory :=
  match m with
  | [] => if v == Config.initialByte then [] else [(a, v)]
  | (k, b) :: rest =>
    if a < k then (if v == Config.initialByte then (k, b) :: rest else (a, v) :: (k, b) :: rest)
    else if a == k then (if v == Config.initialByte then rest else (a, v) :: rest)
    else (k, b) :: Memory.write rest a v

/-- The n bytes from an address. -/
def Memory.readBytes (m : Memory) (a n : Nat) : List Byte := (List.range n).map fun i => m.read (a + i)

/-- Memory with a run of bytes replaced. -/
def Memory.writeBytes (m : Memory) (a : Nat) (bs : List Byte) : Memory :=
  match bs with
  | [] => m
  | b :: bs => Memory.writeBytes (m.write a b) (a + 1) bs

/-- The little-endian value of n bytes. -/
def Memory.readNat (m : Memory) (a n : Nat) : Nat := leNat (m.readBytes a n)

/-- Addresses strictly rising from a lower bound, and no byte that equals what an unlisted address reads as. -/
def Memory.wfFrom (lo : Nat) (m : Memory) : Bool :=
  match m with
  | [] => true
  | (k, b) :: rest => decide (lo ≤ k) && b != Config.initialByte && Memory.wfFrom (k + 1) rest

/-- The canonical form. -/
def Memory.wf (m : Memory) : Bool := m.wfFrom 0

/-- The 64-byte line of an address. -/
def lineOf (pa : Nat) : Nat := pa / 64

/-- The lines that n bytes from an address touch. -/
def linesOf (pa n : Nat) : List Nat := if n = 0 then [] else (List.range (lineOf (pa + n - 1) + 1 - lineOf pa)).map (lineOf pa + ·)

/-- Whether n bytes touch a poisoned line. -/
def State.poisoned (s : State) (pa n : Nat) : Bool := (linesOf pa n).any fun l => s.poison.contains l

/-- The line of memory that an unread error stands in. -/
def ErrPlace.line? (p : ErrPlace) : Option Nat :=
  match p with
  | .memory line => some line
  | .l2 _ line => some line
  | .l1 _ line => some line
  | _ => none

/-- A line's poison mark set or cleared; a line written anew has no unread error either (19 R402). -/
def State.setPoison (s : State) (line : Nat) (b : Bool) : State :=
  { s with
    poison := if b then (if s.poison.contains line then s.poison else line :: s.poison) else s.poison.filter (· != line)
    latent := if b then s.latent else s.latent.filter fun p => p.line? != some line }

/-- The value of n bytes at a physical address, as memory holds them. -/
def State.peek (s : State) (pa n : Nat) : Nat := s.mem.readNat pa n

/-- Bytes put at a physical address, with nothing else. -/
def State.poke (s : State) (pa : Nat) (bs : List Byte) : State := { s with mem := s.mem.writeBytes pa bs }

end Sys2Proof.Machine
end

