-- ==== Sys2Proof/Machine/Home.lean ====
section
/-! DEFINITION. The home agents: tiers and homes, frame states, access counters and triggers, the directories, and the
bytes that a home puts into memory with mirrors and dirty-log bits (13 R305-R312, R316, R324-R326; 22 R427; 23 R434). -/
namespace Sys2Proof.Machine

/-! ## Tiers and homes (10 R250, 13 R305) -/

/-- The home of a frame: hub, place index, and frame number in its place. -/
structure Home where
  hub   : Nat
  place : Nat
  frame : Nat
  deriving DecidableEq, Repr

/-- The space of a physical address: 0 HBM, 1 LPD6, 2 pool, 3 registers. -/
def spaceOf (pa : Nat) : Nat := fld pa 55 54

/-- 13 R305. Space 3 has no home; the answer for it is not used. -/
def homeOf (pa : Nat) : Home :=
  match spaceOf pa with
  | 0 => ⟨fld pa 53 52, fld pa 51 49, fld pa 35 12⟩
  | 1 => ⟨fld pa 53 52, 8, fld pa 38 12⟩
  | _ => ⟨fld pa 13 12, 9, fld pa 47 14⟩

/-- The tier of a physical address: 0 HBM, 1 LPD6, 2 pool. -/
def tierOf (pa : Nat) : Nat := spaceOf pa

/-- 10 R250, R251: the zero bits of each space, the pool's size, and no space 3 for a device access. -/
def paLegal (pa : Nat) : Bool :=
  match spaceOf pa with
  | 0 => fld pa 48 36 == 0
  | 1 => fld pa 51 39 == 0
  | 2 => fld pa 53 48 == 0 && decide (fld pa 47 0 < Config.poolBytes)
  | _ => false

/-- The 4 KiB frames of a page by its SIZE (10 R254). -/
def framesOf (size : Nat) : Nat := [1, 16, 512, 262144].getD size 1

/-- The bytes of a page by its SIZE. -/
def pageBytes (size : Nat) : Nat := framesOf size * 4096

/-! ## The pool: owners and links (23 R433-R435, 21 R414, R457) -/

/-- MODULE_ORD of this module. -/
def moduleOrd : Nat := Config.moduleOrd.val

/-- Physical address of the owner entry of a pool frame (23 R434). -/
def ownerEntryPa (s : State) (pa : Nat) : Nat := 2 * 2 ^ 54 + fld s.poolOwt.toNat 47 12 * 4096 + 8 * fld pa 47 12

/-- The owner entry: with POOL_OWT.EN = 0 every frame is OWNED by this module (23 R433). -/
def ownerEntry (s : State) (pa : Nat) : Nat :=
  if bit s.poolOwt.toNat 0 then s.peek (ownerEntryPa s pa) 8 else moduleOrd <<< 8

/-- STATE of an owner entry: 0 OWNED, 1 HANDOVER, 2 SHARED_RO. -/
def entryState (e : Nat) : Nat := fld e 1 0
/-- OWNER of an owner entry. -/
def entryOwner (e : Nat) : Nat := fld e 10 8
/-- STATE 3 or a nonzero reserved bit (23 R434). -/
def entryBad (e : Nat) : Bool := fld e 31 19 != 0 || fld e 15 11 != 0 || fld e 7 2 != 0 || entryState e == 3

/-- The MODULE_ORD of the module that is home to an address: this module's for HBM and LPD6. -/
def homeModule (s : State) (pa : Nat) : Nat := if spaceOf pa == 2 then entryOwner (ownerEntry s pa) else moduleOrd

/-- This module is home to an address. -/
def homeHere (s : State) (pa : Nat) : Bool := spaceOf pa != 2 || entryOwner (ownerEntry s pa) == moduleOrd

/-- A pool frame that every module may only read (23 R436). -/
def sharedRo (s : State) (pa : Nat) : Bool := spaceOf pa == 2 && entryState (ownerEntry s pa) == 2

/-- Whether a module can be reached: itself, or a peer over an up link. -/
def reachable (s : State) (k : Nat) : Bool := k == moduleOrd || s.peersUp.getD k false

/-- An access to this frame cannot reach its home (21 R457). -/
def poolLost (s : State) (pa : Nat) : Bool :=
  spaceOf pa == 2 &&
    (!((s.hub (fld pa 13 12)).portsUp.getD (fld pa 14 14) true) || !reachable s (homeModule s pa))

/-- One uncorrectable error counted at a hub (17 R374). -/
def State.hubError (s : State) (h unit pa : Nat) : State :=
  let s := s.updHub h fun x =>
    let ue := min (fld x.errstat.toNat 63 48 + 1) 65535
    { x with errstat := setBits (setBits (setBits x.errstat 63 48 ue) 15 8 unit) 0 0 1, erraddr := BitVec.ofNat 64 pa }
  { s with irqs := .errorHub h :: s.irqs }

/-- One uncorrectable error counted at a die (17 R374). -/
def State.dieError (s : State) (d unit pa : Nat) : State :=
  let s := s.updDie d fun x =>
    let ue := min (fld x.errstat.toNat 63 48 + 1) 65535
    { x with errstat := setBits (setBits (setBits x.errstat 63 48 ue) 15 8 unit) 0 0 1, erraddr := BitVec.ofNat 64 pa }
  { s with irqs := .errorDie d :: s.irqs }

/-- The error that an access answered with poison counts (21 R457). -/
def State.lostError (s : State) (pa : Nat) : State := s.hubError (fld pa 13 12) 12 pa

/-- The structure of an error of a line of memory: its tier's (17 R374). -/
def memUnit (pa : Nat) : Nat := match spaceOf pa with | 0 => 8 | 1 => 9 | _ => 12

/-- An uncorrectable error counted where it stands. A vault's lies at the hub of the image's number modulo 4 (DESIGN CHOICE, log entry 81). -/
def State.countError (s : State) (p : ErrPlace) : State :=
  match p with
  | .memory line => s.hubError (homeOf (64 * line)).hub (memUnit (64 * line)) (64 * line)
  | .l2 d line => s.dieError d 4 (64 * line)
  | .l1 c line => s.dieError (dieOfCore c) 2 (64 * line)
  | .scratch b _ => match s.block? b with | some x => s.dieError (dieOfCore x.core) 3 0 | none => s
  | .vault i _ => s.hubError (i % 4) 10 0

/-- A read meets the unread errors that satisfy a test: each is counted once, at that moment (17 R374, 19 R402). -/
def State.findErrors (s : State) (p : ErrPlace → Bool) : State :=
  if s.latent.isEmpty then s
  else
    ({ s with latent := s.latent.filter fun x => !p x } : State).forEach (s.latent.filter p) fun x s => s.countError x

/-! ## Frame states (13 R307, R308) -/

/-- A frame state entry of 16 bytes as the hub uses it. -/
def frameOfBits (ppn e : Nat) : FrameState :=
  { ppn := ppn, size := fld e 121 120, multi := bit e 119
    lvalid := bit e 118 && fld e 127 122 == 0 && fld e 117 117 == 0 && fld e 54 50 == 0 && fld e 31 16 == 0
    leafPa := fld e 116 64 * 8, oasid := fld e 63 55, base := fld e 47 32, raw := fld e 15 0, frozen := bit e 49
    moving := bit e 48 }

/-- The entry of a frame: cached, or read from the table; none when the place has no table. -/
def State.frame? (s : State) (ppn : Nat) : Option FrameState :=
  let h := homeOf (ppn * 4096)
  let hub := s.hub h.hub
  let r := (hub.fst.getD h.place 0).toNat
  if bit r 0 then
    match hub.frames.find? fun f => f.ppn == ppn with
    | some f => some f
    | none => some (frameOfBits ppn (s.peek (fld r 55 12 * 4096 + 16 * h.frame) 16))
  else none

/-- The hub's copy of an entry replaced. -/
def State.setFrame (s : State) (f : FrameState) : State :=
  s.updHub (homeOf (f.ppn * 4096)).hub fun h => { h with frames := f :: h.frames.filter fun g => g.ppn != f.ppn }

/-- The entry of a frame changed, where it has one. -/
def State.updFrame (s : State) (ppn : Nat) (g : FrameState → FrameState) : State :=
  match s.frame? ppn with
  | some f => s.setFrame (g f)
  | none => s

/-- The driver's fields of a cached entry read again from memory: RELOAD (13 R308). -/
def State.reloadFrame (s : State) (ppn : Nat) : State :=
  let h := homeOf (ppn * 4096)
  let r := ((s.hub h.hub).fst.getD h.place 0).toNat
  let new := frameOfBits ppn (s.peek (fld r 55 12 * 4096 + 16 * h.frame) 16)
  s.updFrame ppn fun f => { new with raw := f.raw, frozen := f.frozen, moving := f.moving }

/-! ## Pins (13 R328) -/

/-- The pin counts of a frame. -/
def State.pin (s : State) (ppn : Nat) : PinEntry :=
  (((s.hub (homeOf (ppn * 4096)).hub).pins.find? fun p => p.ppn == ppn)).getD ⟨ppn, 0, 0, 0⟩

/-- The classes that hold pins, as MQRY codes them (12 R296). -/
def PinEntry.cls (p : PinEntry) : Nat := b2n (p.device != 0) + 2 * b2n (p.host != 0) + 4 * b2n (p.driver != 0)

/-- The pin counts of a frame replaced; an entry with all counts 0 is freed. -/
def State.setPin (s : State) (p : PinEntry) : State :=
  s.updHub (homeOf (p.ppn * 4096)).hub fun h =>
    let rest := h.pins.filter fun q => q.ppn != p.ppn
    { h with pins := if p.cls == 0 then rest else p :: rest }

/-! ## Moves that cover a frame (13 R315-R319) -/

/-- A page of a size from a frame covers a frame. -/
def covers (src size ppn : Nat) : Bool := decide (src ≤ ppn) && decide (ppn < src + framesOf size)

/-- The move under way of the page that holds a frame, from its start until its source is released. -/
def State.moveOf? (s : State) (ppn : Nat) : Option Move :=
  s.moves.find? fun m => m.phase != .queued && covers m.src m.size ppn

/-- The move of a page whose Cuff is open, or has closed with requests left, by an address of the source or of the destination frame. -/
def State.cuff? (s : State) (pa : Nat) : Option Move :=
  s.moves.find? fun m => (m.phase == .cuff || !m.held.isEmpty)
    && (covers m.src m.size (pa / 4096) || m.phase == .installed && m.dest.any fun d => covers d m.size (pa / 4096))

/-- A line as the requests of a move's Cuff name it: by its source line. -/
def Move.srcLine (m : Move) (line : Nat) : Nat :=
  match m.dest with
  | some d => if m.phase == .installed && covers d m.size (line / 64) then line + m.src * 64 - d * 64 else line
  | none => line

/-- Two requests of a Cuff that go together: of lanes of one instruction, which issue as one cohort (11 R275). -/
def State.sameIssue (s : State) (a b : HeldBy) : Bool :=
  a == b || match a, b with
    | .thread x, .thread y =>
      x.wave == y.wave && match (s.thread? x).bind (·.inst), (s.thread? y).bind (·.inst) with
        | some i, some j => i.id == j.id
        | _, _ => false
    | _, _ => false

/-- A requester's turn: its request is at the head of the queue of a Cuff that has closed, or goes with the one there. -/
def State.cuffTurn (s : State) (m : Move) (b : HeldBy) : Bool :=
  m.phase != .cuff && (m.held.takeWhile fun q => m.held.head?.any fun h => s.sameIssue h.by_ q.by_).any fun q => q.by_ == b

/-- A request waits in the Cuff: a write, or what comes after a held request of its line, in arrival order (13 R317, R320). -/
def State.mustQueue (s : State) (m : Move) (b : HeldBy) (line : Nat) (write : Bool) : Bool :=
  let mine := m.held.any fun q => q.by_ == b
  if m.phase == .cuff then write || mine || m.held.any fun q => q.line == line && q.write
  else !s.cuffTurn m b && (mine || m.held.any fun q => q.line == line)

/-- A request put at the end of a Cuff's queue; a requester that asks again stands there once. -/
def State.joinCuff (s : State) (m : Move) (b : HeldBy) (line : Nat) (write : Bool) : State :=
  if m.held.any fun q => q.by_ == b then s
  else s.updMove m.id fun m => { m with held := m.held ++ [⟨b, line, write, s.clock⟩] }

/-- Where a request with a physical address goes: through a forwarding entry (13 R317). -/
def State.route (s : State) (pa : Nat) : Nat :=
  match s.forwards.find? fun f => covers f.src f.size (pa / 4096) with
  | some f => pa + f.dest * 4096 - f.src * 4096
  | none => pa

/-! ## Counters and triggers (13 R309-R312, 14 R329) -/

/-- Saturating 16-bit increment by n. -/
def satAdd16 (a n : Nat) : Nat := min (a + n) 65535

/-- The threshold of a frame's place; 0 disables, and HBM has none (13 R311). -/
def thresholdOf (s : State) (pa : Nat) : Nat :=
  let c := (s.hub (homeOf pa).hub).migctl.toNat
  match tierOf pa with
  | 1 => fld c 31 16
  | 2 => fld c 47 32
  | _ => 0

/-- The tier that a trigger of a frame moves it to, if one lies above (13 R312). -/
def triggerTier (pa taff : Nat) : Option Nat :=
  match tierOf pa, taff with
  | 1, 0 => some 0
  | 1, 1 => some 0
  | 2, 0 => some 0
  | 2, 1 => some 0
  | 2, 2 => some 1
  | _, _ => none

/-- Whether a frame triggers now: the conditions of 13 R312 beside the count. -/
def triggerOk (s : State) (f : FrameState) : Bool :=
  let pa := f.ppn * 4096
  let thr := thresholdOf s pa
  bit (s.hub (homeOf pa).hub).migctl.toNat 0 && thr != 0 && decide (thr ≤ f.raw)
    && f.size == 0 && f.lvalid && !f.multi && (s.pin f.ppn).cls == 0 && !f.moving
    && (triggerTier pa (fld (s.peek f.leafPa 8) 61 60)).isSome

/-- A queued move of a page. -/
def newMove (id hub src size tier destHub : Nat) (destStk : Option Nat) (auto : Bool) (behind : Option Nat)
    (tenant : Nat) : Move :=
  { id, hub, src, size, tier, destHub, destStk, dest := none, auto, phase := .queued, copied := 0, retryAt := 0,
    held := [], heldCnt := 0, behind, tenant }

/-- The last move of a page that is queued or under way: the page's own, or the end of those queued behind it. -/
def State.lastBehind (s : State) (m : Move) : (fuel : Nat) → Move
  | 0 => m
  | fuel + 1 =>
    match s.moves.find? fun x => x.behind == some m.id with
    | some x => State.lastBehind s x fuel
    | none => m

/-- The frame freezes and its move is queued, behind a requested one that is queued already unless that goes to the same place (13 R312,
R320). `die` is the compute die of the access, none for other agents. -/
def trigger (s : State) (f : FrameState) (die : Option Nat) : State :=
  let pa := f.ppn * 4096
  let tier := (triggerTier pa (fld (s.peek f.leafPa 8) 61 60)).getD 0
  let hub := (homeOf pa).hub
  let dest := (die.map hubOfDie).getD hub
  let s := s.setFrame { f with frozen := true }
  let last := (s.moves.find? fun m => m.behind.isNone && covers m.src m.size f.ppn).map fun m => s.lastBehind m s.moves.length
  if last.any fun m => m.tier == tier && m.destHub == dest && m.destStk.isNone then s
  else
    let (id, s) := s.newId
    { s with moves := s.moves ++ [newMove id hub f.ppn 0 tier dest none true (last.map (·.id)) noTenant] }

/-- One counted request at a frame's home (13 R309, R315, 14 R329). `die` is the compute die of the access. -/
def countAt (die : Option Nat) (pa : Nat) (s : State) : State :=
  if !homeHere s pa then s
  else
    let ppn := pa / 4096
    match s.moveOf? ppn with
    | some m =>
      match m.dest with
      | some d => s.updFrame (d + ppn - m.src) fun f => { f with raw := satAdd16 f.raw 1 }
      | none => s
    | none =>
      match s.frame? ppn with
      | none => s
      | some f =>
        if f.frozen then
          match s.moves.find? fun m => m.phase == .queued && m.behind.isNone && covers m.src m.size ppn with
          | some m => s.updMove m.id fun m => { m with heldCnt := satAdd16 m.heldCnt 1 }
          | none => s
        else
          let f := { f with raw := satAdd16 f.raw 1 }
          let s := s.setFrame f
          if triggerOk s f then trigger s f die else s

/-! ## Directories (13 R324-R326) -/

/-- A holder's bit set or cleared in an entry. -/
def DirEntry.setBit (e : DirEntry) (x : Holder) (b : Bool) : DirEntry :=
  match x with
  | .die d => { e with dies := if b then e.dies ||| (1#8 <<< d.val) else e.dies &&& ~~~(1#8 <<< d.val) }
  | .cpu => { e with cpu := b }
  | .peer k => { e with peers := if b then e.peers ||| (1#8 <<< k.val) else e.peers &&& ~~~(1#8 <<< k.val) }

/-- Whether a holder's bit is set. -/
def DirEntry.holds (e : DirEntry) (x : Holder) : Bool :=
  match x with
  | .die d => e.dies.getLsbD d.val
  | .cpu => e.cpu
  | .peer k => e.peers.getLsbD k.val

/-- The directory entry of a line; none is state I. -/
def State.dirEntry? (s : State) (line : Nat) : Option DirEntry := s.dir.find? fun e => e.line == line

/-- An entry replaced or removed; a lock of a die that holds the line no more is gone (10 R248). -/
def State.setDir (s : State) (line : Nat) (e : Option DirEntry) : State :=
  let rest := s.dir.filter fun x => x.line != line
  { s with
    dir := match e with | some e => e :: rest | none => rest
    locks := s.locks.filter fun k => k.core.isSome || k.line != line || e.any fun e => e.dies.getLsbD k.die }

/-- L1 copies dropped, with their locks (10 R248). -/
def State.unL1 (s : State) (gone : (core line : Nat) → Bool) : State :=
  { s with
    l1 := s.l1.filter fun (c, l) => !gone c l
    locks := s.locks.filter fun k => !k.core.any fun c => gone c k.line }

/-- No holder's bit is set. -/
def DirEntry.empty (e : DirEntry) : Bool := e.dies == 0 && !e.cpu && e.peers == 0

/-- An entry with one holder alone. -/
def DirEntry.sole (line : Nat) (st : DirState) (x : Holder) : DirEntry :=
  DirEntry.setBit { line, state := st, owner := some x, dies := 0, cpu := false, peers := 0 } x true

/-- The state of a line after a read by X (13 R325); a line of a page that may only be read is cached in S (23 R436). -/
def dirRead (ro : Bool) (x : Holder) (line : Nat) (e : Option DirEntry) : DirEntry :=
  match e with
  | none => if ro then { DirEntry.sole line .s x with owner := none } else .sole line .e x
  | some e =>
    if e.holds x then e
    else
      match e.state with
      | .s => e.setBit x true
      | .e => { e.setBit x true with state := .s, owner := none }
      | .m => { e.setBit x true with state := .o }
      | .o => e.setBit x true

/-- The state of a line after X drops it (13 R325). -/
def dirDrop (x : Holder) (e : DirEntry) : Option DirEntry :=
  if e.holds x then
    let e' := e.setBit x false
    if e'.empty then none
    else if e.owner == some x then some { e' with state := .s, owner := none }
    else some e'
  else some e

/-- The L1 copies of a line on a die invalidated but for one core's (13 R326). -/
def State.dropL1 (s : State) (die line : Nat) (keep : Option Nat) : State :=
  s.unL1 fun c l => l == line && dieOfCore c == die && some c != keep

/-- Every cached copy of a line recalled: the line is in I (13 R325, last row). Dirty data is in memory already. -/
def State.recall (s : State) (line : Nat) : State := (s.setDir line none).unL1 fun _ l => l == line

/-- The compute die of a holder. -/
def holderDie (x : Holder) : Option Nat :=
  match x with
  | .die d => some d.val
  | _ => none

/-- A holder drops a line; an L2 first invalidates its L1 copies (13 R325, R326). -/
def State.dropHolder (s : State) (x : Holder) (line : Nat) : State :=
  let s := match holderDie x with | some d => s.dropL1 d line none | none => s
  match s.dirEntry? line with
  | some e => s.setDir line (dirDrop x e)
  | none => s

/-! ## Capacities (10 R246, R248; 13 R324) -/

/-- The die L2 slice of a line (10 R246). -/
def sliceOf (line : Nat) : Nat := fld (64 * line) 11 9 ^^^ fld (64 * line) 23 21

/-- One of several lines, which one is free. -/
def State.victim (s : State) (l : List Nat) : Option Nat × State := (l[Config.choice s.free % l.length]?, { s with free := s.free + 1 })

/-- Room for a line in the 16 ways of its directory set: another entry of the set is displaced, which recalls its line (13 R324, R325). -/
def State.dirRoom (s : State) (line : Nat) : State :=
  if decide (s.dir.length < 16) || (s.dirEntry? line).isSome then s
  else
    let hub := (homeOf (64 * line)).hub
    let set_ := s.dir.filter fun e => (homeOf (64 * e.line)).hub == hub && Config.dirSet e.line == Config.dirSet line
    if set_.length < 16 then s
    else match s.victim (set_.map (·.line)) with | (some v, s) => s.recall v | (none, s) => s

/-- A line of a die's L2 or of a core's L1 that is locked (10 R248). -/
def State.isLocked (s : State) (die : Nat) (core : Option Nat) (line : Nat) : Bool :=
  s.locks.any fun k => k.die == die && k.core == core && k.line == line

/-- Room for a line in its 16 MiB slice of a die's L2: a line that is not locked is dropped; none where every line is locked. -/
def State.l2Room (s : State) (die line : Nat) : Option State :=
  if s.dir.length < 262144 then some s
  else
    let here := s.dir.filter fun e => e.dies.getLsbD die && sliceOf e.line == sliceOf line
    if here.length < 262144 then some s
    else match s.victim ((here.filter fun e => !s.isLocked die none e.line).map (·.line)) with
      | (some v, s) => some (s.dropHolder (.die (Fin.ofNat 8 die)) v)
      | (none, _) => none

/-- Room for a line that a holder is to hold; none where it cannot keep it. -/
def State.room (s : State) (x : Holder) (line : Nat) : Option State :=
  if (s.dirEntry? line).any fun e => e.holds x then some s
  else (match holderDie x with | some d => s.l2Room d line | none => some s).map fun (y : State) => y.dirRoom line

/-- A line put into a core's L1 of 4,096 lines, where one that is not locked makes room. -/
def State.fillL1 (s : State) (core line : Nat) : State :=
  if s.l1.contains (core, line) then s
  else if s.l1.length < 4096 then { s with l1 := (core, line) :: s.l1 }
  else
    let here := s.l1.filter fun p => p.1 == core
    if here.length < 4096 then { s with l1 := (core, line) :: s.l1 }
    else match s.victim ((here.filter fun p => !s.isLocked (dieOfCore core) (some core) p.2).map Prod.snd) with
      | (some v, s) =>
        let s := s.unL1 fun c l => c == core && l == v
        { s with l1 := (core, line) :: s.l1 }
      | (none, s) => s

/-- A line locked by a leaf with HOME 01 in a die's L2, or with HOME 10 in a core's L1, within 32 MiB and 128 KiB of locked lines (10 R248). -/
def State.lockLine (s : State) (die : Nat) (core : Option Nat) (leaf asid line : Nat) : State :=
  let at_ : Option (Option Nat × Nat) :=
    match fld leaf 59 58, core with
    | 1, _ => some (none, 524288)
    | 2, some c => some (some c, 2048)
    | _, _ => none
  match at_ with
  | none => s
  | some (c, most) =>
    let held := match c with
      | none => (s.dirEntry? line).any fun e => e.dies.getLsbD die
      | some c => s.l1.contains (c, line)
    if held && !s.isLocked die c line && decide ((s.locks.filter fun k => k.die == die && k.core == c).length < most) then
      { s with locks := ⟨die, c, line, asid, fld leaf 55 12⟩ :: s.locks }
    else s

/-- A read request of X at the home (13 R325). -/
def State.homeRead (s : State) (x : Holder) (line : Nat) : State :=
  match s.room x line with
  | some s => s.setDir line (some (dirRead (sharedRo s (64 * line)) x line (s.dirEntry? line)))
  | none => s

/-- A grant of ownership to X: every other holder is invalidated (13 R325). -/
def State.homeOwn (s : State) (x : Holder) (line : Nat) : State :=
  match s.room x line with
  | some s => (s.setDir line (some (.sole line .m x))).unL1 fun c l => l == line && x != .die (Fin.ofNat 8 (dieOfCore c))
  | none => s.recall line

/-! ## Bytes put into memory -/

/-- The index of a frame's bit in a dirty log (22 R427). -/
def dirtyIndex (pa : Nat) : Nat :=
  match spaceOf pa with
  | 0 => fld pa 53 49 * 2 ^ 24 + fld pa 35 12
  | 1 => 2 ^ 29 + fld pa 53 52 * 2 ^ 27 + fld pa 38 12
  | _ => 2 ^ 30 + fld pa 47 12

/-- The frame's bit set in a tenant's dirty log, where the log is on and covers it. -/
def State.markDirty (s : State) (tenant pa : Nat) : State :=
  let r := (s.tenant tenant).dirty.toNat
  if bit r 0 && !(spaceOf pa == 2 && decide (2 ^ fld r 63 56 ≤ fld pa 47 12)) then
    let i := dirtyIndex pa
    let a := fld r 55 21 * 2 ^ 21 + i / 8
    s.poke a [s.mem.read a ||| (1#8 <<< (i % 8))]
  else s

/-- The frame's bit set in every dirty log that is on: move copies, mirrors and copy-on-write copies (22 R427). -/
def State.markDirtyAll (s : State) (pa : Nat) : State := s.forEach (List.range 64) fun t s => s.markDirty t pa

/-- The destination address of a write's mirror: the page is in its copy phase or Cuff and the line has been copied
(13 R316). -/
def State.mirror? (s : State) (pa : Nat) : Option Nat :=
  (s.moves.find? fun m => (m.phase == .copying || m.phase == .cuff) && covers m.src m.size (pa / 4096)
      && decide (lineOf pa - m.src * 64 < m.copied)).bind fun m => m.dest.map fun d => pa + d * 4096 - m.src * 4096

/-- A write ends the reservations that harts hold on its line. -/
def State.loseResv (s : State) (line : Nat) : State :=
  if s.harts.any fun h => h.resv == some line then
    { s with harts := s.harts.map fun h => if h.resv == some line then { h with resv := none } else h }
  else s

/-- Bytes within one line written at a home: memory, the mirror of a moving page, the tenant's dirty log (13 R316, 22
R427). A pool line that cannot be reached is not written, and the error is counted (21 R457). -/
def State.put (s : State) (tenant : Nat) (pa : Nat) (bs : List Byte) : State :=
  if poolLost s pa then s.lostError pa
  else
    let s := ((s.poke pa bs).loseResv (lineOf pa)).markDirty tenant pa
    match s.mirror? pa with
    | some d => if poolLost s d then s.lostError d else (s.poke d bs).markDirtyAll d
    | none => s

/-- A line's poison and that of its copy in a move (13 R316, 17 R375). -/
def State.setBad (s : State) (pa : Nat) (b : Bool) : State :=
  let s := match s.mirror? pa with | some d => if poolLost s d then s else s.setPoison (lineOf d) b | none => s
  if poolLost s pa then s else s.setPoison (lineOf pa) b

/-- A whole line written by an engine: its poison is cleared, at the mirror too (17 R375). -/
def State.putLine (s : State) (tenant : Nat) (pa : Nat) (bs : List Byte) : State :=
  if poolLost s pa then s.lostError pa else (s.setBad pa false).put tenant pa bs

/-- n bytes are read at a home: an error that nothing has read yet is counted, and a copied line of a moving page is bad at its copy too. -/
def State.noteRead (s : State) (pa n : Nat) : State :=
  if s.latent.isEmpty then s
  else
    let here := fun (p : ErrPlace) => p.line?.any fun l => (linesOf pa n).contains l
    (s.forEach (s.latent.filter here) fun p s => match p.line? with | some l => s.setBad (64 * l) true | none => s).findErrors here

/-- One line copied with its poison to another frame (13 R316, 17 R375); a line that cannot be delivered leaves its copy poisoned, and a
copy that cannot be reached is not written (21 R457). -/
def State.copyLine (s : State) (src dst : Nat) : State :=
  if poolLost s dst then s.lostError dst
  else if poolLost s src then ((s.lostError src).setPoison (lineOf dst) true).markDirtyAll dst
  else
    let s := s.noteRead src 64
    let s := s.poke dst (s.mem.readBytes src 64)
    (s.setPoison (lineOf dst) (s.poison.contains (lineOf src))).markDirtyAll dst

/-- The atomic update of a page-table entry at its home (10 R256): cached copies are recalled. It is made at once even while a Cuff holds the
writes of a page that holds tables (DESIGN CHOICE, log entry 22). -/
def State.putPte (s : State) (tenant pa e : Nat) : State := (s.recall (lineOf pa)).put tenant pa (natBytes 8 e)

/-! ## Writes of hubs, the pool and bus agents, and the queue of a Cuff -/

/-- Bytes inside one line written at a home: cached copies are recalled first (13 R325). A whole line clears its poison (17 R375). -/
def State.putNow (s : State) (tenant pa : Nat) (count : Bool) (bs : List Byte) : State :=
  let pa := s.route pa
  let s := if count && !poolLost s pa then countAt none pa s else s
  let s := s.recall (lineOf pa)
  if bs.length == 64 then s.putLine tenant pa bs else s.put tenant pa bs

/-- A directory request of a holder served at a line's home (13 R309, R325): 0 read, 1 ownership, 2 an operation executed there. Of a page
that may only be read no ownership is given (23 R436). -/
def State.serveHolder (s : State) (x : Holder) (kind line : Nat) : State :=
  let pa := s.route (64 * line)
  if !paLegal pa || poolLost s pa || !homeHere s pa || kind == 1 && sharedRo s pa then s
  else
    let s := countAt (holderDie x) pa s
    match kind with
    | 0 => s.homeRead x (lineOf pa)
    | 1 => s.homeOwn x (lineOf pa)
    | _ => s.recall (lineOf pa)

/-- The requests at the head of a closed Cuff that carry all they need, performed in arrival order (13 R317 step 5, R318). -/
def State.drainCuff (s : State) (id : Nat) : (fuel : Nat) → State
  | 0 => s
  | fuel + 1 =>
    match s.move? id with
    | none => s
    | some m =>
      if m.phase == .cuff then s
      else
        match m.held with
        | ⟨.data t pa c bs, _, _, _⟩ :: rest => State.drainCuff ((s.updMove id fun m => { m with held := rest }).putNow t pa c bs) id fuel
        | ⟨.request x k, line, _, _⟩ :: rest =>
          State.drainCuff ((s.updMove id fun m => { m with held := rest }).serveHolder x k line) id fuel
        | _ => s

/-- Every Cuff that has closed drained. -/
def State.drainCuffs (s : State) : State :=
  if s.moves.all fun m => m.held.isEmpty then s else s.forEach s.moves fun m s => s.drainCuff m.id m.held.length

/-- A request performed: its requester leaves the queues of Cuffs that have closed. -/
def State.leaveCuffs (s : State) (b : HeldBy) (pa : Nat) (write : Bool) : State :=
  if s.moves.all fun m => m.held.isEmpty then s
  else
    ({ s with moves := s.moves.map fun m =>
        if m.phase == .cuff then m else { m with held := m.held.filter fun q => !(q.by_ == b && q.write == write && q.line == m.srcLine (lineOf pa)) } } : State).drainCuffs

/-- A run of bytes inside one line written by a hub, the pool or a bus agent. A Cuff holds it; copies of the line go, so that every read comes
after it (13 R317). -/
def State.putHome (s : State) (tenant pa : Nat) (count : Bool) (bs : List Byte) : State :=
  match s.cuff? pa with
  | none => s.putNow tenant pa count bs
  | some m =>
    let line := m.srcLine (lineOf pa)
    let b : HeldBy := .data tenant pa count bs
    if s.mustQueue m b line true then
      (s.updMove m.id fun m => { m with held := m.held ++ [⟨b, line, true, s.clock⟩] }).recall (lineOf pa)
    else s.putNow tenant pa count bs

/-- One write of a Cuff's queue over n bytes from an address. -/
def HeldReq.over (s : State) (pa : Nat) (q : HeldReq) (v : List Byte) : List Byte :=
  match q.by_ with
  | .data _ a _ bs => v.mapIdx fun i x => if s.route a ≤ pa + i then bs.getD (pa + i - s.route a) x else x
  | _ => v

/-- n bytes as a hub or the pool reads them: its own writes that a Cuff holds come first. -/
def State.peekDev (s : State) (pa n : Nat) : Nat :=
  if s.moves.all fun m => m.held.isEmpty then s.peek pa n
  else leNat ((s.moves.flatMap (·.held)).foldl (fun v q => q.over s pa v) (s.mem.readBytes pa n))

end Sys2Proof.Machine
end

