-- ==== Sys2Proof/Machine/Walk.lean ====
section
/-! DEFINITION. Page tables: virtual addresses, the walk, the leaf checks and the A and D bits; who makes an access; shootdowns; fault
entries; and a hub's own look-ups (10 R241, R251-R261; 15 R346; 17 R366). -/
namespace Sys2Proof.Machine

/-! ## Virtual addresses (01 R22, 10 R241) -/

/-- First address of the cluster window. -/
def clusterBase : Nat := 0x0FC0000000000000
/-- First address of the scratchpad window. -/
def scratchBase : Nat := 0x0FE0000000000000
/-- Bits [63:60] are all zero (01 R22). -/
def canonical (va : Nat) : Bool := decide (va < 2 ^ 60)
/-- An address of the cluster window or the scratchpad window. -/
def inWindow (va : Nat) : Bool := decide (clusterBase ≤ va) && canonical va

/-! ## The walk (10 R252-R255) -/

/-- A leaf: the entry, its physical address, its size, and the first address of its page. -/
structure Leaf where
  pte   : Nat
  ptePa : Nat
  size  : Nat
  page  : Nat
  deriving DecidableEq, Repr

/-- Where a walk ends. -/
inductive Walk where
  | absent | malformed
  | poison (pa : Nat)
  | leaf (l : Leaf)
  deriving DecidableEq, Repr

/-- The physical page base that an entry names. -/
def ptePage (e : Nat) : Nat := fld e 55 12 * 4096

/-- An entry is a pointer: V = 1 and R = W = X = 0. -/
def pteIsPointer (e : Nat) : Bool := fld e 3 1 == 0

/-- A pointer that is not malformed, above level 0 (10 R254). -/
def pointerOk (e : Nat) : Bool := fld e 63 56 == 0 && fld e 9 4 == 0 && fld e 14 12 == 0

/-- A leaf that is not malformed (10 R254). -/
def leafOk (level e : Nat) : Bool :=
  let size := fld e 57 56
  (if level == 0 then size != 3 else level == 1 && size == 3)
    && fld e 55 12 % framesOf size == 0 && fld e 9 8 == 0 && !bit e 4
    && !(bit e 2 && bit e 7) && !(bit e 2 && !bit e 1)

/-- The walk from a table of a level (10 R252). A table outside the legal physical addresses is malformed, and an entry that
is poisoned or that the pool cannot deliver is poisoned. -/
def walk (s : State) : (levels : Nat) → (table va : Nat) → Walk
  | 0, _, _ => .malformed
  | level + 1, table, va =>
    let pa := table + 8 * fld va (12 * level + 23) (12 * level + 12)
    if !paLegal pa then .malformed
    else if s.poisoned pa 8 || poolLost s pa then .poison pa
    else
      let e := s.peek pa 8
      if !bit e 0 then .absent
      else if pteIsPointer e then
        if level == 0 || !pointerOk e then .malformed else walk s level (ptePage e) va
      else if !leafOk level e then .malformed
      else
        let size := fld e 57 56
        .leaf ⟨e, pa, size, alignDown va (pageBytes size)⟩

/-- The walk of an address under a TMC_ROOT value. -/
def walkRoot (s : State) (root va : Nat) : Walk := walk s 4 (fld root 55 15 * 2 ^ 15) va

/-- An access writes. -/
def accWrites (a : Access) : Bool :=
  match a with
  | .store => true
  | .atomic => true
  | .engineWrite => true
  | _ => false

/-- ACCESS of TRAPINFO and of a fault record (17 R366, R369). -/
def accCode (a : Access) : Nat :=
  match a with
  | .fetch => 0
  | .load => 1
  | .loadX => 1
  | .prefetch => 1
  | .engineRead => 1
  | _ => 2

/-- Access class of a tier-miss event (13 R323). -/
def accEventClass (a : Access) : Nat :=
  match a with
  | .fetch => 0
  | .load => 1
  | .loadX => 1
  | .store => 2
  | .atomic => 2
  | _ => 3

/-- What a leaf must grant (10 R255). -/
def leafGrants (a : Access) (e : Nat) : Bool :=
  let r := bit e 1
  let w := bit e 2 || bit e 7
  match a with
  | .fetch => bit e 3
  | .loadX => r || bit e 3
  | .store => w
  | .engineWrite => w
  | .atomic => r && w
  | _ => r

/-- PAGE_ABSENT, sent for replay. -/
def pageAbsent (a : Access) (va : Nat) : FInfo := { code := cPAGE_ABSENT, access := (accCode a), addr := va, replay := true }

/-- The physical address of an address in a page whose leaf entry is `e`. -/
def leafPa (e va : Nat) : Nat := ptePage e + va % pageBytes (fld e 57 56)

/-- What the leaf and the pool owner entry say of an access: its fault, if any (10 R251, R255; 23 R434, R436). -/
def leafFault (s : State) (a : Access) (e va : Nat) : Option FInfo :=
  let pa := leafPa e va
  if !leafGrants a e then some (pagePerm 0 (accCode a) va true)
  else if !paLegal pa then some (pagePerm 3 (accCode a) va true)
  else if spaceOf pa == 2 && entryBad (ownerEntry s pa) then some (pagePerm 3 (accCode a) va true)
  else if accWrites a && sharedRo s pa then some (pagePerm 0 (accCode a) va true)
  else none

/-- A walk with its checks: the leaf, or the fault. Windows and non-canonical addresses have no leaf (10 R241, R456; 01 R22). -/
def lookLeaf (s : State) (root : Nat) (a : Access) (va : Nat) : Except FInfo Leaf :=
  if !canonical va then .error (pagePerm 1 (accCode a) va false)
  else if inWindow va then .error (pagePerm 2 (accCode a) va false)
  else if !bit root 0 then .error (pageAbsent a va)
  else
    match walkRoot s root va with
    | .absent => .error (pageAbsent a va)
    | .malformed => .error (pagePerm 3 (accCode a) va true)
    | .poison _ => .error { code := cPOISON, cause := 2, access := (accCode a), addr := va }
    | .leaf l =>
      match leafFault s a l.pte va with
      | some f => .error f
      | none => .ok l

/-- The errors that a walk meets, counted: of an entry that the pool cannot deliver, or that nothing has read since it went bad (17 R374). -/
def State.noteWalk (s : State) (root va : Nat) : State :=
  match walkRoot s root va with
  | .poison pa => if poolLost s pa then s.lostError pa else s.noteRead pa 8
  | _ => s

/-- A, and D for a write that the leaf itself lets through, set in the entry (10 R256). -/
def State.touchLeaf (s : State) (tenant : Nat) (a : Access) (l : Leaf) : Leaf × State :=
  let e := setFld l.pte 5 5 1
  let e := if accWrites a && bit e 2 then setFld e 6 6 1 else e
  if e == l.pte then (l, s) else ({ l with pte := e }, s.putPte tenant l.ptePa e)

/-! ## Who makes an access -/

/-- Who makes an access: the tenant, the die whose caches and walkers serve it (8 + h for hart h), its core, the TMC_ROOT in
force, the compute die that counts and triggers name (13 R312), the task it belongs to, GRAPHID and TASK_NUM where those are not the
task's, whether executable pages are readable to it (22 R415), the level that its reads complete at: 0 any, 1 the die L2, 2 the home
(11 R265), whether it is an engine's, which leaves no cached copy, and whether its operation has counted the line (13 R309). -/
structure Who where
  tenant : Nat
  die    : Nat
  core   : Option Nat
  root   : Nat
  trigDie : Option Nat
  task   : Option Nat
  name   : Option (Nat × Nat) := none
  mxr    : Bool := false
  level  : Nat := 0
  engine : Bool := false
  quiet  : Bool := false
  deriving DecidableEq, Repr

/-- A load of an agent. -/
def Who.load (w : Who) : Access := if w.mxr then .loadX else .load

/-- The ASID of an access. -/
def Who.asid (w : Who) : Nat := fld w.root 12 4

/-- The caches that may hold a translation for an access, the nearest first (10 R258). -/
def Who.caches (w : Who) : List TlbAt :=
  if w.die < 8 then
    match w.core with
    | some c => [.core c, .cluster (engineOfCore c), .die w.die]
    | none => [.die w.die]
  else [.hart (w.die - 8)]

/-- The access context of a hub or the pool for a tenant. -/
def State.hubWho (s : State) (tenant : Nat) : Who :=
  { tenant, die := 0, core := none, root := (s.tenant tenant).root.toNat, trigDie := none, task := none }

/-! ## Shootdowns (10 R248, R258-R260; 13 R317) -/

/-- The die of a translation cache; a hart's is none of them. -/
def TlbAt.home (c : TlbAt) : Nat :=
  match c with
  | .core c => dieOfCore c
  | .cluster k => k / 8
  | .die d => d
  | .hart h => hartDie h

/-- A cached translation that placed a locked line. -/
def CacheLock.placedBy (k : CacheLock) (t : TlbEntry) : Bool := t.at_.home == k.die && t.asid == k.asid && fld t.leaf 55 12 == k.ppn

/-- Cached translations dropped: a line is unlocked when the last translation that placed it goes (10 R248). -/
def State.dropTlb (s : State) (gone : TlbEntry → Bool) : State :=
  let rest := s.tlb.filter fun t => !gone t
  { s with
    tlb := rest
    locks := if s.locks.isEmpty then []
      else s.locks.filter fun k => rest.any k.placedBy || !(s.tlb.any fun t => gone t && k.placedBy t) }

/-- Every cached translation that covers a page's frames is dropped: a shootdown of frames (13 R317). -/
def State.shootFrames (s : State) (src size : Nat) : State :=
  s.dropTlb fun t =>
    let p := fld t.leaf 55 12
    decide (p < src + framesOf size) && decide (src < p + framesOf t.size)

/-- Every cached translation of an ASID that covers an address is dropped. -/
def State.shootPage (s : State) (asid va : Nat) : State :=
  s.dropTlb fun t => t.asid == asid && alignDown va (pageBytes t.size) == t.page

/-! ## Fault entries (10 R261, 17 R366) -/

/-- The lowest free slot of a tenant's buffer at a hub. -/
def State.freeSlot (s : State) (hub tenant : Nat) : Option Nat :=
  let used := (s.faults.filter fun e => e.hub == hub && e.tenant == tenant).filterMap (·.slot)
  if decide (4096 ≤ used.length) then none else (List.range 4096).find? fun i => !used.contains i

/-- The class that joins fault entries: fetch, read, write. -/
def FInfo.joins (f : FInfo) (e : FaultEntry) : Bool := e.access == f.access && e.page == alignDown f.addr 4096

/-- A replayable fault recorded at a hub: it joins a buffered entry of the same ASID, page and class, or makes one (10
R261). The answer names the entry. -/
def State.recordFault (s : State) (hub tenant asid : Nat) (f : FInfo) (engine : Bool) : Nat × State :=
  match s.faults.find? fun e => e.hub == hub && e.tenant == tenant && e.asid == asid && f.joins e with
  | some e => (e.id, s)
  | none =>
    let (id, s) := s.newId
    let e : FaultEntry :=
      { id, hub, tenant, slot := s.freeSlot hub tenant, asid, page := alignDown f.addr 4096, access := f.access, info := f, engine
        time := s.clockOf tenant, written := false }
    (id, { s with faults := s.faults ++ [e] })

/-- An entry freed; the oldest entry of the same buffer that waits for room takes its slot (10 R261). -/
def State.freeFault (s : State) (id : Nat) : State :=
  match s.faults.find? fun e => e.id == id with
  | none => s
  | some e =>
    let rest := s.faults.filter fun x => x.id != id
    match e.slot, rest.find? fun x => x.hub == e.hub && x.tenant == e.tenant && x.slot.isNone with
    | some i, some x => { s with faults := rest.map fun y => if y.id == x.id then { y with slot := some i } else y }
    | _, _ => { s with faults := rest }

/-! ## Device accesses that wait for the fault queue -/

/-- A hub's access to a tenant's memory on behalf of an engine, the pool or a resolution: the leaf, `unresolved` when its fault
cannot be or has not been resolved, or the entry it waits on (10 R261, 15 R346). -/
inductive DevLook where
  | leaf (l : Leaf)
  | unresolved (f : FInfo)
  | wait (entry : Nat)
  deriving DecidableEq, Repr

/-- The look-up of a device access under a TMC_ROOT value; a replayable fault is recorded with ENGINE = 1. -/
def State.devLookAt (s : State) (root tenant hub : Nat) (a : Access) (va : Nat) : DevLook × State :=
  match lookLeaf s root a va with
  | .ok l =>
    let (l, s) := s.touchLeaf tenant a l
    (.leaf l, s)
  | .error f =>
    let s := if f.replay then s else s.noteWalk root va
    let key := (tenant, alignDown va 4096)
    if !f.replay then (.unresolved f, s)
    else if s.badPages.contains key then (.unresolved f, { s with badPages := s.badPages.filter (· != key) })
    else
      let (id, s) := s.recordFault hub tenant (fld root 12 4) f true
      (.wait id, s)

/-- The same under the tenant's TMC_ROOT. -/
def State.devLook (s : State) (tenant hub : Nat) (a : Access) (va : Nat) : DevLook × State :=
  s.devLookAt (s.tenant tenant).root.toNat tenant hub a va

end Sys2Proof.Machine
end

