-- ==== Sys2Proof/Machine/Frames.lean ====
section
/-! DEFINITION. Free-frame rings and the release ring, the frame states that hubs write, counted requests, and copy-on-write
resolution (13 R307-R314; 15 R344, R346). -/
namespace Sys2Proof.Machine

/-! ## Rings (13 R313, R314) -/

/-- Physical address of ring descriptor i of a hub, where the table exists. -/
def State.ringPa (s : State) (hub i : Nat) : Option Nat :=
  let r := (s.hub hub).rings.toNat
  if bit r 0 then some (fld r 55 10 * 1024 + 16 * i) else none

/-- One more malformed ring entry at a hub (13 R311, R314). -/
def State.badFrame (s : State) (hub : Nat) : State :=
  s.updHub hub fun h => { h with migctl := setBits h.migctl 63 48 (min (fld h.migctl.toNat 63 48 + 1) 65535) }

/-- A ring entry that gives a frame of a place and a size at a hub (13 R313, R314). -/
def ringEntryOk (hub place size e : Nat) : Bool :=
  let h := homeOf (fld e 55 12 * 4096)
  fld e 63 58 == 0 && fld e 11 0 == 0 && fld e 57 56 == size && h.place == place && (h.hub == hub || place == 9 && size != 0)
    && fld e 55 12 % framesOf size == 0 && paLegal (fld e 55 12 * 4096)

/-- The next good frame of one free ring, with malformed entries discarded; `fuel` bounds the entries looked at. -/
def State.takeRing (s : State) (hub place size dpa : Nat) : (fuel : Nat) → Option Nat × State
  | 0 => (none, s)
  | fuel + 1 =>
    let d := s.peek dpa 16
    let n := fld d 47 32
    let head := fld d 31 16
    if n == 0 || head == fld d 15 0 then (none, s)
    else
      let e := s.peek (fld d 127 64 + 8 * (head % n)) 8
      let s := s.poke (dpa + 2) (natBytes 2 (head + 1))
      if ringEntryOk hub place size e then (some (fld e 55 12), s) else State.takeRing (s.badFrame hub) hub place size dpa fuel

/-- A free frame of a place and size from a hub's ring. -/
def State.takeFrame (s : State) (hub place size : Nat) : Option Nat × State :=
  match s.ringPa hub (4 * place + size) with
  | none => (none, s)
  | some dpa => s.takeRing hub place size dpa 65536

/-- A free frame from the first of several places that has one. -/
def State.takeFirst (s : State) (hub size : Nat) : List Nat → Option Nat × State
  | [] => (none, s)
  | p :: ps =>
    match s.takeFrame hub p size with
    | (some f, s) => (some f, if p < 8 then s.updHub hub fun h => { h with lastStk := h.lastStk.set size p } else s)
    | (none, s) => State.takeFirst s hub size ps

/-- A destination frame for a tier at a hub: one stack, or the stacks round robin after the one used last (13 R314). -/
def State.takeDest (s : State) (hub tier size : Nat) (stk : Option Nat) : Option Nat × State :=
  match tier, stk with
  | 0, some k => s.takeFrame hub k size
  | 0, none =>
    let last := (s.hub hub).lastStk.getD size 7
    s.takeFirst hub size ((List.range 8).map fun i => (last + 1 + i) % 8)
  | 1, _ => s.takeFrame hub 8 size
  | _, _ => s.takeFrame hub 9 size

/-- A freed frame written to a hub's release ring; none when the ring is full or absent (13 R313). -/
def State.releaseFrame (s : State) (hub size ppn : Nat) : Option State :=
  match s.ringPa hub 40 with
  | none => none
  | some dpa =>
    let d := s.peek dpa 16
    let n := fld d 47 32
    let tail := fld d 15 0
    if n == 0 || (tail + 65536 - fld d 31 16) % 65536 == n then none
    else
      let s := s.poke (fld d 127 64 + 8 * (tail % n)) (natBytes 8 (ppn * 4096 + size * 2 ^ 56))
      some (s.poke dpa (natBytes 2 (tail + 1)))

/-! ## The frame state of a frame taken from a ring (13 R307, R314) -/

/-- The 16 bytes of an entry. -/
def FrameState.bits (f : FrameState) : Nat :=
  f.raw + f.base * 2 ^ 32 + b2n f.moving * 2 ^ 48 + b2n f.frozen * 2 ^ 49 + f.oasid * 2 ^ 55 + f.leafPa / 8 * 2 ^ 64
    + b2n f.lvalid * 2 ^ 118 + b2n f.multi * 2 ^ 119 + f.size * 2 ^ 120

/-- Where a frame's entry stands, if its place has a table. -/
def State.framePa? (s : State) (ppn : Nat) : Option Nat :=
  let h := homeOf (ppn * 4096)
  let r := ((s.hub h.hub).fst.getD h.place 0).toNat
  if bit r 0 then some (fld r 55 12 * 4096 + 16 * h.frame) else none

/-- The fields of an entry that a hub writes, to its copy and to the table: RAW, FROZEN and MOVING (13 R307, R308). -/
def State.writeFrame (s : State) (f : FrameState) : State :=
  match s.framePa? f.ppn with
  | none => s
  | some pa =>
    let b := setFld (setFld (s.mem.read (pa + 6)).toNat 0 0 (b2n f.moving)) 1 1 (b2n f.frozen)
    ((s.setFrame f).poke pa (natBytes 2 f.raw)).poke (pa + 6) [BitVec.ofNat 8 b]

/-- The entry of a frame that a hub maps anew, written whole. -/
def State.initFrame (s : State) (f : FrameState) : State :=
  match s.framePa? f.ppn with
  | none => s
  | some pa => (s.setFrame f).poke pa (natBytes 16 f.bits)

/-- MULTI set in a frame's entry by an agent that maps the frame once more (13 R307). -/
def State.setMulti (s : State) (ppn : Nat) : State :=
  match s.frame? ppn, s.framePa? ppn with
  | some f, some pa => (s.setFrame { f with multi := true }).poke (pa + 14) [s.mem.read (pa + 14) ||| 0x80#8]
  | _, _ => s

/-- An entry as a page's move or copy takes it to a new frame: RAW, BASE, FROZEN 0, and the driver's fields (13 R314). -/
def FrameState.atFrame (f : FrameState) (ppn : Nat) : FrameState :=
  { f with ppn := ppn, raw := 0, base := 0, frozen := false, moving := false }

/-- The entries of a page's frames initialised from the source's. -/
def State.initFrames (s : State) (src dest size : Nat) : State :=
  s.forEach (List.range (framesOf size)) fun i s =>
    match s.frame? (src + i) with
    | some f => s.initFrame (f.atFrame (dest + i))
    | none => s

/-! ## Counted requests (13 R309, 18 R400) -/

/-- A request counted at its home, and by the tenant's counters, unless it goes with one that has been. -/
def State.countReq (s : State) (w : Who) (pa : Nat) : State :=
  if w.quiet then s else (countAt w.trigDie pa s).perfHubEvent w.tenant (homeOf pa).hub 1 1

/-- The lines of n bytes counted, one request each. -/
def State.countLines (s : State) (w : Who) (pa n : Nat) : State := s.forEach (linesOf pa n) fun l s => s.countReq w (64 * l)

/-! ## Copy-on-write resolution (15 R346) -/

/-- LOG2_BUCKETS with its limit (15 R344). -/
def ddwBuckets (r : Nat) : Nat := min (fld r 11 7) 24

/-- Address of the bucket of a fingerprint. -/
def ddwBucket (r fp : Nat) : Nat := fld r 59 12 * 4096 + 256 * (fp % 2 ^ ddwBuckets r)

/-- Entry i of a bucket's 256 bytes. -/
def ddwEntry (bucket i : Nat) : Nat := fld bucket (256 * i + 255) (256 * i)
/-- VALID and no reserved bit. -/
def ddwUsable (e : Nat) : Bool := fld e 255 189 == 0 && bit e 188

/-- An entry of a bucket replaced in memory: one line written. -/
def State.putDdwEntry (s : State) (w : Who) (pa i e : Nat) : State :=
  (s.countReq w (s.route (pa + 32 * i))).putHome w.tenant (pa + 32 * i) false (natBytes 32 e)

/-- A bucket's 256 bytes read at an address: none where a line is poisoned or cannot be reached. -/
def State.readBucket (s : State) (w : Who) (pa : Nat) : Option Nat × State :=
  let pa := s.route pa
  if poolLost s pa then (none, s.lostError pa)
  else
    let s := (s.countLines w pa 256).noteRead pa 256
    (if s.poisoned pa 256 then none else some (s.peekDev pa 256), s)

/-- A page's 4 KiB copied to another frame with its poison. -/
def State.copyFrame (s : State) (src dst : Nat) : State :=
  s.forEach (List.range 64) fun i s => s.copyLine (src * 4096 + 64 * i) (dst * 4096 + 64 * i)

/-- The end of a resolution: the leaf becomes writable, and its page's translations are shot down. -/
def State.cowDone (s : State) (w : Who) (l : Leaf) (ppn : Nat) : State :=
  let e := setFld (setFld (setFld l.pte 55 12 ppn) 2 2 1) 7 7 0
  (s.putPte w.tenant l.ptePa e).shootPage w.asid l.page

/-- Every entry of a large page's group made writable (15 R346). -/
def State.cowLarge (s : State) (w : Who) (l : Leaf) : State :=
  let n := [1, 16, 512, 64].getD l.size 1
  let first := alignDown l.ptePa (8 * n)
  let s := s.forEach (List.range n) fun i s =>
    s.putPte w.tenant (first + 8 * i) (setFld (setFld (s.peek (first + 8 * i) 8) 2 2 1) 7 7 0)
  s.shootPage w.asid l.page

/-- The frame is copied to a new frame of its place, or the access waits for one. -/
def cowCopy (w : Who) (l : Leaf) : Op Unit := do
  let s ← get
  let ppn := fld l.pte 55 12
  let h := homeOf (ppn * 4096)
  match s.takeFrame h.hub h.place 0 with
  | (none, s) => set s; throw (.hold (.frames h.hub))
  | (some n, s) =>
    let s := s.copyFrame ppn n
    let s := match s.frame? ppn with
      | some f => s.initFrame { f.atFrame n with leafPa := l.ptePa, lvalid := true, multi := false }
      | none => s
    set (s.cowDone w l n)

/-- The resolution of a leaf with W = 0 and COW = 1. A frame that cannot be reached is left as it is: the write is not performed either (21
R457). -/
def cowResolve (w : Who) (l : Leaf) : Op Unit := do
  let s ← get
  let ppn := fld l.pte 55 12
  let r := (s.tenant w.tenant).ddw.toNat
  if bit l.pte 2 then pure ()
  else if l.size != 0 then set (s.cowLarge w l)
  else if !bit r 0 then set (s.cowDone w l ppn)
  else if poolLost s (ppn * 4096) then set (s.lostError (ppn * 4096))
  else
    let s := s.noteRead (ppn * 4096) 4096
    let fp := fingerprint (s.mem.readBytes (ppn * 4096) 4096)
    let va := ddwBucket r fp
    match s.devLook w.tenant (homeOf (ppn * 4096)).hub .engineRead va with
    | (.wait id, s) => set s; throw (.hold (.device id))
    | (.unresolved _, s) => set s; cowCopy w l
    | (.leaf bl, s) =>
      let pa := leafPa bl.pte va
      match s.readBucket w pa with
      | (none, s) => set s; cowCopy w l
      | (some b, s) =>
        match (List.range 8).find? fun i =>
            let e := ddwEntry b i
            ddwUsable e && fld e 127 0 == fp && fld e 171 128 == ppn with
        | none => set (s.cowDone w l ppn)
        | some i =>
          let e := ddwEntry b i
          if decide (1 < fld e 187 172) then
            set s
            cowCopy w l
            modify fun s => s.putDdwEntry w pa i (setFld e 187 172 (fld e 187 172 - 1))
          else set ((s.putDdwEntry w pa i (setFld e 188 188 0)).cowDone w l ppn)

end Sys2Proof.Machine
end

