-- ==== Sys2Proof/Machine/Translate.lean ====
section
/-! DEFINITION. Device accesses to a tenant's rings and records, the event ring, translation with its caches, and tier-miss events
(10 R256-R260; 06 R159, R160; 13 R322, R323; 15 R346). -/
namespace Sys2Proof.Machine

/-! ## Device accesses to a tenant's rings and records -/

/-- How a write of a record ends: done, not to be done (log entry 14), or it has to wait for a copy-on-write resolution (15 R346). -/
inductive DevOut where
  | done | lost | wait
  deriving DecidableEq, Repr

/-- A record of at most one line written through a tenant's translation by a hub or the pool, with no count, no fault and no
event; a page mapped copy-on-write is resolved first. -/
def State.devStore (s : State) (tenant va : Nat) (bs : List Byte) : DevOut × State :=
  let w := s.hubWho tenant
  match lookLeaf s w.root .engineWrite va with
  | .error _ => (.lost, s.noteWalk w.root va)
  | .ok l =>
    match Op.attempt (if bit l.pte 2 then pure () else cowResolve w l) s with
    | (.error _, s) => (.wait, s)
    | (.ok _, s) =>
      match lookLeaf s w.root .engineWrite va with
      | .error _ => (.lost, s)
      | .ok l =>
        let (l, s) := s.touchLeaf tenant .engineWrite l
        let pa := leafPa l.pte va
        if poolLost s (s.route pa) then (.lost, s.lostError (s.route pa)) else (.done, s.putHome tenant pa false bs)

/-- The same, for a writer that does not wait: whether the record has been written. -/
def State.devWrite (s : State) (tenant va : Nat) (bs : List Byte) : Bool × State :=
  let (o, s) := s.devStore tenant va bs
  (o == .done, s)

/-- Bytes as a hub or the pool would read them through a tenant's translation; none where they cannot be read. -/
def State.devPeek (s : State) (tenant va n : Nat) : Option Nat :=
  match lookLeaf s (s.tenant tenant).root.toNat .engineRead va with
  | .error _ => none
  | .ok l =>
    let pa := s.route (leafPa l.pte va)
    if s.poisoned pa n || poolLost s pa then none else some (s.peekDev pa n)

/-- Bytes read through a tenant's translation by a hub or the pool, with no count, no fault and no event: A is set, and errors are counted. -/
def State.devRead (s : State) (tenant va n : Nat) : Option Nat × State :=
  let root := (s.tenant tenant).root.toNat
  match lookLeaf s root .engineRead va with
  | .error _ => (none, s.noteWalk root va)
  | .ok l =>
    let (l, s) := s.touchLeaf tenant .engineRead l
    let pa := s.route (leafPa l.pte va)
    if poolLost s pa then (none, s.lostError pa)
    else
      let s := s.noteRead pa n
      (if s.poisoned pa n then none else some (s.peekDev pa n), s)

/-! ## Events (06 R159, R160; 22 R420) -/

/-- A task whose count is zero and whose event has arrived is ready (06 R150). -/
def Task.tryReady (t : Task) (clock : Nat) : Task :=
  if t.phase == .waiting && t.count == 0 && !t.evWait then { t with phase := .ready, readyAt := clock } else t

/-- A posted event fires the earliest waiting task (06 R160). -/
def State.fireEvent (s : State) (tenant code : Nat) : State :=
  match s.tasks.find? fun t => t.tenant == tenant && t.phase == .waiting && t.evWait && t.evtCode == code with
  | some t => s.updTask t.id fun t => ({ t with evWait := false } : Task).tryReady s.clock
  | none => s

/-- An event of a tenant posted, or dropped when its ring is off, full or unreachable (06 R159, 22 R420, R425), and whether it was posted. SEQ
counts the events before it, so the first has SEQ 0 (DESIGN CHOICE, log entry 82). -/
def State.tryEvent (s : State) (tenant kind addr graph num code : Nat) : Bool × State :=
  let t := s.tenant tenant
  if t.flr then (false, s)
  else
    let seq := t.evSeq
    let s := s.updTenant tenant fun t => { t with evSeq := (t.evSeq + 1) % 2 ^ 32 }
    let q := t.evq.toNat
    let size := 2 ^ (fld q 11 8 + 6)
    let tail := fld t.evqhead.toNat 63 32
    let head := fld t.evqhead.toNat 31 0
    let rec_ := addr * 2 ^ 192 + (s.clockOf tenant) * 2 ^ 128 + graph * 2 ^ 96 + num * 2 ^ 64 + (code % 65536) * 2 ^ 48
      + b2n t.evLost * 2 ^ 40 + kind * 2 ^ 32 + seq
    let (ok, s') :=
      if bit q 0 && (tail + 2 ^ 32 - head) % 2 ^ 32 != size then
        s.devWrite tenant (fld q 59 12 * 4096 + 32 * (tail % size)) (natBytes 32 rec_)
      else (false, s)
    if ok then
      let s := s'.updTenant tenant fun t =>
        { t with evqhead := setBits t.evqhead 63 32 ((tail + 1) % 2 ^ 32), evLost := false }
      (true, s.fireEvent tenant (code % 65536))
    else (false, s'.updTenant tenant fun t => { t with evLost := true })

/-- An event of a tenant posted or dropped. -/
def State.postEvent (s : State) (tenant kind addr graph num code : Nat) : State := (s.tryEvent tenant kind addr graph num code).2

/-! ## Translation with its caches (10 R257, R258; 13 R322) -/

/-- GRAPHID and TASK_NUM of a task, 0 for none. -/
def State.nameOf (s : State) (t : Option Nat) : Nat × Nat :=
  match t.bind s.task? with
  | some t => (t.graphId, t.taskNum)
  | none => (0, 0)

/-- GRAPHID and TASK_NUM of an access (13 R323). -/
def State.taskName (s : State) (w : Who) : Nat × Nat := w.name.getD (s.nameOf w.task)

/-- The tier that a leaf prefers (13 R322). -/
def preferredTier (e : Nat) : Nat := if fld e 61 60 == 0 then 0 else fld e 61 60 - 1

/-- CODE of a tier-miss event (13 R323). -/
def missCode (a : Access) (e pa : Nat) : Nat :=
  let tier := tierOf pa
  accEventClass a * 512 + (if tier == 0 then fld pa 51 49 else 0) * 64 + (if tier == 2 then 0 else fld pa 53 52) * 16
    + fld e 61 60 * 4 + tier

/-- Where a page lies for a tier miss: at its source until a move of it retires (13 R322; DEDUCED, log entry 83). -/
def State.tierPa (s : State) (pa : Nat) : Nat :=
  match s.moves.find? fun m => m.phase == .installed && m.dest.any fun d => covers d m.size (pa / 4096) with
  | some m => pa + m.src * 4096 - m.dest.getD 0 * 4096
  | none => pa

/-- The tier-miss event of a walk that fills a leaf (13 R322), and its count (18 R400). -/
def State.tierMiss (s : State) (w : Who) (a : Access) (e va : Nat) : State :=
  let pa := s.tierPa (leafPa e va)
  if bit e 62 && tierOf pa != preferredTier e then
    let (g, n) := s.taskName w
    let (posted, s) := s.tryEvent w.tenant 1 (alignDown va 4096) g n (missCode a e pa)
    if posted then s.perfHubEvent w.tenant (if w.die < 8 then hubOfDie w.die else 0) 2 1 else s
  else s

/-- The translations that a cache holds (10 R258); a hart's own is taken to be as large as a die's (log entry 12). -/
def TlbAt.capacity (c : TlbAt) : Nat :=
  match c with
  | .core _ => 64
  | .cluster _ => 2048
  | _ => 16384

/-- The cached translation that covers an address, from the nearest cache that has one. -/
def State.tlbFind (s : State) (w : Who) (va : Nat) : Option TlbEntry :=
  w.caches.findSome? fun c => s.tlb.find? fun t => t.at_ == c && t.asid == w.asid && alignDown va (pageBytes t.size) == t.page

/-- A translation put into one cache; a full cache drops one of its own, which one is free (10 R258). -/
def State.tlbFill (s : State) (t : TlbEntry) : State :=
  let rest := s.tlb.filter fun x => !(x.at_ == t.at_ && x.asid == t.asid && x.page == t.page && x.size == t.size)
  let here := rest.filter fun x => x.at_ == t.at_
  if here.length < t.at_.capacity then { s with tlb := t :: rest }
  else
    let gone := here[Config.choice s.free % here.length]?
    { s with tlb := t :: rest.filter (fun x => some x != gone), free := s.free + 1 }

/-- A leaf put into every cache of an access. -/
def State.tlbFillAll (s : State) (w : Who) (page size leaf : Nat) : State :=
  s.forEach w.caches fun c s => s.tlbFill ⟨c, w.asid, page, size, leaf⟩

/-- The walk that a missed translation takes: the caches are filled, A and D set, a tier miss reported (10 R256, R258). -/
def walkFill (w : Who) (a : Access) (va : Nat) (fresh : Bool) : Op (Nat × Nat) := do
  let s ← get
  match lookLeaf s w.root a va with
  | .error f =>
    set (s.noteWalk w.root va)
    throw (.fault f)
  | .ok l =>
    let (l, s) := s.touchLeaf w.tenant a l
    let s := s.tlbFillAll w l.page l.size l.pte
    set (if fresh then s.tierMiss w a l.pte va else s)
    pure (leafPa l.pte va, l.pte)

/-- The physical address and the leaf of an access, from the caches or by a walk. A cached leaf that does not grant the
access, or a first write through a leaf with D = 0, walks again (10 R256, R260). -/
def translate (w : Who) (a : Access) (va : Nat) : Op (Nat × Nat) := do
  let s ← get
  if !canonical va then throw (.fault (pagePerm 1 (accCode a) va false))
  if inWindow va then throw (.fault (pagePerm 2 (accCode a) va false))
  if !bit w.root 0 then throw (.fault (pageAbsent a va))
  match s.tlbFind w va with
  | some t =>
    if leafGrants a t.leaf && !(accWrites a && bit t.leaf 2 && !bit t.leaf 6) && (leafFault s a t.leaf va).isNone then
      if some t.at_ != w.caches.head? then set (s.tlbFillAll w t.page t.size t.leaf)
      pure (leafPa t.leaf va, t.leaf)
    else walkFill w a va false
  | none => walkFill w a va true

/-- The address and leaf of a write, with copy-on-write resolved (10 R255). -/
def translateWrite (w : Who) (a : Access) (va : Nat) : Op (Nat × Nat) := do
  let (pa, e) ← translate w a va
  if bit e 2 then pure (pa, e)
  else
    match lookLeaf (← get) w.root a va with
    | .error f => throw (.fault f)
    | .ok l =>
      cowResolve w l
      translate w a va

end Sys2Proof.Machine
end

