-- ==== Sys2Proof/Machine/Block.lean ====
section
/-! DEFINITION. What happens to threads, waves and blocks outside their own instructions: the end of a wait, sync words,
barriers, copy batches, exits, discards, and the ends of waves and blocks (06 R157; 07 R171-R175; 08 R213, R215; 10 R262-R264;
04 R113, R114; 15 R348; 17 R371). -/
namespace Sys2Proof.Machine

/-! ## Writing a thread's registers -/

/-- A vector register or predicate of a thread written; other operands are no part of the thread. -/
def Thread.write (t : Thread) (o : Operand) (r : Reg) : Thread :=
  match o with
  | .v n => { t with regs := t.regs.set n.val r }
  | .p n => if n.val == 7 then t
            else { t with preds := if r.val == 0 then t.preds &&& ~~~(1#7 <<< n.val) else t.preds ||| (1#7 <<< n.val) }
  | _ => t

/-- A register of a thread or of its wave written. -/
def State.writeDest (s : State) (r : ThreadRef) (o : Operand) (v : Reg) : State :=
  match o with
  | .s n => s.updWave r.wave fun w => { w with sregs := w.sregs.set n.val v }
  | o => s.updThread r fun t => t.write o v

/-- A waiting thread goes on at the instruction after its wait (06 R142), with a WATCH of the wait to be raised first (17 R364). -/
def Thread.release (t : Thread) : Thread :=
  match t.status with
  | .waiting _ next =>
    { t with status := match t.watch with | some f => .pending f | none => .run
             pc := next, turns := 0, retry := false, inst := none, redo := none, watch := none }
  | _ => t

/-- Every thread whose wait a test picks goes on; `dest` and `val` say what its wait writes. -/
def State.releaseIf (s : State) (p : ThreadRef → Wait → Option (Operand × Reg)) : State :=
  s.forEach s.threads fun (r, _, t) s =>
    match t.status with
    | .waiting w _ =>
      match p r w with
      | some (d, v) => (s.writeDest r d v).updThread r Thread.release
      | none => s
    | _ => s

/-- What a wait that writes no register answers. -/
def noDest : Operand × Reg := (.unused, Reg.zero)

/-- A code for a destination. -/
def codeReg (n : Nat) : Reg := ⟨BitVec.ofNat 32 n, .n32⟩

/-! ## FSTAT of a wave -/

/-- Conditions raised in a wave, if it still exists (08 R205). -/
def State.raise (s : State) (r : WaveRef) (fl : Flags) : State :=
  s.updWave r fun w => { w with fstat := raiseFlags w.fstat fl }

/-! ## Sync words (10 R262-R264) -/

/-- Fields of a sync word. -/
structure SyncWord where
  target : Nat
  count  : Nat
  gen    : Nat
  armed  : Bool
  ovf    : Bool
  deriving DecidableEq, Repr

def SyncWord.ofNat (x : Nat) : SyncWord := ⟨fld x 31 0, fld x 63 32, fld x 95 64, bit x 96, bit x 97⟩

/-- The record of a sync word; `top` keeps its reserved bits. -/
def SyncWord.toNat (w : SyncWord) (top : Nat) : Nat :=
  w.target + w.count * 2 ^ 32 + w.gen * 2 ^ 64 + b2n w.armed * 2 ^ 96 + b2n w.ovf * 2 ^ 97 + top * 2 ^ 98

/-- What acts on a sync word (10 R263). -/
inductive SyncAct where
  | contribute (x : Nat) | failMark | arm (t : Nat)
  deriving DecidableEq, Repr

/-- A phase ends when an armed word has its target (10 R263). -/
def SyncWord.settle (w : SyncWord) : SyncWord :=
  if w.armed && decide (w.target ≤ w.count) then
    { w with gen := (w.gen + 1) % 2 ^ 32, count := w.count - w.target, target := 0, armed := false }
  else w

/-- One indivisible step on a sync word (10 R263). -/
def SyncWord.step (w : SyncWord) (a : SyncAct) : SyncWord :=
  match a with
  | .contribute x =>
    SyncWord.settle { w with count := min (w.count + x) (2 ^ 32 - 1), ovf := w.ovf || decide (2 ^ 32 ≤ w.count + x) }
  | .failMark => SyncWord.settle { w with count := 2 ^ 32 - 1, ovf := true }
  | .arm t =>
    SyncWord.settle { w with target := min (w.target + t) (2 ^ 32 - 1), armed := true, ovf := w.ovf || decide (2 ^ 32 ≤ w.target + t) }

/-- `passed(g)` of 12 R292. -/
def SyncWord.passed (w : SyncWord) (g : Nat) : Bool :=
  let d := (w.gen + 2 ^ 32 - g) % 2 ^ 32
  decide (1 ≤ d) && decide (d ≤ 2 ^ 31)

/-- A sync word of a block. -/
def Block.sync (b : Block) (off : Nat) : SyncWord := SyncWord.ofNat (b.scratch.readNat off 16)

/-- A step on a sync word of a block that is resident, at an aligned offset inside its scratchpad; otherwise the step is
discarded (10 R264). Waits that it ends are released. -/
def State.syncStep (s : State) (blk off : Nat) (a : SyncAct) : State :=
  match s.block? blk with
  | none => s
  | some b =>
    if off % 16 != 0 || decide (b.scratchLen < off + 16) then s
    else
      let w := (b.sync off).step a
      let bytes := natBytes 16 (w.toNat (fld (b.scratch.readNat off 16) 127 98))
      let s := s.updBlock blk fun b => { b with scratch := b.scratch.writeBytes off bytes }
      s.releaseIf fun r x =>
        match x with
        | .sync o g => if o == off && (s.wave? r.wave).any (fun v => v.block == blk) && w.passed g.toNat then some noDest else none
        | _ => none

/-! ## Barriers (07 R171-R175) -/

/-- The rule of 07 R172. -/
def Barrier.settle (b : Barrier) : Barrier :=
  if decide (b.expected ≤ b.arrived) then { b with phase := b.phase + 1, arrived := b.arrived - b.expected } else b

/-- Waits at a block's barrier whose token is not its phase any more end. -/
def State.releaseBarrier (s : State) (blk idx : Nat) : State :=
  match (s.block? blk).bind fun b => b.barriers[idx]? with
  | none => s
  | some b =>
    s.releaseIf fun r x =>
      match x with
      | .barrier i tok _ => if i == idx && tok != b.phase && (s.wave? r.wave).any (fun v => v.block == blk) then some noDest else none
      | _ => none

/-- A barrier of a block replaced and its waits looked at. -/
def State.setBarrier (s : State) (blk idx : Nat) (b : Barrier) : State :=
  (s.updBlock blk fun x => { x with barriers := x.barriers.set idx b }).releaseBarrier blk idx

/-- An exit counts off EXPECTED of every barrier that no BINIT has set (07 R175). -/
def State.exitBarriers (s : State) (blk : Nat) : State :=
  match s.block? blk with
  | none => s
  | some b =>
    s.forEach (List.range b.barriers.length) fun i s =>
      match (s.block? blk).bind fun b => b.barriers[i]? with
      | some x => if x.init then s else s.setBarrier blk i (Barrier.settle { x with expected := x.expected - 1 })
      | none => s

/-- Live threads of a block. -/
def State.liveThreads (s : State) (blk : Nat) : Nat :=
  (s.blockWaves blk).foldl (fun n w => n + (w.threads.filter fun t => t.status != .exited).length) 0

/-! ## Copy batches (15 R348, R349) -/

/-- The number after a batch number. -/
def nextBatch (n : Nat) : Nat := if (n + 1) % 2 ^ 32 == 0 then 1 else (n + 1) % 2 ^ 32

/-- Batches at the front of the sealed list that have no copy left are finished in order. -/
def Thread.doneBatches (t : Thread) : Thread :=
  let front := t.sealed.takeWhile fun b => b.left == 0
  { t with sealed := t.sealed.drop front.length
           doneUpTo := ((front.getLast?).map (·.num)).getD t.doneUpTo }

/-- Sealed batches that are not finished. -/
def Thread.unfinished (t : Thread) : Nat := (t.sealed.filter fun b => b.left != 0).length

/-- The open batch sealed with the counter's value (15 R348). -/
def Thread.seal (t : Thread) : Thread :=
  Thread.doneBatches { t with sealed := t.sealed ++ [⟨t.batch, t.openLeft⟩], lastSeal := t.batch, batch := nextBatch t.batch,
                              openLeft := 0, openSize := 0 }

/-- CWAIT waits that a thread's batches satisfy end. -/
def State.releaseCwait (s : State) (r : ThreadRef) : State :=
  match s.thread? r with
  | none => s
  | some t =>
    s.releaseIf fun r' w =>
      match w with
      | .cwait n => if r' == r && decide (t.unfinished ≤ n) then some noDest else none
      | _ => none

/-- A copy of a thread's batch has completed; its first failure is recorded (15 R349). -/
def State.finishInBatch (s : State) (r : ThreadRef) (batch code : Nat) : State :=
  let s := s.updThread r fun t =>
    let t := if batch == t.batch then { t with openLeft := t.openLeft - 1 }
             else { t with sealed := t.sealed.map fun b => if b.num == batch then { b with left := b.left - 1 } else b }
    let t := if code != 1 && t.copyErr == 0 then { t with copyErr := code + (batch % 2 ^ 24) * 256 } else t
    t.doneBatches
  s.releaseCwait r

/-! ## Outstanding operations (06 R157) -/

/-- A count of a list of counts by key changed by a function; counts of zero are not kept. -/
def bump (l : List (Nat × Nat)) (k : Nat) (f : Nat → Nat) : List (Nat × Nat) :=
  let n := f (((l.find? fun p => p.1 == k).map (·.2)).getD 0)
  let rest := l.filter fun p => p.1 != k
  if n == 0 then rest else (k, n) :: rest

/-- One more operation outstanding for a task on a core. -/
def State.addPending (s : State) (task core : Nat) : State :=
  s.updTask task fun t => { t with pending := bump t.pending core (· + 1) }

/-- One operation of a task on a core is done. -/
def State.subPending (s : State) (task core : Nat) : State :=
  s.updTask task fun t => { t with pending := bump t.pending core (· - 1) }

/-! ## Ends and discards -/

/-- Whether something waits on a fault entry: a thread, an engine operation or a task's own access. -/
def State.entryWaited (s : State) (id : Nat) : Bool :=
  s.threads.any (fun (_, _, t) => match t.status with | .parked e _ _ => e == id | .held (.device e) => e == id | _ => false)
    || s.mats.any (fun o => o.park.entry == some id) || s.copies.any (fun c => c.park.entry == some id)
    || s.nms.any (fun c => c.park.entry == some id) || s.tasks.any (fun t => t.hdrWait == some id)

/-- Entries on which nothing waits any more are freed (17 R371). -/
def State.sweepFaults (s : State) : State :=
  s.forEach s.faults fun e s => if s.entryWaited e.id then s else s.freeFault e.id

/-- Requests of threads that are gone leave the Cuffs and the REGGRW queues. -/
def State.sweepHeld (s : State) : State :=
  let live := fun (r : ThreadRef) => ((s.thread? r).map fun t => t.status != .exited).getD false
  { s with moves := s.moves.map fun m => { m with held := m.held.filter fun q => match q.by_ with | .thread r => live r | _ => true }
           cores := s.cores.map fun c => { c with reggrw := c.reggrw.filter live } }

/-- Whether a requester still waits in a Cuff to ask again. -/
def State.stillAsks (s : State) (move : Nat) (b : HeldBy) : Bool :=
  match b with
  | .thread r => (s.thread? r).any fun t => t.status == .held (.cuff move)
  | .op i => s.mats.any (fun o => o.id == i && o.park.entry.isNone) || s.copies.any (fun c => c.id == i && c.park.entry.isNone)
      || s.nms.any fun c => c.id == i && c.park.entry.isNone
  | .hart h => (s.hart h).held.isSome
  | _ => true

/-- Between steps, requesters that no longer ask leave the queues of the Cuffs, and what is then at a closed one's head is performed. -/
def State.settleCuffs (s : State) : State :=
  if s.moves.all fun m => m.held.isEmpty then s
  else ({ s with moves := s.moves.map fun m => { m with held := m.held.filter fun q => s.stillAsks m.id q.by_ } } : State).drainCuffs

/-- A wave whose threads have all exited ends (04 R114): its registers and its private frame are free. -/
def State.endWaves (s : State) (blk : Nat) : State :=
  { s with waves := s.waves.filter fun w => !(w.block == blk && w.threads.all fun t => t.status == .exited) }

/-- A block that has no wave and no matrix operation left has ended (log entry 20). -/
def State.endBlock (s : State) (blk : Nat) : State :=
  if (s.blockWaves blk).isEmpty && !(s.mats.any fun o => o.by_.block == some blk) then
    { s with blocks := s.blocks.filter fun b => b.id != blk }
  else s

/-- One thread exits (04 R113): its open batch is sealed, barriers count it off, and its wave and block may end. -/
def State.exitThread (s : State) (r : ThreadRef) : State :=
  match s.wave? r.wave with
  | none => s
  | some w =>
    let s := s.updThread r fun t => { t.seal with status := .exited }
    ((s.exitBarriers w.block).endWaves w.block).endBlock w.block

/-- The threads of a block discarded, with what they have issued left to complete (17 R371); their waits and parks go. -/
def State.discardThreads (s : State) (blk : Nat) : State :=
  let s : State := { s with waves := s.waves.map fun w =>
    if w.block == blk then { w with threads := w.threads.map fun t => { t.seal with status := .exited } } else w }
  ((s.endWaves blk).endBlock blk).sweepHeld.sweepFaults

/-! ## Matrix operations of a block (08 R213, R215) -/

/-- The distance from ticket t to the last ticket c (08 R213). -/
def ticketDist (t c : Nat) : Nat := (c + (2 ^ 32 - 1) - t % (2 ^ 32 - 1)) % (2 ^ 32 - 1)

/-- An MSYNC on ticket t covers the operation with ticket u when c is the last ticket issued and u was posted no later than t
(08 R213). -/
def covered (t c u : Nat) : Bool :=
  t != 0 && c != 0 && decide (ticketDist u c < 2 ^ 31)
    && (t == 2 ^ 32 - 1 || !decide (ticketDist t c < 2 ^ 31) || decide (ticketDist t c ≤ ticketDist u c))

/-- An MSYNC on ticket t covers a ticket that the save before the block's restore cancelled (18 R396). -/
def coversCancelled (b : Block) (t c : Nat) : Bool := b.cancelLo != 0 && (covered t c b.cancelLo || covered t c b.cancelHi)

/-- The code that a finished MSYNC returns: the earliest-posted covered failure, 0 for none. What a save cancelled was posted before
everything since the restore, whose codes are kept oldest first (08 R213, 18 R396). -/
def msyncCode (b : Block) (t c : Nat) : Nat :=
  if coversCancelled b t c then 8
  else
    match b.opCodes.find? fun (u, code) => covered t c u && code != 1 with
    | some (_, code) => code
    | none => 0

/-- MSYNC waits of a block whose covered operations have all completed end. The wait holds its ticket and the last ticket
issued when it began. -/
def State.releaseMsync (s : State) (blk : Nat) : State :=
  match s.block? blk with
  | none => s
  | some b =>
    s.releaseIf fun r w =>
      match w with
      | .msync t d =>
        let c := t / 2 ^ 32
        let t := t % 2 ^ 32
        if (s.wave? r.wave).any (fun v => v.block == blk)
            && !(s.mats.any fun o => o.by_.block == some blk && covered t c o.ticket) then
          some (d, codeReg (msyncCode b t c))
        else none
      | _ => none

/-- The word STATUS of an operation (08 R204). -/
def matStatus (o : MatOp) (code : Nat) : Nat :=
  let f := o.flags.toNat
  code + b2n (bit f 0) * 2 ^ 8 + b2n (bit f 2) * 2 ^ 9 + b2n (bit f 3) * 2 ^ 10 + b2n (bit f 4) * 2 ^ 11
    + b2n (bit f 8) * 2 ^ 12 + b2n (bit f 6) * 2 ^ 13 + o.rowsDone * 2 ^ 16

/-- Operations with a parameter block in scratchpad. -/
def MatKind.hasBlock (k : MatKind) : Bool := k != .mzro && k != .accsc

/-- The code of a completed operation kept for MSYNC unless it is OK, in posting order (08 R213). -/
def Block.addCode (b : Block) (ticket code : Nat) : Block :=
  if code == 1 then b
  else
    let d := ticketDist ticket b.nextTicket
    { b with opCodes := b.opCodes.takeWhile (fun p => decide (d ≤ ticketDist p.1 b.nextTicket)) ++ [(ticket, code)]
                        ++ b.opCodes.dropWhile fun p => decide (d ≤ ticketDist p.1 b.nextTicket) }

/-- The conditions of an ended operation raised in the posting wave, if it still exists (08 R205). -/
def State.raiseMat (s : State) (o : MatOp) : State :=
  match o.by_.thread with
  | some r => if ((s.wave? r.wave).map (·.block)) == o.by_.block then s.raise r.wave o.flags else s
  | none => s

/-- STATUS written at the parameter block (08 R205). -/
def State.writeStatus (s : State) (o : MatOp) (code : Nat) : State :=
  match o.by_.block with
  | some blk =>
    if o.kind.hasBlock then
      s.updBlock blk fun b => { b with scratch := b.scratch.writeBytes (o.off + 60) (natBytes 4 (matStatus o code)) }
    else s
  | none => s

/-- The matrix operations of a block. -/
def State.blockMats (s : State) (blk : Nat) : List MatOp := s.mats.filter fun o => o.by_.block == some blk

/-- The matrix operations of a block cancelled and its accumulator rows discarded (08 R215): STATUS is written, the tickets are recorded, the
counts released. No wait ends. -/
def State.dropMats (s : State) (blk : Nat) : State :=
  let mine := s.blockMats blk
  let s := s.forEach mine fun o s => ((s.writeStatus o 8).raiseMat o).subPending o.by_.task o.by_.core
  let s := s.updBlock blk fun b =>
    { mine.foldl (fun b o => b.addCode o.ticket 8) b with accRows := b.accRows.map fun _ => ⟨0, List.replicate 256 0⟩ }
  { s with
    mats := s.mats.filter fun o => o.by_.block != some blk
    engines := s.engines.map fun e => { e with run := e.run.filter fun i => !(mine.map (·.id)).contains i } }

/-- The same, and the waits of MSYNC end (17 R377). -/
def State.cancelMats (s : State) (blk : Nat) : State := (s.dropMats blk).releaseMsync blk

/-- The lower of two tickets, where 0 is none. -/
def lowTicket (a b : Nat) : Nat := if a == 0 then b else if b == 0 then a else min a b

/-- A save cancels the matrix operations of a block: the lowest and the highest ticket are recorded, and a thread that waits in MSYNC goes
on waiting, to be saved there (08 R213, 18 R389 step 3, R392). -/
def State.saveMats (s : State) (blk : Nat) : State :=
  let tickets := (s.blockMats blk).map (·.ticket)
  (s.dropMats blk).updBlock blk fun b =>
    { b with saveLo := tickets.foldl lowTicket b.saveLo, saveHi := tickets.foldl max b.saveHi }

/-! ## The abort of a task (17 R371) -/

/-- The end of a task by a fault is recorded, if none is yet: no further block starts, and its threads do not issue again
(17 R371). -/
def State.markAbort (s : State) (task : Nat) (e : TaskEnd) : State :=
  s.updTask task fun t => { t with ending := some (t.ending.getD e), phase := .ending, aborting := true }

/-- The threads of an aborting task's running blocks discarded (17 R371), and its restored blocks that no core holds yet. -/
def State.discardTask (s : State) (task : Nat) : State :=
  let s : State := { s with tenants := s.tenants.map fun t => { t with rest := t.rest.filter fun r => r.block.task != task } }
  s.forEach (s.blocks.filter fun b => b.task == task) fun b s => s.discardThreads b.id

/-- FAULT_ADDR: the data address, 0 for a fault without one; a WATCH names its first matching byte (17 R370, 18 R399). -/
def FInfo.dataAddr (f : FInfo) : Nat := if f.access == 1 || f.access == 2 || f.code == cWATCH then f.addr else 0

/-- The end of a task by a fault of a thread: ABORTED with the fault's code, PC and address (06 R158). -/
def faultEnd (f : FInfo) (pc : Nat) : TaskEnd := { status := 3, fault := f.code, faultPc := pc, faultAddr := f.dataAddr }

end Sys2Proof.Machine
end

