-- ==== Sys2Proof/Machine/Strand.lean ====
section
/-! DEFINITION. Guess-carried loops: loop records, the standing of strands, verdicts, rejection and what it discards
(09 R217-R224, R230, R231). -/
namespace Sys2Proof.Machine

/-! ## Fields of the loop record (09 R217) -/

def Loop.ncarry (l : Loop) : Nat := fld l.record 26 22
def Loop.ncur (l : Loop) : Nat := fld l.record 29 27
def Loop.mode (l : Loop) : Nat := fld l.record 21 20
def Loop.nstrand (l : Loop) : Nat := fld l.record 19 16
def Loop.iterMax (l : Loop) : Nat := fld l.record 287 256
def Loop.stateVa (l : Loop) : Nat := fld l.record 255 192
/-- CUR_VA of cursor i. -/
def Loop.curVa (l : Loop) (i : Nat) : Nat := fld l.record (448 + 64 * i + 63) (448 + 64 * i)
/-- CUR_Q of cursor i. -/
def Loop.curQ (l : Loop) (i : Nat) : Nat := fld l.record (384 + 8 * i + 7) (384 + 8 * i)
/-- Which listed cursor an address is. -/
def Loop.curIndex (l : Loop) (va : Nat) : Option Nat := (List.range l.ncur).find? fun i => l.curVa i == va
/-- First slot that strand s owns in cursor i (09 R230). -/
def Loop.ownFirst (l : Loop) (i s : Nat) : Nat := l.commits.getD i 0 + s * l.curQ i

def Loop.strand? (l : Loop) (k : Nat) : Option Strand := l.strands[k]?
def Loop.updStrand (l : Loop) (k : Nat) (f : Strand → Strand) : Loop := { l with strands := l.strands.modify k f }
def State.updStrand (s : State) (l k : Nat) (f : Strand → Strand) : State := s.updLoop l fun x => x.updStrand k f

/-! ## Standing (09 R224) -/

/-- Strand k is confirmed: every verdict below it is MATCH. -/
def Loop.confirmed (l : Loop) (k : Nat) : Bool := (l.strands.take k).all fun x => x.verdict == .match_
/-- Every strand below k has completed. -/
def Loop.belowDone (l : Loop) (k : Nat) : Bool := (l.strands.take k).all fun x => x.phase == .completed
/-- Strand k is non-speculative. -/
def Loop.nonSpec (l : Loop) (k : Nat) : Bool := l.confirmed k && l.belowDone k
/-- Strand k is non-speculative and is the head of the round. -/
def Loop.headNonSpec (l : Loop) (k : Nat) : Bool :=
  l.nonSpec k && (l.strand? k).any fun x => x.phase != .completed && x.phase != .rejected
/-- Whether a place in a loop is a strand that may still be rejected. -/
def State.speculative (s : State) (p : Option (Nat × Nat)) : Bool :=
  match p with
  | none => false
  | some (l, k) => ((s.loop? l).map fun x => !x.nonSpec k).getD false
/-- Whether a place in a loop must wait under 09 R229: it is a strand, and not a non-speculative head. -/
def State.mustWait (s : State) (p : Option (Nat × Nat)) : Bool :=
  match p with
  | none => false
  | some (l, k) => ((s.loop? l).map fun x => !x.headNonSpec k).getD false

/-! ## Cursor records as the device reaches them (12 R297-R299) -/

/-- Slots per page of a cursor record. -/
def curSpp (rec_ : Nat) : Nat := 2 ^ (12 - fld rec_ 163 160)
/-- Page list address. -/
def curPlist (rec_ : Nat) : Nat := fld rec_ 63 0

/-- READY of slot k: 0 when its page is not opened or k is beyond the list (12 R304). -/
def State.slotReady (s : State) (tenant cursor k : Nat) : Bool :=
  match s.devPeek tenant cursor 32 with
  | none => false
  | some r =>
    if decide (fld r 143 128 * curSpp r ≤ k) then false
    else
      match s.devPeek tenant (curPlist r + 64 * (k / curSpp r)) 64 with
      | none => false
      | some e => bit e 64 && bit e (128 + k % curSpp r)

/-- Where a record that a tenant names by an address stands. -/
def State.recordPa (s : State) (tenant va : Nat) : Option Nat :=
  match lookLeaf s (s.tenant tenant).root.toNat .engineRead va with
  | .ok l => some (s.route (leafPa l.pte va))
  | .error _ => none

/-- Two names of one cursor record, by tenant and address: the record is observed at its home, whatever address names it (12 R299, R304). -/
def State.sameCursor (s : State) (t a u b : Nat) : Bool :=
  t == u && a == b || match s.recordPa t a, s.recordPa u b with
    | some x, some y => x == y
    | _, _ => false

/-- CURQ.wait waits on a cursor whose slot is ready end with 1 (12 R304). -/
def State.releaseCurq (s : State) (tenant cursor : Nat) : State :=
  s.releaseIf fun r w =>
    match w, s.wave? r.wave with
    | .curq c k d, some v =>
      if s.sameCursor (s.tenantOfWave v) c tenant cursor && s.slotReady (s.tenantOfWave v) c k then some (d, codeReg 1) else none
    | _, _ => none

/-- CURQ.wait waits on discarded slots end with 0 (12 R304). -/
def State.discardCurq (s : State) (tenant cursor : Nat) (p : Nat → Bool) : State :=
  s.releaseIf fun r w =>
    match w, s.wave? r.wave with
    | .curq c k d, some v => if p k && s.sameCursor (s.tenantOfWave v) c tenant cursor then some (d, codeReg 0) else none
    | _, _ => none

/-- The READY and CLIP bits of one slot cleared (09 R231). -/
def State.clearSlot (s : State) (tenant cursor k : Nat) : State :=
  match s.devRead tenant cursor 32 with
  | (none, s) => s
  | (some r, s) =>
    if decide (fld r 143 128 * curSpp r ≤ k) then s
    else
      let ea := curPlist r + 64 * (k / curSpp r)
      match s.devRead tenant ea 64 with
      | (none, s) => s
      | (some e, s) =>
        let i := k % curSpp r
        let s := (s.devWrite tenant (ea + 16) (natBytes 8 (fld (setFld e (128 + i) (128 + i) 0) 191 128))).2
        match s.devRead tenant (fld e 63 0) 64 with
        | (none, s) => s
        | (some d, s) => (s.devWrite tenant (fld e 63 0 + 8) (natBytes 8 (fld (setFld d (64 + i) (64 + i) 0) 127 64))).2

/-- SPEC of a cursor, and PAGE with it, set (12 R303). -/
def State.setSpec (s : State) (tenant cursor t : Nat) : State :=
  match s.devRead tenant cursor 32 with
  | (none, s) => s
  | (some r, s) =>
    let page := min (t / curSpp r) (fld r 143 128 - 1)
    let r := setFld (setFld r 127 96 t) 159 144 page
    (s.devWrite tenant cursor (natBytes 32 r)).2

/-- The next slot of strand k in listed cursor i. -/
def Loop.nextSlotOf (l : Loop) (i k : Nat) : Nat := l.ownFirst i k + (((l.strand? k).map fun x => x.nextSlot.getD i 0).getD 0)

/-- The speculative slot of listed cursor i: the end of the slots of the highest started strand that is not rejected, or the committed slot
where there is none (09 R231, 12 R303). A strand beyond its quota ends where its next slot is (09 R230). -/
def Loop.specSlot (l : Loop) (i : Nat) : Nat :=
  (List.range l.strands.length).foldl (fun m k =>
    if (l.strand? k).any fun x => x.phase == .running || x.phase == .completed then max (l.ownFirst i (k + 1)) (l.nextSlotOf i k) else m)
    (l.commits.getD i 0)

/-! ## Rejection (09 R231) -/

/-- A block and its threads gone without the effects of an exit; its engine operations with them. -/
def State.dropBlock (s : State) (blk : Nat) : State :=
  let ids := (s.mats.filter fun o => o.by_.block == some blk).map (·.id)
  ({ s with
     waves := s.waves.filter fun w => w.block != blk
     blocks := s.blocks.filter fun b => b.id != blk
     mats := s.mats.filter fun o => o.by_.block != some blk
     copies := s.copies.filter fun c => c.by_.block != some blk
     nms := s.nms.filter fun c => c.by_.block != some blk
     engines := s.engines.map fun e => { e with run := e.run.filter fun i => !ids.contains i } } : State).sweepHeld

/-- The slots of strand k in every listed cursor discarded, and each cursor's SPEC put back; `l` has the strand rejected. -/
def State.discardSlots (s : State) (l : Loop) (k : Nat) : State :=
  s.forEach (List.range l.ncur) fun i s =>
    let a := l.ownFirst i k
    let b := a + l.curQ i
    let s := s.forEach (List.range (l.curQ i)) fun j s => s.clearSlot l.tenant (l.curVa i) (a + j)
    let s := s.discardCurq l.tenant (l.curVa i) fun n => decide (a ≤ n) && decide (n < b)
    s.setSpec l.tenant (l.curVa i) (l.specSlot i)

/-- A started strand rejected: its threads, tasks, operations, write set and slots go. `byExit` says that a strand below it set EXIT. -/
def State.rejectOne (s : State) (l k : Nat) (byExit : Bool) : State :=
  match s.loop? l with
  | none => s
  | some lp =>
    match lp.strand? k with
    | none => s
    | some x =>
      if x.phase == .running || x.phase == .completed then
        let s := s.forEach (s.blocks.filter fun b => b.strand == some (l, k)) fun b s => s.dropBlock b.id
        let s : State := { s with tasks := s.tasks.filter fun t => t.strand != some (l, k)
                                  copies := s.copies.filter fun c => c.by_.strand != some (l, k) }
        let s := s.updStrand l k fun x => { x with phase := .rejected, writes := [], reads := [], byExit }
        match s.loop? l with
        | some lp => (s.discardSlots lp k).sweepFaults
        | none => s
      else s

/-- Every started strand above j rejected, the highest first. -/
def State.rejectAbove (s : State) (l j : Nat) (byExit : Bool) : State :=
  match s.loop? l with
  | none => s
  | some lp => s.forEach ((List.range lp.strands.length).filter fun k => decide (j < k)).reverse fun k s => s.rejectOne l k byExit

/-! ## Verdicts (09 R223, R224) -/

/-- The code of a verdict. -/
def Verdict.code (v : Verdict) : Nat :=
  match v with
  | .none => 0
  | .match_ => 1
  | .mismatch => 2
  | .conflict => 3
  | .last => 4
  | .dropped => 5
  | .quota => 6
  | .exited => 7

/-- GCMP waits of a strand end with its verdict (09 R239). -/
def State.releaseGcmp (s : State) (l k : Nat) (v : Verdict) : State :=
  s.releaseIf fun r w =>
    match w with
    | .gcmp d => if ((s.wave? r.wave).bind s.blockOf).any fun b => b.strand == some (l, k) then some (d, codeReg v.code) else none
    | _ => none

/-- A verdict recorded, whatever stands; one that does not match rejects the strands above (09 R223, R224, R230). -/
def State.putVerdict (s : State) (l k : Nat) (v : Verdict) : State :=
  match (s.loop? l).bind fun x => x.strand? k with
  | none => s
  | some x =>
    let s := s.updStrand l k fun x => { x with verdict := v }
    let s := if v == .match_ then s else s.rejectAbove l k (v == .exited)
    if x.sealed then s.releaseGcmp l k v else s

/-- A verdict recorded, unless one other than NONE and MATCH stands (09 R227). -/
def State.recordVerdict (s : State) (l k : Nat) (v : Verdict) : State :=
  if ((s.loop? l).bind fun x => x.strand? k).any fun x => x.verdict == .none || x.verdict == .match_ then s.putVerdict l k v else s

/-- The distance function of the ulp mode (09 R223). -/
def ulpOrd (x : Nat) : Int := if bit x 31 then -(fld x 30 0 : Int) else (fld x 30 0 : Int)
/-- A NaN of F32. -/
def isNan32 (x : Nat) : Bool := fld x 30 23 == 255 && fld x 22 0 != 0

/-- Whether one carry word matches (09 R223). -/
def wordMatches (mode tol : Nat) (p g : Reg) : Bool :=
  if mode == 2 && p.tag == .f32 && g.tag == .f32 then
    (isNan32 p.val.toNat && isNan32 g.val.toNat) || decide ((ulpOrd p.val.toNat - ulpOrd g.val.toNat).natAbs ≤ tol)
  else p == g

/-- Whether a produced carry matches a guess (09 R223). -/
def Loop.carryMatches (l : Loop) (p g : List Reg) : Bool :=
  (List.range l.ncarry).all fun i =>
    (l.mode != 0 && !bit (fld l.record 47 32) i)
      || wordMatches l.mode (fld l.record 63 48) (p.getD i Reg.zero) (g.getD i Reg.zero)

/-- Strand k never starts (09 R220, R235). -/
def Loop.neverStarts (l : Loop) (k : Nat) : Bool :=
  (l.strand? k).any fun x => x.phase == .notStarted && (l.guessEnd == some false || l.cancel
    || (l.strands.take k).any fun y => y.phase == .rejected)

/-- The verdict that a sealed carry gets now, if any (09 R223). -/
def Loop.verdictNow (l : Loop) (k : Nat) : Option Verdict :=
  match l.strand? k with
  | none => none
  | some x =>
    if !x.sealed || x.verdict != .none then none
    else if x.exit then some .exited
    else if k + 1 == l.width then some .last
    else if l.neverStarts (k + 1) then some .dropped
    else
      match l.strand? (k + 1) with
      | some y => if y.sealedIn then some (if l.carryMatches x.prod y.input then .match_ else .mismatch) else none
      | none => none

/-- The verdict of strand k recorded if it is due. -/
def State.tryVerdict (s : State) (l k : Nat) : State :=
  match (s.loop? l).bind fun x => x.verdictNow k with
  | some v => s.recordVerdict l k v
  | none => s

/-- Every verdict that is due recorded, in ascending strand order. -/
def State.tryVerdicts (s : State) (l : Nat) : State :=
  match s.loop? l with
  | none => s
  | some lp => s.forEach (List.range lp.strands.length) fun k s => s.tryVerdict l k

/-- P_s sealed (09 R222): EXIT and the last strand's verdict are recorded then, whatever stands (09 R223). -/
def State.sealProduced (s : State) (l k : Nat) : State :=
  let s := s.updStrand l k fun x => { x with sealed := true }
  let now := (s.loop? l).bind fun lp => (lp.strand? k).bind fun x =>
    if x.exit then some Verdict.exited else if k + 1 == lp.width then some Verdict.last else none
  (match now with | some v => s.putVerdict l k v | none => s).tryVerdicts l

/-- g_k sealed (09 R220). -/
def State.sealGuess (s : State) (l k : Nat) : State :=
  (s.updStrand l k fun x => { x with sealedIn := true }).tryVerdicts l

end Sys2Proof.Machine
end

