-- ==== Sys2Proof/Machine/ThreadMem.lean ====
section
/-! DEFINITION. The memory accesses of threads and of the engines that act for them: global memory through caches and homes,
scratchpad and its windows, private memory, strand versions and their publication, and watches (09 R227-R229; 10 R241-R244,
R248; 12 R285-R287; 13 R317, R326; 17 R375; 18 R399; 21 R457). -/
namespace Sys2Proof.Machine

/-! ## Requests at a physical address -/

/-- HOME 11: every access completes at the home agent (10 R248). -/
def homeOnly (leaf : Nat) : Bool := fld leaf 59 58 == 3

/-- A pool frame in handover holds requests that arrive at its home (23 R438). -/
def handoverHold (s : State) (pa : Nat) : Bool := spaceOf pa == 2 && entryState (ownerEntry s pa) == 1

/-- A requester that no Cuff queues: it asks again when the Cuff has closed. -/
def nobody : HeldBy := .op 0

/-- A request that meets a Cuff is held and queued there, in arrival order (13 R317). -/
def cuffCheck (b : HeldBy) (pa : Nat) (write : Bool) : Op Unit := do
  let s ← get
  match s.cuff? pa with
  | none => pure ()
  | some m =>
    let line := m.srcLine (lineOf pa)
    if s.mustQueue m b line write then
      set (if b == nobody then s else s.joinCuff m b line write)
      throw (.hold (.cuff m.id))

/-- An engine operation has read, or written, a line. -/
def State.opTouched (s : State) (b : HeldBy) (va : Nat) (write : Bool) : Bool :=
  match b with
  | .op id => s.touched.any fun t => t.op == id && t.line == va / 64 && t.write == write
  | _ => false

/-- Bad lines that an engine operation has read. -/
def State.opBad (s : State) (id : Nat) : Nat := (s.touched.filter fun t => t.op == id && t.bad && !t.write).length

/-- An engine operation reads or writes a line; the first bad one that a copy reads is where it fails (15 R350). -/
def State.touchLine (s : State) (b : HeldBy) (va : Nat) (write bad : Bool) : State :=
  match b with
  | .op id =>
    if s.opTouched b va write then s
    else
      { s with
        touched := ⟨id, va / 64, write, bad⟩ :: s.touched
        copies := s.copies.map fun c =>
          if c.id == id && bad && !write && s.opBad id == 0 then { c with failVa := va } else c }
  | _ => s

/-- The holder of an access: its die's L2, or the CPU die. -/
def Who.holder (w : Who) : Holder := if h : w.die < 8 then .die ⟨w.die, h⟩ else .cpu

/-- Whether an access may leave copies in this module's caches: not under HOME 11, and only where the home is here. -/
def cacheable (s : State) (leaf pa : Nat) : Bool := !homeOnly leaf && homeHere s pa && !poolLost s pa

/-- A read request of n bytes in one line: it hits a cache, or the home counts and serves it (13 R309, R325, R326). A read that completes at the
die L2 or at the home passes the nearer caches (11 R265). A HOME 11 read is executed at the home (13 R325); an engine's leaves no copy. -/
def State.readRequest (s : State) (w : Who) (leaf pa : Nat) : State :=
  let line := lineOf pa
  let inL1 := match w.core with | some c => w.level == 0 && s.l1.contains (c, line) | none => false
  if homeOnly leaf && homeHere s pa then (s.countReq w pa).recall line
  else if !cacheable s leaf pa || w.engine then s.countReq w pa
  else if inL1 then s
  else
    let s := if w.level < 2 && (s.dirEntry? line).any fun e => e.holds w.holder then s
             else ((s.countReq w pa).homeRead w.holder line).lockLine w.die none leaf w.asid line
    match w.core with
    | some c => if w.level == 0 then ((s.fillL1 c line).lockLine w.die (some c) leaf w.asid line).perfCoreEvent w.tenant 4 1 else s
    | none => s

/-- A write request in one line: the die's L2 owns the line or asks for ownership; an operation executed at home recalls
every copy (13 R325, R326; 22 R427). -/
def State.writeRequest (s : State) (w : Who) (leaf pa : Nat) (atHome : Bool) : State :=
  let line := lineOf pa
  if atHome || !cacheable s leaf pa || bit (s.tenant w.tenant).dirty.toNat 0 then (s.countReq w pa).recall line
  else
    match (s.dirEntry? line).filter fun e => e.owner == some w.holder && (e.state == .e || e.state == .m) with
    | some e => (s.setDir line (some { e with state := .m })).dropL1 w.die line w.core
    | none => (((s.countReq w pa).homeOwn w.holder line).lockLine w.die none leaf w.asid line).dropL1 w.die line w.core

/-- POISON of a data access (17 R375). -/
def poisonFault (a : Access) (cause va : Nat) : FInfo := { code := cPOISON, cause := cause, access := accCode a, addr := va }

/-- n bytes of one line read at a physical address. -/
def readPa (w : Who) (b : HeldBy) (a : Access) (leaf pa va n : Nat) : Op Nat := do
  cuffCheck b pa false
  modify fun s => s.leaveCuffs b pa false
  let s ← get
  let pa := s.route pa
  if poolLost s pa then
    set (s.lostError pa)
    throw (.fault (poisonFault a 0 va))
  if handoverHold s pa then throw (.hold (.handover (pa / 4096)))
  let s := (s.readRequest w leaf pa).noteRead pa n
  set s
  if s.poisoned pa n then throw (.fault (poisonFault a 0 va))
  pure (s.peek pa n)

/-- Bytes of one line written at a physical address. -/
def writePa (w : Who) (b : HeldBy) (leaf pa : Nat) (bs : List Byte) (atHome : Bool) : Op Unit := do
  cuffCheck b pa true
  modify fun s => s.leaveCuffs b pa true
  let s ← get
  let pa := s.route pa
  if poolLost s pa then set (s.lostError pa)
  else
    if handoverHold s pa then throw (.hold (.handover (pa / 4096)))
    let s := s.writeRequest w leaf pa atHome
    set (if bs.length == 64 then s.putLine w.tenant pa bs else s.put w.tenant pa bs)

/-! ## Scratchpad and its windows (10 R242, R243) -/

/-- The block and offset that a window address names for a thread or an engine operation of a block: its own scratchpad, or
that of a block of the same task in the same cluster. None is a PAGE_PERM. -/
def State.window? (s : State) (blk : Option Nat) (core va n : Nat) : Option (Nat × Nat) :=
  match blk.bind s.block? with
  | none => none
  | some b =>
    if decide (scratchBase ≤ va) then
      let o := va - scratchBase
      if decide (o + n ≤ b.scratchLen) then some (b.id, o) else none
    else
      let k := (va - clusterBase) / 2 ^ 21
      let o := (va - clusterBase) % 2 ^ 21
      match s.taskOf b, s.blocks.find? fun x => x.task == b.task && x.blockId == k with
      | some t, some x =>
        if t.colevel != 0 && engineOfCore x.core == engineOfCore core && x.clusterWin && decide (o + n ≤ x.scratchLen) then some (x.id, o)
        else none
      | _, _ => none

/-- Poisoned 16-byte granules under n bytes of a scratchpad. -/
def Block.granulesBad (b : Block) (o n : Nat) : Bool :=
  b.scratchBad.any fun g => decide (g * 16 < o + n) && decide (o < g * 16 + 16)

/-- Errors of a scratchpad that a read of n bytes is the first to meet, counted (17 R374). -/
def State.noteScratch (s : State) (blk o n : Nat) : State :=
  s.findErrors fun p => match p with | .scratch b g => b == blk && decide (g * 16 < o + n) && decide (o < g * 16 + 16) | _ => false

/-- n bytes of a block's scratchpad. -/
def readScratch (blk o n va : Nat) (a : Access) : Op Nat := do
  match (← get).block? blk with
  | none => throw (.fault (pagePerm 2 (accCode a) va false))
  | some b =>
    if b.granulesBad o n then
      modify fun s => s.noteScratch blk o n
      throw (.fault (poisonFault a 3 va))
    pure (b.scratch.readNat o n)

/-- Bytes put into a block's scratchpad. -/
def State.putScratch (s : State) (blk o : Nat) (bs : List Byte) : State :=
  s.updBlock blk fun b => { b with scratch := b.scratch.writeBytes o bs }

/-! ## Strand versions (09 R227) -/

/-- Whether a byte at (va, pa) is the one an entry of a write set names. -/
def sameByte (va pa va' pa' : Nat) (cow : Bool) : Bool := va == va' || (!cow && pa == pa')

/-- The VA, the PA, the `cow` mark and the length of what an entry of a write set stores. -/
def StrandOp.extent (op : StrandOp) : Nat × Nat × Bool × Nat :=
  match op with
  | .byte _ va pa cow _ => (va, pa, cow, 1)
  | .red _ va pa cow _ ty _ _ _ => (va, pa, cow, atomBytes ty)

/-- One entry of a write set applied to the bytes of an aligned 8-byte window. -/
def StrandOp.apply (va pa : Nat) (v : List Byte) (op : StrandOp) : List Byte :=
  match op with
  | .byte _ va' pa' cow b => v.mapIdx fun i x => if sameByte (va + i) (pa + i) va' pa' cow then b else x
  | .red _ va' pa' cow o ty c _ _ =>
    match (List.range 8).find? fun i => sameByte (va + i) (pa + i) va' pa' cow with
    | none => v
    | some i =>
      let n := atomBytes ty
      v.take i ++ natBytes n (atomNew o ty (leNat ((v.drop i).take n)) c).1 ++ v.drop (i + n)

/-- Whether an entry of a write set stores the byte at (va, pa). -/
def StrandOp.covers (va pa : Nat) (op : StrandOp) : Bool :=
  let (v, p, cow, n) := op.extent
  decide (v ≤ va) && decide (va < v + n) || !cow && decide (p ≤ pa) && decide (pa < p + n)

/-- An aligned 8-byte window as strand k sees it over memory's bytes (09 R227). -/
def Loop.view (l : Loop) (k va pa : Nat) (m : List Byte) : List Byte :=
  (l.strands.take (k + 1)).foldl (fun v x => x.writes.foldl (StrandOp.apply va pa) v) m

/-- The strand that serves a read of a byte by strand k: 1 + its number, 0 for memory. -/
def Loop.server (l : Loop) (k va pa : Nat) : Nat :=
  (List.range (k + 1)).foldl (fun r i => if (l.strand? i).any fun x => x.writes.any (StrandOp.covers va pa) then i + 1 else r) 0

/-- n bytes in one line read by an access of a strand, over memory; the line is recorded as read, with the lowest server of its bytes. -/
def State.strandRead (s : State) (l k va pa n : Nat) : Nat × State :=
  match s.loop? l with
  | none => (s.peek pa n, s)
  | some lp =>
    let v0 := alignDown va 8
    let p0 := alignDown pa 8
    let w := fun (i : Nat) => lp.view k (v0 + 8 * i) (p0 + 8 * i) (s.mem.readBytes (p0 + 8 * i) 8)
    let bytes := (List.range ((va - v0 + n + 7) / 8)).flatMap w
    let served := (List.range n).foldl (fun r i => min r (lp.server k (va + i) (pa + i))) (k + 1)
    let x := leNat ((bytes.drop (va - v0)).take n)
    let e := (lineOf va, lineOf pa, served)
    (x, s.updStrand l k fun st => { st with reads := if st.reads.contains e then st.reads else e :: st.reads })

/-- The lines of a write set. -/
def writeLines (ops : List StrandOp) : List Nat := (ops.map fun op => lineOf op.extent.2.1).eraseDups

/-- A store of strand k to a line that a later strand has read from memory or from a strand at or below k is a conflict
(09 R227). The line is the same by its address or by its place. -/
def State.conflicts (s : State) (l k va pa : Nat) : State :=
  match s.loop? l with
  | none => s
  | some lp =>
    match (List.range lp.strands.length).find? fun t => decide (k < t)
        && (lp.strand? t).any fun x => x.reads.any fun (v, p, by_) => (v == lineOf va || p == lineOf pa) && decide (by_ ≤ k + 1) with
    | some t => s.recordVerdict l (t - 1) .conflict
    | none => s

/-- What strands have read and stored in a page, by its place, once the page lies elsewhere (11 R281). -/
def State.remapStrands (s : State) (src dest size : Nat) : State :=
  if s.loops.isEmpty then s
  else
    let f := fun (pa : Nat) => if covers src size (pa / 4096) then pa + dest * 4096 - src * 4096 else pa
    { s with loops := s.loops.map fun l => { l with strands := l.strands.map fun x =>
        { x with
          reads := x.reads.map fun (v, p, b) => (v, lineOf (f (64 * p)), b)
          writes := x.writes.map fun op => match op with
            | .byte o va pa c b => .byte o va (f pa) c b
            | .red o va pa c op ty v w b => .red o va (f pa) c op ty v w b } } }

/-! ## Publication (09 R228) -/

/-- The access of a publication: from the die of the store, in the name of its task (13 R312, R323; 20 R403). -/
def publishWho (lp : Loop) (o : Origin) : Who :=
  { tenant := lp.tenant, die := o.die, core := none, root := o.root, trigDie := some o.die, task := some lp.task, name := some (o.graph, o.num) }

/-- Where a store goes at its publication. A page that is there no more is asked for through the fault queue, and the publication waits; where
the driver does not resolve it, the store is not performed (DESIGN CHOICE, log entry 84). -/
def publishAddr (w : Who) (va : Nat) : Op (Option (Nat × Nat)) := do
  match Op.attempt (translateWrite w .store va) (← get) with
  | (.ok x, s) => set s; pure (some x)
  | (.error (.hold h), s) => set s; throw (.hold h)
  | (.error (.fault _), s) =>
    match s.devLookAt w.root w.tenant (hubOfDie w.die) .store va with
    | (.wait id, s) => set s; throw (.hold (.device id))
    | (.leaf l, s) => set s; pure (some (leafPa l.pte va, l.pte))
    | (.unresolved _, s) => set s; pure none

/-- Bytes of a publication's store at an address, as a function of the n that stand there: the flags, and the lines counted so far. A line
counts once (13 R309, 21 R457). -/
def publishAt (w : Who) (counted : List Nat) (va n : Nat) (f : Nat → Nat × Flags) : Op (List Nat × Flags) := do
  match ← publishAddr w va with
  | none => pure (counted, 0)
  | some (pa, leaf) =>
    let s ← get
    let m := s.peek (s.route pa) n
    let line := lineOf pa
    if !counted.contains line then writePa w nobody leaf pa (natBytes n (f m).1) false
    else if !poolLost s (s.route pa) then set (s.put w.tenant (s.route pa) (natBytes n (f m).1))
    pure (line :: counted, (f m).2)

/-- One entry of a write set performed. The flags of a RED go to its wave, if the wave's block is still there (12 R288). -/
def publishOp (lp : Loop) (counted : List Nat) (op : StrandOp) : Op (List Nat) := do
  match op with
  | .byte o va _ _ b =>
    let (cs, _) ← publishAt (publishWho lp o) counted va 1 fun _ => (b.toNat, 0)
    pure cs
  | .red o va _ _ op ty c wave blk =>
    let (cs, fl) ← publishAt (publishWho lp o) counted va (atomBytes ty) fun m => atomNew op ty m c
    modify fun s => if (s.wave? wave).any fun w => w.block == blk then s.raise wave fl else s
    pure cs

/-- An operation of the pool performed; one that has to wait leaves only its fault entries. -/
def State.settleOp {α : Type} (s : State) (x : Op α) : Option α × State :=
  match x s with
  | .ok a s' => (some a, s')
  | .error _ s' => (none, { s with faults := s'.faults, nextId := s'.nextId, badPages := s'.badPages })

/-- A record of the pool written, or not to be written (log entry 14); one on a page that is to be resolved waits (15 R346). -/
def devPut (tenant va : Nat) (bs : List Byte) : Op Unit := do
  match (← get).devStore tenant va bs with
  | (.wait, s) => set s; throw (.hold (.frames 0))
  | (_, s) => set s

/-- A record read by the pool; none where it cannot be. -/
def devGet (tenant va n : Nat) : Op (Option Nat) := do
  let (x, s) := (← get).devRead tenant va n
  set s
  pure x

/-- A run of bytes written by the pool, line by line. -/
def devSpan (tenant : Nat) : (fuel va : Nat) → List Byte → Op Unit
  | 0, _, _ => pure ()
  | fuel + 1, va, bs =>
    if bs.isEmpty then pure ()
    else do
      let k := 64 - va % 64
      devPut tenant va (bs.take k)
      devSpan tenant fuel ((va + k) % 2 ^ 64) (bs.drop k)

/-- The unpublished write sets of strands 0 to k published in ascending order, all or none (09 R228). A publication that has to wait leaves only
its fault entry. -/
def publish (l k : Nat) : Op Unit := do
  let s0 ← get
  match s0.loop? l with
  | none => pure ()
  | some lp =>
    let body : Op Unit := do
      for i in List.range (k + 1) do
        match lp.strand? i with
        | none => pure ()
        | some x =>
          let mut counted := []
          for op in x.writes do
            counted ← publishOp lp counted op
          modify fun s => s.updStrand l i fun x => { x with writes := [] }
    match body s0 with
    | .ok _ s => set s
    | .error e _ => set (s0.settleOp body).2; throw e

/-! ## A thread's own accesses -/

/-- What an access of a thread or of an engine operation it posted carries. -/
structure Self where
  who    : Who
  by_    : HeldBy
  block  : Option Nat
  core   : Nat
  strand : Option (Nat × Nat)
  deriving DecidableEq, Repr

/-- The access context of a thread. -/
def State.self (s : State) (r : ThreadRef) : Self :=
  let w := s.wave? r.wave
  let b := w.bind s.blockOf
  let die := dieOfCore r.wave.core
  { who := { tenant := (w.map s.tenantOfWave).getD 0, die, core := some r.wave.core, root := (w.map fun w => w.root.toNat).getD 0
             trigDie := some die, task := b.map (·.task) }
    by_ := .thread r, block := b.map (·.id), core := r.wave.core, strand := b.bind (·.strand) }

/-- The access context of an engine operation. -/
def Poster.self (p : Poster) (op : Nat) : Self :=
  { who := { tenant := p.tenant, die := p.die, core := none, root := p.root, trigDie := p.thread.map fun _ => p.die, task := some p.task
             engine := true }
    by_ := .op op, block := p.block, core := p.core, strand := p.strand }

/-- The level that a read completes at by SEM and SCOPE: an acquire at cluster or die scope at the die L2, a wider one at the home (11 R265). -/
def acquireLevel (sem scope : Nat) : Nat :=
  if sem % 2 == 0 || decide (scope < 2) then 0 else if scope < 4 then 1 else 2

/-- An access context whose reads are acquires or not. -/
def Self.acquire (c : Self) (sem scope : Nat) : Self := { c with who := { c.who with level := acquireLevel sem scope } }

/-- A release at hub, package or system scope (09 R229). -/
def wideRelease (sem scope : Nat) : Bool := decide (2 ≤ sem) && decide (4 ≤ scope)

/-- The wait of 09 R229: until the strand is the non-speculative head; then its write set is published. -/
def awaitHead (strand : Option (Nat × Nat)) : Op Unit := do
  let s ← get
  if s.mustWait strand then throw (.hold .strand)
  match strand with
  | some (l, k) => publish l k
  | none => pure ()

/-- A read by strand t of an owned slot of an earlier strand waits until the slot is ready or that strand is rejected
(09 R230). The answer is the address to wait for. -/
def State.slotHold (s : State) (strand : Option (Nat × Nat)) (va : Nat) : Bool :=
  match strand with
  | none => false
  | some (l, t) =>
    match s.loop? l with
    | none => false
    | some lp =>
      (List.range lp.ncur).any fun i =>
        match s.devPeek lp.tenant (lp.curVa i) 32 with
        | none => false
        | some r =>
          (List.range t).any fun k =>
            ((lp.strand? k).map fun x => x.phase != .rejected).getD false &&
            (List.range (lp.curQ i)).any fun j =>
              let slot := lp.ownFirst i k + j
              decide (slot < fld r 143 128 * curSpp r) &&
              match s.devPeek lp.tenant (curPlist r + 64 * (slot / curSpp r)) 64 with
              | none => false
              | some e =>
                match s.devPeek lp.tenant (fld e 63 0) 8 with
                | none => false
                | some page =>
                  let a := page + slot % curSpp r * 2 ^ fld r 163 160
                  decide (a ≤ va) && decide (va < a + 2 ^ fld r 163 160) && !s.slotReady lp.tenant (lp.curVa i) slot

/-- The records that the look at the slots of earlier strands reads: A is set in their leaves, and errors are counted. -/
def State.touchSlots (s : State) (strand : Option (Nat × Nat)) : State :=
  match strand.bind fun p => s.loop? p.1 with
  | none => s
  | some lp =>
    s.forEach (List.range lp.ncur) fun i s =>
      match s.devRead lp.tenant (lp.curVa i) 32 with
      | (some r, s) => (s.devRead lp.tenant (curPlist r + 64 * (lp.ownFirst i 0 / curSpp r)) 64).2
      | (none, s) => s

/-- A read of a strand waits for the slots of earlier strands (09 R230). -/
def slotWait (c : Self) (va : Nat) : Op Unit := do
  modify fun s => s.touchSlots c.strand
  if (← get).slotHold c.strand va then throw (.hold (.slot va))

/-- n bytes of global memory read, at most 16 and not across a line. -/
def readGlobal (c : Self) (a : Access) (va n : Nat) : Op Nat := do
  slotWait c va
  let (pa, leaf) ← translate c.who a va
  let x ← readPa c.who c.by_ a leaf pa va n
  match c.strand with
  | none => pure x
  | some (l, k) =>
    let s ← get
    let (x, s) := s.strandRead l k va (s.route pa) n
    set s
    pure x

/-- A store of a strand to its write set (09 R227, R228). -/
def storeStrand (c : Self) (a : Access) (l k va : Nat) (mk : Origin → Nat → Bool → List StrandOp) : Op Unit := do
  let (pa, leaf) ← translate c.who a va
  let s ← get
  let s := s.conflicts l k va pa
  let (graph, num) := s.taskName c.who
  let ops := mk ⟨c.who.die, c.who.root, graph, num⟩ pa (!bit leaf 2)
  let cur := (((s.loop? l).bind fun x => x.strand? k).map (·.writes)).getD []
  if decide (2 ^ 20 < 64 * (writeLines (cur ++ ops)).length) then
    set s
    if s.mustWait c.strand then throw (.hold .strand)
    publish l k
  else set s
  modify fun s => s.updStrand l k fun x => { x with writes := x.writes ++ ops }

/-- A store, atomic or engine write that the head of a round has performed in memory is a store of its strand (09 R227, R229). -/
def State.headStore (s : State) (strand : Option (Nat × Nat)) (va pa : Nat) : State :=
  match strand with
  | some (l, k) => s.conflicts l k va pa
  | none => s

/-- Bytes of global memory written, at most 16 and not across a line. -/
def writeGlobal (c : Self) (va : Nat) (bs : List Byte) (sem scope : Nat) : Op Unit := do
  let wide := wideRelease sem scope
  if wide then awaitHead c.strand
  match c.strand, wide with
  | some (l, k), false => storeStrand c .store l k va fun o pa cow => bs.mapIdx fun i b => .byte o (va + i) (pa + i) cow b
  | _, _ =>
    let (pa, leaf) ← translateWrite c.who .store va
    writePa c.who c.by_ leaf pa bs wide
    modify fun s => s.headStore c.strand va pa

/-- Bytes read at a virtual address that may lie in a window (10 R456). -/
def readVa (c : Self) (a : Access) (va n : Nat) : Op Nat := do
  if !canonical va then throw (.fault (pagePerm 1 (accCode a) va false))
  if inWindow va then
    match (← get).window? c.block c.core va n with
    | some (b, o) => readScratch b o n va a
    | none => throw (.fault (pagePerm 2 (accCode a) va false))
  else readGlobal c a va n

/-- Bytes written at a virtual address that may lie in a window. -/
def writeVa (c : Self) (va : Nat) (bs : List Byte) (sem scope : Nat) : Op Unit := do
  if !canonical va then throw (.fault (pagePerm 1 2 va false))
  if inWindow va then
    match (← get).window? c.block c.core va bs.length with
    | some (b, o) => modify fun s => s.putScratch b o bs
    | none => throw (.fault (pagePerm 2 2 va false))
  else writeGlobal c va bs sem scope

/-! ## Private memory (10 R244, R245) -/

/-- P of a wave: private bytes per thread. -/
def Wave.privBytes (w : Wave) : Nat := if w.frame.isSome then 16 * min (fld w.privsz.toNat 12 0) 4096 else 0

/-- The address of byte o of lane L's private memory. -/
def Wave.privVa (w : Wave) (lane o : Nat) : Nat :=
  fld w.priv.toNat 59 16 * 65536 + w.frame.getD 0 * 32 * w.privBytes + o / 4 * 128 + 4 * lane + o % 4

/-! ## Watches (18 R399) -/

/-- Whether byte v lies in a watch's region. -/
def watchCovers (r v : Nat) : Bool :=
  let len := 2 ^ (fld r 2 0 + 3)
  alignDown (fld r 59 3 * 8) len == alignDown v len

/-- The WATCH fault of an access of n bytes, if one matches: `kind` is 63 fetch, 62 read, 61 write. -/
def State.watchHit (s : State) (r : ThreadRef) (kind va n : Nat) : Option FInfo :=
  match s.wave? r.wave, s.thread? r with
  | some w, some t =>
    if t.trapinfo != 0 then none
    else
      let regs := (s.tenant (s.tenantOfWave w)).watch.map (·.toNat)
      (List.range 4).findSome? fun i =>
        let x := regs.getD i 0
        if bit x 60 && bit x kind then
          ((List.range n).find? fun j => watchCovers x (va + j)).map fun j =>
            { code := cWATCH, operand := i, addr := va + j, access := if kind == 61 then 2 else if kind == 62 then 1 else 0, after := true }
        else none
  | _, _ => none

/-! ## Atomics (12 R287) -/

/-- An indivisible read-modify-write of n bytes at a physical address: the old value, and what `f` makes of it, if anything, is stored. With
`red` it is performed like a store: poison and an unreachable home raise nothing, and there is no old value where the home is
unreachable (17 R375, 21 R457). -/
def rmwPa (c : Self) (red : Bool) (leaf pa va n : Nat) (atHome : Bool) (f : Nat → Option Nat) : Op (Option Nat) := do
  cuffCheck c.by_ pa true
  modify fun s => s.leaveCuffs c.by_ pa true
  let s ← get
  let pa := s.route pa
  if poolLost s pa then
    set (s.lostError pa)
    if red then pure none else throw (.fault (poisonFault .atomic 0 va))
  else
    if handoverHold s pa then throw (.hold (.handover (pa / 4096)))
    let s := (s.writeRequest c.who leaf pa atHome).noteRead pa n
    set s
    if s.poisoned pa n && !red then throw (.fault (poisonFault .atomic 0 va))
    let m := s.peek pa n
    match f m with
    | some x => set ((s.put c.who.tenant pa (natBytes n x)).headStore c.strand va pa)
    | none => pure ()
    pure (some m)

/-- An atomic or RED at a global address: `cas` gives the value compared. The old value and the flags. -/
def atomGlobal (c : Self) (red : Bool) (va op type v : Nat) (cas : Option Nat) (scope : Nat) : Op (Nat × Flags) := do
  let (pa, leaf) ← translateWrite c.who .atomic va
  match ← rmwPa c red leaf pa va (atomBytes type) (decide (4 ≤ scope)) fun m =>
      if cas.all (· == m) then some (atomNew op type m v).1 else none with
  | some m => pure (m, (atomNew op type m v).2)
  | none => pure (0, 0)

/-- The same on a block's scratchpad. -/
def atomScratch (red : Bool) (blk o va op type v : Nat) (cas : Option Nat) : Op (Nat × Flags) := do
  let n := atomBytes type
  let m ← if red then pure ((((← get).block? blk).map fun b => b.scratch.readNat o n).getD 0) else readScratch blk o n va .atomic
  let (x, fl) := atomNew op type m v
  if cas.all (· == m) then modify fun s => s.putScratch blk o (natBytes n x)
  pure (m, fl)

end Sys2Proof.Machine
end

