-- ==== Sys2Proof/Machine/Visor.lean ====
section
/-! DEFINITION. The records of Visor, the trace unit (18 R397). -/
namespace Sys2Proof.Machine

/-- STRANDID of a block's threads (01 R24, 09 R221). -/
def Block.strandId (b : Block) : Nat :=
  match b.strand with
  | some (_, k) => 2 ^ 31 + k
  | none => 0

/-- What a record says besides its time, its sequence and the thread's name. -/
structure VisRec where
  type   : Nat
  pc     : Nat
  aux    : Nat := 0
  id     : Nat := 0
  reason : Nat := 0
  code   : Nat := 0
  deriving DecidableEq, Repr

/-- A record written for a thread, or dropped when the ring is full or cannot be reached (18 R397, 22 R425). -/
def State.visWrite (s : State) (r : ThreadRef) (v : VisRec) : State :=
  match s.wave? r.wave, s.thread? r with
  | some w, some th =>
    match s.blockOf w with
    | none => s
    | some b =>
      let tenant := s.tenantOfWave w
      let t := s.tenant tenant
      let reg := t.vis.toNat
      if !bit reg 0 || t.flr then s
      else
        let (graph, num) := s.nameOf (some b.task)
        let sid := b.strandId
        let tail := fld t.vishead.toNat 63 32
        let head := fld t.vishead.toNat 31 0
        let size := 2 ^ (fld reg 11 8 + 6)
        let rec_ := s.clockOf tenant * 2 ^ 448 + v.pc * 2 ^ 384 + v.aux * 2 ^ 320 + graph * 2 ^ 288 + num * 2 ^ 256 + b.blockId * 2 ^ 224
          + th.ltid * 2 ^ 192 + t.visSeq * 2 ^ 160 + t.visLost * 2 ^ 144 + v.id * 2 ^ 132 + v.reason * 2 ^ 124 + v.code * 2 ^ 116
          + v.type * 2 ^ 112 + b2n (bit sid 31) * 2 ^ 111 + fld sid 2 0 * 2 ^ 108
        let s := s.updTenant tenant fun t => { t with visSeq := (t.visSeq + 1) % 2 ^ 32 }
        let (ok, s') :=
          if (tail + 2 ^ 32 - head) % 2 ^ 32 == size then (false, s)
          else s.devWrite tenant (fld reg 59 12 * 4096 + 64 * (tail % size)) (natBytes 64 rec_)
        if ok then
          s'.updTenant tenant fun t => { t with vishead := setBits t.vishead 63 32 ((tail + 1) % 2 ^ 32), visLost := 0 }
        else s'.updTenant tenant fun t => { t with visLost := satAdd16 t.visLost 1 }
  | _, _ => s

end Sys2Proof.Machine
end

