-- ==== Sys2Proof/Machine/Ops.lean ====
section
/-! DEFINITION. The shared operations of the instructions: taking an exception and returning from one, and the driver that runs
an instruction over the lanes of its cohort (01 R15; 03 R71; 06 R144; 17 R363-R372, R381). -/
namespace Sys2Proof.Machine

/-! ## Private memory of a thread -/

/-- n bytes of a lane's private memory, inside one aligned word (10 R244). -/
def readPriv (c : Self) (w : Wave) (lane o n : Nat) : Op Nat := do
  let va := w.privVa lane o
  let (pa, leaf) ← translate c.who .load va
  readPa c.who c.by_ .load leaf pa va n

/-- Bytes of a lane's private memory written, inside one aligned word. The core's L1 holds the line for it (10 R246, 13 R326). -/
def writePriv (c : Self) (w : Wave) (lane o : Nat) (bs : List Byte) : Op Unit := do
  let va := w.privVa lane o
  let (pa, leaf) ← translateWrite c.who .store va
  writePa c.who c.by_ leaf pa bs false
  modify fun s =>
    let pa := s.route pa
    if cacheable s leaf pa then s.fillL1 c.core (lineOf pa) else s

/-! ## Taking an exception (17 R369-R371) -/

/-- TRAPINFO of a fault (17 R369). -/
def FInfo.trapinfo (f : FInfo) : Word :=
  BitVec.ofNat 32 (f.code % 256 * 2 ^ 24 + b2n f.slotB * 2 ^ 23 + f.cause % 64 * 2 ^ 16 + f.access % 4 * 2 ^ 8 + f.operand % 256)

/-- The trap frame of a thread (17 R370). -/
def trapFrame (w : Wave) (t : Thread) (f : FInfo) : Nat :=
  let two := decide (2 ≤ w.allot)
  let r0 := t.regs.getD 0 Reg.zero
  let r1 := t.regs.getD 1 Reg.zero
  (if two then r0.val.toNat + r1.val.toNat * 2 ^ 32 + r0.tag.code * 2 ^ 64 + r1.tag.code * 2 ^ 68 else 0)
    + t.preds.toNat * 2 ^ 256 + w.fstat.toNat * 2 ^ 288 + f.lanes * 2 ^ 320 + f.trapinfo.toNat * 2 ^ 352 + f.dataAddr * 2 ^ 384
    + f.resume * 2 ^ 448

/-- A thread can enter the handler (17 R370). -/
def canEnter (s : State) (w : Wave) (t : Thread) : Bool :=
  bit (s.tenant (s.tenantOfWave w)).trap.toNat 0 && t.trapinfo == 0 && w.frame.isSome && decide (64 ≤ w.privBytes)

/-- The trap frame written with plain private stores. -/
def writeFrameTo (c : Self) (w : Wave) (lane frame : Nat) : Op Unit := do
  for i in List.range 16 do
    writePriv c w lane (4 * i) (natBytes 4 (fld frame (32 * i + 31) (32 * i)))

/-- The handler's first address of a tenant. -/
def Tenant.handlerPc (t : Tenant) : BitVec 60 := BitVec.ofNat 60 (fld t.trap.toNat 59 2 * 4)

/-- The fault is recorded in the hub's buffer and the lane parks on its entry (10 R261). -/
def State.park (s : State) (r : ThreadRef) (f : FInfo) (entering : Option FInfo) : State :=
  let c := s.self r
  let (id, s) := s.recordFault (hubOfDie c.who.die) c.who.tenant c.who.asid f false
  s.updThread r fun t => { t with status := .parked id f entering, retry := true }

/-- A breakpoint or watch record where Visor keeps them, once for a fault (18 R397). -/
def State.noteFault (s : State) (tenant : Nat) (r : ThreadRef) (f : FInfo) : State :=
  if bit (s.tenant tenant).vis.toNat 2 && (f.code == cBKPT || f.code == cWATCH) && !f.noted then
    s.visWrite r { type := if f.code == cBKPT then 3 else 4, pc := f.pc, aux := if f.code == cWATCH then f.addr else 0, code := f.operand }
  else s

/-- TAKING AN EXCEPTION: a handler-class fault of a thread enters the handler, with the trap frame written, TRAPINFO set and the PC
at the handler; without a handler, inside one, or for a fault of the abort class, the task's abort is recorded. A trap-frame store
that faults parks the lane; one that is held leaves the entry pending (17 R370, R371). -/
def State.takeFault (s : State) (r : ThreadRef) (f : FInfo) : State :=
  match s.wave? r.wave, s.thread? r with
  | some w, some t =>
    let tenant := s.tenantOfWave w
    let s := s.noteFault tenant r f
    let f := { f with noted := true }
    if f.code == cSAFEPT_OVERRUN || !canEnter s w t then
      match s.blockOf w with
      | some b => s.markAbort b.task (faultEnd f f.pc)
      | none => s
    else
      match writeFrameTo (s.self r) w r.lane (trapFrame w t f) s with
      | .ok _ s => s.updThread r fun t =>
          { t with status := .run, trapinfo := f.trapinfo, pc := (s.tenant tenant).handlerPc, turns := 0, retry := false
                   again := false, inst := none, redo := none }
      | .error (.fault g) s => s.park r g (some f)
      | .error (.hold _) s => s.updThread r fun t => { t with status := .pending f }
  | _, _ => s

/-- A fault of a thread goes where 17 R363 sends it: held in a speculative strand (09 R232), parked on a fault entry, kept until
the wave's replay, or taken. -/
def State.raiseFault (s : State) (r : ThreadRef) (f : FInfo) (wavePark : Bool) : State :=
  let c := s.self r
  if s.speculative c.strand then s.updThread r fun t => { t with status := .heldFault f }
  else if f.replay then s.park r f none
  else if wavePark then s.updThread r fun t => { t with status := .pending f }
  else s.takeFault r f

/-! ## Running an instruction over its cohort -/

/-- The bytes of an instruction's length code. -/
def lenBytes (l : Len) : Nat :=
  match l with
  | .l64 => 8
  | .l96 => 12
  | .l128 => 16

/-- A thread that completes an instruction: its registers and predicates written, its PC advanced or set, TRAPINFO cleared by
TRET. -/
def Thread.complete (t : Thread) (o : LaneOut) (len : Nat) : Thread :=
  let t := o.regs.foldl (fun t (d, v) => t.write d v) t
  let t := o.preds.foldl (fun t (n, b) => t.write (.p (Fin.ofNat 8 n)) ⟨if b then 1 else 0, .n32⟩) t
  { t with pc := o.pc.getD (t.pc + BitVec.ofNat 60 len), status := .run, turns := 0, retry := false, again := false, inst := none, redo := none
           trapinfo := if o.leaves then 0 else t.trapinfo }

/-- A thread of the cohort whose guard is false only moves on (03 R72). -/
def Thread.skip (t : Thread) (len : Nat) : Thread :=
  { t with pc := t.pc + BitVec.ofNat 60 len, status := .run, turns := 0, retry := false, again := false, inst := none, redo := none }

/-- A wait without its destination. -/
def Wait.dropDest (w : Wait) : Wait :=
  match w with
  | .waitw ea c b t0 l v d => .waitw ea c b t0 l v (if d matches .s _ then .unused else d)
  | .msync t d => .msync t (if d matches .s _ then .unused else d)
  | .gcmp d => .gcmp (if d matches .s _ then .unused else d)
  | .curq c k d => .curq c k (if d matches .s _ then .unused else d)
  | .moves l d => .moves l (if d matches .s _ then .unused else d)
  | w => w

/-- What becomes of one lane's thread, but for faults; `keep` says whether it is the lane whose wait writes a uniform destination. -/
def settleLane (keep : Bool) (len : Nat) (res : LaneRes) (t : Thread) : Thread :=
  match res with
  | .done o => t.complete o len
  | .wait w f => { t with status := .waiting (if keep then w else w.dropDest) (t.pc + BitVec.ofNat 60 len), watch := f, turns := 0, retry := true
                          again := false, inst := none, redo := none }
  | .hold h => { t with status := .held h, turns := 0, retry := true, again := t.again || t.status == .replay }
  | .fault _ => { t with turns := 0, again := false }

/-- A lane that counts as completing, or about to complete, the instruction. -/
def LaneRes.completes (r : LaneRes) : Bool :=
  match r with
  | .done _ => true
  | .wait _ _ => true
  | _ => false

/-- The uniform registers that a lane's result names. -/
def LaneRes.uniform (r : LaneRes) : List (Fin 64 × Reg) :=
  match r with
  | .done o => o.regs.filterMap fun (d, v) => match d with | .s n => some (n, v) | _ => none
  | _ => []

/-- The conditions that a lane's result raises. -/
def LaneRes.flags (r : LaneRes) : Flags :=
  match r with
  | .done o => o.flags
  | _ => 0

/-- The fault of a lane's result, if any. -/
def LaneRes.fault? (r : LaneRes) : Option FInfo :=
  match r with
  | .fault f => some f
  | .done o => o.after
  | _ => none

/-- A lane that is still to perform the instruction: it is held, or it is to be replayed (17 R365). -/
def LaneRes.outstanding (r : LaneRes) : Bool :=
  match r with
  | .hold _ => true
  | .fault f => f.replay
  | _ => false

/-- The uniform registers that completing lanes write: each by the lowest lane that names it (01 R15, 03 R78). Nothing where the
lowest completing lane has only begun to wait: its wait writes then. -/
def uniformWrites (rs : List (LaneCtx × LaneRes)) : List (Fin 64 × Reg) :=
  match rs.find? fun (_, r) => r.completes with
  | some (_, .done _) => rs.foldl (fun l (_, r) => l ++ r.uniform.filter fun (n, _) => !l.any fun (m, _) => m == n) []
  | _ => []

/-- The lanes of a cohort by the instruction that they are in: those that begin it, and those outstanding in one begun before. -/
def instGroups (rs : List (LaneCtx × LaneRes)) : List (Option Inst × List (LaneCtx × LaneRes)) :=
  if rs.all fun p => p.1.th.inst.isNone then [(none, rs)]
  else ((rs.map fun p => p.1.th.inst).eraseDups).map fun k => (k, rs.filter fun p => p.1.th.inst == k)

/-- The lane of a group that writes the uniform destination now: the lowest that completes, unless a lower one has (01 R15). -/
def groupWriter (g : Option Inst × List (LaneCtx × LaneRes)) : Option Nat :=
  match g.2.find? fun p => p.2.completes with
  | some (c, _) => if (g.1.bind (·.low)).all fun l => decide (c.lane < l) then some c.lane else none
  | none => none

/-- What a group writes to the uniform registers. -/
def groupWrites (g : Option Inst × List (LaneCtx × LaneRes)) : List (Fin 64 × Reg) :=
  if (groupWriter g).isSome then uniformWrites g.2 else []

/-- A thread of a wave after a group: a lane outstanding in it, or waiting beside such lanes, knows the instruction and who has written its
uniform destination; a wait of a higher lane no longer writes it. -/
def instThread (g : Option Inst × List (LaneCtx × LaneRes)) (new : Inst) (lane : Nat) (t : Thread) : Thread :=
  if g.2.any fun p => p.1.lane == lane && (p.2.outstanding || match p.2 with | .wait _ _ => true | _ => false) then { t with inst := some new }
  else if g.1.isSome && t.inst.map (·.id) == g.1.map (·.id) then
    { t with inst := some new
             status := match t.status, new.low with
               | .waiting w next, some l => if l < lane then .waiting w.dropDest next else .waiting w next
               | x, _ => x }
  else t

/-- The wave after a group that has lanes outstanding, or had. -/
def instWave (id : Nat) (w : Wave) (g : Option Inst × List (LaneCtx × LaneRes)) : Wave :=
  if g.1.isNone && !g.2.any fun p => p.2.outstanding then w
  else
    let low := match groupWriter g with | some l => some l | none => g.1.bind (·.low)
    { w with threads := w.threads.mapIdx fun i t => instThread g ⟨(g.1.map (·.id)).getD id, low⟩ i t }

/-- The wave after its lanes have their results: threads, uniform registers by the lowest lane that completes (01 R15), FSTAT. -/
def Wave.settle (w : Wave) (len id : Nat) (idle : List Nat) (rs : List (LaneCtx × LaneRes)) : Wave :=
  let gs := instGroups rs
  let w := rs.foldl (fun w (c, r) => w.updThread c.lane (settleLane (gs.any fun g => groupWriter g == some c.lane) len r)) w
  let w := idle.foldl (fun w i => w.updThread i fun t => t.skip len) w
  gs.foldl (instWave id)
    { w with
      sregs := (gs.flatMap groupWrites).foldl (fun l (n, v) => l.set n.val v) w.sregs
      fstat := rs.foldl (fun f (_, r) => raiseFlags f r.flags) w.fstat }

/-- Whether a fault is one of the lane's own access (17 R369, R370). -/
def FInfo.ofAccess (f : FInfo) : Bool := f.access != 3

/-- The PC after a lane's instruction. -/
def LaneRes.nextPc (c : LaneCtx) (r : LaneRes) : BitVec 60 :=
  match r with
  | .done o => o.pc.getD c.nextPc
  | _ => c.nextPc

/-- A fault with the PC, the resume point and the lane mask filled in (17 R370). -/
def FInfo.place (f : FInfo) (c : LaneCtx) (r : LaneRes) (mask : Nat) : FInfo :=
  { f with pc := c.th.pc.toNat, resume := if f.after then (r.nextPc c).toNat else c.th.pc.toNat, lanes := mask }

/-- The lanes of an instruction whose access faulted, of any class (17 R370). -/
def faultMask (rs : List (LaneCtx × LaneRes)) : Nat :=
  rs.foldl (fun m (c, r) =>
    let f := match r with | .wait _ f => f | r => r.fault?
    if f.any FInfo.ofAccess then m + 2 ^ c.lane else m) 0

/-- The faults of the lanes, placed. -/
def laneFaults (rs : List (LaneCtx × LaneRes)) : List (LaneCtx × FInfo) :=
  rs.filterMap fun (c, r) => r.fault?.map fun f => (c, f.place c r (faultMask rs))

/-- The threads that exit with the instruction. -/
def exitLanes (rs : List (LaneCtx × LaneRes)) : List LaneCtx :=
  rs.filterMap fun (c, r) => match r with | .done o => if o.exits then some c else none | _ => none

/-- The lanes of the cohort that exist, each with what it sees before the instruction. -/
def Cohort.lanesOf (c : Cohort) (w : Wave) (len : Nat) : List LaneCtx :=
  c.lanes.filterMap fun i => (w.threads[i]?).map fun t => ⟨i, t, w, len⟩

/-- The results of the active lanes in ascending order, each acting on the state the lower ones left. -/
def foldLanes (f : LaneCtx → State → LaneRes × State) : List LaneCtx → State → List (LaneCtx × LaneRes) × State
  | [], s => ([], s)
  | c :: cs, s =>
    let (r, s) := f c s
    let (rs, s) := foldLanes f cs s
    ((c, r) :: rs, s)

/-- The watch with the lower index (18 R399). -/
def firstWatch (f g : Option FInfo) : Option FInfo :=
  match f, g with
  | some a, some b => some (if b.operand < a.operand then b else a)
  | some a, none => some a
  | none, g => g

/-- A WATCH added to the result of a lane that performs its access: raised after the instruction, or after the wait that it begins. -/
def LaneRes.withAfter (r : LaneRes) (f : Option FInfo) : LaneRes :=
  match r with
  | .done o => .done { o with after := firstWatch o.after f }
  | .wait w g => .wait w (firstWatch g f)
  | r => r

/-- The fetch watch of a lane's instruction (18 R399). -/
def State.fetchWatch (s : State) (c : LaneCtx) : Option FInfo := s.watchHit c.ref 63 c.th.pc.toNat c.len

/-- The WATCH that a wait keeps, placed at its instruction. -/
def LaneRes.placeWait (r : LaneRes) (c : LaneCtx) (mask : Nat) : LaneRes :=
  match r with
  | .wait w (some f) => .wait w (some (f.place c r mask))
  | r => r

/-- The results of the active lanes with their fetch watches; one that a wait keeps is placed at once. -/
def fetchWatches (s : State) (rs : List (LaneCtx × LaneRes)) : List (LaneCtx × LaneRes) :=
  let rs := rs.map fun (c, r) => (c, r.withAfter (s.fetchWatch c))
  rs.map fun (c, r) => (c, r.placeWait c (faultMask rs))

/-- A thread that a save finds waiting, held by the save or at a full early-signal table, parked, or with a fault that waits for its
wave's replay (`parked`), is stopped (18 R388, R394). -/
def Thread.stopHere (parked : Bool) (t : Thread) : Thread :=
  match t.status with
  | .waiting (.moves _ _) _ => t
  | .waiting _ _ => { t with stopped := true }
  | .held .saving => { t with stopped := true }
  | .held .earlyFull => { t with stopped := true }
  | .parked _ _ _ => { t with stopped := true }
  | .pending _ => if parked then { t with stopped := true } else t
  | .exited => { t with stopped := true }
  | _ => t

/-- A lane that is parked, or that is to be replayed or is held in its replay (17 R365). -/
def Thread.unreplayed (t : Thread) : Bool :=
  match t.status with
  | .parked _ _ _ => true
  | .replay => true
  | .held _ => t.again
  | _ => false

/-- Whether some lane of the wave is parked or is being replayed (17 R365). -/
def Wave.parked (w : Wave) : Bool := w.threads.any Thread.unreplayed

/-- The threads of a wave that stop under a save of its tenant. -/
def State.stopThreads (s : State) (ref : WaveRef) : State :=
  match s.wave? ref with
  | some w =>
    if (s.tenant (s.tenantOfWave w)).phase == .saving then
      s.updWave ref fun w => { w with threads := w.threads.map (Thread.stopHere w.parked) }
    else s
  | none => s

/-- The effect of the results on the wave, then the faults, then the exits. An instruction with lanes outstanding gets a name. -/
def finishLanes (ref : WaveRef) (len : Nat) (idle : List LaneCtx) (rs : List (LaneCtx × LaneRes)) (s : State) : State :=
  let rs := fetchWatches s rs
  let (id, s) := if rs.any fun p => p.2.outstanding then s.newId else (0, s)
  let s := s.updWave ref fun w => w.settle len id (idle.map (·.lane)) rs
  let fs := laneFaults rs
  let wavePark := fs.any fun (_, f) => f.replay
  let s := s.forEach fs fun (c, f) s => s.raiseFault c.ref f wavePark
  (s.forEach (exitLanes rs) fun c s => s.exitThread c.ref).stopThreads ref

/-- Runs an instruction for the cohort: every lane that acts does so in ascending order; then all results take effect (01 R15, 03 R71, R72,
06 R144). -/
def runActing (acts : Thread → Bool) (len : Nat) (f : LaneCtx → State → LaneRes × State) (s : State) : State :=
  match s.cur with
  | none => s
  | some c =>
    match s.wave? c.wave with
    | none => { s with cur := none }
    | some w =>
      let ls := c.lanesOf w len
      let (rs, s) := foldLanes f (ls.filter fun c => acts c.th) { s with cur := none }
      finishLanes c.wave len (ls.filter fun c => !acts c.th) rs s

/-- The same for the lanes whose guard is true. -/
def runLanes (g : Guard) (len : Nat) (f : LaneCtx → State → LaneRes × State) (s : State) : State := runActing (fun t => t.guard g) len f s

/-- An instruction that only its own lane's registers decide. -/
def runPure (x : Dev) (f : Dev → LaneCtx → LaneRes) (s : State) : State :=
  runLanes x.guard (lenBytes x.len) (fun c s => (f x c, s)) s

/-- The result of a lane from an operation on the state. -/
def laneOp (m : Op LaneRes) (s : State) : LaneRes × State :=
  match m s with
  | .ok r s => (r, s)
  | .error (.fault f) s => (.fault f, s)
  | .error (.hold h) s => (.hold h, s)

/-- An instruction whose lanes act on the state. -/
def runOp (x : Dev) (f : LaneCtx → Op LaneRes) (s : State) : State :=
  runLanes x.guard (lenBytes x.len) (fun c s => laneOp (f c) s) s

/-- The active lanes of the cohort: guard true (07 R162). -/
def activeLanes (g : Guard) (len : Nat) (s : State) : List LaneCtx :=
  match s.cur with
  | none => []
  | some c =>
    match s.wave? c.wave with
    | none => []
    | some w => (c.lanesOf w len).filter fun c => c.th.guard g

/-- An instruction that acts once for its cohort, with the active lanes in ascending order, and then gives each of them its result;
a stop is every active lane's (07 R162). -/
def runCohort (x : Dev) (m : List LaneCtx → Op (LaneCtx → LaneRes)) (s : State) : State :=
  let len := lenBytes x.len
  let act := activeLanes x.guard len s
  if act.isEmpty then runLanes x.guard len (fun _ s => (.done {}, s)) s
  else
    match m act s with
    | .ok f s => runLanes x.guard len (fun c s => (f c, s)) s
    | .error (.fault f) s => runLanes x.guard len (fun _ s => (.fault f, s)) s
    | .error (.hold h) s => runLanes x.guard len (fun _ s => (.hold h, s)) s

/-! ## Holds -/

/-- Whether the reason that holds a thread is gone (06 R142). -/
def holdCleared (s : State) (r : ThreadRef) (h : Hold) : Bool :=
  let c := s.self r
  match h with
  | .posting core => decide ((s.mats.filter fun o => o.by_.core == core).length < 16)
  | .copyQueue hub => decide ((s.copies.filter fun x => x.hub == hub).length < 4096)
  | .batchLimit => ((s.thread? r).map fun t => decide (t.unfinished < 16)).getD false
  | .strand => !s.mustWait c.strand
  | .saving => (s.tenant c.who.tenant).phase != .saving
  | .earlyFull => decide ((s.tenant c.who.tenant).early.length < 16384)
  | .cuff m =>
    match s.move? m with
    | none => true
    | some m =>
      m.phase != .cuff && (m.held.head?.any (fun q => s.sameIssue (.thread r) q.by_) || !m.held.any fun q => s.sameIssue (.thread r) q.by_)
  | .moveQueue hub => decide ((s.moves.filter fun m => m.hub == hub && m.phase == .queued).length < 1024)
  | .pinMoving ppn => (s.moveOf? ppn).isNone
  | .slot va => !s.slotHold c.strand va
  | .frames hub =>
    (List.range 40).any fun i =>
      match s.ringPa hub i with
      | none => false
      | some pa => let d := s.peek pa 16; fld d 47 32 != 0 && fld d 31 16 != fld d 15 0
  | .handover f => !handoverHold s (f * 4096)
  | .device e => !s.faults.any fun x => x.id == e

end Sys2Proof.Machine
end

