-- ==== Sys2Proof/Machine/Barrier.lean ====
section
/-! DEFINITION. The barrier instructions (07 R171-R175). -/
namespace Sys2Proof.Machine

/-- The barrier index: BAR, or the leader's B (07 R172). -/
def barIndex (x : Dev) (leader : LaneCtx) : Nat := if bit x.m 11 then leader.srcN x.b else fld x.m 10 0

/-- The leader's block and the barrier that the instruction names; an index beyond the block's barriers is REG_RANGE. -/
def barrierOf (x : Dev) (leader : LaneCtx) : Op (Nat × Barrier) := do
  let i := barIndex x leader
  match ((← get).block? leader.wave.block).bind fun b => b.barriers[i]? with
  | some b => pure (i, b)
  | none => throw (.fault { code := cREG_RANGE })

/-- ARRIVED after n more arrivals. The field has 12 bits, and the spec states no value beyond them: it is free then (log entry
25). -/
def State.arrive (s : State) (b : Barrier) (n : Nat) : Barrier × State :=
  if b.arrived + n < 4096 then ({ b with arrived := b.arrived + n }, s)
  else
    let (w, s) := s.drawWord
    ({ b with arrived := w % 4096 }, s)

/-- The arrivals of a cohort, counted together, and the phase before them (07 R173). -/
def arriveOp (x : Dev) (act : List LaneCtx) (leader : LaneCtx) : Op (Nat × Word) := do
  let (i, b) ← barrierOf x leader
  let (b', s) := (← get).arrive b act.length
  set (s.setBarrier leader.wave.block i b'.settle)
  pure (i, b.phase)

/-- BINIT with a count (07 R173). -/
def Barrier.initCount (b : Barrier) (x live : Nat) : Barrier :=
  if x == 0 then { phase := b.phase + 1, arrived := 0, expected := live, init := false }
  else Barrier.settle { b with expected := min x 2048, init := true }

/-- The shape of the barrier instructions: an operation with the leader's operands. -/
def runBarrier (x : Dev) (m : List LaneCtx → LaneCtx → Op (LaneCtx → LaneRes)) (s : State) : State :=
  runCohort x (fun act => match act.head? with
    | some c => m act c
    | none => pure fun _ => .done {}) s

def binitOp (x : Dev) (_ : List LaneCtx) (c : LaneCtx) : Op (LaneCtx → LaneRes) := do
  let (i, b) ← barrierOf x c
  modify fun s => s.setBarrier c.wave.block i (b.initCount (c.srcN x.a) (s.liveThreads c.wave.block))
  pure fun _ => .done {}

def barvOp (x : Dev) (act : List LaneCtx) (c : LaneCtx) : Op (LaneCtx → LaneRes) := do
  let (_, tok) ← arriveOp x act c
  pure fun _ => result x.d tok .n32

def bwaitOp (x : Dev) (_ : List LaneCtx) (c : LaneCtx) : Op (LaneCtx → LaneRes) := do
  let (i, b) ← barrierOf x c
  pure fun l => let tok := (l.src x.a).val; if b.phase != tok then .done {} else .wait (.barrier i tok false)

def barwOp (x : Dev) (act : List LaneCtx) (c : LaneCtx) : Op (LaneCtx → LaneRes) := do
  let (i, tok) ← arriveOp x act c
  let (_, b) ← barrierOf x c
  pure fun _ => if b.phase != tok then .done {} else .wait (.barrier i tok true)

def btestOp (x : Dev) (_ : List LaneCtx) (c : LaneCtx) : Op (LaneCtx → LaneRes) := do
  let (_, b) ← barrierOf x c
  pure fun l => resultP x.d (b.phase != (l.src x.a).val)

/-! ## Meanings -/

def execBinit (x : Dev) (s : State) : Host.Outcome State Fault Refusal := .next (runBarrier x (binitOp x) s)
def execBarv (x : Dev) (s : State) : Host.Outcome State Fault Refusal := .next (runBarrier x (barvOp x) s)
def execBwait (x : Dev) (s : State) : Host.Outcome State Fault Refusal := .next (runBarrier x (bwaitOp x) s)
def execBarw (x : Dev) (s : State) : Host.Outcome State Fault Refusal := .next (runBarrier x (barwOp x) s)
def execBtest (x : Dev) (s : State) : Host.Outcome State Fault Refusal := .next (runBarrier x (btestOp x) s)

end Sys2Proof.Machine
end

