-- ==== Sys2Proof/Machine/Int.lean ====
section
/-! DEFINITION. The integer, logic, address and predicate instructions (04 R87-R108). -/
namespace Sys2Proof.Machine

/-! ## Integer operands and results (04 R87-R89) -/

/-- A tag of the scalar integer class (04 R87). -/
def scalarTag (t : Tag) : Bool := t == .i32 || t == .n32

/-- `ival` of a scalar source (04 R87). -/
def ival (r : Reg) : Int := if r.tag == .n32 then (r.val.toNat : Int) else sextN r.val.toNat 32

/-- The elements of the packed integer class: width, count, signed (04 R87). -/
def packedInt (t : Tag) : Option (Nat × Nat × Bool) :=
  match t with
  | .i16x2 => some (16, 2, true)
  | .i8x4 => some (8, 4, true)
  | .n8x4 => some (8, 4, false)
  | _ => none

/-- The range of an n-bit integer. -/
def intRange (n : Nat) (signed : Bool) : Int × Int :=
  if signed then (-((2 ^ (n - 1) : Nat) : Int), ((2 ^ (n - 1) : Nat) : Int) - 1) else (0, ((2 ^ n : Nat) : Int) - 1)

/-- An exact result narrowed to n bits: wrapped, or saturated with FSTAT.SAT (04 R88). -/
def narrowInt (sat : Bool) (n : Nat) (signed : Bool) (y : Int) : Nat × Flags :=
  if sat then
    let r := intRange n signed
    let z := satI y r.1 r.2
    (wrapN z n, flagIf (z != y) fSAT)
  else (wrapN y n, 0)

/-- SAT of the integer arithmetic layout (03 R74). -/
def Dev.sat (x : Dev) : Bool := bit x.m 3

/-- A scalar result in the format of a tag (04 R88). -/
def scalarResult (x : Dev) (tag : Tag) (y : Int) : LaneRes :=
  let (v, fl) := narrowInt (Dev.sat x) 32 (tag != .n32) y
  result x.d (BitVec.ofNat 32 v) tag fl

/-- Element i of a packed integer. -/
def elemI (v w i : Nat) (signed : Bool) : Int :=
  let e := fld v (w * i + w - 1) (w * i)
  if signed then sextN e w else (e : Int)

/-- A packed result, element by element (04 R89). -/
def packedResult (x : Dev) (tag : Tag) (w n : Nat) (signed : Bool) (f : Nat → Int) : LaneRes :=
  let (v, fl) := (List.range n).foldl (fun (acc : Nat × Flags) i =>
    let (e, g) := narrowInt (Dev.sat x) w signed (f i)
    (acc.1 + e * 2 ^ (w * i), acc.2 ||| g)) (0, 0)
  result x.d (BitVec.ofNat 32 v) tag fl

/-- Scalar arithmetic on two sources (04 R88, R89). -/
def arith2 (f : Int → Int → Int) (x : Dev) (c : LaneCtx) : LaneRes :=
  let a := c.src x.a
  let b := c.src x.b
  if tchkFails x.m [a.tag, b.tag] || !(scalarTag a.tag && scalarTag b.tag) then tagFault
  else scalarResult x a.tag (f (ival a) (ival b))

/-- Scalar or packed arithmetic on two sources (04 R88, R89). -/
def arith2p (f : Int → Int → Int) (x : Dev) (c : LaneCtx) : LaneRes :=
  let a := c.src x.a
  let b := c.src x.b
  if tchkFails x.m [a.tag, b.tag] then tagFault
  else if scalarTag a.tag && scalarTag b.tag then scalarResult x a.tag (f (ival a) (ival b))
  else
    match packedInt a.tag with
    | some (w, n, sg) =>
      if a.tag == b.tag then packedResult x a.tag w n sg fun i => f (elemI a.val.toNat w i sg) (elemI b.val.toNat w i sg)
      else tagFault
    | none => tagFault

/-- Scalar or packed arithmetic on one source. -/
def arith1p (f : Int → Int) (x : Dev) (c : LaneCtx) : LaneRes :=
  let a := c.src x.a
  if tchkFails x.m [a.tag] then tagFault
  else if scalarTag a.tag then scalarResult x a.tag (f (ival a))
  else
    match packedInt a.tag with
    | some (w, n, sg) => packedResult x a.tag w n sg fun i => f (elemI a.val.toNat w i sg)
    | none => tagFault

/-- Scalar arithmetic on three sources. -/
def arith3 (f : Int → Int → Int → Int) (x : Dev) (c : LaneCtx) : LaneRes :=
  let a := c.src x.a
  let b := c.src x.b
  let z := c.src x.c
  if tchkFails x.m [a.tag, b.tag, z.tag] || !(scalarTag a.tag && scalarTag b.tag && scalarTag z.tag) then tagFault
  else scalarResult x a.tag (f (ival a) (ival b) (ival z))

/-! ## Integer arithmetic (04 R91-R95) -/

def iaddLane := arith2p (· + ·)
def isubLane := arith2p (· - ·)
def imulLane := arith2 (· * ·)
def imadLane := arith3 fun a b c => a * b + c
def iminLane := arith2p min
def imaxLane := arith2p max
def iabsLane := arith1p fun a => (a.natAbs : Int)
def inegLane := arith1p fun a => -a
def isadLane := arith3 fun a b c => ((a - b).natAbs : Int) + c

/-- IMULH: the high word of the 64-bit product (04 R92). -/
def imulhLane (x : Dev) (c : LaneCtx) : LaneRes :=
  let a := c.src x.a
  let b := c.src x.b
  if tchkFails x.m [a.tag, b.tag] || !(scalarTag a.tag && scalarTag b.tag) then tagFault
  else result x.d (BitVec.ofNat 32 (wrapN (ival a * ival b) 64 / 2 ^ 32)) a.tag

/-- A 64-bit integer by its tag's signedness. -/
def int64 (signed : Bool) (n : Nat) : Int := if signed then sextN n 64 else (n : Int)

/-- IMADW: a × b plus a 64-bit c (04 R92). -/
def imadwLane (x : Dev) (c : LaneCtx) : LaneRes :=
  let a := c.src x.a
  let b := c.src x.b
  let (lo, hi) := c.srcW x.c
  if tchkFails x.m [a.tag, b.tag, lo.tag, hi.tag] || !(scalarTag a.tag && scalarTag b.tag && scalarTag lo.tag) || lo.tag != hi.tag then
    tagFault
  else
    let (v, fl) := narrowInt (Dev.sat x) 64 (lo.tag != .n32) (ival a * ival b + int64 (lo.tag != .n32) (c.srcWN x.c))
    resultW x.d v lo.tag lo.tag fl

/-- IDIV, and with `rem` IREM (04 R93). -/
def divLane (rem : Bool) (x : Dev) (c : LaneCtx) : LaneRes :=
  let a := c.src x.a
  let b := c.src x.b
  if tchkFails x.m [a.tag, b.tag] || !(scalarTag a.tag && scalarTag b.tag) then tagFault
  else if b.val == 0 then result x.d (if rem then a.val else 0xFFFFFFFF) a.tag fDZ
  else
    let q := (ival a).tdiv (ival b)
    scalarResult x a.tag (if rem then ival a - q * ival b else q)

/-- A packed byte tag. -/
def byteTag (t : Tag) : Bool := t == .i8x4 || t == .n8x4

/-- IDP4 (04 R94). -/
def idp4Lane (x : Dev) (c : LaneCtx) : LaneRes :=
  let a := c.src x.a
  let b := c.src x.b
  let z := c.src x.c
  if tchkFails x.m [a.tag, b.tag, z.tag] || !(byteTag a.tag && byteTag b.tag && scalarTag z.tag) then tagFault
  else
    let p := fun i => elemI a.val.toNat 8 i (a.tag == .i8x4) * elemI b.val.toNat 8 i (b.tag == .i8x4)
    scalarResult x z.tag (ival z + p 0 + p 1 + p 2 + p 3)

/-- A result with a predicate beside it. -/
def resultCarry (d : Operand) (v : Word) (t : Tag) (p : Nat) (b : Bool) : LaneRes :=
  .done { regs := [(d, ⟨v, t⟩)], preds := [(p, b)] }

/-- IADDC (04 R95). -/
def iaddcLane (x : Dev) (c : LaneCtx) : LaneRes :=
  let a := c.src x.a
  let b := c.src x.b
  if tchkFails x.m [a.tag, b.tag] || !(scalarTag a.tag && scalarTag b.tag) then tagFault
  else
    let cin := c.pred x.c != bit x.m 9
    let s := a.val.toNat + b.val.toNat + b2n cin
    resultCarry x.d (BitVec.ofNat 32 s) a.tag (fld x.m 2 0) (decide (2 ^ 32 ≤ s))

/-- ISUBB (04 R95). -/
def isubbLane (x : Dev) (c : LaneCtx) : LaneRes :=
  let a := c.src x.a
  let b := c.src x.b
  if tchkFails x.m [a.tag, b.tag] || !(scalarTag a.tag && scalarTag b.tag) then tagFault
  else
    let cin := c.pred x.c != bit x.m 9
    let s : Int := (a.val.toNat : Int) - (b.val.toNat : Int) - (b2n cin : Int)
    resultCarry x.d (BitVec.ofNat 32 (wrapN s 32)) a.tag (fld x.m 2 0) (decide (s < 0))

/-! ## Comparison and selection (04 R96, R97) -/

/-- An integer comparison by COND (04 R96). -/
def condInt (n : Nat) (a b : Int) : Bool :=
  match n with
  | 0 => a == b
  | 1 => a != b
  | 2 => decide (a < b)
  | 3 => decide (a ≤ b)
  | 4 => decide (b < a)
  | _ => decide (b ≤ a)

/-- A comparison's outcome combined with the predicate C by BOP (04 R96). -/
def combine (bop : Nat) (t p : Bool) : Bool :=
  match bop with
  | 0 => t
  | 1 => t && p
  | 2 => t || p
  | _ => t != p

/-- ICMP (04 R96). -/
def icmpLane (x : Dev) (c : LaneCtx) : LaneRes :=
  let a := c.src x.a
  let b := c.src x.b
  if tchkFails x.m [a.tag, b.tag] || !(scalarTag a.tag && scalarTag b.tag) then tagFault
  else resultP x.d (combine (fld x.m 10 9) (condInt (fld x.m 2 0) (ival a) (ival b)) (c.pred x.c))

/-- The signedness of a 64-bit integer by the tags of its halves, none for a mismatch (04 R96, R103). -/
def wideSign (r : Reg × Reg) : Option Bool :=
  if r.1.tag != r.2.tag then none
  else
    match r.1.tag with
    | .i32 => some true
    | .fx => some true
    | .n32 => some false
    | .raw => some false
    | _ => none

/-- CMP64 (04 R96). -/
def cmp64Lane (x : Dev) (c : LaneCtx) : LaneRes :=
  match wideSign (c.srcW x.a), wideSign (c.srcW x.b) with
  | some sa, some sb =>
    resultP x.d (combine (fld x.m 10 9) (condInt (fld x.m 2 0) (int64 sa (c.srcWN x.a)) (int64 sb (c.srcWN x.b))) (c.pred x.c))
  | _, _ => tagFault

/-- A copy of a register or a pair with its tags. -/
def copyRes (wide : Bool) (d : Operand) (c : LaneCtx) (o : Operand) : LaneRes :=
  .done { regs := (d, c.src o) :: (if wide then [(d.plus 1, c.src (o.plus 1))] else []) }

/-- SEL (04 R97). -/
def selLane (x : Dev) (c : LaneCtx) : LaneRes :=
  let wide := bit x.m 1
  if (c.src x.a).tag != (c.src x.b).tag || (wide && (c.src (x.a.plus 1)).tag != (c.src (x.b.plus 1)).tag) then tagFault
  else copyRes wide x.d c (if c.pred x.c != bit x.m 0 then x.a else x.b)

/-! ## Logic and bit manipulation (04 R98-R101) -/

/-- A result of one source with its tag. -/
def bits1 (f : Word → Word) (x : Dev) (c : LaneCtx) : LaneRes := result x.d (f (c.src x.a).val) (c.src x.a).tag
/-- A result of two sources with A's tag. -/
def bits2 (f : Word → Word → Word) (x : Dev) (c : LaneCtx) : LaneRes :=
  result x.d (f (c.src x.a).val (c.src x.b).val) (c.src x.a).tag
/-- A result of three sources with A's tag. -/
def bits3 (f : Word → Word → Word → Word) (x : Dev) (c : LaneCtx) : LaneRes :=
  result x.d (f (c.src x.a).val (c.src x.b).val (c.src x.c).val) (c.src x.a).tag

def andLane := bits2 (· &&& ·)
def orLane := bits2 (· ||| ·)
def xorLane := bits2 (· ^^^ ·)
def andnLane := bits2 fun a b => a &&& ~~~b
def notLane := bits1 fun a => ~~~a

/-- A three-input lookup table on every bit position (04 R98). -/
def lut3 (lut : Nat) (a b c : Word) : Word :=
  BitVec.ofNat 32 ((List.range 32).foldl (fun n i =>
    n + b2n (bit lut (4 * b2n (c.getLsbD i) + 2 * b2n (b.getLsbD i) + b2n (a.getLsbD i))) * 2 ^ i) 0)

def lop3Lane (x : Dev) : LaneCtx → LaneRes := bits3 (lut3 (fld x.m 7 0)) x
def brevLane := bits1 BitVec.reverse

/-- The number of 1 bits. -/
def popcount (a : Word) : Nat := (List.range 32).foldl (fun n i => n + b2n (a.getLsbD i)) 0
/-- The number of 0 bits above the highest 1. -/
def clz32 (a : Word) : Nat := if a == 0 then 32 else 31 - Nat.log2 a.toNat
/-- The number of 0 bits below the lowest 1. -/
def ctz32 (a : Word) : Nat := ((List.range 32).find? fun i => a.getLsbD i).getD 32

def popcLane (x : Dev) (c : LaneCtx) : LaneRes := resultN x.d (popcount (c.src x.a).val)
def clzLane (x : Dev) (c : LaneCtx) : LaneRes := resultN x.d (clz32 (c.src x.a).val)
def ctzLane (x : Dev) (c : LaneCtx) : LaneRes := resultN x.d (ctz32 (c.src x.a).val)

def shlLane := bits2 fun a n => if n.toNat < 32 then a <<< n.toNat else 0
def shrLane := bits2 fun a n => a >>> n.toNat
def sarLane := bits2 fun a n => a.sshiftRight n.toNat
def rotlLane := bits2 fun a n => a.rotateLeft (n.toNat % 32)

/-- SHF (04 R99). -/
def funnel (left : Bool) (a b c : Word) : Word :=
  let h := b.toNat * 2 ^ 32 + a.toNat
  let n := min c.toNat 32
  BitVec.ofNat 32 (if left then h <<< n >>> 32 else h >>> n)

def shfLane (x : Dev) : LaneCtx → LaneRes := bits3 (funnel (bit x.m 0)) x

/-- BFE (04 R100). -/
def bfeWord (signed : Bool) (a ctl : Word) : Word :=
  let pos := fld ctl.toNat 7 0
  let len := fld ctl.toNat 15 8
  if decide (32 ≤ pos) || len == 0 then 0
  else
    let len := min len (32 - pos)
    let f := (a.toNat >>> pos) % 2 ^ len
    BitVec.ofNat 32 (if signed then wrapN (sextN f len) 32 else f)

/-- BFI (04 R100). -/
def bfiWord (a b ctl : Word) : Word :=
  let pos := fld ctl.toNat 7 0
  let len := fld ctl.toNat 15 8
  if decide (32 ≤ pos) || len == 0 then a
  else
    let m : Word := BitVec.ofNat 32 ((2 ^ min len (32 - pos) - 1) <<< pos)
    a &&& ~~~m ||| (b <<< pos) &&& m

def bfeLane (x : Dev) : LaneCtx → LaneRes := bits2 (bfeWord (bit x.m 0)) x
def bfiLane := bits3 bfiWord

/-- One result byte of PRMT (04 R101). -/
def prmtByte (x : Nat) (s : Nat) : Nat :=
  let b := fld x (8 * (s % 8) + 7) (8 * (s % 8))
  let y := if bit s 4 then 0 else if bit s 5 then (if bit b 7 then 0xFF else 0) else b
  if bit s 3 then 0xFF - y else y

/-- PRMT (04 R101). -/
def prmtWord (a b c : Word) : Word :=
  let x := b.toNat * 2 ^ 32 + a.toNat
  BitVec.ofNat 32 ((List.range 4).foldl (fun n i => n + prmtByte x (fld c.toNat (8 * i + 7) (8 * i)) * 2 ^ (8 * i)) 0)

def prmtLane := bits3 prmtWord

/-! ## Moves and 64-bit address arithmetic (04 R102-R104) -/

def movLane (x : Dev) (c : LaneCtx) : LaneRes := copyRes (bit x.m 0) x.d c x.a

/-- The tag of RTAG; an encoding with 15 does not decode (04 R102). -/
def rtag (n : Nat) : Tag := (Tag.ofCode? n).getD .raw

def moviLane (x : Dev) (_ : LaneCtx) : LaneRes := result x.d (x.imm.setWidth 32) (rtag (fld x.m 7 4))
def movwLane (x : Dev) (_ : LaneCtx) : LaneRes := resultW x.d x.imm.toNat (rtag (fld x.m 7 4)) (rtag (fld x.m 7 4))

/-- LEA (04 R104). -/
def leaLane (x : Dev) (c : LaneCtx) : LaneRes :=
  let b := c.srcN x.b
  let i := if bit x.m 9 then b else wrapN (sextN b 32) 64
  resultW x.d ((c.srcWN x.a + i <<< fld x.m 2 0) % 2 ^ 64) .n32 .n32

/-- ADD64 and SUB64 (04 R103). -/
def arith64 (f : Int → Int → Int) (x : Dev) (c : LaneCtx) : LaneRes :=
  let a := c.srcW x.a
  let b := c.srcW x.b
  if (wideSign a).isNone || (wideSign b).isNone || (a.1.tag == .fx) != (b.1.tag == .fx) then tagFault
  else
    let y := f (sextN (c.srcWN x.a) 64) (sextN (c.srcWN x.b) 64)
    let (v, fl) := narrowInt (a.1.tag == .fx) 64 true y
    resultW x.d v a.1.tag a.1.tag fl

def add64Lane := arith64 (· + ·)
def sub64Lane := arith64 (· - ·)

/-! ## Predicates (04 R105, R107) -/

def plopLane (x : Dev) (c : LaneCtx) : LaneRes :=
  resultP x.d (bit (fld x.m 7 0) (4 * b2n (c.pred x.c) + 2 * b2n (c.pred x.b) + b2n (c.pred x.a)))

def pmovLane (x : Dev) (c : LaneCtx) : LaneRes :=
  match fld x.m 1 0 with
  | 0 => resultP x.d ((c.src x.a).val != 0)
  | 1 => resultN x.d (c.th.preds.toNat + 128)
  | _ => .done { preds := (List.range 7).map fun i => (i, (c.src x.a).val.getLsbD i) }

/-! ## Meanings -/

def execIadd (x : Dev) (s : State) : Host.Outcome State Fault Refusal := .next (runPure x iaddLane s)
def execIsub (x : Dev) (s : State) : Host.Outcome State Fault Refusal := .next (runPure x isubLane s)
def execImul (x : Dev) (s : State) : Host.Outcome State Fault Refusal := .next (runPure x imulLane s)
def execImulh (x : Dev) (s : State) : Host.Outcome State Fault Refusal := .next (runPure x imulhLane s)
def execImad (x : Dev) (s : State) : Host.Outcome State Fault Refusal := .next (runPure x imadLane s)
def execImadw (x : Dev) (s : State) : Host.Outcome State Fault Refusal := .next (runPure x imadwLane s)
def execIdiv (x : Dev) (s : State) : Host.Outcome State Fault Refusal := .next (runPure x (divLane false) s)
def execIrem (x : Dev) (s : State) : Host.Outcome State Fault Refusal := .next (runPure x (divLane true) s)
def execImin (x : Dev) (s : State) : Host.Outcome State Fault Refusal := .next (runPure x iminLane s)
def execImax (x : Dev) (s : State) : Host.Outcome State Fault Refusal := .next (runPure x imaxLane s)
def execIabs (x : Dev) (s : State) : Host.Outcome State Fault Refusal := .next (runPure x iabsLane s)
def execIneg (x : Dev) (s : State) : Host.Outcome State Fault Refusal := .next (runPure x inegLane s)
def execIaddc (x : Dev) (s : State) : Host.Outcome State Fault Refusal := .next (runPure x iaddcLane s)
def execIsubb (x : Dev) (s : State) : Host.Outcome State Fault Refusal := .next (runPure x isubbLane s)
def execIsad (x : Dev) (s : State) : Host.Outcome State Fault Refusal := .next (runPure x isadLane s)
def execIdp4 (x : Dev) (s : State) : Host.Outcome State Fault Refusal := .next (runPure x idp4Lane s)
def execAnd (x : Dev) (s : State) : Host.Outcome State Fault Refusal := .next (runPure x andLane s)
def execOr (x : Dev) (s : State) : Host.Outcome State Fault Refusal := .next (runPure x orLane s)
def execXor (x : Dev) (s : State) : Host.Outcome State Fault Refusal := .next (runPure x xorLane s)
def execNot (x : Dev) (s : State) : Host.Outcome State Fault Refusal := .next (runPure x notLane s)
def execAndn (x : Dev) (s : State) : Host.Outcome State Fault Refusal := .next (runPure x andnLane s)
def execLop3 (x : Dev) (s : State) : Host.Outcome State Fault Refusal := .next (runPure x lop3Lane s)
def execShl (x : Dev) (s : State) : Host.Outcome State Fault Refusal := .next (runPure x shlLane s)
def execShr (x : Dev) (s : State) : Host.Outcome State Fault Refusal := .next (runPure x shrLane s)
def execSar (x : Dev) (s : State) : Host.Outcome State Fault Refusal := .next (runPure x sarLane s)
def execRotl (x : Dev) (s : State) : Host.Outcome State Fault Refusal := .next (runPure x rotlLane s)
def execShf (x : Dev) (s : State) : Host.Outcome State Fault Refusal := .next (runPure x shfLane s)
def execBfe (x : Dev) (s : State) : Host.Outcome State Fault Refusal := .next (runPure x bfeLane s)
def execBfi (x : Dev) (s : State) : Host.Outcome State Fault Refusal := .next (runPure x bfiLane s)
def execBrev (x : Dev) (s : State) : Host.Outcome State Fault Refusal := .next (runPure x brevLane s)
def execPopc (x : Dev) (s : State) : Host.Outcome State Fault Refusal := .next (runPure x popcLane s)
def execClz (x : Dev) (s : State) : Host.Outcome State Fault Refusal := .next (runPure x clzLane s)
def execCtz (x : Dev) (s : State) : Host.Outcome State Fault Refusal := .next (runPure x ctzLane s)
def execPrmt (x : Dev) (s : State) : Host.Outcome State Fault Refusal := .next (runPure x prmtLane s)
def execIcmp (x : Dev) (s : State) : Host.Outcome State Fault Refusal := .next (runPure x icmpLane s)
def execSel (x : Dev) (s : State) : Host.Outcome State Fault Refusal := .next (runPure x selLane s)
def execMov (x : Dev) (s : State) : Host.Outcome State Fault Refusal := .next (runPure x movLane s)
def execMovi (x : Dev) (s : State) : Host.Outcome State Fault Refusal := .next (runPure x moviLane s)
def execMovw (x : Dev) (s : State) : Host.Outcome State Fault Refusal := .next (runPure x movwLane s)
def execLea (x : Dev) (s : State) : Host.Outcome State Fault Refusal := .next (runPure x leaLane s)
def execAdd64 (x : Dev) (s : State) : Host.Outcome State Fault Refusal := .next (runPure x add64Lane s)
def execSub64 (x : Dev) (s : State) : Host.Outcome State Fault Refusal := .next (runPure x sub64Lane s)
def execCmp64 (x : Dev) (s : State) : Host.Outcome State Fault Refusal := .next (runPure x cmp64Lane s)
def execPlop (x : Dev) (s : State) : Host.Outcome State Fault Refusal := .next (runPure x plopLane s)
def execPmov (x : Dev) (s : State) : Host.Outcome State Fault Refusal := .next (runPure x pmovLane s)

end Sys2Proof.Machine
end

