-- ==== Sys2Proof/Machine/Special.lean ====
section
/-! DEFINITION. The special functions: an exact fixed-point enclosure of the mathematical result, the special operands, and
a result that is free within the stated accuracy (02 R61-R64). -/
namespace Sys2Proof.Machine

/-- Fraction bits of the fixed-point evaluation. Every bound of R61 ends at a multiple of 2^-150 or coarser, and no result of a
nonzero F32 argument lies within 2^-460 of such a place unless it stands on it exactly, so that comparing at this precision is
comparing with the exact result. -/
def fxP : Nat := 640

/-- ln 2 in units of 2^-640. -/
def ln2Fx : Nat :=
  0xb17217f7d1cf79abc9e3b39803f2f6af40f343267298b62d8a0d175b8baafa2be7b876206debac98559552fb4afa1b10ed2eae35c138214427573b291169b8253e96ca16224ae8c51acbda11317c387e

/-- log2 e in units of 2^-640. -/
def log2eFx : Nat :=
  0x171547652b82fe1777d0ffda0d23a7d11d6aef551bad2b4b1164a2cd9a342648fbc3887eeaa2ed9ac49b25eeb82d7c167d52173cc1895213f897f5e06a7be73665fc529264c2fb3ab643687aaf3ab440c

/-- Σ u^j / j! from a given term on, in fixed point. -/
def expTaylor (u : Nat) : Nat → Nat → Nat → Nat → Nat
  | 0, _, _, acc => acc
  | n + 1, j, term, acc =>
    let t := ((term * u) >>> fxP) / j
    expTaylor u n (j + 1) t (acc + t)

/-- 2^t for a fraction t in fixed point. -/
def exp2Fx (t : Nat) : Nat := expTaylor ((t * ln2Fx) >>> fxP) 130 1 (2 ^ fxP) (2 ^ fxP)

/-- atanh z for z at most 1/3 in fixed point: Σ z^(2j+1) / (2j+1). -/
def atanhSeries (z2 : Nat) : Nat → Nat → Nat → Nat → Nat
  | 0, _, _, acc => acc
  | n + 1, j, p, acc => atanhSeries z2 n (j + 2) ((p * z2) >>> fxP) (acc + p / j)

/-- log2 of m / 2^L for m from 2^L up to 2^(L+1), in fixed point. -/
def log2Fx (m L : Nat) : Nat :=
  let z := ((m - 2 ^ L) <<< fxP) / (m + 2 ^ L)
  let at' := atanhSeries ((z * z) >>> fxP) 210 1 z 0
  (2 * at' * log2eFx) >>> fxP

/-- Σ (-1)^j x^(2j+i) / (2j+i)! for i = 0 or 1, in fixed point: cosine and sine. -/
def trigSeries (x2 : Nat) : Nat → Nat → Nat → Bool → Int → Int
  | 0, _, _, _, acc => acc
  | n + 1, j, term, neg, acc =>
    trigSeries x2 n (j + 2) (((term * x2) >>> fxP) / ((j + 1) * (j + 2))) (!neg)
      (if neg then acc - term else acc + term)

/-- sin x for a magnitude x in fixed point. -/
def sinFx (x : Nat) : Int := trigSeries ((x * x) >>> fxP) 90 1 x false 0

/-- cos x for a magnitude x in fixed point. -/
def cosFx (x : Nat) : Int := trigSeries ((x * x) >>> fxP) 90 0 (2 ^ fxP) false 0

/-- A magnitude in fixed point, truncated. -/
def Mag.toFx (x : Mag) : Nat :=
  let s := x.e + fxP
  if 0 ≤ s then x.m <<< s.toNat else x.m >>> (-s).toNat

/-- Whether a finite code of F32 lies within n × 2^q of the value that `y` gives (02 R61). -/
def withinOf (c : Nat) (neg : Bool) (y : Mag) (n : Nat) (q : Int) : Bool :=
  match fmtF32.value c with
  | .fin s m e =>
    let g := min (min e y.e) q
    let yv := atExp neg y.m y.e g
    let cv := atExp s m e g
    decide ((cv - yv).natAbs ≤ n <<< (q - g).toNat)
  | _ => false

/-- The exponent of ulp(y) (02 R61). -/
def ulpExp (y : Mag) : Int := max y.exp (-126) - 23

/-- A result code of a special function with `.ftz`: UF on a subnormal or zero result of a nonzero value, and on every subnormal
one that is replaced by a zero of its sign; NX never (02 R43, R61, 05 R131). -/
def specialOut (ftz zero : Bool) (c : Nat) : Nat × Flags :=
  let sub := fmtF32.isSubnormal c
  let small := sub || c % 2 ^ 31 == 0
  (fmtF32.flush ftz c, flagIf (small && !zero || sub && ftz) fUF)

/-- The free candidate of a special function where it lies within n × 2^q of ±y, else a given code (02 R61, R62). -/
def freeWithin (fn : Nat) (bits : Word) (neg : Bool) (y : Mag) (n : Nat) (q : Int) (other : Nat) : Nat :=
  let cand := (Config.specialBits fn bits).toNat
  if withinOf cand neg y n q then cand else other

/-- A result of a special function with mathematical value ±y: free within n × 2^q, and the rounded value where the free
candidate does not lie there; never inexact, OF beyond the range (02 R61, R62). -/
def specialResult (fn : Nat) (bits : Word) (ftz neg : Bool) (y : Mag) (n : Nat) (q : Int) : Nat × Flags :=
  let (r, fl) := roundMag fmtF32 .rne false neg y
  if fl &&& fOF ≠ 0 then (r, fOF)
  else specialOut ftz false (freeWithin fn bits neg y n q r)

/-- An exact result of a special function (02 R63). -/
def exactSpecial (ftz neg : Bool) (m : Nat) (e : Int) : Nat × Flags :=
  let (c, _) := roundVal fmtF32 .rne false (.fin neg m e)
  specialOut ftz (m == 0) c

/-- FRCP (02 R61, R63). -/
def frcpCode (ftz : Bool) (a : Nat) : Nat × Flags :=
  let f := fmtF32
  match f.value (f.flush ftz a) with
  | .nan g => (f.nanCode, flagIf g fNV)
  | .inf s => (f.zeroCode s, 0)
  | .fin s m e =>
    if m == 0 then (f.infCode s, fDZ)
    else
      let y := divMag 1 0 m e
      specialResult 0 (BitVec.ofNat 32 a) ftz s y 1 (ulpExp y)

/-- FRSQ (02 R61, R63). -/
def frsqCode (ftz : Bool) (a : Nat) : Nat × Flags :=
  let f := fmtF32
  match f.value (f.flush ftz a) with
  | .nan g => (f.nanCode, flagIf g fNV)
  | .inf s => if s then (f.nanCode, fNV) else (f.zeroCode false, 0)
  | .fin s m e =>
    if m == 0 then (f.infCode s, fDZ)
    else if s then (f.nanCode, fNV)
    else
      let r := sqrtMag m e
      let y := divMag 1 0 r.m r.e
      specialResult 1 (BitVec.ofNat 32 a) ftz false y 2 (ulpExp y)

/-- 2^(±m × 2^e) as a magnitude; the exponent is clamped beyond any result of the format. -/
def exp2Mag (neg : Bool) (m : Nat) (e : Int) : Mag :=
  if 10 < (Nat.log2 m : Int) + e then ⟨2 ^ fxP, (if neg then -4096 else 4096) - fxP, true⟩
  else
    let t : Int := if neg then -((Mag.toFx ⟨m, e, false⟩ : Nat) : Int) else ((Mag.toFx ⟨m, e, false⟩ : Nat) : Int)
    let n := t / ((2 ^ fxP : Nat) : Int)
    let fr := (t % ((2 ^ fxP : Nat) : Int)).toNat
    ⟨exp2Fx fr, n - fxP, true⟩

/-- FEXP2 (02 R61, R63). -/
def fexp2Code (ftz : Bool) (a : Nat) : Nat × Flags :=
  let f := fmtF32
  match f.value (f.flush ftz a) with
  | .nan g => (f.nanCode, flagIf g fNV)
  | .inf s => if s then (f.zeroCode false, 0) else (f.infCode false, 0)
  | .fin s m e =>
    if m == 0 then (0x3F800000, 0)
    else
      let (i, nx) := if 10 < (Nat.log2 m : Int) + e then (0, true) else roundInt .rtz s m e
      if !nx && decide (-149 ≤ i) && decide (i ≤ 127) then exactSpecial ftz false 1 i
      else
        let y := exp2Mag s m e
        specialResult 3 (BitVec.ofNat 32 a) ftz false y 2 (ulpExp y)

/-- FLOG2 (02 R61, R63). -/
def flog2Code (ftz : Bool) (a : Nat) : Nat × Flags :=
  let f := fmtF32
  match f.value (f.flush ftz a) with
  | .nan g => (f.nanCode, flagIf g fNV)
  | .inf s => if s then (f.nanCode, fNV) else (f.infCode false, 0)
  | .fin s m e =>
    if m == 0 then (f.infCode true, fDZ)
    else if s then (f.nanCode, fNV)
    else
      let L := Nat.log2 m
      let E : Int := (L : Int) + e
      if m == 2 ^ L then exactSpecial ftz (decide (E < 0)) E.natAbs 0
      else
        let v : Int := E * ((2 ^ fxP : Nat) : Int) + (log2Fx m L : Int)
        let y : Mag := ⟨v.natAbs, -(fxP : Int), true⟩
        specialResult 4 (BitVec.ofNat 32 a) ftz (decide (v < 0)) y 2 (ulpExp y)

/-- The reduced argument of FSIN and FCOS, exactly (02 R64). -/
def reduceArg (s : Bool) (m : Nat) (e : Int) : Bool × Mag :=
  let c : Nat := 0xC90FDB        -- C = 0xC90FDB × 2^-21
  let q := min e (-21)
  let x := m <<< (e - q).toNat
  let d := c <<< (-21 - q).toNat
  let k := x / d
  let r := x % d
  let up := decide (d < 2 * r) || (2 * r == d && k % 2 == 1)
  if up then (!s, ⟨d - r, q, false⟩) else (s, ⟨r, q, false⟩)

/-- FSIN and FCOS: within 2^-21 of the function of the reduced argument (02 R61, R63, R64). -/
def ftrigCode (cosine ftz : Bool) (a : Nat) : Nat × Flags :=
  let f := fmtF32
  match f.value (f.flush ftz a) with
  | .nan g => (f.nanCode, flagIf g fNV)
  | .inf _ => (f.nanCode, fNV)
  | .fin s m e =>
    if m == 0 then (if cosine then (0x3F800000, 0) else (f.zeroCode s, 0))
    else
      let (s, r) := reduceArg s m e
      let v : Int := if cosine then cosFx r.toFx else (if s then - sinFx r.toFx else sinFx r.toFx)
      if v == 0 then
        specialOut ftz true (freeWithin (if cosine then 6 else 5) (BitVec.ofNat 32 a) false ⟨0, -(fxP : Int), false⟩ 1 (-21) 0)
      else
        specialResult (if cosine then 6 else 5) (BitVec.ofNat 32 a) ftz (decide (v < 0))
          ⟨v.natAbs, -(fxP : Int), true⟩ 1 (-21)

/-- FTANH (02 R61, R63). -/
def ftanhCode (ftz : Bool) (a : Nat) : Nat × Flags :=
  let f := fmtF32
  match f.value (f.flush ftz a) with
  | .nan g => (f.nanCode, flagIf g fNV)
  | .inf s => (if s then 0xBF800000 else 0x3F800000, 0)
  | .fin s m e =>
    if m == 0 then (f.zeroCode s, 0)
    else
      let y : Mag :=
        if 6 ≤ (Nat.log2 m : Int) + e then ⟨2 ^ fxP - 1, -(fxP : Int), true⟩
        else
          let t := Mag.toFx ⟨2 * m * log2eFx, e - fxP, false⟩
          let E := exp2Fx (t % 2 ^ fxP) <<< (t / 2 ^ fxP)
          ⟨((E - 2 ^ fxP) <<< fxP) / (E + 2 ^ fxP), -(fxP : Int), true⟩
      specialResult 7 (BitVec.ofNat 32 a) ftz s y 2 (ulpExp y)

end Sys2Proof.Machine
end

