-- ==== Sys2Proof/Machine/FloatInstr.lean ====
section
/-! DEFINITION. The floating-point arithmetic, dot-product and special-function instructions (05 R121-R131). -/
namespace Sys2Proof.Machine

/-- RM of the floating layout (03 R74). -/
def Dev.rm (x : Dev) : Rm := Rm.ofCode (fld x.m 1 0)
/-- FTZ of the floating layout. -/
def Dev.ftz (x : Dev) : Bool := bit x.m 2

/-- The format, width and count of the elements of a packed or scalar float tag (01 R16). -/
def elemsOf (t : Tag) : Option (Fmt × Nat × Nat) :=
  match t with
  | .f32 => some (fmtF32, 32, 1)
  | .bf16x2 => some (fmtBF16, 16, 2)
  | .f16x2 => some (fmtF16, 16, 2)
  | .e4m3x4 => some (fmtE4M3, 8, 4)
  | .e5m2x4 => some (fmtE5M2, 8, 4)
  | .e3m2x5 => some (fmtE3M2, 6, 5)
  | .e2m1x8 => some (fmtE2M1, 4, 8)
  | _ => none

/-- The floating class (05 R121). -/
def floatClass (t : Tag) : Option (Fmt × Nat × Nat) :=
  if t == .f32 || t == .bf16x2 || t == .f16x2 then elemsOf t else none

/-- Element i of w bits of a word. -/
def elemN (v w i : Nat) : Nat := fld v (w * i + w - 1) (w * i)

/-- A word built element by element, with the flags of all (05 R121, R122). -/
def buildElems (w n : Nat) (f : Nat → Nat × Flags) : Nat × Flags :=
  (List.range n).foldl (fun (acc : Nat × Flags) i => (acc.1 + (f i).1 * 2 ^ (w * i), acc.2 ||| (f i).2)) (0, 0)

/-- A per-element float operation on sources of one tag (05 R121). -/
def floatOp (srcs : List Operand) (f : Dev → Fmt → List Nat → Nat × Flags) (x : Dev) (c : LaneCtx) : LaneRes :=
  let rs := srcs.map c.src
  let tag := (rs.headD Reg.zero).tag
  if tchkFails x.m (rs.map (·.tag)) then tagFault
  else
    match floatClass tag with
    | none => tagFault
    | some (fm, w, n) =>
      if rs.any fun r => r.tag != tag then tagFault
      else
        let (v, fl) := buildElems w n fun i => f x fm (rs.map fun r => elemN r.val.toNat w i)
        result x.d (BitVec.ofNat 32 v) tag fl

/-- The value of the i-th source element after FTZ. -/
def opVal (x : Dev) (fm : Fmt) (cs : List Nat) (i : Nat) : FVal := fm.value (fm.flush (Dev.ftz x) (cs.getD i 0))

/-! ## Arithmetic (05 R124, R125, R128, R129) -/

def faddLane (x : Dev) : LaneCtx → LaneRes :=
  floatOp [x.a, x.b] (fun x fm cs => finish fm (Dev.rm x) (Dev.ftz x) (addVal (Dev.rm x) (opVal x fm cs 0) (opVal x fm cs 1))) x
def fsubLane (x : Dev) : LaneCtx → LaneRes :=
  floatOp [x.a, x.b] (fun x fm cs => finish fm (Dev.rm x) (Dev.ftz x) (addVal (Dev.rm x) (opVal x fm cs 0) (opVal x fm cs 1).neg)) x
def fmulLane (x : Dev) : LaneCtx → LaneRes :=
  floatOp [x.a, x.b] (fun x fm cs => finish fm (Dev.rm x) (Dev.ftz x) (mulVal (opVal x fm cs 0) (opVal x fm cs 1))) x
def ffmaLane (x : Dev) : LaneCtx → LaneRes :=
  floatOp [x.a, x.b, x.c] (fun x fm cs =>
    finish fm (Dev.rm x) (Dev.ftz x) (fmaVal (Dev.rm x) (opVal x fm cs 0) (opVal x fm cs 1) (opVal x fm cs 2))) x
def fminLane (x : Dev) : LaneCtx → LaneRes :=
  floatOp [x.a, x.b] (fun x fm cs => minMaxCode fm false (Dev.ftz x) (cs.getD 0 0) (cs.getD 1 0)) x
def fmaxLane (x : Dev) : LaneCtx → LaneRes :=
  floatOp [x.a, x.b] (fun x fm cs => minMaxCode fm true (Dev.ftz x) (cs.getD 0 0) (cs.getD 1 0)) x

/-- FRINT of one element (05 R128). -/
def frintElem (x : Dev) (fm : Fmt) (cs : List Nat) : Nat × Flags :=
  match opVal x fm cs 0 with
  | .fin s m e =>
    if decide (0 ≤ e) || m == 0 then roundVal fm .rne false (.fin s m e)
    else
      let (i, nx) := roundInt (Dev.rm x) s m e
      ((roundVal fm .rne false (.fin s i.natAbs 0)).1, flagIf (nx && bit x.m 9) fNX)
  | v => roundVal fm .rne false v

def frintLane (x : Dev) : LaneCtx → LaneRes := floatOp [x.a] frintElem x

/-- FSCALE (05 R129). -/
def fscaleLane (x : Dev) (c : LaneCtx) : LaneRes :=
  let b := c.src x.b
  if !scalarTag b.tag then tagFault
  else
    floatOp [x.a] (fun x fm cs =>
      match opVal x fm cs 0 with
      | .fin s m e => roundVal fm (Dev.rm x) (Dev.ftz x) (.fin s m (e + ival b))
      | v => roundVal fm .rne false v) { x with mod := x.mod &&& 0xEFF } c

/-! ## Comparison and classes (05 R126, R127) -/

/-- An F32 comparison by COND (05 R126). -/
def condFloat (n : Nat) (x y : FVal) : Bool :=
  let ord := !(x.isNan || y.isNan)
  match n with
  | 0 => ord && cmpVal x y == .eq
  | 1 => !ord || cmpVal x y != .eq
  | 2 => ord && cmpVal x y == .lt
  | 3 => ord && cmpVal x y != .gt
  | 4 => ord && cmpVal x y == .gt
  | 5 => ord && cmpVal x y != .lt
  | 6 => !ord
  | _ => ord

def fcmpLane (x : Dev) (c : LaneCtx) : LaneRes :=
  let a := c.src x.a
  let b := c.src x.b
  if tchkFails x.m [a.tag, b.tag] || a.tag != .f32 || b.tag != .f32 then tagFault
  else
    let cs := [a.val.toNat, b.val.toNat]
    let u := opVal x fmtF32 cs 0
    let v := opVal x fmtF32 cs 1
    resultP x.d (condFloat (fld x.m 11 9) u v) (flagIf (u.isSnan || v.isSnan) fNV)

/-- The class mask of a code (05 R127). -/
def classMask (f : Fmt) (code : Nat) : Nat :=
  match f.value code with
  | .nan sig => if sig then 2 ^ 8 else 2 ^ 9
  | .inf s => if s then 2 ^ 0 else 2 ^ 7
  | .fin s m _ =>
    if m == 0 then (if s then 2 ^ 3 else 2 ^ 4)
    else if f.isSubnormal code then (if s then 2 ^ 2 else 2 ^ 5)
    else (if s then 2 ^ 1 else 2 ^ 6)

def fclassLane (x : Dev) (c : LaneCtx) : LaneRes :=
  let a := c.src x.a
  if tchkFails x.m [a.tag] then tagFault
  else
    match floatClass a.tag with
    | none => tagFault
    | some (fm, w, n) =>
      resultN x.d ((List.range n).foldl (fun m i => m + classMask fm (elemN a.val.toNat w i) * 2 ^ (16 * i)) 0)

/-! ## Dot products (05 R130) -/

/-- Whether A and B of a dot product go together. -/
def dotTags (a b : Tag) : Bool :=
  (a == b && (a == .bf16x2 || a == .f16x2 || a == .e3m2x5 || a == .e2m1x8))
    || ((a == .e4m3x4 || a == .e5m2x4) && (b == .e4m3x4 || b == .e5m2x4))

/-- A subnormal flushed in the formats that FTZ concerns (02 R43). -/
def Fmt.flushWide (f : Fmt) (ftz : Bool) (code : Nat) : Nat := f.flush (ftz && decide (16 ≤ f.width)) code

/-- A dot product of value pairs with addends, rounded once to F32 (05 R130). -/
def dotResult (ftz : Bool) (ps : List (FVal × FVal)) (zs : List FVal) : Nat × Flags :=
  let all := ps.map (·.1) ++ ps.map (·.2) ++ zs
  if all.any (·.isNan) then (fmtF32.nanCode, flagIf (all.any (·.isSnan)) fNV)
  else
    let prods := ps.map fun p => (mulVal p.1 p.2).1
    let terms := prods ++ zs
    if prods.any (·.isNan) then (fmtF32.nanCode, fNV)
    else
      let pinf := terms.any fun t => t == .inf false
      let ninf := terms.any fun t => t == .inf true
      if pinf && ninf then (fmtF32.nanCode, fNV)
      else if pinf || ninf then (fmtF32.infCode ninf, 0)
      else
        let fin := terms.filterMap fun t => match t with | .fin s m e => some (s, m, e) | _ => none
        match sumFin .rne fin with
        | .fin s m e => if m == 0 then (fmtF32.zeroCode (fin.all fun t => t.1 && t.2.1 == 0), 0) else roundMag fmtF32 .rne ftz s ⟨m, e, false⟩
        | _ => (fmtF32.nanCode, 0)

/-- FDOT, and with `acc` FDOTA (05 R130). -/
def dotLane (acc : Bool) (x : Dev) (c : LaneCtx) : LaneRes :=
  let a := c.src x.a
  let b := c.src x.b
  let z := c.src x.c
  match elemsOf a.tag, elemsOf b.tag with
  | some (fa, w, n), some (fb, _, _) =>
    if !dotTags a.tag b.tag || (acc && z.tag != .f32) then tagFault
    else
      let ps := (List.range n).map fun i =>
        (fa.value (fa.flushWide (Dev.ftz x) (elemN a.val.toNat w i)), fb.value (fb.flushWide (Dev.ftz x) (elemN b.val.toNat w i)))
      let zs := if acc then [fmtF32.value (fmtF32.flush (Dev.ftz x) z.val.toNat)] else []
      let (v, fl) := dotResult (Dev.ftz x) ps zs
      result x.d (BitVec.ofNat 32 v) .f32 fl
  | _, _ => tagFault

/-! ## Special functions (05 R131) -/

/-- A special function of one F32 source. -/
def special1 (f : Dev → Nat → Nat × Flags) (x : Dev) (c : LaneCtx) : LaneRes :=
  let a := c.src x.a
  if tchkFails x.m [a.tag] || a.tag != .f32 then tagFault
  else
    let (v, fl) := f x a.val.toNat
    result x.d (BitVec.ofNat 32 v) .f32 fl

def frcpLane := special1 fun x => frcpCode (Dev.ftz x)
def frsqLane := special1 fun x => frsqCode (Dev.ftz x)
def fsqrtLane := special1 fun x => sqrtCode fmtF32 (Dev.rm x) (Dev.ftz x)
def fexp2Lane := special1 fun x => fexp2Code (Dev.ftz x)
def flog2Lane := special1 fun x => flog2Code (Dev.ftz x)
def fsinLane := special1 fun x => ftrigCode false (Dev.ftz x)
def fcosLane := special1 fun x => ftrigCode true (Dev.ftz x)
def ftanhLane := special1 fun x => ftanhCode (Dev.ftz x)

def fdivLane (x : Dev) (c : LaneCtx) : LaneRes :=
  let a := c.src x.a
  let b := c.src x.b
  if tchkFails x.m [a.tag, b.tag] || a.tag != .f32 || b.tag != .f32 then tagFault
  else
    let (v, fl) := divCode fmtF32 (Dev.rm x) (Dev.ftz x) a.val.toNat b.val.toNat
    result x.d (BitVec.ofNat 32 v) .f32 fl

/-! ## Meanings -/

def execFadd (x : Dev) (s : State) : Host.Outcome State Fault Refusal := .next (runPure x faddLane s)
def execFsub (x : Dev) (s : State) : Host.Outcome State Fault Refusal := .next (runPure x fsubLane s)
def execFmul (x : Dev) (s : State) : Host.Outcome State Fault Refusal := .next (runPure x fmulLane s)
def execFfma (x : Dev) (s : State) : Host.Outcome State Fault Refusal := .next (runPure x ffmaLane s)
def execFmin (x : Dev) (s : State) : Host.Outcome State Fault Refusal := .next (runPure x fminLane s)
def execFmax (x : Dev) (s : State) : Host.Outcome State Fault Refusal := .next (runPure x fmaxLane s)
def execFcmp (x : Dev) (s : State) : Host.Outcome State Fault Refusal := .next (runPure x fcmpLane s)
def execFclass (x : Dev) (s : State) : Host.Outcome State Fault Refusal := .next (runPure x fclassLane s)
def execFrint (x : Dev) (s : State) : Host.Outcome State Fault Refusal := .next (runPure x frintLane s)
def execFscale (x : Dev) (s : State) : Host.Outcome State Fault Refusal := .next (runPure x fscaleLane s)
def execFdot (x : Dev) (s : State) : Host.Outcome State Fault Refusal := .next (runPure x (dotLane false) s)
def execFdota (x : Dev) (s : State) : Host.Outcome State Fault Refusal := .next (runPure x (dotLane true) s)
def execFrcp (x : Dev) (s : State) : Host.Outcome State Fault Refusal := .next (runPure x frcpLane s)
def execFrsq (x : Dev) (s : State) : Host.Outcome State Fault Refusal := .next (runPure x frsqLane s)
def execFsqrt (x : Dev) (s : State) : Host.Outcome State Fault Refusal := .next (runPure x fsqrtLane s)
def execFexp2 (x : Dev) (s : State) : Host.Outcome State Fault Refusal := .next (runPure x fexp2Lane s)
def execFlog2 (x : Dev) (s : State) : Host.Outcome State Fault Refusal := .next (runPure x flog2Lane s)
def execFsin (x : Dev) (s : State) : Host.Outcome State Fault Refusal := .next (runPure x fsinLane s)
def execFcos (x : Dev) (s : State) : Host.Outcome State Fault Refusal := .next (runPure x fcosLane s)
def execFtanh (x : Dev) (s : State) : Host.Outcome State Fault Refusal := .next (runPure x ftanhLane s)
def execFdiv (x : Dev) (s : State) : Host.Outcome State Fault Refusal := .next (runPure x fdivLane s)

end Sys2Proof.Machine
end

