-- ==== Sys2Proof/Machine/Convert.lean ====
section
/-! DEFINITION. The conversion, quantisation and tag instructions (05 R132-R140). -/
namespace Sys2Proof.Machine

/-- `.sat` of a convert: OVF = 0 (03 R74). -/
def Dev.satOvf (x : Dev) : Bool := !bit x.m 3
/-- MOD[11:9] of a convert. -/
def Dev.sel (x : Dev) : Nat := fld x.m 11 9

/-! ## CVT (05 R132) -/

/-- A scalar source of a convert as a value: F32 after FTZ, or an integer. -/
def scalarVal (x : Dev) (r : Reg) : Option FVal :=
  if r.tag == .f32 then some (fmtF32.value (fmtF32.flush (Dev.ftz x) r.val.toNat))
  else if scalarTag r.tag then some (intVal (ival r) 0)
  else none

/-- CVT to F32. -/
def cvtF32 (x : Dev) (a : Reg) : LaneRes :=
  match scalarVal x a with
  | none => tagFault
  | some v =>
    let (n, fl) := roundVal fmtF32 (Dev.rm x) (Dev.ftz x) v
    result x.d (BitVec.ofNat 32 n) .f32 fl

/-- CVT to I32 or N32. -/
def cvtInt (x : Dev) (a : Reg) (signed : Bool) : LaneRes :=
  let tag : Tag := if signed then .i32 else .n32
  let r := intRange 32 signed
  if a.tag == .f32 then
    let (i, fl) := toIntRange (Dev.rm x) r.1 r.2 (fmtF32.value (fmtF32.flush (Dev.ftz x) a.val.toNat))
    result x.d (BitVec.ofNat 32 (wrapN i 32)) tag fl
  else if scalarTag a.tag then
    if Dev.satOvf x then
      let y := satI (ival a) r.1 r.2
      result x.d (BitVec.ofNat 32 (wrapN y 32)) tag (flagIf (y != ival a) fSAT)
    else result x.d a.val tag
  else tagFault

/-- The fraction bits from operand B (05 R132). -/
def fxBits (b : Reg) : Nat := min (ival b).toNat 62

/-- CVT to FX64. -/
def cvtToFx (x : Dev) (a b : Reg) : LaneRes :=
  match scalarVal x a with
  | none => tagFault
  | some v =>
    if !scalarTag b.tag then tagFault
    else
      let (i, fl) := toFx (fxBits b) v
      resultW x.d (wrapN i 64) .fx .fx fl

/-- CVT from FX64. -/
def cvtFromFx (x : Dev) (c : LaneCtx) (b : Reg) : LaneRes :=
  let (lo, hi) := c.srcW x.a
  if lo.tag != .fx || hi.tag != .fx || !scalarTag b.tag then tagFault
  else
    let (n, fl) := roundVal fmtF32 .rne (Dev.ftz x) (intVal (sextN (c.srcWN x.a) 64) (-(fxBits b : Int)))
    result x.d (BitVec.ofNat 32 n) .f32 fl

/-- One element of a packed convert: floats after FTZ, I16 as an integer. -/
def pairVal (x : Dev) (a : Reg) (i : Nat) : Option FVal :=
  let e := elemN a.val.toNat 16 i
  match a.tag with
  | .bf16x2 => some (fmtBF16.value (fmtBF16.flush (Dev.ftz x) e))
  | .f16x2 => some (fmtF16.value (fmtF16.flush (Dev.ftz x) e))
  | .i16x2 => some (intVal (sextN e 16) 0)
  | _ => none

/-- A packed convert element by element. -/
def cvtPair (x : Dev) (a : Reg) (tag : Tag) (f : FVal → Nat × Flags) : LaneRes :=
  match pairVal x a 0, pairVal x a 1 with
  | some u, some v =>
    let (n, fl) := buildElems 16 2 fun i => f (if i == 0 then u else v)
    result x.d (BitVec.ofNat 32 n) tag fl
  | _, _ => tagFault

/-- CVT to I16x2. -/
def cvtI16 (x : Dev) (a : Reg) : LaneRes :=
  if a.tag == .i16x2 then result x.d a.val .i16x2
  else cvtPair x a .i16x2 fun v => let (i, fl) := toIntRange (Dev.rm x) (-32768) 32767 v; (wrapN i 16, fl)

/-- CVT (05 R132). -/
def cvtLane (x : Dev) (c : LaneCtx) : LaneRes :=
  let a := c.src x.a
  let b := c.src x.b
  let tgt := Dev.sel x
  if tgt != 3 && tgt != 4 && tchkFails x.m [a.tag] then tagFault
  else
    match tgt with
    | 0 => cvtF32 x a
    | 1 => cvtInt x a true
    | 2 => cvtInt x a false
    | 3 => cvtToFx x a b
    | 4 => cvtFromFx x c b
    | 5 => cvtI16 x a
    | 6 => cvtPair x a .f16x2 (narrowVal fmtF16 (Dev.rm x) (Dev.satOvf x) (Dev.ftz x))
    | _ => cvtPair x a .bf16x2 (narrowVal fmtBF16 (Dev.rm x) (Dev.satOvf x) (Dev.ftz x))

/-! ## PACK and UNPK (05 R133, R134) -/

/-- The result tag, element width and count of a PT code. -/
def packTarget (pt : Nat) : Tag × Nat × Nat :=
  match pt with
  | 0 => (.bf16x2, 16, 2)
  | 1 => (.f16x2, 16, 2)
  | 2 => (.e4m3x4, 8, 4)
  | 3 => (.e5m2x4, 8, 4)
  | 4 => (.e3m2x5, 6, 5)
  | 5 => (.e2m1x8, 4, 8)
  | 6 => (.i8x4, 8, 4)
  | _ => (.n8x4, 8, 4)

/-- One converted element of PACK, none for a wrong tag. With `.ftz` a subnormal F32 source is a zero, and a subnormal element of
any target format is one of the results that R43 replaces by a zero (05 R133; log entry 70). -/
def packConv (x : Dev) (r : Reg) : Option (Nat × Flags) :=
  let (tag, _, _) := packTarget (Dev.sel x)
  match elemsOf tag with
  | some (fm, _, _) => (scalarVal x r).map (narrowVal fm (Dev.rm x) (Dev.satOvf x) (Dev.ftz x))
  | none =>
    let (lo, hi) := intRange 8 (tag == .i8x4)
    if r.tag == .f32 then
      let (i, fl) := toIntRange (Dev.rm x) lo hi (fmtF32.value (fmtF32.flush (Dev.ftz x) r.val.toNat))
      some (wrapN i 8, fl)
    else if scalarTag r.tag then
      if Dev.satOvf x then
        let y := satI (ival r) lo hi
        some (wrapN y 8, flagIf (y != ival r) fSAT)
      else some (wrapN (ival r) 8, 0)
    else none

def packLane (x : Dev) (c : LaneCtx) : LaneRes :=
  let (tag, w, n) := packTarget (Dev.sel x)
  let z := c.src x.c
  if decide (2 ≤ Dev.sel x) && z.tag != tag && x.c != .k .zero then tagFault
  else
    match packConv x (c.src x.a), packConv x (c.src x.b) with
    | some (e0, f0), some (e1, f1) =>
      let (v, fl) := buildElems w n fun i =>
        if i == 0 then (e0, f0) else if i == 1 then (e1, f1) else (elemN z.val.toNat w (i - 2), 0)
      result x.d (BitVec.ofNat 32 v) tag fl
    | _, _ => tagFault

/-- UNPK (05 R134). -/
def unpkLane (x : Dev) (c : LaneCtx) : LaneRes :=
  let a := c.src x.a
  let i := Dev.sel x
  if tchkFails x.m [a.tag] || a.tag == .f32 then tagFault
  else
    match elemsOf a.tag with
    | some (fm, w, n) =>
      if n ≤ i then tagFault
      else
        let (v, fl) := roundVal fmtF32 .rne false (fm.value (fm.flushWide (Dev.ftz x) (elemN a.val.toNat w i)))
        result x.d (BitVec.ofNat 32 v) .f32 fl
    | none =>
      match packedInt a.tag with
      | some (w, n, sg) =>
        if n ≤ i then tagFault
        else result x.d (BitVec.ofNat 32 (wrapN (elemI a.val.toNat w i sg) 32)) (if sg then .i32 else .n32)
      | none => tagFault

/-! ## Quantisation (05 R135-R138) -/

/-- The element format, M, word count and word tag of a QF code (05 R135). -/
def qntFormat (qf : Nat) : Fmt × Nat × Nat × Tag :=
  match qf with
  | 0 => (fmtE2M1, 6, 4, .e2m1x8)
  | 1 => (fmtE3M2, 28, 6, .raw)
  | 2 => (fmtE4M3, 448, 8, .e4m3x4)
  | _ => (fmtE5M2, 57344, 8, .e5m2x4)

/-- m × 2^e ≤ n × 2^g. -/
def magLe (m : Nat) (e : Int) (n : Nat) (g : Int) : Bool :=
  let q := min e g
  decide (m <<< (e - q).toNat ≤ n <<< (g - q).toNat)

/-- The block scale: the least SC10 with amax ≤ M × σ, or the largest (05 R136). -/
def blockScale (M : Nat) (amax : Option (Nat × Int)) : Nat :=
  match amax with
  | none => 0
  | some (m, e) =>
    ((List.range 0x3FC).find? fun code => match sc10Value code with | some (k, g) => magLe m e (M * k) g | none => false).getD 0x3FB

/-- The greatest nonzero finite magnitude of a list of values. -/
def amaxOf (xs : List FVal) : Option (Nat × Int) :=
  xs.foldl (fun acc v =>
    match v, acc with
    | .fin _ m e, some (n, g) => if m != 0 && magLe n g m e then some (m, e) else acc
    | .fin _ m e, none => if m != 0 then some (m, e) else none
    | _, _ => acc) none

/-- x / σ narrowed to an element; with `.ftz` a subnormal element is a result that R43 replaces by a zero (05 R136; log
entry 70). -/
def quantise (fm : Fmt) (sat ftz : Bool) (scale : Nat) (v : FVal) : Nat × Flags :=
  match v, sc10Value scale with
  | .fin s m e, some (k, g) => if m == 0 then (fm.zeroCode s, 0) else narrowMag fm .rne sat ftz s (divMag m e k g)
  | v, _ => narrowVal fm .rne sat ftz v

/-- The value that a lane gives QNT, none where the lane raises TAG_MISMATCH. -/
def qntValue (x : Dev) (c : LaneCtx) : Option FVal :=
  let a := c.src x.a
  if tchkFails x.m [a.tag] || a.tag != .f32 then none
  else some (fmtF32.value (fmtF32.flush (Dev.ftz x) a.val.toNat))

/-- QNT over the cohort's active lanes (05 R136). -/
def qntLane (x : Dev) (act : List LaneCtx) (c : LaneCtx) : LaneRes :=
  let (fm, M, nw, tag) := qntFormat (Dev.sel x)
  let val := fun (l : Nat) => ((act.find? fun c => c.lane == l).bind (qntValue x)).getD (.fin false 0 0)
  let xs := (List.range 32).map val
  let scale := blockScale M (amaxOf xs)
  let codes := xs.map fun v => (quantise fm (Dev.satOvf x) (Dev.ftz x) scale v).1
  let image := codes.foldr (fun code n => n * 2 ^ fm.width + code) 0
  match qntValue x c with
  | none => tagFault
  | some v =>
    let word : Reg := if c.lane < nw then ⟨BitVec.ofNat 32 (image >>> (32 * c.lane)), tag⟩ else ⟨0, .raw⟩
    .done { regs := [(x.d, word), (x.d.plus 1, ⟨BitVec.ofNat 32 scale, .sc10x3⟩)], flags := (quantise fm (Dev.satOvf x) (Dev.ftz x) scale v).2 }

/-- DQNT (05 R137). -/
def dqntLane (x : Dev) (c : LaneCtx) : LaneRes :=
  let a := c.src x.a
  let b := c.src x.b
  match elemsOf a.tag with
  | some (fm, w, n) =>
    if 16 ≤ w || b.tag != .sc10x3 || decide (n ≤ Dev.sel x) then tagFault
    else
      let e := fm.value (elemN a.val.toNat w (Dev.sel x))
      let (v, fl) := roundVal fmtF32 (Dev.rm x) (Dev.ftz x) (scaleBySc (fld b.val.toNat 9 0) e)
      result x.d (BitVec.ofNat 32 v) .f32 (fl ||| flagIf e.isSnan fNV)
  | none => tagFault

/-- sc(a) of SCLX (05 R138). -/
def scOf (v : FVal) : Nat × Flags :=
  match v with
  | .nan _ => (sc10Nan, fNV)
  | .inf s => if s then (sc10Nan, fNV) else (0x3FB, fSAT)
  | .fin s m e => if m == 0 then (0, fUF ||| fNX) else if s then (sc10Nan, fNV) else sc10Round m e

def sclxLane (x : Dev) (c : LaneCtx) : LaneRes :=
  let a := c.src x.a
  let op := Dev.sel x
  if decide (1 ≤ op) && decide (op ≤ 3) then
    if a.tag != .sc10x3 then tagFault
    else
      let (v, fl) := roundVal fmtF32 .rne (Dev.ftz x) (scaleBySc (elemN a.val.toNat 10 (op - 1)) (.fin false 1 0))
      result x.d (BitVec.ofNat 32 v) .f32 fl
  else if a.tag != .f32 then tagFault
  else
    let (n, fl) := scOf (fmtF32.value (fmtF32.flush (Dev.ftz x) a.val.toNat))
    if op == 0 then result x.d (BitVec.ofNat 32 n) .sc10x3 fl
    else
      let b := c.src x.b
      let i := op - 4
      if b.tag != .sc10x3 then tagFault
      else result x.d (BitVec.ofNat 32 (setFld (b.val.toNat % 2 ^ 30) (10 * i + 9) (10 * i) n)) .sc10x3 fl

/-! ## Tags (05 R139) -/

def tagrdLane (x : Dev) (c : LaneCtx) : LaneRes :=
  let a := c.src x.a
  if tchkFails x.m [a.tag] then tagFault else resultN x.d a.tag.code

def retagLane (x : Dev) (c : LaneCtx) : LaneRes :=
  match Tag.ofCode? (fld (c.srcN x.b) 3 0) with
  | some t => result x.d (c.src x.a).val t
  | none => tagFault

/-! ## Meanings -/

def execQnt (x : Dev) (s : State) : Host.Outcome State Fault Refusal :=
  .next (runLanes x.guard (lenBytes x.len) (fun c s' => (qntLane x (activeLanes x.guard (lenBytes x.len) s) c, s')) s)
def execCvt (x : Dev) (s : State) : Host.Outcome State Fault Refusal := .next (runPure x cvtLane s)
def execPack (x : Dev) (s : State) : Host.Outcome State Fault Refusal := .next (runPure x packLane s)
def execUnpk (x : Dev) (s : State) : Host.Outcome State Fault Refusal := .next (runPure x unpkLane s)
def execDqnt (x : Dev) (s : State) : Host.Outcome State Fault Refusal := .next (runPure x dqntLane s)
def execSclx (x : Dev) (s : State) : Host.Outcome State Fault Refusal := .next (runPure x sclxLane s)
def execTagrd (x : Dev) (s : State) : Host.Outcome State Fault Refusal := .next (runPure x tagrdLane s)
def execRetag (x : Dev) (s : State) : Host.Outcome State Fault Refusal := .next (runPure x retagLane s)

end Sys2Proof.Machine
end

