-- ==== Sys2Proof/Machine/Memory.lean ====
section
/-! DEFINITION. Loads, stores, atomics, reductions, fences, prefetch and cache control, and the sync-word instructions
(12 R283-R292). -/
namespace Sys2Proof.Machine

/-! ## Fields and addresses -/

/-- SIZE in bytes (12 R284). -/
def Dev.bytes (x : Dev) : Nat := 2 ^ fld x.m 11 9
/-- TYPE (03 R74). -/
def Dev.type (x : Dev) : Nat := fld x.m 8 5
/-- The tag of TYPE; TYPE 15 does not decode. -/
def Dev.typeTag (x : Dev) : Tag := (Tag.ofCode? (Dev.type x)).getD .raw

/-- The effective address: base, signed index and signed displacement (03 R75, 12 R285). -/
def effAddr (x : Dev) (c : LaneCtx) : Nat := wrapN ((c.srcWN x.a : Int) + sextN (c.srcN x.b) 32 + x.imm32) 64

/-- Where an access of a thread goes. -/
inductive Place where
  /-- A global or window address. -/
  | va (a : Nat)
  /-- An offset in the block's own scratchpad. -/
  | scratch (o : Nat)
  /-- An offset in the lane's private memory. -/
  | priv (o : Nat)
  deriving DecidableEq, Repr

/-- MISALIGN of a data access. -/
def misalign (acc ea : Nat) : FInfo := { code := cMISALIGN, access := acc, addr := ea }

/-- The first checks of an access of n bytes, in the order of 12 R285: canonical, alignment, range. -/
def placeAt (kind : Nat) (ea n acc : Nat) (self : Self) (c : LaneCtx) : Op Place := do
  if kind == 0 && !canonical ea then throw (.fault (pagePerm 1 acc ea false))
  if ea % n != 0 then throw (.fault (misalign acc ea))
  match kind with
  | 0 => pure (.va ea)
  | 1 =>
    let len : Nat := (((self.block.bind (← get).block?).map (·.scratchLen)).getD 0)
    if len < ea + n then throw (.fault (pagePerm 2 acc ea false)) else pure (.scratch ea)
  | _ => if c.wave.privBytes < ea + n then throw (.fault (pagePerm 4 acc ea false)) else pure (.priv ea)

/-- The generic address of a place, for watches. -/
def Place.addr (p : Place) (c : LaneCtx) : Nat :=
  match p with
  | .va a => a
  | .scratch o => scratchBase + o
  | .priv o => c.wave.privVa c.lane o

/-- n bytes read at a place. -/
def readPlace (self : Self) (c : LaneCtx) (p : Place) (n : Nat) : Op Nat :=
  match p with
  | .va a => readVa self .load a n
  | .scratch o => readScratch (self.block.getD 0) o n (scratchBase + o) .load
  | .priv o => readPriv self c.wave c.lane o n

/-- Bytes written at a place. -/
def writePlace (self : Self) (c : LaneCtx) (p : Place) (bs : List Byte) (sem scope : Nat) : Op Unit :=
  match p with
  | .va a => writeVa self a bs sem scope
  | .scratch o => modify fun s => s.putScratch (self.block.getD 0) o bs
  | .priv o => writePriv self c.wave c.lane o bs

/-! ## Loads and stores (12 R284-R286) -/

/-- The registers that a loaded value gives (12 R284). -/
def loadRegs (x : Dev) (v : Nat) : List (Operand × Reg) :=
  let n := Dev.bytes x
  let tag := Dev.typeTag x
  if n < 4 then
    let y := if tag == .i32 then wrapN (sextN v (8 * n)) 32 else v
    [(x.d, ⟨BitVec.ofNat 32 y, tag⟩)]
  else (List.range (n / 4)).map fun i => (x.d.plus i, (⟨BitVec.ofNat 32 (fld v (32 * i + 31) (32 * i)), tag⟩ : Reg))

/-- LD, LDS and LDP by kind 0, 1, 2. -/
def loadOp (kind : Nat) (x : Dev) (c : LaneCtx) : Op LaneRes := do
  let self := (← get).self c.ref
  let n := Dev.bytes x
  let p ← placeAt kind (effAddr x c) n 1 self c
  let v ← readPlace (self.acquire (Dev.sem x) (Dev.scope x)) c p n
  pure (LaneRes.withAfter (.done { regs := loadRegs x v }) ((← get).watchHit c.ref 62 (p.addr c) n))

/-- The low n bytes of a store's source (12 R285). -/
def storeValue (x : Dev) (c : LaneCtx) : Nat :=
  match fld x.m 11 9 with
  | 3 => c.srcWN x.c
  | 4 => c.srcQN x.c
  | _ => c.srcN x.c

/-- ST, STS and STP by kind 0, 1, 2. -/
def storeOp (kind : Nat) (x : Dev) (c : LaneCtx) : Op LaneRes := do
  let self := (← get).self c.ref
  let n := Dev.bytes x
  let p ← placeAt kind (effAddr x c) n 2 self c
  writePlace self c p (natBytes n (storeValue x c)) (Dev.sem x) (Dev.scope x)
  pure (LaneRes.withAfter (.done {}) ((← get).watchHit c.ref 61 (p.addr c) n))

/-! ## Atomics and reductions (12 R287-R289) -/

/-- The value and the tags of an atomic's operand: a pair for FX. -/
def atomOperand (x : Dev) (c : LaneCtx) (o : Operand) : Nat × List Tag :=
  if Dev.type x == 14 then (c.srcWN o, [(c.src o).tag, (c.src (o.plus 1)).tag]) else (c.srcN o, [(c.src o).tag])

/-- The checks of 12 R287 before the access: the place, the value of C, and the compared value of a cas. -/
def atomPrep (kind : Nat) (x : Dev) (self : Self) (c : LaneCtx) : Op (Place × Nat × Option Nat) := do
  let p ← placeAt kind (effAddr x c) (atomBytes (Dev.type x)) 2 self c
  let (v, tags) := atomOperand x c x.c
  let (old, dtags) := atomOperand x c x.d
  let cas := fld x.m 11 9 == 7
  if Dev.type x != 13 && (tags.any (· != Dev.typeTag x) || (cas && dtags.any (· != Dev.typeTag x))) then
    throw (.fault { code := cTAG_MISMATCH })
  pure (p, v, if cas then some old else none)

/-- The indivisible step of an atomic at a place. -/
def atomAt (self : Self) (red : Bool) (p : Place) (x : Dev) (v : Nat) (cas : Option Nat) : Op (Nat × Flags) := do
  let op := fld x.m 11 9
  match p with
  | .va a =>
    if inWindow a then
      match (← get).window? self.block self.core a (atomBytes (Dev.type x)) with
      | some (b, o) => atomScratch red b o a op (Dev.type x) v cas
      | none => throw (.fault (pagePerm 2 2 a false))
    else atomGlobal self red a op (Dev.type x) v cas (Dev.scope x)
  | .scratch o => atomScratch red (self.block.getD 0) o (scratchBase + o) op (Dev.type x) v cas
  | .priv o => throw (.fault (pagePerm 4 2 o false))

/-- Whether a place is global memory. -/
def Place.isGlobal (p : Place) : Bool :=
  match p with
  | .va a => !inWindow a
  | _ => false

/-- ATOM and ATOMS by kind 0, 1. -/
def atomOp (kind : Nat) (x : Dev) (c : LaneCtx) : Op LaneRes := do
  let self := (← get).self c.ref
  let (p, v, cas) ← atomPrep kind x self c
  if p.isGlobal then awaitHead self.strand
  let (m, fl) ← atomAt self false p x v cas
  let n := atomBytes (Dev.type x)
  let tag := Dev.typeTag x
  let regs : List (Operand × Reg) :=
    if n == 8 then [(x.d, ⟨BitVec.ofNat 32 m, tag⟩), (x.d.plus 1, ⟨BitVec.ofNat 32 (m / 2 ^ 32), tag⟩)]
    else [(x.d, ⟨BitVec.ofNat 32 m, tag⟩)]
  let s ← get
  let w := if cas.all (· == m) then s.watchHit c.ref 61 (p.addr c) n else none
  pure (LaneRes.withAfter (.done { regs := regs, flags := fl }) (firstWatch w (s.watchHit c.ref 62 (p.addr c) n)))

/-- RED: recorded in a strand's write set, or performed (12 R289). -/
def redOp (x : Dev) (c : LaneCtx) : Op LaneRes := do
  let self := (← get).self c.ref
  let (p, v, _) ← atomPrep 0 x self c
  let wide := wideRelease (Dev.sem x) (Dev.scope x)
  if wide && p.isGlobal then awaitHead self.strand
  let fl ← match self.strand, wide || !p.isGlobal, p with
    | some (l, k), false, .va a => do
      storeStrand self .atomic l k a fun o pa cow => [.red o a pa cow (fld x.m 11 9) (Dev.type x) v c.wave.ref c.wave.block]
      pure (0 : Flags)
    | _, _, _ => do let (_, fl) ← atomAt self true p x v none; pure fl
  pure (LaneRes.withAfter (.done { flags := fl }) ((← get).watchHit c.ref 61 (p.addr c) (atomBytes (Dev.type x))))

/-! ## Fences, prefetch and cache control (12 R290, R291) -/

/-- FENCE: memory here is performed in order, so a fence only waits where its strand must (log entry 2). -/
def fenceOp (x : Dev) (c : LaneCtx) : Op LaneRes := do
  if wideRelease (Dev.sem x) (Dev.scope x) then awaitHead ((← get).self c.ref).strand
  pure (.done {})

/-- The physical address that PREF and CCTL act on; none where they do nothing. -/
def hintPa (w : Who) (ea : Nat) (s : State) : Option (Nat × Nat) × State :=
  match translate w .prefetch ea s with
  | .ok (pa, leaf) s => (some (s.route pa, leaf), s)
  | .error _ _ => (none, s)

/-- PREF: the line is filled without a count (13 R309). -/
def prefLane (x : Dev) (c : LaneCtx) (s : State) : LaneRes × State :=
  let self := s.self c.ref
  let (r, s) := hintPa self.who (effAddr x c) s
  match r with
  | none => (.done {}, s)
  | some (pa, leaf) =>
    let level := fld x.m 11 9
    if !cacheable s leaf pa || (s.cuff? pa).isSome || handoverHold s pa || level == 2 && sharedRo s pa then (.done {}, s)
    else
      let line := lineOf pa
      let owned := ((s.dirEntry? line).map fun e => e.owner == some self.who.holder && e.state != .s).getD false
      let s := if level == 2 && !bit (s.tenant self.who.tenant).dirty.toNat 0 then (if owned then s else s.homeOwn self.who.holder line)
               else s.homeRead self.who.holder line
      let s := s.lockLine self.who.die none leaf self.who.asid line
      (.done {}, if level == 0 then (s.fillL1 self.core line).lockLine self.who.die (some self.core) leaf self.who.asid line else s)

/-- A line unlocked for a core and its die; it stays cached (10 R248). -/
def State.unlockLine (s : State) (die core line : Nat) : State :=
  { s with locks := s.locks.filter fun k => !(k.line == line && k.die == die && (k.core.isNone || k.core == some core)) }

/-- CCTL (12 R291). -/
def cctlLane (x : Dev) (c : LaneCtx) (s : State) : LaneRes × State :=
  let self := s.self c.ref
  let (r, s) := hintPa self.who (effAddr x c) s
  match r with
  | none => (.done {}, s)
  | some (pa, _) =>
    let line := lineOf pa
    match fld x.m 11 9 with
    | 0 => (.done {}, s.unL1 fun c l => c == self.core && l == line)
    | 1 => (.done {}, s.dropHolder self.who.holder line)
    | 2 => (.done {}, s.unlockLine self.who.die self.core line)
    | _ => (.done {}, s.unL1 fun c _ => c == self.core)

/-! ## Sync-word instructions (12 R292) -/

/-- The offset of a lane's sync word, checked. -/
def syncOffset (x : Dev) (acc : Nat) (self : Self) (c : LaneCtx) : Op Nat := do
  let o := (c.srcWN x.a + 16 * fld x.m 11 5) % 2 ^ 64
  if o % 16 != 0 then throw (.fault (misalign acc o))
  let len : Nat := (((self.block.bind (← get).block?).map (·.scratchLen)).getD 0)
  if len < o + 16 then throw (.fault (pagePerm 2 acc o false))
  pure o

/-- SWARM and SWADD. -/
def syncAct (act : Nat → SyncAct) (x : Dev) (c : LaneCtx) : Op LaneRes := do
  let self := (← get).self c.ref
  let o ← syncOffset x 2 self c
  modify fun s => s.syncStep (self.block.getD 0) o (act (c.srcN x.b))
  pure (.done {})

/-- Whether the lane's sync word has passed its generation. -/
def syncPassed (self : Self) (o g : Nat) : Op Bool := do
  pure ((((← get).block? (self.block.getD 0)).map fun b => (b.sync o).passed g).getD false)

def swwaitOp (x : Dev) (c : LaneCtx) : Op LaneRes := do
  let self := (← get).self c.ref
  let o ← syncOffset x 1 self c
  if ← syncPassed self o (c.srcN x.b) then pure (.done {})
  else pure (.wait (.sync o (c.src x.b).val))

def swtestOp (x : Dev) (c : LaneCtx) : Op LaneRes := do
  let self := (← get).self c.ref
  let o ← syncOffset x 1 self c
  let b ← syncPassed self o (c.srcN x.b)
  pure (resultP x.d b)

/-! ## Meanings -/

def execLd (x : Dev) (s : State) : Host.Outcome State Fault Refusal := .next (runOp x (loadOp 0 x) s)
def execSt (x : Dev) (s : State) : Host.Outcome State Fault Refusal := .next (runOp x (storeOp 0 x) s)
def execLds (x : Dev) (s : State) : Host.Outcome State Fault Refusal := .next (runOp x (loadOp 1 x) s)
def execSts (x : Dev) (s : State) : Host.Outcome State Fault Refusal := .next (runOp x (storeOp 1 x) s)
def execLdp (x : Dev) (s : State) : Host.Outcome State Fault Refusal := .next (runOp x (loadOp 2 x) s)
def execStp (x : Dev) (s : State) : Host.Outcome State Fault Refusal := .next (runOp x (storeOp 2 x) s)
def execAtom (x : Dev) (s : State) : Host.Outcome State Fault Refusal := .next (runOp x (atomOp 0 x) s)
def execAtoms (x : Dev) (s : State) : Host.Outcome State Fault Refusal := .next (runOp x (atomOp 1 x) s)
def execRed (x : Dev) (s : State) : Host.Outcome State Fault Refusal := .next (runOp x (redOp x) s)
def execFence (x : Dev) (s : State) : Host.Outcome State Fault Refusal := .next (runOp x (fenceOp x) s)
def execPref (x : Dev) (s : State) : Host.Outcome State Fault Refusal := .next (runLanes x.guard (lenBytes x.len) (prefLane x) s)
def execCctl (x : Dev) (s : State) : Host.Outcome State Fault Refusal := .next (runLanes x.guard (lenBytes x.len) (cctlLane x) s)
def execSwarm (x : Dev) (s : State) : Host.Outcome State Fault Refusal := .next (runOp x (syncAct .arm x) s)
def execSwadd (x : Dev) (s : State) : Host.Outcome State Fault Refusal := .next (runOp x (syncAct .contribute x) s)
def execSwwait (x : Dev) (s : State) : Host.Outcome State Fault Refusal := .next (runOp x (swwaitOp x) s)
def execSwtest (x : Dev) (s : State) : Host.Outcome State Fault Refusal := .next (runOp x (swtestOp x) s)

end Sys2Proof.Machine
end

