-- ==== Sys2Proof/Machine/Cursor.lean ====
section
/-! DEFINITION. Append cursors over KV8 pages (02 R52-R54; 09 R230, R231; 12 R297-R304). -/
namespace Sys2Proof.Machine

/-! ## Records in memory -/

/-- A record of at most one line that a cursor instruction reads, in place (12 R300). -/
def curRead (c : Self) (va n : Nat) : Op Nat := do
  let (pa, leaf) ← translate c.who c.who.load va
  readPa c.who c.by_ c.who.load leaf pa va n

/-- Bytes of one line that a cursor instruction writes, at the home agent (12 R299). -/
def curWrite (c : Self) (va : Nat) (bs : List Byte) : Op Unit := do
  let (pa, leaf) ← translateWrite c.who .store va
  writePa c.who c.by_ leaf pa bs true

/-- The writes of a cursor instruction: every page is translated before the first byte is written. -/
def curWrites (c : Self) (ws : List (Nat × List Byte)) : Op Unit := do
  for (va, _) in ws do
    let _ ← translateWrite c.who .store va
  for (va, bs) in ws do
    curWrite c va bs

/-- A cursor of an instruction: its address, its record, and its place in the running strand's loop when it is listed there. -/
structure Cursor where
  va     : Nat
  rec_   : Nat
  listed : Option (Nat × Nat × Nat)      -- loop, strand, index
  deriving DecidableEq, Repr

def Cursor.open_ (k : Cursor) : Bool := bit k.rec_ 169
def Cursor.npages (k : Cursor) : Nat := fld k.rec_ 143 128
def Cursor.spec (k : Cursor) : Nat := fld k.rec_ 127 96
def Cursor.commit (k : Cursor) : Nat := fld k.rec_ 95 64
def Cursor.slotLog (k : Cursor) : Nat := fld k.rec_ 163 160
def Cursor.headsM1 (k : Cursor) : Nat := fld k.rec_ 168 164
def Cursor.spp (k : Cursor) : Nat := curSpp k.rec_
/-- Slots of the whole list. -/
def Cursor.cap (k : Cursor) : Nat := k.npages * k.spp
/-- Address of entry q of the page list. -/
def Cursor.entryVa (k : Cursor) (q : Nat) : Nat := curPlist k.rec_ + 64 * q

/-- The index of a cursor in the loop whose strand a thread runs (12 R300). -/
def State.listedCursor (s : State) (strand : Option (Nat × Nat)) (va : Nat) : Option (Nat × Nat × Nat) :=
  strand.bind fun (l, k) => ((s.loop? l).bind fun lp => lp.curIndex va).map fun i => (l, k, i)

/-- The cursor that a lane names; an unlisted one in a strand waits first, when asked to (09 R229, 12 R300). -/
def cursorOf (x : Dev) (c : LaneCtx) (waits : Bool) : Op (Self × Cursor) := do
  let self := (← get).self c.ref
  let va := c.srcWN x.a
  if va % 32 != 0 then throw (.fault (misalign 1 va))
  let listed := (← get).listedCursor self.strand va
  if waits && listed.isNone then awaitHead self.strand
  let r ← curRead self va 32
  pure (self, ⟨va, r, listed⟩)

/-- The next slot to be appended (12 R302). -/
def Cursor.next (k : Cursor) (s : State) : Nat :=
  match k.listed with
  | some (l, j, i) => ((s.loop? l).map fun lp => lp.nextSlotOf i j).getD k.spec
  | none => k.spec

/-- A strand that appends up to `last` beyond its owned slots waits until it is the non-speculative head; its verdict is then QUOTA
and the later strands are rejected (09 R230). -/
def ownSlots (self : Self) (k : Cursor) (last : Nat) : Op Unit := do
  match k.listed with
  | none => pure ()
  | some (l, j, i) =>
    match (← get).loop? l with
    | none => pure ()
    | some lp =>
      if lp.ownFirst i j + lp.curQ i ≤ last then
        if (← get).mustWait self.strand then throw (.hold .strand)
        modify fun s => if (lp.strand? j).any fun y => y.verdict == .quota then s else s.putVerdict l j .quota

/-! ## Descriptors and pages (02 R52, R53; 12 R299) -/

/-- The limits of a descriptor but for its page's alignment (02 R52, R53). -/
def descOk (d : Nat) : Bool :=
  let sl := fld d 131 128
  let heads := fld d 136 132 + 1
  let spp := 2 ^ (12 - sl)
  fld d 191 137 == 0 && decide (6 ≤ sl) && decide (sl ≤ 12) && heads == 2 ^ Nat.log2 heads && decide (16 ≤ 2 ^ sl / heads)
    && (spp == 64 || fld d 127 (64 + spp) == 0) && (heads == 32 || fld d 511 (192 + 10 * heads) == 0)

/-- The descriptor at an address, checked. -/
def readDesc (self : Self) (va : Nat) : Op Nat := do
  if va % 64 != 0 then throw (.fault { code := cILLEGAL_OP })
  let d ← curRead self va 64
  if fld d 11 0 != 0 then throw (.fault (misalign 1 (fld d 63 0)))
  if !descOk d then throw (.fault { code := cILLEGAL_OP })
  pure d

/-- A page as an instruction has it at hand: its index, its entry, its descriptor, and whether it has just been opened. -/
structure OpenPage where
  q     : Nat
  entry : Nat
  desc  : Nat
  fresh : Bool
  deriving DecidableEq, Repr

/-- The address of a page's descriptor. -/
def OpenPage.descVa (p : OpenPage) : Nat := fld p.entry 63 0

/-- Page q with its descriptor, opened where it is not (or where `force`); none stands for GEOMETRY. Nothing is written yet. -/
def openPage (self : Self) (k : Cursor) (q : Nat) (force : Bool) : Op (Option OpenPage) := do
  let e ← curRead self (k.entryVa q) 64
  let d ← readDesc self (fld e 63 0)
  if bit e 64 && !force then pure (some ⟨q, e, d, false⟩)
  else if fld d 131 128 != k.slotLog || fld d 136 132 != k.headsM1 then pure none
  else
    let below := min k.spp (k.commit - q * k.spp)
    let e := setFld e (127 + k.spp) 128 (2 ^ below - 1)
    let d := setFld d (63 + k.spp) 64 (fld d 127 64 % 2 ^ below)
    pure (some ⟨q, setFld (setFld e 511 192 (fld d 511 192)) 64 64 1, d, true⟩)

/-- What opening a page writes: its entry and the CLIP bits of its descriptor. -/
def OpenPage.writes (p : OpenPage) (k : Cursor) : List (Nat × List Byte) :=
  if p.fresh then [(p.descVa + 8, natBytes 8 (fld p.desc 127 64)), (k.entryVa p.q, natBytes 64 p.entry)] else []

/-! ## CUROPEN (12 R301) -/

def curopenOp (x : Dev) (c : LaneCtx) : Op LaneRes := do
  let (self, k) ← cursorOf x c true
  let code := fun (n : Nat) => resultN x.d n
  if k.listed.isSome then pure (code 4)
  else if fld k.rec_ 255 170 != 0 || k.npages == 0 || curPlist k.rec_ % 64 != 0 then pure (code 4)
  else
    let e0 ← curRead self (curPlist k.rec_) 64
    let d0 ← readDesc self (fld e0 63 0)
    let k := { k with rec_ := setFld (setFld k.rec_ 163 160 (fld d0 131 128)) 168 164 (fld d0 136 132) }
    if decide (k.cap < k.commit) then pure (code 4)
    else
      let p := k.commit / k.spp
      let first ← if p < k.npages then do
          match ← openPage self k p true with
          | none => pure none
          | some o => pure (some (o.writes k))
        else pure (some [])
      match first with
      | none => pure (code 5)
      | some ws =>
        let r := setFld (setFld (setFld k.rec_ 127 96 k.commit) 159 144 (min p (k.npages - 1))) 169 169 1
        let later := (List.range (k.npages - (p + 1))).map fun j => k.entryVa (p + 1 + j)
        let olds ← later.mapM fun va => do
          let e ← curRead self (va + 8) 8
          pure (va + 8, natBytes 8 (setFld e 0 0 0))
        curWrites self (olds ++ ws ++ [(k.va, natBytes 32 r)])
        modify fun s => if k.open_ then s.discardCurq self.who.tenant k.va fun n => decide (k.commit ≤ n) && decide (n < k.cap) else s
        pure (code 0)

/-! ## QAPP (02 R54, 12 R302) -/

/-- The byte that an append stores and its conditions; none for a value beyond the scale's range (02 R54). -/
def appendByte (scale : Nat) (v : FVal) : Option (Nat × Flags) :=
  match v, sc10Value scale with
  | .nan _, _ => some (0x7F, fNV)
  | _, none => some (0x7F, fNV)
  | .inf _, _ => none
  | .fin s m e, some (sk, sg) =>
    if m != 0 && !magLe m e (448 * sk) sg then none
    else some (quantise fmtE4M3 false false scale (.fin s m e))

def qappOp (x : Dev) (c : LaneCtx) : Op LaneRes := do
  if c.srcWN x.a % 32 != 0 then throw (.fault (misalign 1 (c.srcWN x.a)))
  let b := c.src x.b
  if b.tag != .f32 then throw (.fault { code := cTAG_MISMATCH })
  let (self, k) ← cursorOf x c true
  let t := k.next (← get)
  let e := c.srcN x.c
  if !k.open_ then pure (resultN x.d 1)
  else if k.cap ≤ t then pure (resultN x.d 3)
  else if 2 ^ k.slotLog ≤ e then pure (resultN x.d 2)
  else
    ownSlots self k t
    match ← openPage self k (t / k.spp) false with
    | none => pure (resultN x.d 5)
    | some p =>
      let h := e * (k.headsM1 + 1) / 2 ^ k.slotLog
      let v := fmtF32.value b.val.toNat
      let a := fld p.desc 63 0 + t % k.spp * 2 ^ k.slotLog + e
      let done := fun (y : Nat) (fl : Flags) (p : OpenPage) => do
        let clip := if p.fresh then [] else [(p.descVa + 8, natBytes 8 (fld p.desc 127 64))]
        curWrites self ((if fl == fCLIP then clip else []) ++ p.writes k ++ [(a, natBytes 1 y)])
        let w := (← get).watchHit c.ref 61 a 1
        pure (LaneRes.withAfter (.done { regs := [(x.d, codeReg 0)], flags := fl }) w)
      match appendByte (fld p.entry (192 + 10 * h + 9) (192 + 10 * h)) v with
      | some (y, fl) => done y fl p
      | none =>
        if bit x.m 0 then throw (.fault { code := cSCALE_CLIP })
        done (if v.sign then 0xFE else 0x7E) fCLIP { p with desc := setFld p.desc (64 + t % k.spp) (64 + t % k.spp) 1 }

/-! ## CURADV (12 R303) -/

/-- The pages of slots t to t + n - 1 opened with those slots ready; none stands for GEOMETRY. -/
def closePages (self : Self) (k : Cursor) (t n : Nat) : List Nat → Op (Option (List (Nat × List Byte)))
  | [] => pure (some [])
  | q :: qs => do
    match ← openPage self k q false with
    | none => pure none
    | some p =>
      let lo := max t (q * k.spp) - q * k.spp
      let hi := min (t + n) ((q + 1) * k.spp) - q * k.spp
      let e := setFld p.entry 191 128 (fld p.entry 191 128 ||| (2 ^ hi - 2 ^ lo))
      match ← closePages self k t n qs with
      | none => pure none
      | some ws =>
        pure (some ((if p.fresh then [(p.descVa + 8, natBytes 8 (fld p.desc 127 64))] else []) ++ (k.entryVa q, natBytes 64 e) :: ws))

def curadvOp (x : Dev) (c : LaneCtx) : Op LaneRes := do
  let (self, k) ← cursorOf x c true
  let t := k.next (← get)
  let n := c.srcN x.b
  if !k.open_ then pure (resultN x.d 1)
  else if n == 0 then pure (resultN x.d 0)
  else if k.cap < t + n then pure (resultN x.d 3)
  else
    ownSlots self k (t + n - 1)
    match ← closePages self k t n ((List.range ((t + n - 1) / k.spp + 1 - t / k.spp)).map (t / k.spp + ·)) with
    | none => pure (resultN x.d 5)
    | some ws =>
      let s ← get
      let spec := match k.listed with
        | none => t + n
        | some (l, j, i) =>
          ((s.loop? l).map fun lp =>
            (lp.updStrand j fun y => { y with nextSlot := y.nextSlot.set i (y.nextSlot.getD i 0 + n) }).specSlot i).getD (t + n)
      let r := setFld (setFld k.rec_ 127 96 spec) 159 144 (min (spec / k.spp) (k.npages - 1))
      let r := if k.listed.isSome then r else setFld r 95 64 (t + n)
      curWrites self (ws ++ [(k.va, natBytes 32 r)])
      match k.listed with
      | some (l, j, i) => modify fun s => s.updStrand l j fun y => { y with nextSlot := y.nextSlot.set i (y.nextSlot.getD i 0 + n) }
      | none => pure ()
      modify fun s => s.releaseCurq self.who.tenant k.va
      pure (resultN x.d 0)

/-! ## CURQ (12 R304) -/

/-- READY and CLIP of a slot. -/
def slotBits (self : Self) (k : Cursor) (slot : Nat) (clip : Bool) : Op Bool := do
  if k.cap ≤ slot then pure false
  else
    let e ← curRead self (k.entryVa (slot / k.spp)) 64
    if clip then
      let d ← curRead self (alignDown (fld e 63 0) 64) 64
      pure (bit d (64 + slot % k.spp))
    else pure (bit e 64 && bit e (128 + slot % k.spp))

def curqOp (x : Dev) (c : LaneCtx) : Op LaneRes := do
  let (self, k) ← cursorOf x c false
  let slot := c.srcN x.b
  match fld x.m 11 9 with
  | 0 => pure (resultN x.d k.commit)
  | 1 => pure (resultN x.d (k.next (← get)))
  | 2 => pure (resultN x.d (fld k.rec_ 159 144))
  | 3 => let r ← slotBits self k slot false; pure (resultN x.d (b2n r))
  | 4 => let r ← slotBits self k slot false; pure (if r then resultN x.d 1 else .wait (.curq k.va slot x.d))
  | _ => let r ← slotBits self k slot true; pure (resultN x.d (b2n r))

/-! ## Meanings -/

def execCuropen (x : Dev) (s : State) : Host.Outcome State Fault Refusal := .next (runOp x (curopenOp x) s)
def execCuradv (x : Dev) (s : State) : Host.Outcome State Fault Refusal := .next (runOp x (curadvOp x) s)
def execCurq (x : Dev) (s : State) : Host.Outcome State Fault Refusal := .next (runOp x (curqOp x) s)
def execQapp (x : Dev) (s : State) : Host.Outcome State Fault Refusal := .next (runOp x (qappOp x) s)

end Sys2Proof.Machine
end

