-- ==== Sys2Proof/Machine/Tasks.lean ====
section
/-! DEFINITION. The task pool: submission of task records, outstanding counts, signals and cancellation, and the task instructions
(06 R147-R153, R160; 07 R176-R183; 09 R218, R235, R237). -/
namespace Sys2Proof.Machine

/-! ## Versions and partitions (00 R12, 22 R423) -/

/-- VER is accepted under a chosen version. -/
def verOk (ver chosen : Nat) : Bool := fld ver 15 8 == fld chosen 15 8 && decide (fld ver 7 0 ≤ fld chosen 7 0)

/-- The versions that a tenant chose. -/
def Tenant.verTask (t : Tenant) : Nat := fld t.vera.toNat 15 0
def Tenant.verTensor (t : Tenant) : Nat := fld t.vera.toNat 31 16
def Tenant.verHeader (t : Tenant) : Nat := fld t.vera.toNat 47 32
def Tenant.verImage (t : Tenant) : Nat := fld t.vera.toNat 63 48

/-- The hubs of a partition of a mode. -/
def partitionHubs (mode part : Nat) : List Nat :=
  match mode, part with
  | 0, 0 => [0, 1, 2, 3]
  | 1, 0 => [0, 1]
  | 1, 1 => [2, 3]
  | 2, p => if p < 4 then [p] else []
  | _, _ => []

/-- The hubs of a tenant's partition. -/
def State.tenantHubs (s : State) (tenant : Nat) : List Nat := partitionHubs (fld s.modPart.toNat 5 4) (s.tenant tenant).part

/-! ## Reading records -/

/-- n bytes read in place, line by line. -/
def readSpan (c : Self) : (fuel va n : Nat) → Op Nat
  | 0, _, _ => pure 0
  | fuel + 1, va, n =>
    if n == 0 then pure 0
    else do
      let k := min n (64 - va % 64)
      let x ← curRead c va k
      let y ← readSpan c fuel (va + k) (n - k)
      pure (x + y * 2 ^ (8 * k))

/-- A record read by the pool on behalf of the submitter. -/
def readRecord (c : Self) (va n : Nat) : Op Nat := readSpan c (n / 64 + 2) va n

/-! ## The checks of a task record (06 R147-R149, 09 R218, 10 R456) -/

/-- The codes of R149 that a record raises by its own bits; `inst` for body and guess records, whose COMPL_VA is ignored. -/
def recordCodes (chosen r : Nat) (inst : Bool) : List Nat :=
  let kind := fld r 19 16
  let nops := fld r 207 192
  let nsucc := fld r 239 224
  let compl := fld r 447 384
  let ops := fld r 383 320
  let succ := fld r 319 256
  let threads := fld r 175 160
  let blocks := fld r 159 128
  let range :=
    decide (1024 < nsucc) || decide (16 < nops)
      || (if kind == 0 then threads == 0 || decide (2048 < threads) || blocks == 0
          else threads != 0 || blocks != 0 || fld r 23 22 != 0)
      || (!inst && inWindow compl) || (nops != 0 && inWindow ops) || (nsucc != 0 && inWindow succ)
  (if verOk (fld r 15 0) chosen then [] else [1])
    ++ (if fld r 1023 640 != 0 || fld r 191 176 != 0 || fld r 63 38 != 0 || fld r 30 29 != 0 || decide (5 ≤ kind) then [2] else [])
    ++ (if range then [3] else [])
    ++ (if (!inst && compl % 64 != 0) || (nops != 0 && ops % 32 != 0) || (nsucc != 0 && succ % 8 != 0) then [4] else [])

/-- The least code, 0 for none. -/
def leastCode (l : List Nat) : Nat := (l.foldl (fun m c => match m with | none => some c | some x => some (min x c)) none).getD 0

/-- The lower of a code, 0 for none, and REC_ALIGN where a record is misaligned (06 R149). -/
def lowCode (code : Nat) (misaligned : Bool) : Nat := if code == 0 && misaligned then 4 else code

/-- Entry i of an array of words. -/
def arrayWord (x width i : Nat) : Nat := fld x (width * i + width - 1) (width * i)

/-- The operand array and the successor list, where they can be read, and the codes that the operands raise (06 R148). -/
def readExtras (c : Self) (r : Nat) : Op (List Nat × List Nat × List Nat) := do
  let nops := min (fld r 207 192) 16
  let nsucc := min (fld r 239 224) 1024
  let oa := fld r 383 320
  let sa := fld r 319 256
  let ops ← if nops == 0 || inWindow oa then pure [] else do
    let x ← readRecord c oa (32 * nops)
    pure ((List.range nops).map (arrayWord x 256))
  let succs ← if nsucc == 0 || inWindow sa then pure [] else do
    let x ← readRecord c sa (8 * nsucc)
    pure ((List.range nsucc).map (arrayWord x 64))
  let bad := ops.any fun o => fld o 255 252 != 0 || fld o 11 10 == 0
  pure (ops, succs, if bad then [2] else [])

/-- The codes of a loop record by its own bits (09 R217, R218). -/
def loopCodes (chosen va r : Nat) : List Nat :=
  let nstrand := fld r 19 16
  let ncarry := fld r 26 22
  let ncur := fld r 29 27
  let nbody := fld r 319 288
  (if verOk (fld r 15 0) chosen then [] else [1])
    ++ (if fld r 1023 704 != 0 || fld r 447 416 != 0 || fld r 383 320 != 0 || fld r 31 30 != 0 || fld r 21 20 == 3 then [2] else [])
    ++ (if decide (nstrand < 2) || decide (8 < nstrand) || ncarry == 0 || decide (16 < ncarry) || decide (4 < ncur)
          || (List.range 4).any (fun i => decide (64 < fld r (384 + 8 * i + 7) (384 + 8 * i))) || nbody == 0 || decide (64 < nbody)
          || fld r 47 32 / 2 ^ ncarry != 0 then [3] else [])
    ++ (if va % 128 != 0 || fld r 255 192 % 128 != 0 || fld r 127 64 % 128 != 0 || fld r 191 128 % 128 != 0
          || (List.range 4).any (fun i => fld r (448 + 64 * i + 63) (448 + 64 * i) % 32 != 0) then [4] else [])

/-- One body or guess record read and checked. -/
def readInstance (c : Self) (chosen va : Nat) (body : Option (List Nat)) : Op (RecCopy × List Nat) := do
  let r ← readRecord c va 128
  let (ops, succs, codes) ← readExtras c r
  let kind := fld r 19 16
  let bad := bit r 31 || bit r 28
    || (match body with | some vas => (kind != 0 && kind != 3) || succs.any (fun a => !vas.contains a) | none => kind != 0)
  pure (⟨va, r, ops, succs⟩, recordCodes chosen r true ++ codes ++ if bad then [3] else [])

/-- A loop record with its body and guess records: the copies and the codes. Only a VER that is not accepted ends the checks at once,
since its code is the lowest; of a body count out of range at most 64 records are read (09 R218; log entry 76). -/
def readLoop (c : Self) (chosen va : Nat) : Op (Nat × List RecCopy × RecCopy × List Nat) := do
  let r ← readRecord c va 128
  let codes := loopCodes chosen va r
  if codes.contains 1 then pure (r, [], ⟨0, 0, [], []⟩, codes)
  else
    let vas := (List.range (min (fld r 319 288) 64)).map fun i => (fld r 127 64 + 128 * i) % 2 ^ 64
    let bodies ← vas.mapM fun a => readInstance c chosen a (some vas)
    let (g, gc) ← readInstance c chosen (fld r 191 128) none
    pure (r, bodies.map (·.1), g, codes ++ bodies.flatMap (·.2) ++ gc)

/-! ## Conflicts (06 R148, R151) -/

/-- Boxes of two operand entries share an index. -/
def boxesMeet (a b : Nat) : Bool :=
  (List.range 5).all fun i =>
    let oa := fld a (12 + 24 * i + 23) (12 + 24 * i)
    let ea := fld a (132 + 24 * i + 23) (132 + 24 * i)
    let ob := fld b (12 + 24 * i + 23) (12 + 24 * i)
    let eb := fld b (132 + 24 * i + 23) (132 + 24 * i)
    ea != 0 && eb != 0 && decide (oa < ob + eb) && decide (ob < oa + ea)

/-- Two lists of operands conflict. -/
def opsConflict (xs ys : List Nat) : Bool :=
  xs.any fun a => ys.any fun b => fld a 9 0 == fld b 9 0 && (bit a 11 || bit b 11) && boxesMeet a b

/-! ## Entering the pool (06 R150) -/

/-- What a submission adds to the pool: the copies, the submitter's slice and die, and the loop that it is an instance for. -/
structure NewTask where
  tenant  : Nat
  copy    : RecCopy
  slice   : Nat
  die     : Nat
  strand  : Option (Nat × Nat)
  guessOf : Option Nat
  deriving DecidableEq, Repr

/-- A task accepted with its outstanding count; the answer is its name. -/
def State.enterTask (s : State) (n : NewTask) : Nat × State :=
  let r := n.copy.record
  let plain := n.strand.isNone && n.guessOf.isNone
  let early := if plain then (s.tenant n.tenant).early.countP (· == n.copy.addr) else 0
  let s := if early == 0 then s else s.updTenant n.tenant fun t => { t with early := t.early.filter (· != n.copy.addr) }
  let (id, s) := s.newId
  let waitsOn := (s.tasks.filter fun t =>
    t.tenant == n.tenant && t.graphId == fld r 575 544 && t.strand == n.strand && t.guessOf == n.guessOf
      && opsConflict t.ops n.copy.ops).map (·.id)
  let t : Task :=
    { id, tenant := n.tenant, addr := n.copy.addr, record := r, ops := n.copy.ops, succs := n.copy.succs, added := []
      slice := n.slice, seq := (s.slice n.slice).nextSeq, count := fld r 223 208 + waitsOn.length - early, evWait := bit r 31
      waitsOn, phase := .waiting, readyAt := 0, nextBlk := 0, started := 0, startClk := 0, ending := none, aborting := false
      detail := 0, pending := [], bound := [], dieOf := n.die, strand := n.strand, guessOf := n.guessOf
      hdrWait := none, gang := none, begun := false, saved := 0 }
  let s := s.updSlice n.slice fun x => { x with nextSeq := x.nextSeq + 1 }
  (id, { s with tasks := s.tasks ++ [t.tryReady s.clock] })

/-- A new loop of the pool (09 R218). -/
def newLoop (task tenant record : Nat) (body : List RecCopy) (guess : RecCopy) : Loop :=
  { task, tenant, record, body, guess, bound := [], carry := [], iter := 0, rounds := 0, accepted := 0, rejected := 0, width := 0
    strands := [], guessEnd := none, commits := [], cancel := false, ending := none, hold := false }

/-! ## Submission (06 R149, R153; 07 R178; 09 R218, R237) -/

/-- Who submits. -/
inductive Submitter where
  | tspawn | gloop | host
  deriving DecidableEq, Repr

/-- The slice that takes a record (06 R153, 22 R423). A submitter whose nearest hub is outside the tenant's partition gets the partition's
first hub (DESIGN CHOICE, log entry 73). -/
def State.sliceFor (s : State) (tenant r near : Nat) : Nat :=
  let hubs := s.tenantHubs tenant
  if bit r 26 && hubs.contains (fld r 25 24) then fld r 25 24
  else if hubs.contains near then near
  else (hubs.head?).getD near

/-- The codes that a task record raises for a submitter by its own bits and its address (06 R149, 07 R178, 09 R237). -/
def submitCodes (by_ : Submitter) (chosen va r : Nat) : List Nat :=
  let kind := fld r 19 16
  recordCodes chosen r false ++ (if va % 128 != 0 then [4] else [])
    ++ if (kind == 4 && by_ == .tspawn) || (kind != 4 && by_ == .gloop) then [3] else []

/-- Live tasks of a slice. The instances of a loop's bodies and guess routines have no completion record of their own and are not counted
(DEDUCED, log entry 71). -/
def State.sliceTasks (s : State) (slice : Nat) : Nat :=
  (s.tasks.filter fun t => t.slice == slice && t.strand.isNone && t.guessOf.isNone).length

/-- The record at an address submitted for a tenant: the lowest code of R149 that applies, 0 for OK. What can only raise a code no lower
than one found is not read; a misaligned record is read where it stands (log entry 76). A host's nearest hub is hub 0 (DESIGN CHOICE, log
entry 73). -/
def submit (c : Self) (by_ : Submitter) (va : Nat) : Op Nat := do
  let tenant := c.who.tenant
  let chosen := ((← get).tenant tenant).verTask
  let r ← readRecord c va 128
  let loop := fld r 19 16 == 4 && by_ != .tspawn
  let codes := submitCodes by_ chosen va r
  let least := leastCode codes
  if least == 1 || (least == 2 && !loop) then pure least
  else
    let (ops, succs, oc) ← readExtras c r
    let lp ← if loop then do
        let x ← readLoop c chosen (fld r 127 64)
        pure (some x)
      else pure none
    let code := leastCode (codes ++ oc ++ (match lp with | some (_, _, _, lc) => lc | none => []))
    if code != 0 then pure code
    else
      let s ← get
      let slice := s.sliceFor tenant r (if c.who.die < 8 then hubOfDie c.who.die else 0)
      if 65536 ≤ s.sliceTasks slice then pure 5
      else if (s.liveTask? tenant va).isSome then pure 6
      else
        let (id, s) := s.enterTask ⟨tenant, ⟨va, r, ops, succs⟩, slice, c.who.die, none, none⟩
        match lp with
        | some (lr, body, guess, _) => set { s with loops := s.loops ++ [newLoop id tenant lr body guess] }
        | none => set s
        pure 0

/-! ## Cancellation (06 R152, 07 R181, 09 R235) -/

/-- A loop cancelled: no further strand or round starts, and its speculative strands are rejected (09 R235). -/
def State.cancelLoop (s : State) (l : Nat) : State :=
  match s.loop? l with
  | none => s
  | some lp =>
    let s := s.updLoop l fun x => { x with cancel := true }
    let s := s.forEach ((List.range lp.strands.length).filter fun k => !lp.nonSpec k).reverse fun k s => s.rejectOne l k false
    s.tryVerdicts l

/-- A task cancelled with a status: one that has not been dispatched ends at once; one that has starts no further block; a loop
task ends its loop. A task that is ending already is left as it is. -/
def State.cancelTask (s : State) (id status : Nat) : State :=
  match s.task? id with
  | none => s
  | some t =>
    if t.ending.isSome then s
    else
      let e : TaskEnd := ⟨status, 0, 0, 0⟩
      match t.phase with
      | .waiting => s.updTask id fun t => { t with ending := some e, phase := .ending }
      | .ready => s.updTask id fun t => { t with ending := some e, phase := .ending }
      | _ =>
        if t.kind == 4 then (s.updTask id fun t => { t with ending := some e }).cancelLoop id
        else s.updTask id fun t => { t with ending := some e, phase := .ending }

/-! ## Signals (06 R150, R152) -/

/-- One signal counted off a task. -/
def Task.signalled (t : Task) (clock : Nat) : Task := ({ t with count := t.count - 1 } : Task).tryReady clock

/-- A predecessor's signal to a live task: with `failed`, a task whose ON_FAIL is 0 is cancelled. One that has been dispatched already
ends with DEP_FAILED too (DEDUCED, log entry 72). -/
def State.signalTask (s : State) (t : Task) (failed : Bool) : State :=
  if failed && !t.onFail then s.cancelTask t.id 5 else s.updTask t.id fun t => t.signalled s.clock

/-- A signal to a record address of a tenant: to the live task there, or to the early-signal table, where a failed task's signal is one
like any other (DEDUCED, log entry 72). -/
def State.signalAddr (s : State) (tenant addr : Nat) (failed : Bool) : State :=
  match s.liveTask? tenant addr with
  | some t => s.signalTask t failed
  | none => s.updTenant tenant fun t => { t with early := addr :: t.early }

/-! ## The task instructions (07 R176-R183) -/

/-- An address that cannot name a task record (07 R181). -/
def badRecordAddr (a : Nat) : Bool := a % 128 != 0 || !canonical a

/-- A task instruction waits while a save of its tenant is in progress (18 R389). -/
def savingHold (c : Self) : Op Unit := do
  if ((← get).tenant c.who.tenant).phase == .saving then throw (.hold .saving)

/-- The shape of a task instruction: it waits as 18 R389 and 09 R229 give, and writes a code. -/
def taskOp (x : Dev) (m : Self → LaneCtx → Op Nat) (c : LaneCtx) : Op LaneRes := do
  let self := (← get).self c.ref
  savingHold self
  awaitHead self.strand
  let n ← m self c
  pure (resultN x.d n)

def tspawnCode (x : Dev) (self : Self) (c : LaneCtx) : Op Nat := submit self .tspawn (c.srcWN x.a)
def gloopCode (x : Dev) (self : Self) (c : LaneCtx) : Op Nat := submit self .gloop (c.srcWN x.a)

def tdepCode (x : Dev) (self : Self) (c : LaneCtx) : Op Nat := do
  let s ← get
  let wa := c.srcWN x.a
  let wb := c.srcWN x.b
  if badRecordAddr wa || badRecordAddr wb then pure 4
  else
    match s.liveTask? self.who.tenant wa, s.liveTask? self.who.tenant wb with
    | some a, some b =>
      if b.phase != .waiting then pure 8
      else if 64 ≤ a.added.length then pure 9
      else
        let s := s.updTask a.id fun t => { t with added := t.added ++ [wb] }
        set (s.updTask b.id fun t => { t with count := t.count + 1 })
        pure 0
    | _, _ => pure 7

def tfireCode (x : Dev) (self : Self) (c : LaneCtx) : Op Nat := do
  let s ← get
  let a := c.srcWN x.a
  let tenant := self.who.tenant
  if badRecordAddr a then pure 4
  else
    let live := (s.liveTask? tenant a).isSome
    if !live && decide (16384 ≤ (s.tenant tenant).early.length) then throw (.hold .earlyFull)
    set (s.signalAddr tenant a false)
    pure (if live then 0 else 11)

/-- A task has a block that has not ended: resident, or of a restored image and not yet placed. -/
def State.hasBlocks (s : State) (t : Task) : Bool :=
  s.blocks.any (fun b => b.task == t.id) || (s.tenant t.tenant).rest.any fun r => r.block.task == t.id

/-- Every block of a task has ended and none is to start; a loop task has ended its loop (07 R181). -/
def State.completing (s : State) (t : Task) : Bool :=
  match t.phase with
  | .ending => !s.hasBlocks t
  | .running => t.kind == 0 && !s.hasBlocks t && decide (t.blocks ≤ t.nextBlk)
  | _ => false

def tcnclCode (x : Dev) (self : Self) (c : LaneCtx) : Op Nat := do
  let s ← get
  let a := c.srcWN x.a
  if badRecordAddr a then pure 4
  else
    match s.liveTask? self.who.tenant a with
    | none => pure 7
    | some t =>
      if s.completing t then pure 10
      else set (s.cancelTask t.id 4); pure 0

def tevtOp (x : Dev) (c : LaneCtx) : Op LaneRes := do
  let self := (← get).self c.ref
  savingHold self
  awaitHead self.strand
  let s ← get
  let (g, n) := s.taskName self.who
  set (s.postEvent self.who.tenant 3 (c.srcWN x.b) g n (c.srcN x.a % 65536))
  pure (.done {})

/-! ## Meanings -/

def execTspawn (x : Dev) (s : State) : Host.Outcome State Fault Refusal := .next (runOp x (taskOp x (tspawnCode x)) s)
def execTdep (x : Dev) (s : State) : Host.Outcome State Fault Refusal := .next (runOp x (taskOp x (tdepCode x)) s)
def execTfire (x : Dev) (s : State) : Host.Outcome State Fault Refusal := .next (runOp x (taskOp x (tfireCode x)) s)
def execTcncl (x : Dev) (s : State) : Host.Outcome State Fault Refusal := .next (runOp x (taskOp x (tcnclCode x)) s)
def execTevt (x : Dev) (s : State) : Host.Outcome State Fault Refusal := .next (runOp x (tevtOp x) s)
def execGloop (x : Dev) (s : State) : Host.Outcome State Fault Refusal := .next (runOp x (taskOp x (gloopCode x)) s)

end Sys2Proof.Machine
end

