-- ==== Sys2Proof/Machine/Tensor.lean ====
section
/-! DEFINITION. Tensor records: generations, bindings, snapshots, and the tensor-ID instructions (08 R196; 15 R330-R336). -/
namespace Sys2Proof.Machine

/-! ## Generations (15 R330, R333) -/

/-- An entry that no TIDSET has touched: generation 0, invalid, current in slot 0. -/
def TensorEntry.initial (tid : Nat) : TensorEntry :=
  { tid, slots := some ⟨0, false, 0⟩ :: List.replicate 7 none, current := some 0, lastGen := 0 }

/-- The entry of a tensor ID. -/
def Tenant.tensor (t : Tenant) (tid : Nat) : TensorEntry := (t.tensors.find? fun e => e.tid == tid).getD (.initial tid)

/-- An entry of a tenant's table replaced. -/
def State.setTensor (s : State) (tenant : Nat) (e : TensorEntry) : State :=
  s.updTenant tenant fun t => { t with tensors := e :: t.tensors.filter fun x => x.tid != e.tid }

/-- TMC_TID.EN. -/
def Tenant.tidOn (t : Tenant) : Bool := bit t.tid.toNat 0

/-- The slot that a list of bindings gives a tensor ID: one without an entry was bound before any TIDSET of it. -/
def boundSlot (l : List (Nat × Nat)) (tid : Nat) : Nat := ((l.find? fun p => p.1 == tid).map Prod.snd).getD 0

/-- The generations current now, for every entry of a tenant. -/
def State.currentBinding (s : State) (tenant : Nat) : List (Nat × Nat) :=
  (s.tenant tenant).tensors.filterMap fun e => e.current.map fun i => (e.tid, i)

/-- A live task that has bound its generations: its first block or command has started (15 R333). -/
def Task.hasBound (t : Task) : Bool := t.begun

/-- Whether a live task, a loop or a snapshot holds slot i of an entry. -/
def State.slotHeld (s : State) (tenant tid i : Nat) : Bool :=
  let snap := fun (x : Option Snap) => x.any fun y => y.tid == tid && y.slot == i
  s.tasks.any (fun t => t.tenant == tenant && t.hasBound && boundSlot t.bound tid == i)
    || s.loops.any (fun l => l.tenant == tenant && l.width != 0 && boundSlot l.bound tid == i)
    || s.mats.any (fun o => o.by_.tenant == tenant && (snap o.snapA || snap o.snapB))
    || s.copies.any (fun c => c.by_.tenant == tenant && match c.kind with | .box y _ _ _ _ _ _ _ _ _ => snap y | .lane _ _ => false)

/-- A slot of an entry that a new generation may take. -/
def State.freeTensorSlot (s : State) (tenant : Nat) (e : TensorEntry) : Option Nat :=
  (List.range 8).find? fun i => e.current != some i && ((e.slots.getD i none).isNone || !s.slotHeld tenant e.tid i)

/-- The number after a generation's. -/
def nextGen (n : Nat) : Nat := if n == 0x7FFFFFFE then 0 else n + 1

/-- A new generation made current in a slot; a valid one's record goes to the table area (15 R330, R335). -/
def State.installGen (s : State) (tenant : Nat) (e : TensorEntry) (i : Nat) (rec_ : Option Nat) : State :=
  let g := nextGen e.lastGen
  let s := s.setTensor tenant
    { e with slots := e.slots.set i (some ⟨g, rec_.isSome, rec_.getD 0⟩), current := some i, lastGen := g }
  match rec_ with
  | some r => s.poke (fld (s.tenant tenant).tid.toNat 55 19 * 2 ^ 19 + 512 * e.tid + 64 * i) (natBytes 64 r)
  | none => s

/-- The task of a thread bound to the generation that it has installed; instances of a loop are not rebound. -/
def State.rebind (s : State) (task : Option Nat) (tid i : Nat) : State :=
  match task with
  | none => s
  | some id => s.updTask id fun t =>
      if t.strand.isSome || t.guessOf.isSome then t else { t with bound := (tid, i) :: t.bound.filter fun p => p.1 != tid }

/-! ## Snapshots (08 R196) -/

/-- The snapshot of a tensor ID for a task: its record is none where the table is off, the number is beyond the table, or the
generation is invalid. -/
def State.snapshot (s : State) (tenant task tid : Nat) : Snap :=
  let t := s.tenant tenant
  let i := boundSlot (((s.task? task).map Task.bound).getD []) tid
  match (t.tensor tid).slots.getD i none with
  | some g => ⟨tid, i, g.gen, if t.tidOn && g.valid && decide (tid < 1024) then some g.record else none⟩
  | none => ⟨tid, i, 0, none⟩

/-! ## Fields of a tensor record (15 R331, R332) -/

def recFmt (r : Nat) : Nat := fld r 380 376
def recSwz (r : Nat) : Nat := fld r 394 392
def recFxf (r : Nat) : Nat := fld r 401 396
def recTau (r : Nat) : Nat := fld r 447 416
def recExtent (r i : Nat) : Nat := fld r (128 + 24 * i + 23) (128 + 24 * i)
/-- Stride of dimension i, 1 to 4, in bytes. -/
def recStride (r i : Nat) : Nat := 16 * fld r (248 + 32 * i - 1) (248 + 32 * i - 32)
def recBase (r : Nat) : Nat := fld r 63 0
def recScale (r : Nat) : Nat := fld r 127 64
/-- Formats with scales. -/
def fmtScaled (f : Nat) : Bool := decide (12 ≤ f) && decide (f ≤ 15)

/-- The first of codes 1 to 4 that a record raises (15 R335). -/
def tensorCode (chosen r : Nat) : Nat :=
  if !verOk (fld r 463 448) chosen then 1
  else if fld r 511 464 != 0 || fld r 415 402 != 0 || bit r 395 || fld r 383 381 != 0 || decide (4 ≤ recSwz r) then 2
  else if decide (18 ≤ recFmt r) || decide (62 < recFxf r) || (List.range 5).any (fun i => recExtent r i == 0) then 3
  else if recBase r % 16 != 0 || (fmtScaled (recFmt r) && recScale r % 4 != 0) then 4
  else 0

/-! ## TIDSET, TIDCLR, TIDRD (15 R335, R336) -/

/-- The common end of TIDSET and TIDCLR: GEN_FULL, or the new generation. -/
def installTensor (self : Self) (tid : Nat) (rec_ : Option Nat) : Op Nat := do
  let s ← get
  let tenant := self.who.tenant
  let e := (s.tenant tenant).tensor tid
  match s.freeTensorSlot tenant e with
  | none => pure 12
  | some i => set ((s.installGen tenant e i rec_).rebind self.who.task tid i); pure 0

def tidsetOp (x : Dev) (c : LaneCtx) : Op LaneRes := do
  let self := (← get).self c.ref
  awaitHead self.strand
  let t := (← get).tenant self.who.tenant
  let tid := c.srcN x.a
  let wb := c.srcWN x.b
  if !t.tidOn then pure (resultN x.d 14)
  else if 1024 ≤ tid then pure (resultN x.d 13)
  else
    let r ← readRecord self wb 64
    let code := lowCode (tensorCode t.verTensor r) (wb % 64 != 0)
    if code != 0 then pure (resultN x.d code)
    else let n ← installTensor self tid (some r); pure (resultN x.d n)

def tidclrOp (x : Dev) (c : LaneCtx) : Op LaneRes := do
  let self := (← get).self c.ref
  awaitHead self.strand
  let t := (← get).tenant self.who.tenant
  let tid := c.srcN x.a
  if !t.tidOn then pure (resultN x.d 14)
  else if 1024 ≤ tid then pure (resultN x.d 13)
  else let n ← installTensor self tid none; pure (resultN x.d n)

def tidrdOp (x : Dev) (c : LaneCtx) : Op LaneRes := do
  let s ← get
  let self := s.self c.ref
  let t := s.tenant self.who.tenant
  let tid := c.srcN x.a
  let wb := c.srcWN x.b
  if !t.tidOn || decide (1024 ≤ tid) then pure (resultN x.d 0x7FFFFFFF)
  else
    if wb % 64 != 0 then throw (.fault (misalign 2 wb))
    let i := boundSlot ((self.who.task.bind s.task?).map Task.bound |>.getD []) tid
    let g := ((t.tensor tid).slots.getD i none).getD ⟨0, false, 0⟩
    let bytes := natBytes 64 (if g.valid then g.record else 0)
    for j in List.range 4 do
      writeGlobal self (wb + 16 * j) ((bytes.drop (16 * j)).take 16) 0 0
    pure (LaneRes.withAfter (resultN x.d (b2n g.valid * 2 ^ 31 + g.gen)) ((← get).watchHit c.ref 61 wb 64))

/-! ## Meanings -/

def execTidset (x : Dev) (s : State) : Host.Outcome State Fault Refusal := .next (runOp x (tidsetOp x) s)
def execTidclr (x : Dev) (s : State) : Host.Outcome State Fault Refusal := .next (runOp x (tidclrOp x) s)
def execTidrd (x : Dev) (s : State) : Host.Outcome State Fault Refusal := .next (runOp x (tidrdOp x) s)

end Sys2Proof.Machine
end

