-- ==== Sys2Proof/Machine/Engine.lean ====
section
/-! DEFINITION. What the engines share: reads and writes with poison, stops that the fault queue resolves, and the ends of their
operations (06 R157; 08 R204; 10 R261; 15 R343; 17 R366, R375). -/
namespace Sys2Proof.Machine

/-! ## Memory as an engine reaches it -/

/-- A stop of an engine that ends its operation with a code of 08 R204; no thread raises it. -/
def engFail (code va : Nat) : Stop := .fault { code := 0, operand := code, addr := va }

/-- n bytes of one line that an engine reads at the home agent, with no cached copy left: none where the line is poisoned. -/
def engFetch (c : Self) (va n : Nat) : Op (Option (Nat × Nat)) := do
  let (pa, leaf) ← translate c.who .engineRead va
  let (r, s) := Op.attempt (readPa { c.who with quiet := (← get).opTouched c.by_ va false } c.by_ .engineRead leaf pa va n) (← get)
  set s
  match r with
  | .ok x => pure (some (x, pa))
  | .error (.fault f) => if f.code == cPOISON then pure none else throw (.fault f)
  | .error e => throw e

/-- n bytes of one line read by an engine, in the versions of its strand: the value and whether the line is poisoned. -/
def engRead (c : Self) (va n : Nat) : Op (Nat × Bool) := do
  slotWait c va
  match ← engFetch c va n with
  | none =>
    modify fun s => s.touchLine c.by_ va false true
    pure (0, true)
  | some (x, pa) =>
    modify fun s => s.touchLine c.by_ va false false
    match c.strand with
    | none => pure (x, false)
    | some (l, k) =>
      let s ← get
      let (x, s) := s.strandRead l k va (s.route pa) n
      set s
      pure (x, false)

/-- n bytes read line by line: the bytes and the number of poisoned lines. -/
def engSpan (c : Self) : (fuel va n : Nat) → Op (List Byte × Nat)
  | 0, _, _ => pure ([], 0)
  | fuel + 1, va, n =>
    if n == 0 then pure ([], 0)
    else do
      let k := min n (64 - va % 64)
      let (x, bad) ← engRead c va k
      let (rest, p) ← engSpan c fuel ((va + k) % 2 ^ 64) (n - k)
      pure (natBytes k x ++ rest, b2n bad + p)

/-- n bytes read by an engine. -/
def engBytes (c : Self) (va n : Nat) : Op (List Byte × Nat) := engSpan c (n / 64 + 2) va n

/-- Bytes of one line written by an engine; data from poisoned lines leaves the line poisoned (15 R343, 17 R375). -/
def engWrite (c : Self) (va : Nat) (bs : List Byte) (bad : Bool) : Op Unit := do
  let (pa, leaf) ← translateWrite c.who .engineWrite va
  writePa { c.who with quiet := (← get).opTouched c.by_ va true } c.by_ leaf pa bs true
  modify fun s =>
    let s := (s.touchLine c.by_ va true bad).headStore c.strand va pa
    if bad then s.setBad (s.route pa) true else s

/-- n bytes of one line changed by an engine in one step at the line's home (15 R341): what a function of them gives, and its answer. -/
def engUpdate {α : Type} (c : Self) (va n : Nat) (bad : Bool) (f : List Byte → List Byte × α) : Op α := do
  let (pa, leaf) ← translateWrite c.who .engineWrite va
  cuffCheck c.by_ pa true
  modify fun s => s.leaveCuffs c.by_ pa true
  let s ← get
  let pa := s.route pa
  if poolLost s pa then
    set (s.lostError pa)
    pure (f (List.replicate n 0)).2
  else
    if handoverHold s pa then throw (.hold (.handover (pa / 4096)))
    let s := (s.writeRequest { c.who with quiet := s.opTouched c.by_ va true } leaf pa true).noteRead pa n
    let (bs, a) := f (s.mem.readBytes pa n)
    let s := if n == 64 then s.putLine c.who.tenant pa bs else s.put c.who.tenant pa bs
    let s := (s.touchLine c.by_ va true bad).headStore c.strand va pa
    set (if bad then s.setBad pa true else s)
    pure a

/-- Bytes written by an engine into a scratchpad: whole granules lose their poison, and data from poisoned lines poisons them. -/
def State.engScratch (s : State) (blk o : Nat) (bs : List Byte) (bad : Bool) : State :=
  let touched := (List.range ((o + bs.length + 15) / 16 - o / 16)).map (o / 16 + ·)
  let whole := touched.filter fun g => decide (o ≤ 16 * g) && decide (16 * g + 16 ≤ o + bs.length)
  (s.putScratch blk o bs).updBlock blk fun b =>
    { b with scratchBad := if bad then touched ++ b.scratchBad.filter (!touched.contains ·) else b.scratchBad.filter (!whole.contains ·) }

/-- The place in a scratchpad of n bytes of a copy's image in a window: one that is not there is RANGE, and a copy task's image is in none
(15 R343, 10 R456). -/
def imgWindow (c : Self) (va n : Nat) : Op (Nat × Nat) := do
  match (← get).window? c.block c.core va n with
  | some p => pure p
  | none => throw (engFail (if c.block.isNone then 5 else 3) va)

/-- The image of a copy read, n bytes in one line. -/
def imgRead (c : Self) (va n : Nat) : Op (List Byte × Nat) := do
  if inWindow va then
    let (b, o) ← imgWindow c va n
    modify fun s => s.noteScratch b o n
    match (← get).block? b with
    | none => throw (engFail 3 va)
    | some b =>
      modify fun s => s.touchLine c.by_ va false (b.granulesBad o n)
      pure (b.scratch.readBytes o n, b2n (b.granulesBad o n))
  else engBytes c va n

/-- Bytes of one line of a copy's image written. -/
def imgWrite (c : Self) (va : Nat) (bs : List Byte) (bad : Bool) : Op Unit := do
  if inWindow va then
    let (b, o) ← imgWindow c va bs.length
    modify fun s => s.engScratch b o bs bad
  else engWrite c va bs bad

/-- n bytes of one line of a copy's image changed in one step. -/
def imgUpdate {α : Type} (c : Self) (va n : Nat) (bad : Bool) (f : List Byte → List Byte × α) : Op α := do
  if inWindow va then
    let (b, o) ← imgWindow c va n
    let (bs, a) := f (((← get).block? b).elim [] fun b => b.scratch.readBytes o n)
    modify fun s => s.engScratch b o bs bad
    pure a
  else engUpdate c va n bad f

/-- n bytes of its block's scratchpad that an operation reads; poison ends it with POISON (08 R204). -/
def engScratchRead (c : Self) (a n : Nat) : Op (List Byte) := do
  match c.block.bind (← get).block? with
  | none => throw (engFail 3 a)
  | some b =>
    if b.granulesBad a n then
      modify fun s => s.noteScratch b.id a n
      throw (engFail 6 a)
    pure (b.scratch.readBytes a n)

/-! ## Stops of an engine operation -/

/-- How a step of an engine operation ends. -/
inductive EngRes (α : Type) where
  /-- It has been performed. -/
  | ok (a : α)
  /-- It waits on a fault entry. -/
  | parked (k : Park)
  /-- It is held for something else and will be tried again. -/
  | held
  /-- It ends its operation with a code, at an address. -/
  | fail (code va : Nat)

/-- Requests of a requester that has nothing more to ask leave the Cuffs. -/
def State.forgetHeld (s : State) (b : HeldBy) : State :=
  if s.moves.all fun m => m.held.isEmpty then s
  else { s with moves := s.moves.map fun m => { m with held := m.held.filter fun q => q.by_ != b } }

/-- A step of an operation: a fault that the queue resolves is recorded with ENGINE = 1 at the hub of the operation's die; any other
translation fault, a poisoned page-table entry among them, is PAGE (08 R204, 10 R261). -/
def engStep {α : Type} (c : Self) (m : Op α) (s : State) : EngRes α × State :=
  match m s with
  | .ok a s => (.ok a, s.forgetHeld c.by_)
  | .error (.hold (.device e)) s => (.parked ⟨some e, true, false⟩, s)
  | .error (.hold _) s => (.held, s)
  | .error (.fault f) s =>
    if f.code == 0 then (.fail f.operand f.addr, s)
    else if f.replay then
      let (id, s) := s.recordFault (if c.who.die < 8 then hubOfDie c.who.die else 0) c.who.tenant c.who.asid f true
      (.parked ⟨some id, false, false⟩, s)
    else (.fail (if f.code == cPOISON && f.cause != 2 then 6 else 5) f.addr, s)

/-! ## Ends (06 R157, 08 R205) -/

/-- The wave of a posting thread, if it is still there. -/
def State.posterWave (s : State) (p : Poster) : Option WaveRef :=
  p.thread.bind fun r => (s.wave? r.wave).bind fun w => if some w.block == p.block then some r.wave else none

/-- An operation's flags raised in the posting wave. -/
def State.raiseFor (s : State) (p : Poster) (fl : Flags) : State :=
  match s.posterWave p with
  | some w => s.raise w fl
  | none => s

/-- Who posts, from a thread. -/
def State.posterOf (s : State) (c : LaneCtx) : Poster :=
  let self := s.self c.ref
  { tenant := self.who.tenant, task := self.who.task.getD 0, block := self.block, thread := some c.ref, core := self.core
    die := self.who.die, root := self.who.root, strand := self.strand, pc := c.th.pc.toNat }

/-- A thread of the block that posted, if it is still there. -/
def State.posterThread (s : State) (p : Poster) : Option ThreadRef := (s.posterWave p).bind fun _ => p.thread

/-- The Self of a thread's scratchpad offset checked as 12 R292 and 15 R343 do. -/
def syncOffsetOk (acc : Nat) (self : Self) (o : Nat) : Op Unit := do
  if o % 16 != 0 then throw (.fault (misalign acc o))
  let len : Nat := (((self.block.bind (← get).block?).map (·.scratchLen)).getD 0)
  if len < o + 16 then throw (.fault (pagePerm 2 acc o false))

end Sys2Proof.Machine
end

