-- ==== Sys2Proof/Machine/Pool.lean ====
section
/-! DEFINITION. The CXL pool among modules: handover of frames, POOL_CMD, and the links (21 R414, R457; 23 R433-R441). -/
namespace Sys2Proof.Machine

/-! ## Handover (23 R438, R439) -/

/-- What a home answers to a request for ownership of a pool frame. -/
inductive HandAns where
  /-- The requester owns the frame. -/
  | ok
  /-- A handover of the frame, this one's or an earlier one, is under way. -/
  | wait
  /-- Pins of these classes are held. -/
  | pinned (cls : Nat)
  /-- The owner cannot be reached. -/
  | noLink
  /-- The owner entry breaks 23 R434. -/
  | malformed
  deriving DecidableEq, Repr

/-- The physical address of a frame. -/
def framePa (ppn : Nat) : Nat := ppn * 4096

/-- An owner entry written. -/
def State.putOwner (s : State) (ppn e : Nat) : State := s.poke (ownerEntryPa s (framePa ppn)) (natBytes 8 e)

/-- The classes that hold pins of a frame at its owner. A peer's pin table is no state of this module: its classes are free
(log entry 24). -/
def State.ownerPins (s : State) (ppn : Nat) : Nat × State :=
  if homeHere s (framePa ppn) then ((s.pin ppn).cls, s)
  else
    let (w, s) := s.drawWord
    (w % 8, s)

/-- A request of module x for a frame, served at its owner. -/
def State.requestFrame (s : State) (ppn x : Nat) (fromReg : Bool) : HandAns × State :=
  let e := ownerEntry s (framePa ppn)
  if entryBad e then (.malformed, s)
  else if !reachable s (entryOwner e) || !reachable s x then (.noLink, s)
  else if entryState e == 1 then (.wait, s)
  else if entryState e == 0 && entryOwner e == x then (.ok, s)
  else
    let (cls, s) := s.ownerPins ppn
    if cls != 0 then (.pinned cls, s)
    else
      let s := s.putOwner ppn (setFld (setFld e 1 0 1) 18 16 x)
      let s := s.forEach (List.range 64) fun i s => s.recall (ppn * 64 + i)
      (.wait, { s with handovers := s.handovers ++ [⟨ppn, x, fromReg, fld e 63 32⟩] })

/-- POOL_CMD with a result; the command is over (23 R441). -/
def State.poolResult (s : State) (code cls : Nat) : State :=
  { s with poolCmd := setBits (setBits (setBits s.poolCmd 63 56 code) 50 48 cls) 0 0 0 }

/-- The frame that POOL_CMD names. -/
def poolCmdFrame (v : Dword) : Nat := 2 * 2 ^ 42 + fld v.toNat 47 12

/-- The running ACQUIRE of POOL_CMD looked at again. -/
def State.serveAcquire (s : State) : State :=
  if bit s.poolCmd.toNat 0 && fld s.poolCmd.toNat 3 2 == 0 then
    let ppn := poolCmdFrame s.poolCmd
    match s.requestFrame ppn moduleOrd true with
    | (.ok, s) => s.poolResult 1 0
    | (.wait, s) => s
    | (.pinned cls, s) => s.poolResult 2 cls
    | (.noLink, s) => s.poolResult 5 0
    | (.malformed, s) => s.poolResult 4 0
  else s

/-- The frame state of a frame that this module receives: RAW travels with the handover (23 R438, R440). The count of a peer is
no state of this module and is free. -/
def State.receiveFrame (s : State) (ppn : Nat) (fromPeer : Bool) : State :=
  let (w, s) := if fromPeer then s.drawWord else (0, s)
  match s.frame? ppn with
  | none => s
  | some f => s.writeFrame { f with raw := if fromPeer then w % 65536 else f.raw, frozen := false, moving := false }

/-- The end of a handover: the owner entry names the new owner (23 R438). -/
def State.finishHandover (s : State) (ppn : Nat) : State :=
  match s.handovers.find? fun h => h.frame == ppn with
  | none => s
  | some h =>
    let e := ownerEntry s (framePa ppn)
    let s := s.putOwner ppn ((h.seq + 1) % 2 ^ 32 * 2 ^ 32 + h.requester * 2 ^ 8)
    let s := { s with handovers := s.handovers.filter fun h => h.frame != ppn }
    let s := if h.requester == moduleOrd then s.receiveFrame ppn (entryOwner e != moduleOrd) else s
    s.serveAcquire

/-! ## POOL_CMD (23 R441) -/

/-- The RW fields of POOL_CMD written. -/
def State.poolCmdFields (s : State) (v : Dword) : State :=
  { s with poolCmd := setBits (setBits s.poolCmd 47 12 (fld v.toNat 47 12)) 3 2 (fld v.toNat 3 2) }

/-- A command started by a write with BUSY = 1. -/
def State.startCmd (s : State) (v : Dword) (run : State → State) : State :=
  if bit s.poolCmd.toNat 0 then s
  else
    let s := s.poolCmdFields v
    if bit v.toNat 0 then run { s with poolCmd := setBits (setBits (setBits s.poolCmd 63 56 0) 50 48 0) 0 0 1 } else s

/-- SHARE: every copy that may be written is recalled and the entry becomes SHARED_RO. During a handover it is NOT_OWNER (DESIGN CHOICE, log
entry 92). -/
def State.serveShare (s : State) : State :=
  let ppn := poolCmdFrame s.poolCmd
  let e := ownerEntry s (framePa ppn)
  if entryBad e then s.poolResult 4 0
  else if entryOwner e != moduleOrd || entryState e == 1 then s.poolResult 3 0
  else
    let s := s.forEach (List.range 64) fun i s =>
      match s.dirEntry? (ppn * 64 + i) with
      | some d => if d.state == .s then s else s.recall (ppn * 64 + i)
      | none => s
    (s.putOwner ppn (setFld e 1 0 2)).poolResult 1 0

/-! ## Links (21 R414, R457; 23 R439) -/

/-- A pool port's link marked up or down. -/
def State.setPort (s : State) (hub port : Nat) (up : Bool) : State :=
  s.updHub hub fun h => { h with portsUp := h.portsUp.set port up }

/-- A peer's link marked up or down. -/
def State.setPeer (s : State) (k : Nat) (up : Bool) : State := { s with peersUp := s.peersUp.set k up }

/-! ## Meanings -/

def execHandoverRequest (frame requester : Nat) (s : State) : Host.Outcome State Fault Refusal :=
  .next (if spaceOf (framePa frame) == 2 && decide (requester < 8) && homeHere s (framePa frame) then
           (s.requestFrame frame requester false).2 else s)
def execHandoverComplete (frame : Nat) (s : State) : Host.Outcome State Fault Refusal := .next (s.finishHandover frame)
def execPoolAcquire (v : Dword) (s : State) : Host.Outcome State Fault Refusal :=
  .next (if fld v.toNat 3 2 == 0 then s.startCmd v State.serveAcquire else s)
def execPoolShare (v : Dword) (s : State) : Host.Outcome State Fault Refusal :=
  .next (if fld v.toNat 3 2 == 1 then s.startCmd v State.serveShare else s)
def execPoolLinkDown (hub port : Nat) (s : State) : Host.Outcome State Fault Refusal := .next (s.setPort hub port false)
def execPoolLinkUp (hub port : Nat) (s : State) : Host.Outcome State Fault Refusal := .next (s.setPort hub port true)
def execPeerLinkDown (peer : Nat) (s : State) : Host.Outcome State Fault Refusal := .next (s.setPeer peer false)
def execPeerLinkUp (peer : Nat) (s : State) : Host.Outcome State Fault Refusal := .next (s.setPeer peer true)

end Sys2Proof.Machine
end

