-- ==== Sys2Proof/Machine/Placement.lean ====
section
/-! DEFINITION. Pins, placement hints, requested moves and placement queries, for device threads and for harts (12 R293-R296; 13
R315, R320, R321, R328; 23 R438, R439; 24 R447, R448). -/
namespace Sys2Proof.Machine

/-! ## The pages of a range (12 R293) -/

/-- The leaf pages that overlap [va, end), in ascending order, translated as loads are. -/
def rangePages (w : Who) : (fuel va stop : Nat) → Op (List Leaf)
  | 0, _, _ => pure []
  | fuel + 1, va, stop =>
    if stop ≤ va then pure []
    else do
      let _ ← translate w w.load va
      match lookLeaf (← get) w.root w.load va with
      | .error f => throw (.fault f)
      | .ok l =>
        let rest ← rangePages w fuel (l.page + pageBytes l.size) stop
        pure (l :: rest)

/-- The pages of a nonempty range; one that reaches beyond 2^60 is not canonical. -/
def rangeOf (w : Who) (va len : Nat) : Op (List Leaf) := do
  if 2 ^ 60 < va + len then throw (.fault (pagePerm 1 1 (max va (2 ^ 60)) false))
  rangePages w (len / 4096 + 2) va (va + len)

/-- The first frame of a page. -/
def Leaf.ppn (l : Leaf) : Nat := fld l.pte 55 12
/-- The frames of a page. -/
def Leaf.frames (l : Leaf) : List Nat := (List.range (framesOf l.size)).map (l.ppn + ·)
/-- The frames whose pin-table entries a page has: the first, and every frame of a large pool page (13 R328). -/
def Leaf.pinFrames (l : Leaf) : List Nat := if spaceOf (framePa l.ppn) == 2 then l.frames else [l.ppn]

/-- The addresses of the entries of a leaf's group (10 R254). -/
def Leaf.group (l : Leaf) : List Nat :=
  let n := [1, 16, 512, 64].getD l.size 1
  (List.range n).map fun i => alignDown l.ptePa (8 * n) + 8 * i

/-! ## Pins (12 R294, 13 R328) -/

/-- The classes that hold pins. -/
inductive PinClass where
  | device | host | driver
  deriving DecidableEq, Repr

/-- A class's count. -/
def PinEntry.count (p : PinEntry) (c : PinClass) : Nat :=
  match c with
  | .device => p.device
  | .host => p.host
  | .driver => p.driver

/-- A class's count replaced. -/
def PinEntry.withCount (p : PinEntry) (c : PinClass) (n : Nat) : PinEntry :=
  match c with
  | .device => { p with device := n }
  | .host => { p with host := n }
  | .driver => { p with driver := n }

/-- One pin-table entry of this module counted up or down: the code of 12 R293 where that cannot be. -/
def State.pinEntryStep (s : State) (c : PinClass) (up : Bool) (ppn : Nat) : Except Nat State :=
  let p := s.pin ppn
  let n := p.count c
  if up then
    if n == 65535 || (p.cls == 0 && decide (262144 ≤ ((s.hub (homeOf (framePa ppn)).hub).pins).length)) then .error 1
    else .ok (s.setPin (p.withCount c (n + 1)))
  else if n == 0 then .error 2
  else .ok (s.setPin (p.withCount c (n - 1)))

/-- The same for a frame at any home: the table of a peer is no state of this module, so whether it takes the pin is free (log
entry 24). -/
def State.pinStep (s : State) (c : PinClass) (up : Bool) (ppn : Nat) : Except Nat State :=
  let home := homeModule s (framePa ppn)
  if homeHere s (framePa ppn) then s.pinEntryStep c up ppn
  else if !reachable s home then .error 3
  else
    let (b, s) := s.drawBit
    if b then .error (if up then 1 else 2) else .ok s

/-- Every entry of a list counted, or none. -/
def State.pinAll (s : State) (c : PinClass) (up : Bool) (frames : List Nat) : Except Nat State :=
  frames.foldlM (fun s f => s.pinStep c up f) s

/-- The move that a page is in, by a frame of its leaf. -/
def State.movingPage? (s : State) (ppn : Nat) : Option Move :=
  match s.moveOf? ppn with
  | some m => some m
  | none => s.moves.find? fun m => m.phase == .installed && m.dest == some ppn

/-- A PIN waits for moves of its pages and for handovers of their frames (12 R294, 23 R438). -/
def pinHolds (pages : List Leaf) : Op Unit := do
  let s ← get
  for l in pages do
    match s.movingPage? l.ppn with
    | some m => throw (.hold (.pinMoving m.src))
    | none => pure ()
    match l.pinFrames.find? fun f => handoverHold s (framePa f) with
    | some f => throw (.hold (.handover f))
    | none => pure ()

/-- PIN or UNPIN of a range for a class: the code. -/
def pinRange (w : Who) (c : PinClass) (up : Bool) (va len : Nat) : Op Nat := do
  if len == 0 then pure 0
  else
    let pages ← rangeOf w va len
    if up then pinHolds pages
    match (← get).pinAll c up (pages.flatMap Leaf.pinFrames) with
    | .ok s => set s; pure 0
    | .error code => pure code

/-! ## Requested moves (12 R295; 13 R315, R320, R321) -/

/-- A target: tier, hub and stack where named; the hub of a move whose request names none, the page's home hub for a hart. -/
structure MoveReq where
  tier    : Nat
  hub     : Option Nat
  stack   : Option Nat
  default : Option Nat
  deriving DecidableEq, Repr

/-- The target that c gives, or none for a tier, hub or stack that cannot be (12 R295). -/
def moveTarget (c dflt : Nat) : Option MoveReq :=
  let tier := fld c 1 0
  let hubEn := bit c 2
  let stkEn := bit c 5
  if tier == 3 || (stkEn && (tier != 0 || !hubEn)) || (hubEn && decide (1 < tier)) then none
  else some ⟨tier, if hubEn then some (fld c 4 3) else none, if stkEn then some (fld c 8 6) else none, some dflt⟩

/-- Whether a frame lies where a request asks. -/
def MoveReq.located (q : MoveReq) (ppn : Nat) : Bool :=
  let h := homeOf (framePa ppn)
  tierOf (framePa ppn) == q.tier && q.hub.all (· == h.hub) && q.stack.all (· == h.place)

/-- The target hub of a move of a page. -/
def MoveReq.destHub (q : MoveReq) (ppn : Nat) : Nat := q.hub.getD (q.default.getD (homeOf (framePa ppn)).hub)

/-- Whether a move satisfies a request (13 R320). -/
def MoveReq.satisfiedBy (q : MoveReq) (m : Move) : Bool :=
  match m.dest with
  | some d => q.located d
  | none => m.tier == q.tier && q.hub.all (· == m.destHub) && q.stack.all fun k => m.destStk == some k

/-- The move of a page, by a frame of its leaf, that no other comes before. -/
def State.firstMove? (s : State) (ppn : Nat) : Option Move :=
  s.moves.find? fun m => m.behind.isNone && (if m.phase == .installed then m.dest == some ppn else covers m.src m.size ppn)

/-- A hub's place has a frame state table, so that frames of it can be moved to (13 R307; DEDUCED, log entry 86). -/
def State.placeOn (s : State) (hub place : Nat) : Bool := bit ((s.hub hub).fst.getD place 0).toNat 0

/-- The target of a request is configured at a hub (12 R293). -/
def MoveReq.configured (q : MoveReq) (s : State) (hub : Nat) : Bool :=
  match q.tier, q.stack with
  | 0, some k => s.placeOn hub k
  | 0, none => (List.range 8).any (s.placeOn hub)
  | t, _ => s.placeOn hub (t + 7)

/-- What a request needs of one page. -/
inductive PagePlan where
  | stay
  | joins (move : Nat)
  | behind (move : Nat)
  | move
  | handover
  | blocked (detail : Nat)
  deriving DecidableEq, Repr

/-- The classes that hold pins of a page. -/
def pageCls (l : Leaf) : Op Nat :=
  l.pinFrames.foldlM (fun c f => do
    let (k, s) := (← get).ownerPins f
    set s
    pure (c ||| k)) 0

/-- MIGRATION's detail word (13 R321). -/
def migDetail (idx tier : Nat) (shared : Bool) (cls : Nat) : Nat := idx % 256 * 2 ^ 8 + tier * 2 ^ 4 + b2n shared * 2 ^ 3 + cls

/-- MIGRATION of a page (12 R295, 13 R321). -/
def migFault (detail va : Nat) : Stop := .fault { code := cMIGRATION, access := 2, addr := va, detail := detail, replay := true }

/-- Some frame of the page has MULTI = 1 or LVALID = 0 in its entry, or no entry (13 R307, R321). -/
def State.sharedPage (s : State) (l : Leaf) : Bool :=
  l.frames.any fun f => (s.frame? f).all fun e => e.multi || !e.lvalid

/-- The plan for one page of a request. A page that is moving is taken by its last move or waits behind it (13 R320); one that lies where it
is asked to be stays (12 R295); a pinned or shared page blocks the request even if a move of it is queued (13 R321, R328). -/
def planPage (q : MoveReq) (idx : Nat) (l : Leaf) : Op PagePlan := do
  let s ← get
  if q.tier == 2 && spaceOf (framePa l.ppn) == 2 then pure .handover
  else
    let first := s.firstMove? l.ppn
    let next := match first with
      | some m =>
        let m := s.lastBehind m s.moves.length
        if q.satisfiedBy m then .joins m.id else .behind m.id
      | none => .move
    if first.any fun m => m.phase != .queued then pure next
    else if q.located l.ppn then pure .stay
    else
      let cls ← pageCls l
      let shared := s.sharedPage l
      pure (if cls != 0 || shared then .blocked (migDetail idx q.tier shared cls) else next)

/-- Pages with their plans, up to and including the first that is blocked. -/
def planPages (q : MoveReq) : Nat → List Leaf → Op (List (Leaf × PagePlan))
  | _, [] => pure []
  | idx, l :: ls => do
    let p ← planPage q idx l
    match p with
    | .blocked d => pure [(l, .blocked d)]
    | p => let rest ← planPages q (idx + 1) ls; pure ((l, p) :: rest)

/-- Entries of one free ring. -/
def State.ringCount (s : State) (hub place size : Nat) : Nat :=
  match s.ringPa hub (4 * place + size) with
  | none => 0
  | some pa => let d := s.peek pa 16; if fld d 47 32 == 0 then 0 else (fld d 15 0 + 65536 - fld d 31 16) % 65536

/-- Free frames of a target at a hub. -/
def State.freeFrames (s : State) (q : MoveReq) (hub size : Nat) : Nat :=
  match q.tier, q.stack with
  | 0, some k => s.ringCount hub k size
  | 0, none => (List.range 8).foldl (fun n k => n + s.ringCount hub k size) 0
  | t, _ => s.ringCount hub (t + 7) size

/-- The request names a target that is not configured, or needs one at a hub where it is not (12 R293). -/
def State.noTarget (s : State) (q : MoveReq) (plans : List (Leaf × PagePlan)) : Bool :=
  q.hub.any (fun h => !q.configured s h) || plans.any fun (l, p) =>
    match p with
    | .behind _ => !q.configured s (q.destHub l.ppn)
    | .move => !q.configured s (q.destHub l.ppn)
    | _ => false

/-- The target lacks frames for the moves that a request has to queue (12 R293, 13 R314). -/
def State.noSpace (s : State) (q : MoveReq) (plans : List (Leaf × PagePlan)) : Bool :=
  let needs := plans.filterMap fun (l, p) => if p == .move then some (q.destHub l.ppn, l.size) else none
  needs.any fun (h, z) => decide (s.freeFrames q h z < (needs.filter (· == (h, z))).length)

/-- A move of a page queued; the lane waits while the hub's queue is full. -/
def queueMove (w : Who) (q : MoveReq) (l : Leaf) (behind : Option Nat) : Op Nat := do
  let s ← get
  let hub := (homeOf (framePa l.ppn)).hub
  if decide (1024 ≤ (s.moves.filter fun m => m.hub == hub && m.phase == .queued).length) then throw (.hold (.moveQueue hub))
  let (id, s) := s.newId
  set { s with moves := s.moves ++ [newMove id hub l.ppn l.size q.tier (q.destHub l.ppn) q.stack false behind w.tenant] }
  pure id

/-- Ownership of every frame of a pool page asked for, frame by frame (23 R438). -/
def takePool (idx : Nat) (va : Nat) (l : Leaf) : Op Unit := do
  for f in l.frames do
    let (r, s) := (← get).requestFrame f moduleOrd false
    set s
    match r with
    | .ok => pure ()
    | .wait => throw (.hold (.handover f))
    | .pinned cls => throw (migFault (migDetail idx 2 false cls) va)
    | .noLink => pure ()
    | .malformed => throw (.fault (pagePerm 3 1 va true))

/-- TAFF written into every entry of a page's group (12 R295, 10 R256). -/
def State.writeTaff (s : State) (tenant : Nat) (l : Leaf) (taff : Nat) : State :=
  s.forEach l.group fun pa s => s.putPte tenant pa (setFld (s.peek pa 8) 61 60 taff)

/-- One page of a request, met at an address: its TAFF, then its move or handover. The answer names the move to wait for. -/
def requestPage (w : Who) (q : MoveReq) (taff : Option Nat) (va idx : Nat) (l : Leaf) (p : PagePlan) : Op (Option Nat) := do
  match taff with
  | some t => modify fun s => s.writeTaff w.tenant l t
  | none => pure ()
  match p with
  | .stay => pure none
  | .joins m => pure (some m)
  | .behind m => let id ← queueMove w q l (some m); pure (some id)
  | .move => let id ← queueMove w q l none; pure (some id)
  | .handover => takePool idx va l; pure none
  | .blocked d => throw (migFault d va)

/-- The pages of a request in ascending order; the moves to wait for. A request that a page stops goes on from that page when it is made again
(12 R295): `note` keeps where. -/
def requestPages (w : Who) (q : MoveReq) (taff : Option Nat) (note : Redo → State → State) :
    Redo → List (Leaf × PagePlan) → Op (List Nat)
  | r, [] => pure r.ids
  | r, (l, p) :: ls => do
    let r : Redo := { r with va := max r.va l.page }
    modify (note r)
    let m ← requestPage w q taff r.va r.idx l p
    requestPages w q taff note ⟨r.va, r.idx + 1, r.ids ++ m.toList⟩ ls

/-- Whether a handover of a page is asked of a module that cannot be reached (23 R439). -/
def State.farPage (s : State) (l : Leaf) : Bool :=
  l.frames.any fun f => let e := ownerEntry s (framePa f); !entryBad e && !reachable s (entryOwner e)

/-- The TAFF of every page written before the requests, for HMHINT (22 R419). -/
def State.writeTaffs (s : State) (tenant : Nat) (pages : List Leaf) (taff : Nat) : State :=
  s.forEach pages fun l s => s.writeTaff tenant l taff

/-- MMOVE and MHINT of a range: a code and the moves to wait for. `redo` is where an earlier try stopped, after which no code but OK is
left; `first` writes every TAFF before the requests (22 R419). -/
def moveRange (w : Who) (q : Option MoveReq) (taff : Option Nat) (first : Bool) (redo : Option Redo) (note : Redo → State → State)
    (va len : Nat) : Op (Nat × List Nat) := do
  if len == 0 then pure (0, [])
  else
    match q, taff with
    | none, none => pure (3, [])
    | none, some t =>
      let pages ← rangeOf w va len
      modify fun s => s.writeTaffs w.tenant pages t
      pure (0, [])
    | some q, _ =>
      let each := if first then none else taff
      match redo with
      | some r =>
        let plans ← planPages q r.idx (← rangePages w (len / 4096 + 2) r.va (va + len))
        let ids ← requestPages w q each note r plans
        pure (0, ids)
      | none =>
        let pages ← rangeOf w va len
        let plans ← planPages q 0 pages
        let s ← get
        if s.noTarget q plans || plans.any fun (l, p) => p == .handover && s.farPage l then pure (3, [])
        else if s.noSpace q plans then pure (4, [])
        else
          match first, taff with
          | true, some t => modify fun s => s.writeTaffs w.tenant pages t
          | _, _ => pure ()
          let ids ← requestPages w q each note ⟨va, 0, []⟩ plans
          pure (0, ids)

/-! ## Placement queries (12 R296, 13 R310) -/

/-- The virtualised count of a frame for an ASID. -/
def FrameState.view (f : FrameState) (asid : Nat) : Nat := if f.oasid == asid then f.raw - f.base else 0

/-- The sum of a frame's pin counts and the classes that hold them; a peer's table is free (log entry 24). -/
def State.pinView (s : State) (ppn : Nat) : (Nat × Nat) × State :=
  if homeHere s (framePa ppn) then
    let p := s.pin ppn
    ((min (p.device + p.host + p.driver) 65535, p.cls), s)
  else
    let (w, s) := s.drawWord
    ((w % 65536, w / 65536 % 8), s)

/-- The word of MQRY for an address: of the source of a move until it retires (12 R296). -/
def mqryWord (w : Who) (va : Nat) : Op Nat := do
  if !canonical va then throw (.fault (pagePerm 1 1 va false))
  let s ← get
  if inWindow va || !bit w.root 0 then pure 0
  else
    match walkRoot s w.root va with
    | .leaf l =>
      let pa := s.tierPa (leafPa l.pte va)
      if !paLegal pa then pure 0
      else
        let ((pins, cls), s) := s.pinView (if pa == leafPa l.pte va then l.ppn else pa / 4096)
        set s
        let h := homeOf pa
        let tier := tierOf pa
        let count := ((s.frame? (pa / 4096)).map fun f => f.view w.asid).getD 0
        pure (count * 2 ^ 40 + cls * 2 ^ 34 + l.size * 2 ^ 32 + pins * 2 ^ 16 + fld l.pte 59 58 * 2 ^ 14 + fld l.pte 61 60 * 2 ^ 12
          + b2n (bit l.pte 62) * 2 ^ 11 + b2n (bit l.pte 63) * 2 ^ 10 + (if tier == 0 then h.place else 0) * 2 ^ 7
          + (if tier == 2 then 0 else h.hub) * 2 ^ 5 + tier * 2 ^ 3 + 1)
    | _ => pure 0

/-! ## Device instructions -/

/-- How far a lane's request has come, in the instruction that it is outstanding in. -/
def LaneCtx.redo (c : LaneCtx) (s : State) : Option Redo := (s.thread? c.ref).bind fun t => t.inst.bind fun _ => t.redo

/-- The same, kept. -/
def LaneCtx.noteRedo (c : LaneCtx) (r : Redo) (s : State) : State := s.updThread c.ref fun t => { t with redo := some r }

def pinOp (up : Bool) (x : Dev) (c : LaneCtx) : Op LaneRes := do
  let self := (← get).self c.ref
  awaitHead self.strand
  let code ← pinRange self.who .device up (c.srcWN x.a) (c.srcN x.b)
  pure (resultN x.d code)

def mhintOp (x : Dev) (c : LaneCtx) : Op LaneRes := do
  let self := (← get).self c.ref
  awaitHead self.strand
  let t := fld (c.srcN x.c) 1 0
  let q : Option MoveReq := if t == 0 then none else some ⟨t - 1, none, none, some (hubOfDie self.who.die)⟩
  let (code, _) ← moveRange self.who q (some t) false (c.redo (← get)) c.noteRedo (c.srcWN x.a) (c.srcN x.b)
  pure (resultN x.d code)

def mmoveOp (x : Dev) (c : LaneCtx) : Op LaneRes := do
  let self := (← get).self c.ref
  awaitHead self.strand
  let (code, ids) ← moveRange self.who (moveTarget (c.srcN x.c) (hubOfDie self.who.die)) none false (c.redo (← get)) c.noteRedo
    (c.srcWN x.a) (c.srcN x.b)
  let s ← get
  let ids := ids.filter fun i => (s.move? i).isSome
  pure (if bit x.m 0 && !ids.isEmpty then .wait (.moves ids x.d) else resultN x.d code)

def mqryOp (x : Dev) (c : LaneCtx) : Op LaneRes := do
  let self := (← get).self c.ref
  let v ← mqryWord self.who (c.srcWN x.a)
  pure (resultW x.d v .n32 .n32)

/-- MMOVE.wait waits whose moves have all completed end (12 R295). -/
def State.releaseMoves (s : State) : State :=
  s.releaseIf fun _ w =>
    match w with
    | .moves ids d => if ids.any fun i => (s.move? i).isSome then none else some (d, codeReg 0)
    | _ => none

/-! ## Meanings -/

def execPin (x : Dev) (s : State) : Host.Outcome State Fault Refusal := .next (runOp x (pinOp true x) s)
def execUnpin (x : Dev) (s : State) : Host.Outcome State Fault Refusal := .next (runOp x (pinOp false x) s)
def execMhint (x : Dev) (s : State) : Host.Outcome State Fault Refusal := .next (runOp x (mhintOp x) s)
def execMmove (x : Dev) (s : State) : Host.Outcome State Fault Refusal := .next (runOp x (mmoveOp x) s)
def execMqry (x : Dev) (s : State) : Host.Outcome State Fault Refusal := .next (runOp x (mqryOp x) s)

end Sys2Proof.Machine
end

