-- ==== Sys2Proof/Machine/Copy.lean ====
section
/-! DEFINITION. Copies: CPYB, CPYL, batches, and what a copy engine does with a copy (15 R337-R349, R361, R362). The copy task
of 15 R350 starts here too. -/
namespace Sys2Proof.Machine

/-! ## Geometry of a box and its image (15 R339-R342) -/

/-- Bytes of an element, or of a block for the block formats (02 R49, 15 R332). -/
def fmtUnit (f : Nat) : Nat := [4, 4, 4, 2, 2, 1, 1, 24, 16, 1, 1, 2, 32, 32, 24, 16, 8, 1].getD f 1
/-- Formats placed by blocks of 32 elements. -/
def fmtBlocked (f : Nat) : Bool := f == 7 || f == 8 || fmtScaled f
/-- Bits of an element of a block format. -/
def blockBits (f : Nat) : Nat := fmtUnit f / 4

/-- Field i of an ORIGIN or EXTENT operand. -/
def boxDim (x i : Nat) : Nat := fld x (24 * i + 23) (24 * i)

/-- What a copy's box comes to under its record. -/
structure BoxGeom where
  rec_  : Nat
  fmt   : Nat
  org   : List Nat
  ext   : List Nat
  mode  : Nat
  dirIn : Bool
  scl   : Bool
  image : Nat
  fill  : Nat
  unit  : Nat                       -- bytes of an element or block
  db    : Nat                       -- element bytes of an image row
  rb    : Nat                       -- bytes of an image row
  pitch : Nat
  rows  : Nat
  deriving DecidableEq, Repr

def BoxGeom.o (g : BoxGeom) (i : Nat) : Nat := g.org.getD i 0
def BoxGeom.x (g : BoxGeom) (i : Nat) : Nat := g.ext.getD i 0
def BoxGeom.e (g : BoxGeom) (i : Nat) : Nat := recExtent g.rec_ i
def BoxGeom.blocked (g : BoxGeom) : Bool := fmtBlocked g.fmt
/-- Elements or blocks of the record before the box in a row. -/
def BoxGeom.first (g : BoxGeom) : Nat := if g.blocked then g.o 0 / 32 else g.o 0
/-- Elements or blocks of a row of the tensor. -/
def BoxGeom.total (g : BoxGeom) : Nat := if g.blocked then ceilDiv (g.e 0) 32 else g.e 0
/-- Elements or blocks of a row of the box. -/
def BoxGeom.wide (g : BoxGeom) : Nat := if g.blocked then ceilDiv (g.x 0) 32 else g.x 0
/-- Elements or blocks of a row of the box within the extents. -/
def BoxGeom.inside (g : BoxGeom) : Nat := min g.wide (g.total - g.first)
/-- Bytes of a row of scale words for n blocks (02 R50). -/
def scaleBytes (n : Nat) : Nat := 4 * ceilDiv n 3

/-- The geometry of a box copy whose record is valid. -/
def boxGeom (r origin extent image pitch fill mode : Nat) (dirIn scl : Bool) : BoxGeom :=
  let f := recFmt r
  let org := (List.range 5).map (boxDim origin)
  let ext := (List.range 5).map (boxDim extent)
  let x0 := ext.getD 0 0
  let scl := scl && fmtScaled f && (mode == 0 || mode == 2)
  let wide := if fmtBlocked f then ceilDiv x0 32 else x0
  let db := if mode == 1 then 8 * x0 else wide * fmtUnit f
  let rb := db + if scl then scaleBytes wide else 0
  { rec_ := r, fmt := f, org, ext, mode, dirIn, scl, image, fill, unit := fmtUnit f, db, rb
    pitch := if pitch != 0 then pitch else if mode == 1 then rb else alignUp rb 16
    rows := ext.getD 1 0 * ext.getD 2 0 * ext.getD 3 0 * ext.getD 4 0 }

/-- A box with an extent of 0 (15 R342). -/
def boxEmpty (extent : Nat) : Bool := (List.range 5).any fun i => boxDim extent i == 0

/-- The box is empty. -/
def BoxGeom.empty (g : BoxGeom) : Bool := g.x 0 == 0 || g.rows == 0

/-- Indices 1 to 4 of row r of the box. -/
def BoxGeom.idx (g : BoxGeom) (r : Nat) : List Nat :=
  let q1 := r / g.x 1
  let q2 := q1 / g.x 2
  [g.o 1 + r % g.x 1, g.o 2 + q1 % g.x 2, g.o 3 + q2 % g.x 3, g.o 4 + q2 / g.x 3]

/-- Row r lies within the extents. -/
def BoxGeom.rowIn (g : BoxGeom) (r : Nat) : Bool :=
  (List.range 4).all fun d => decide ((g.idx r).getD d 0 < g.e (d + 1))

/-- The address of a row of indices in a tensor (15 R332). -/
def tensorRow (rec_ : Nat) (idx : List Nat) : Nat :=
  (recBase rec_ + ((List.range 4).map fun d => idx.getD d 0 * recStride rec_ (d + 1)).sum) % 2 ^ 64

/-- The address of the scales of a row of indices (15 R332). -/
def scaleRow (rec_ : Nat) (idx : List Nat) : Nat :=
  let e := recExtent rec_
  let row := idx.getD 0 0 + e 1 * (idx.getD 1 0 + e 2 * (idx.getD 2 0 + e 3 * idx.getD 3 0))
  (recScale rec_ + scaleBytes (ceilDiv (e 0) 32) * row) % 2 ^ 64

/-- Rows of the box within the extents. -/
def BoxGeom.rowsIn (g : BoxGeom) : Nat :=
  (List.range 4).foldl (fun n d => n * (min (g.o (d + 1) + g.x (d + 1)) (g.e (d + 1)) - g.o (d + 1))) 1

/-- BYTES (15 R342). -/
def BoxGeom.bytes (g : BoxGeom) : Nat :=
  if g.empty then 0
  else if g.dirIn then g.rowsIn * (g.inside * g.unit + if g.scl then scaleBytes g.inside else 0)
  else g.rows * g.rb

/-- The swizzle's span, 16 where the image is not swizzled (15 R340). -/
def BoxGeom.span (g : BoxGeom) : Nat := if inWindow g.image then 16 * 2 ^ recSwz g.rec_ else 16

/-- Modes that FXADD accepts (15 R341). -/
def fxaddOk (f : Nat) : Bool := decide (f ≤ 4) || f == 16

/-- The code that a copy fails with at its start, 0 for none, and 1 for an empty one (15 R342, R343). -/
def startCode (s : State) (c : Self) (g : BoxGeom) (pitch : Nat) : Nat :=
  if g.empty then 1
  else if g.mode == 1 && !fxaddOk g.fmt then 2
  else if pitch % 16 != 0 || decide (g.pitch < g.rb) then 4
  else if g.blocked && (g.o 0 % 32 != 0 || (g.x 0 % 32 != 0 && decide (g.o 0 + g.x 0 < g.e 0))) then 4
  else if !inWindow g.image then 0
  else if g.span != 16 && g.pitch % g.span != 0 then 4
  else if c.block.isNone then 5
  else if g.dirIn && g.mode == 3 then 0
  else if (s.window? c.block c.core g.image ((g.rows - 1) * g.pitch + g.rb)).isNone then 3
  else 0

/-! ## Pieces of an image -/

/-- Bytes of a piece: a line, or a chunk of a swizzled image. -/
def BoxGeom.pieceBytes (g : BoxGeom) : Nat := if g.span == 16 then 64 else 16
/-- Pieces that a row may have. -/
def BoxGeom.perRow (g : BoxGeom) : Nat := g.rb / g.pieceBytes + 2
/-- Pieces of the whole image. -/
def BoxGeom.pieces (g : BoxGeom) : Nat := if g.empty then 0 else g.rows * g.perRow

/-- Row, offset and length of piece n: what lies in one line, or in one chunk of a swizzled row. -/
def BoxGeom.piece (g : BoxGeom) (n : Nat) : Nat × Nat × Nat :=
  let r := n / g.perRow
  let k := g.pieceBytes
  let skip := if g.span == 16 then (g.image + r * g.pitch) % k else 0
  let lo := max skip (n % g.perRow * k)
  let hi := min (skip + g.rb) ((n % g.perRow + 1) * k)
  (r, lo - skip, hi - lo)

/-- Where byte o of row r of the image lies (15 R340). -/
def BoxGeom.place (g : BoxGeom) (r o : Nat) : Nat :=
  let span := g.span
  let chunk := (o % span / 16) ^^^ (r % (span / 16))
  (g.image + r * g.pitch + o / span * span + 16 * chunk + o % 16) % 2 ^ 64

/-! ## The box as an image row (15 R339, R341) -/

/-- The bits of byte p of a row's element bytes that belong to elements within the extents. -/
def BoxGeom.keepBits (g : BoxGeom) (p : Nat) : Nat :=
  if g.blocked then
    let elems := min 32 (g.e 0 - 32 * (g.first + p / g.unit))
    min 8 (blockBits g.fmt * elems - 8 * (p % g.unit))
  else 8

/-- n element bytes of row r of the box from byte o, as an image holds them. -/
def boxElems (c : Self) (g : BoxGeom) (r o n : Nat) : Op (List Byte × Nat) := do
  let have_ := if g.rowIn r then min n (g.inside * g.unit - o) else 0
  let (bs, p) ← engBytes c ((tensorRow g.rec_ (g.idx r) + g.first * g.unit + o) % 2 ^ 64) have_
  pure ((bs.mapIdx fun i b => BitVec.ofNat 8 (b.toNat % 2 ^ g.keepBits (o + i))) ++ List.replicate (n - have_) 0, p)

/-- The SC10 of block j of row r of the box, 1.0 outside the extents (08 R186). -/
def boxScale (c : Self) (g : BoxGeom) (r j : Nat) : Op (Nat × Nat) := do
  if !g.rowIn r || decide (g.inside ≤ j) then pure (0x1FC, 0)
  else
    let b := g.first + j
    let (bs, p) ← engBytes c ((scaleRow g.rec_ (g.idx r) + 4 * (b / 3)) % 2 ^ 64) 4
    pure (fld (leNat bs) (10 * (b % 3) + 9) (10 * (b % 3)), p)

/-- Scale word t of row r of the box. -/
def boxScaleWord (c : Self) (g : BoxGeom) (r t : Nat) : Op (Nat × Nat) :=
  (List.range 3).foldlM (fun (w, p) i => do
    if g.wide ≤ 3 * t + i then pure (w, p)
    else
      let (x, q) ← boxScale c g r (3 * t + i)
      pure (w + x * 2 ^ (10 * i), p + q)) (0, 0)

/-- n bytes of row r of the image from byte o, as COPY forms them. -/
def boxBytes (c : Self) (g : BoxGeom) (r o n : Nat) : Op (List Byte × Nat) := do
  let ne := min n (g.db - o)
  let (es, p) ← boxElems c g r o ne
  if ne == n then pure (es, p)
  else
    let o2 := o + ne - g.db
    let t0 := o2 / 4
    let words := (List.range ((o2 + (n - ne) + 3) / 4 - t0)).map (t0 + ·)
    let (bs, q) ← words.foldlM (fun (bs, q) t => do
      let (w, k) ← boxScaleWord c g r t
      pure (bs ++ natBytes 4 w, q + k)) (([] : List Byte), 0)
    pure (es ++ (bs.drop (o2 - 4 * t0)).take (n - ne), p + q)

/-- n bytes of a row of FILL's pattern from byte o. -/
def BoxGeom.fillBytes (g : BoxGeom) (o n : Nat) : List Byte :=
  (List.range n).map fun i =>
    if g.blocked then BitVec.ofNat 8 g.fill
    else BitVec.ofNat 8 (wrapN (sextN g.fill 32) 64 / 256 ^ ((o + i) % g.unit))

/-- The integer that FXADD takes from an element's code (15 R341). -/
def fxaddTerm (fmt fxf code : Nat) : Int × Flags :=
  match fmt with
  | 16 => (sextN code 64, 0)
  | 2 => toFx fxf (fmtF32.value code)
  | 3 => toFx fxf (fmtBF16.value code)
  | 4 => toFx fxf (fmtF16.value code)
  | 0 => toFx fxf (.fin (bit code 31) (sextN code 32).natAbs 0)
  | _ => toFx fxf (.fin false code 0)

/-! ## One piece -/

/-- A piece of an FXADD: each word of the image takes the exact sum, saturated, in one step at its line's home; the conditions. -/
def fxaddPiece (c : Self) (g : BoxGeom) (r o n : Nat) : Op Flags := do
  let k0 := o / 8
  let k1 := (o + n) / 8
  let have_ := if g.rowIn r then min (k1 - k0) (g.inside - k0) else 0
  let (src, p) ← engBytes c ((tensorRow g.rec_ (g.idx r) + (g.first + k0) * g.unit) % 2 ^ 64) (have_ * g.unit)
  imgUpdate c (g.place r o) n (p != 0) fun old =>
    (List.range (k1 - k0)).foldl (fun (bs, fl) i =>
      let (t, f) := if i < have_ then fxaddTerm g.fmt (recFxf g.rec_) (leNat ((src.drop (g.unit * i)).take g.unit)) else (0, 0)
      let y := sextN (leNat ((old.drop (8 * i)).take 8)) 64 + t
      let z := satI y lo64 hi64
      (bs ++ natBytes 8 (wrapN z 64), fl ||| f ||| flagIf (y != z) fSAT)) (([] : List Byte), (0 : Flags))

/-- A piece written to the image (DIR 0). -/
def outPiece (c : Self) (g : BoxGeom) (r o n : Nat) : Op Flags := do
  if g.mode == 1 then fxaddPiece c g r o n
  else
    let (bs, p) ← if g.mode == 3 then pure (g.fillBytes o n, 0) else boxBytes c g r o n
    imgWrite c (g.place r o) bs (p != 0)
    pure 0

/-- Bytes written to a tensor, split at lines. -/
def engWriteSpan (c : Self) (bad : Bool) : (fuel va : Nat) → List Byte → Op Unit
  | 0, _, _ => pure ()
  | fuel + 1, va, bs =>
    if bs.isEmpty then pure ()
    else do
      let k := 64 - va % 64
      engWrite c va (bs.take k) bad
      engWriteSpan c bad fuel ((va + k) % 2 ^ 64) (bs.drop k)

/-- Word w of a row's scale words as a copy into the box leaves it: the box's scales from the image's words, the bits of other blocks' scales
that stay, zero in unused slots and in the top bits (02 R48, R50), and whether a word of the image is bad. -/
def newScales (c : Self) (g : BoxGeom) (r w : Nat) : Op (Nat × Nat × Nat) :=
  (List.range 3).foldlM (fun (x, keep, p) i => do
    let b := 3 * w + i
    if g.total ≤ b then pure (x, keep, p)
    else if b < g.first || g.first + g.inside ≤ b then pure (x, keep + 1023 * 2 ^ (10 * i), p)
    else
      let j := b - g.first
      let (bs, k) ← imgRead c (g.place r (g.db + 4 * (j / 3))) 4
      pure (x + fld (leNat bs) (10 * (j % 3) + 9) (10 * (j % 3)) * 2 ^ (10 * i), keep, p + k)) (0, 0, 0)

/-- Scale words put over old bytes. -/
def mergeScales (ws : List (Nat × Nat × Nat)) (old : List Byte) : List Byte :=
  (ws.zipIdx.map fun (w, i) => natBytes 4 (w.1 ||| leNat ((old.drop (4 * i)).take 4) &&& w.2.1)).flatten

/-- The scales of row r of the box put into the tensor's scale array, a line of it at a time. -/
def putScales (c : Self) (g : BoxGeom) (r : Nat) : Op Unit := do
  let row := scaleRow g.rec_ (g.idx r)
  let first := row + 4 * (g.first / 3)
  let stop := row + 4 * ceilDiv (g.first + g.inside) 3
  for l in List.range ((stop + 63) / 64 - first / 64) do
    let lo := max first ((first / 64 + l) * 64)
    let hi := min stop ((first / 64 + l + 1) * 64)
    let ws ← (List.range ((hi - lo) / 4)).mapM fun i => newScales c g r ((lo - row) / 4 + i)
    engUpdate c (lo % 2 ^ 64) (hi - lo) (ws.any fun w => w.2.2 != 0) fun old => (mergeScales ws old, ())

/-- A piece of the image put into the box (DIR 1): whole blocks of a row, padding with them, and with the row's last piece the scales of its
blocks within the extents. -/
def inPiece (c : Self) (g : BoxGeom) (r o n : Nat) : Op Flags := do
  if !g.rowIn r then pure 0
  else
    let ne := min n (g.inside * g.unit - o)
    if ne != 0 then
      let (bs, p) ← if g.mode == 3 then pure (g.fillBytes o ne, 0) else imgRead c (g.place r o) ne
      engWriteSpan c (p != 0) 3 ((tensorRow g.rec_ (g.idx r) + g.first * g.unit + o) % 2 ^ 64) bs
    if g.scl && o + n == g.rb && g.inside != 0 then putScales c g r
    pure 0

/-- Piece n of a box copy. -/
def boxPiece (c : Self) (g : BoxGeom) (n : Nat) : Op Flags :=
  let (r, o, k) := g.piece n
  if k == 0 then pure 0 else if g.dirIn then inPiece c g r o k else outPiece c g r o k

/-- The 16 bytes of a lane's copy. -/
def lanePiece (c : Self) (dst src : Nat) : Op Flags := do
  let (bs, p) ← imgRead c src 16
  imgWrite c dst bs (p != 0)
  pure 0

/-! ## Deduplicated pages (15 R345, R361) -/

/-- Pages of the image of a DDW copy. -/
def BoxGeom.pages (g : BoxGeom) : Nat := if g.empty then 0 else ceilDiv ((g.rows - 1) * g.pitch + g.rb) 4096

/-- What the image gives of one line of a page: the offset in the page, the bytes, and whether a poisoned line fed them. -/
structure PagePart where
  off   : Nat
  bytes : List Byte
  bad   : Bool
  deriving DecidableEq, Repr

/-- The parts of line i of page p, by row of the image. -/
def lineParts (c : Self) (g : BoxGeom) (p i : Nat) : Op (List PagePart) := do
  let lo := 4096 * p + 64 * i
  let r0 := if lo < g.rb then 0 else (lo - g.rb) / g.pitch + 1
  let r1 := min g.rows (ceilDiv (lo + 64) g.pitch)
  ((List.range (r1 - r0)).map (r0 + ·)).foldlM (fun ps r => do
    let a := max lo (r * g.pitch)
    let b := min (lo + 64) (r * g.pitch + g.rb)
    if b ≤ a then pure ps
    else
      let (bs, k) ← boxBytes c g r (a - r * g.pitch) (b - a)
      pure (ps ++ [⟨a - 4096 * p, bs, k != 0⟩])) []

/-- The parts of page p's bytes that the image gives. -/
def pageParts (c : Self) (g : BoxGeom) (p : Nat) : Op (List PagePart) :=
  (List.range 64).foldlM (fun ps i => do pure (ps ++ (← lineParts c g p i))) []

/-- Parts laid over a page's bytes. -/
def overlay (page : List Byte) (parts : List PagePart) : List Byte :=
  parts.foldl (fun x q => x.take q.off ++ q.bytes ++ x.drop (q.off + q.bytes.length)) page

/-- The parts written as COPY writes them. -/
def writeParts (c : Self) (va : Nat) (parts : List PagePart) : Op Unit := do
  for q in parts do
    engWrite c (va + q.off) q.bytes q.bad

/-- The parts written over equal bytes, with the page's mapping kept (15 R345). -/
def rewriteParts (c : Self) (va : Nat) (l : Leaf) (parts : List PagePart) : Op Unit := do
  for q in parts do
    writePa { c.who with quiet := (← get).opTouched c.by_ (va + q.off) true } c.by_ l.pte (framePa l.ppn + q.off) q.bytes true
    modify fun s => s.touchLine c.by_ (va + q.off) true false

/-- The bucket of a fingerprint as the hub reaches it: its address and bytes, none where it cannot be read. -/
def ddwBucketRead (c : Self) (hub r fp : Nat) : Op (Option (Nat × Nat)) := do
  let va := ddwBucket r fp
  match (← get).devLook c.who.tenant hub .engineRead va with
  | (.wait id, s) => set s; throw (.hold (.device id))
  | (.unresolved _, s) => set s; pure none
  | (.leaf l, s) =>
    let pa := leafPa l.pte va
    let (b, s) := s.readBucket c.who pa
    set s
    pure (b.map fun b => (pa, b))

/-- A frame read whole by an engine: its bytes, none where a line is bad or cannot be reached. -/
def engFrame (c : Self) (ppn : Nat) : Op (Option (List Byte)) := do
  let s ← get
  let pa := framePa ppn
  if poolLost s pa then
    set (s.lostError pa)
    pure none
  else
    let s := (s.countLines c.who pa 4096).noteRead pa 4096
    set s
    pure (if s.poisoned pa 4096 then none else some (s.mem.readBytes pa 4096))

/-- A page's bytes with the image's over those that stand there: none where a line of those is bad. -/
def pageImage (c : Self) (va : Nat) (parts : List PagePart) : Op (Option (List Byte)) := do
  let old ← (List.range 64).mapM fun i => do
    if ((parts.filter fun q => q.off / 64 == i).foldl (fun n q => n + q.bytes.length) 0) == 64 then pure (some (List.replicate 64 0))
    else do pure ((← engFetch c (va + 64 * i) 64).map fun x => natBytes 64 x.1)
  pure (if old.all (·.isSome) then some (overlay (old.flatMap fun x => x.getD []) parts) else none)

/-- The leaf of a page that is to be written. -/
def ddwLeaf (c : Self) (va : Nat) : Op Leaf := do
  let _ ← translate c.who .engineWrite va
  match lookLeaf (← get) c.who.root .engineWrite va with
  | .error f => throw (.fault f)
  | .ok l => pure l

/-- A leaf remapped copy-on-write to a frame (15 R345). -/
def State.mapCow (s : State) (c : Self) (l : Leaf) (ppn : Nat) : State :=
  (s.putPte c.who.tenant l.ptePa (setFld (setFld (setFld l.pte 55 12 ppn) 2 2 0) 7 7 1)).shootPage c.who.asid l.page

/-- A page written and, where its bucket has room and no entry of its fingerprint, entered and mapped copy-on-write (15 R345). -/
def ddwInsert (c : Self) (hub r fp va : Nat) (parts : List PagePart) : Op Unit := do
  writeParts c va parts
  let l ← ddwLeaf c va
  match ← ddwBucketRead c hub r fp with
  | none => pure ()
  | some (pa, b) =>
    let es := (List.range 8).map (ddwEntry b)
    if !es.any fun e => ddwUsable e && fld e 127 0 == fp then
      match (List.range 8).find? fun i => fld (ddwEntry b i) 255 189 == 0 && !bit (ddwEntry b i) 188 with
      | none => pure ()
      | some i => modify fun s => (s.putDdwEntry c.who pa i (fp + l.ppn * 2 ^ 128 + 2 ^ 172 + 2 ^ 188)).mapCow c l l.ppn

/-- One page of a DDW copy: shared with an equal frame, or written (15 R345). -/
def ddwPage (c : Self) (g : BoxGeom) (p : Nat) : Op Flags := do
  let va := g.image + 4096 * p
  let parts ← pageParts c g p
  let l ← ddwLeaf c va
  let r := ((← get).tenant c.who.tenant).ddw.toNat
  let hub := (homeOf (framePa l.ppn)).hub
  let page ← if l.size != 0 || !bit r 0 || parts.any (·.bad) then pure none else pageImage c va parts
  match page with
  | none => writeParts c va parts
  | some x =>
    let fp := fingerprint x
    match ← ddwBucketRead c hub r fp with
    | none => writeParts c va parts
    | some (pa, b) =>
      let same := (List.range 8).filter fun i => ddwUsable (ddwEntry b i) && fld (ddwEntry b i) 127 0 == fp
      let entryPpn := fun (i : Nat) => fld (ddwEntry b i) 171 128
      match same.find? fun i => entryPpn i != l.ppn with
      | some i =>
        let e := ddwEntry b i
        let equal ← if fld e 187 172 < 65535 then do pure ((← engFrame c (entryPpn i)) == some x) else pure false
        if equal then
          match (← get).releaseFrame hub 0 l.ppn with
          | none => throw (.hold (.frames hub))
          | some s =>
            set ((((s.putDdwEntry c.who pa i (setFld e 187 172 (fld e 187 172 + 1))).mapCow c l (entryPpn i)).setMulti (entryPpn i)).perfHubEvent
              c.who.tenant hub 5 1)
        else writeParts c va parts
      | none =>
        let equal ← if same.any fun i => entryPpn i == l.ppn then do pure ((← engFrame c l.ppn) == some x) else pure false
        if equal then rewriteParts c va l parts else ddwInsert c hub r fp va parts
  pure 0

/-! ## A copy on its engine -/

def State.copy? (s : State) (id : Nat) : Option Copy := s.copies.find? fun c => c.id == id
def State.updCopy (s : State) (id : Nat) (f : Copy → Copy) : State :=
  { s with copies := s.copies.map fun c => if c.id == id then f c else c }

/-- The geometry of a copy whose snapshot holds a valid record. -/
def Copy.geom? (c : Copy) : Option BoxGeom :=
  match c.kind with
  | .box (some sn) _ o x im p f m d sc => sn.record.map fun r => boxGeom r o x im p f m d sc
  | _ => none

/-- A copy that proceeds by DDW pages: its image has a leaf. -/
def Copy.paged (c : Copy) : Bool := (c.geom?.map fun g => g.mode == 2 && !inWindow g.image).getD false

/-- What a copy still has to do. -/
def Copy.total (c : Copy) : Nat :=
  match c.kind with
  | .lane _ _ => 1
  | .box .. => if c.paged then (c.geom?.map BoxGeom.pages).getD 0 else (c.geom?.map BoxGeom.pieces).getD 0

/-- Where a copy stands: pages of a DDW copy, pieces of any other. -/
def Copy.at (c : Copy) : Nat := if c.paged then c.page else c.next

/-- The start of a copy: BYTES, and the failures found at the start (15 R342, R343). -/
def State.startCopy (s : State) (id : Nat) : State :=
  match s.copy? id with
  | none => s
  | some c =>
    if c.started then s
    else
      match c.kind with
      | .lane _ _ => s.updCopy id fun c => { c with started := true, bytes := 16 }
      | .box _ _ _ extent _ pitch .. =>
        match c.geom?, boxEmpty extent with
        | _, true => s.updCopy id fun c => { c with started := true, code := 1 }
        | none, _ => s.updCopy id fun c => { c with started := true, code := 2 }
        | some g, _ =>
          let code := startCode s (c.by_.self id) g pitch
          s.updCopy id fun c => { c with started := true, bytes := g.bytes, code := code, failVa := if code < 2 then 0 else g.image }

/-- One step of a started copy that has not failed and is not done: a page or a piece. -/
def State.stepCopy (s : State) (id : Nat) : Bool × State :=
  match s.copy? id with
  | none => (false, s)
  | some c =>
    if !c.started || c.code != 0 || c.park.entry.isSome || decide (c.total ≤ c.at) then (false, s)
    else if c.park.bad then (false, s.updCopy id fun c => { c with code := 5 })
    else
      let self := c.by_.self id
      let m : Op Flags := match c.kind, c.geom? with
        | .lane d sr, _ => lanePiece self d sr
        | _, some g => if c.paged then ddwPage self g c.page else boxPiece self g c.next
        | _, none => pure 0
      match engStep self m s with
      | (.ok fl, s) =>
        (true, s.updCopy id fun c =>
          { c with next := if c.paged then c.next else c.next + 1, page := if c.paged then c.page + 1 else c.page, flags := c.flags ||| fl })
      | (.parked k, s) => (false, s.updCopy id fun c => { c with park := k })
      | (.held, s) => (false, s)
      | (.fail code va, s) => (false, s.updCopy id fun c => { c with code := code, failVa := if s.opBad id == 0 then va else c.failVa })

/-- Every piece that can be done now. -/
def State.runCopy (s : State) (id : Nat) : (fuel : Nat) → State
  | 0 => s
  | fuel + 1 =>
    match s.stepCopy id with
    | (true, s) => State.runCopy s id fuel
    | (false, s) => s

/-- A copy that has nothing left to do. -/
def Copy.over (c : Copy) : Bool := c.started && (c.code != 0 || decide (c.total ≤ c.at))

/-- The code that a copy ends with. -/
def State.endCode (s : State) (c : Copy) : Nat := if c.code != 0 then c.code else if s.opBad c.id != 0 then 6 else 1

/-- Bytes copied at a hub counted in whole 64s (18 R400). -/
def State.countCopied (s : State) (tenant hub bytes : Nat) : State :=
  let n := (s.tenant tenant).copyRem.getD hub 0 + bytes
  (s.updTenant tenant fun t => { t with copyRem := t.copyRem.set hub (n % 64) }).perfHubEvent tenant hub 6 (n / 64)

/-- The end of a copy task (15 R350). -/
def State.endCopyTask (s : State) (task code bytes poisons failVa : Nat) : State :=
  s.updTask task fun t =>
    { t with
      ending := some (t.ending.getD ⟨if code == 1 then 1 else if code == 6 then 6 else 3, 0, 0, failVa⟩), phase := .ending
      detail := bytes % 2 ^ 32 + code * 2 ^ 32 + min poisons (2 ^ 24 - 1) * 2 ^ 40 }

/-- A copy completes (15 R342, R348, R349; 06 R157). -/
def State.endCopy (s : State) (id : Nat) : State :=
  match s.copy? id with
  | none => s
  | some c =>
    let code := s.endCode c
    let bad := s.opBad id
    let s : State := { s with copies := s.copies.filter fun x => x.id != id }
    let s := s.countCopied c.by_.tenant c.hub c.bytes
    let s := match c.sw, c.by_.block with
      | some o, some b =>
        let valid := match c.kind with | .lane _ _ => true | .box _ _ _ extent .. => c.geom?.isSome || boxEmpty extent
        s.syncStep b o (if valid then .contribute c.bytes else .failMark)
      | _, _ => s
    let s := s.raiseFor c.by_ c.flags
    let s := match s.posterThread c.by_, c.batch with
      | some r, some n => s.finishInBatch r n code
      | _, _ => s
    if c.inTask then s.endCopyTask c.by_.task code c.bytes bad (if code == 1 then 0 else c.failVa)
    else s.subPending c.by_.task c.by_.core

/-- COPY_COMPLETE: what a copy still has to do by pieces, and its end when nothing is left. -/
def State.completeCopy (s : State) (id : Nat) : State :=
  match s.copy? id with
  | none => s
  | some c =>
    let s := if c.paged then s else s.runCopy id (c.total - c.at)
    match s.copy? id with
    | some c => if c.over then s.endCopy id else s
    | none => s

/-! ## Posting (15 R337, R338, R343, R347) -/

/-- The checks of a sync word's offset. -/
def postSync (on : Bool) (self : Self) (o : Nat) : Op (Option Nat) := do
  if on then
    syncOffsetOk 2 self o
    pure (some o)
  else pure none

/-- A copy posted by a lane: queue room, a strand's turn, the batch it joins (15 R337, R348; 09 R229). The answer is its batch
number. -/
def postCopy (c : LaneCtx) (global : Bool) (kind : CopyKind) (sw : Option Nat) (sem scope : Nat) : Op Nat := do
  let self := (← get).self c.ref
  if global then awaitHead self.strand
  let s ← get
  let hub := hubOfDie self.who.die
  if 4096 ≤ (s.copies.filter fun x => x.hub == hub).length then throw (.hold (.copyQueue hub))
  match s.thread? c.ref with
  | none => pure 0
  | some t =>
    let full := t.openSize == 256
    if full && t.openLeft != 0 && decide (16 ≤ t.unfinished) then throw (.hold .batchLimit)
    let t := if full then t.seal else t
    let (id, s) := s.newId
    let by_ := s.posterOf c
    let cp : Copy :=
      { id, hub, by_, kind, sw, sem, scope, batch := some t.batch, inTask := false, started := false, bytes := 0, next := 0, page := 0
        code := 0, flags := 0, failVa := 0, park := .clear }
    let s := s.updThread c.ref fun _ => { t with openLeft := t.openLeft + 1, openSize := t.openSize + 1 }
    set ((({ s with copies := s.copies ++ [cp] } : State).addPending by_.task by_.core).perfCoreEvent by_.tenant 7 1)
    pure t.batch

def cpybOp (x : Dev) (c : LaneCtx) : Op LaneRes := do
  let s ← get
  let self := s.self c.ref
  let xm := x.xmod.toNat
  let mode := fld xm 1 0
  let dirIn := bit xm 2
  let e := c.srcWN x.e
  let acc := if dirIn then 1 else 2
  if !canonical e then throw (.fault (pagePerm 1 acc e false))
  if e % (if mode == 1 then 8 else if mode == 2 then 4096 else 16) != 0 then throw (.fault (misalign acc e))
  let sw ← postSync (bit xm 4) self (c.srcN x.f)
  let tid := c.srcN x.a
  let snap := s.snapshot self.who.tenant (self.who.task.getD 0) tid
  let kind : CopyKind :=
    .box (some snap) tid (c.srcQN x.b % 2 ^ 120) (c.srcQN x.c % 2 ^ 120) e (c.srcN x.g) (if mode == 3 then c.srcN x.h else 0) mode dirIn (bit xm 3)
  let n ← postCopy c (dirIn || !inWindow e) kind sw (Dev.sem x) (Dev.scope x)
  pure (resultN x.d n)

def cpylOp (x : Dev) (c : LaneCtx) : Op LaneRes := do
  let s ← get
  let self := s.self c.ref
  let wa := c.srcWN x.a
  let wb := c.srcWN x.b
  if !canonical wa then throw (.fault (pagePerm 1 2 wa false))
  if !canonical wb then throw (.fault (pagePerm 1 1 wb false))
  if wa % 16 != 0 then throw (.fault (misalign 2 wa))
  if wb % 16 != 0 then throw (.fault (misalign 1 wb))
  if inWindow wa && (s.window? self.block self.core wa 16).isNone then throw (.fault (pagePerm 2 2 wa false))
  if inWindow wb && (s.window? self.block self.core wb 16).isNone then throw (.fault (pagePerm 2 1 wb false))
  let sw ← postSync (bit x.m 9) self (c.srcN x.c)
  let _ ← postCopy c (!inWindow wa) (.lane wa wb) sw (Dev.sem x) (Dev.scope x)
  pure (.done {})

/-! ## Batches (15 R348, R349) -/

def csealOp (x : Dev) (c : LaneCtx) : Op LaneRes := do
  match (← get).thread? c.ref with
  | none => pure (.done {})
  | some t =>
    if t.openLeft != 0 && decide (16 ≤ t.unfinished) then throw (.hold .batchLimit)
    modify fun s => s.updThread c.ref Thread.seal
    pure (resultN x.d t.batch)

def cwaitLane (x : Dev) (c : LaneCtx) : LaneRes :=
  let a := c.src x.a
  if !scalarTag a.tag then tagFault
  else
    let n := (satI (ival a) 0 16).toNat
    if c.th.unfinished ≤ n then .done {} else .wait (.cwait n)

def cqryOp (x : Dev) (c : LaneCtx) : Op LaneRes := do
  match (← get).thread? c.ref with
  | none => pure (.done {})
  | some t =>
    match fld x.m 2 0 with
    | 0 => pure (resultN x.d t.openSize)
    | 1 => pure (resultN x.d t.unfinished)
    | 2 => pure (resultN x.d t.lastSeal)
    | 3 => pure (resultN x.d t.doneUpTo)
    | _ =>
      modify fun s => s.updThread c.ref fun t => { t with copyErr := 0 }
      pure (resultN x.d t.copyErr)

/-! ## Meanings -/

def execCpyb (x : Dev) (s : State) : Host.Outcome State Fault Refusal := .next (runOp x (cpybOp x) s)
def execCpyl (x : Dev) (s : State) : Host.Outcome State Fault Refusal := .next (runOp x (cpylOp x) s)
def execCseal (x : Dev) (s : State) : Host.Outcome State Fault Refusal := .next (runOp x (csealOp x) s)
def execCwait (x : Dev) (s : State) : Host.Outcome State Fault Refusal := .next (runPure x cwaitLane s)
def execCqry (x : Dev) (s : State) : Host.Outcome State Fault Refusal := .next (runOp x (cqryOp x) s)
def execCopyStart (copy : Nat) (s : State) : Host.Outcome State Fault Refusal := .next (s.startCopy copy)
def execDdwPageStep (copy : Nat) (s : State) : Host.Outcome State Fault Refusal :=
  .next (if (s.copy? copy).any Copy.paged then (s.stepCopy copy).2 else s)
def execCopyComplete (copy : Nat) (s : State) : Host.Outcome State Fault Refusal := .next (s.completeCopy copy)

end Sys2Proof.Machine
end

