-- ==== Sys2Proof/Machine/NearMem.lean ====
section
/-! DEFINITION. Near-memory commands (15 R351-R355) and the completion record (06 R158). -/
namespace Sys2Proof.Machine

/-! ## The completion record (06 R158) -/

/-- The fields of a completion record but for END_CLOCK and the task's name. -/
structure ComplInfo where
  detail    : Nat
  faultAddr : Nat
  faultPc   : Nat
  startClk  : Nat
  blocksRun : Nat
  fault     : Nat
  status    : Nat
  deriving DecidableEq, Repr

/-- The 64 bytes of a completion record. -/
def complRecord (i : ComplInfo) (clock graph num : Nat) : Nat :=
  i.detail % 2 ^ 64 * 2 ^ 448 + i.faultAddr % 2 ^ 64 * 2 ^ 384 + i.faultPc % 2 ^ 64 * 2 ^ 320 + clock * 2 ^ 256 + i.startClk * 2 ^ 192
    + i.blocksRun % 2 ^ 32 * 2 ^ 160 + graph * 2 ^ 96 + num * 2 ^ 64 + i.fault % 2 ^ 16 * 2 ^ 32 + i.status % 2 ^ 8

/-! ## The record (15 R351, R352) -/

def nmOp (r : Nat) : Nat := fld r 19 16
def nmN (r : Nat) : Nat := fld r 191 160
def nmX (r : Nat) : Nat := fld r 319 256
def nmY (r : Nat) : Nat := fld r 383 320
def nmRes (r : Nat) : Nat := fld r 447 384
def nmCompl (r : Nat) : Nat := fld r 511 448
/-- OP uses X, Y, RES. -/
def nmUsesX (r : Nat) : Bool := nmOp r != 3
def nmUsesY (r : Nat) : Bool := nmOp r != 2
def nmUsesRes (r : Nat) : Bool := nmOp r == 2

/-- The refusal code of a record, 0 for none; `task` for a near-memory task's. -/
def nmCode (chosen r : Nat) (task : Bool) : Nat :=
  let n := 4 * nmN r
  if !verOk (fld r 15 0) chosen then 1
  else if fld r 159 25 != 0 || decide (4 ≤ nmOp r) then 2
  else if decide (nmOp r < 2) && nmX r != nmY r && decide (nmX r < nmY r + n) && decide (nmY r < nmX r + n) then 3
  else if (!task && nmCompl r % 64 != 0) || (nmUsesX r && nmX r % 64 != 0) || (nmUsesY r && nmY r % 64 != 0)
      || (nmUsesRes r && nmRes r % 4 != 0) then 4
  else 0

/-- A command posted. -/
def State.postNm (s : State) (p : Poster) (r : Nat) (inTask : Bool) : State :=
  let (id, s) := s.newId
  let c : NmCmd :=
    { id, by_ := p, record := r, inTask, started := false, clock := 0, frames := [], next := 0, sum := 0, flags := 0, poisons := 0, reason := 0
      failVa := 0, park := .clear }
  { s with nms := s.nms ++ [c] }

def nmcmdOp (x : Dev) (c : LaneCtx) : Op LaneRes := do
  let self := (← get).self c.ref
  awaitHead self.strand
  let wa := c.srcWN x.a
  let r ← readRecord self wa 64
  let s ← get
  let code := lowCode (nmCode (s.tenant self.who.tenant).verTask r false) (wa % 64 != 0)
  if code != 0 then pure (resultN x.d code)
  else
    let p := s.posterOf c
    set ((s.postNm p r false).addPending p.task p.core)
    pure (resultN x.d 0)

/-! ## The unit (15 R353-R355) -/

def State.nm? (s : State) (id : Nat) : Option NmCmd := s.nms.find? fun c => c.id == id
def State.updNm (s : State) (id : Nat) (f : NmCmd → NmCmd) : State := { s with nms := s.nms.map fun c => if c.id == id then f c else c }

/-- Lines that a command works over. -/
def NmCmd.lines (c : NmCmd) : Nat := ceilDiv (nmN c.record) 16

/-- The 4 KiB pages of n bytes at an address. -/
def pagesOf (va n : Nat) : List Nat :=
  if n == 0 then [] else (List.range ((va + n - 1) / 4096 + 1 - va / 4096)).map fun i => alignDown va 4096 + 4096 * i

/-- The page of an address translated for reading or for writing. -/
def nmPage (c : Self) (writes : Bool) (va : Nat) : Op (Nat × Nat) := do
  let (pa, _) ← if writes then translateWrite c.who .engineWrite va else translate c.who .engineRead va
  pure (va, pa)

/-- Every page that a command uses, with its physical address (15 R354). -/
def nmPages (c : Self) (r : Nat) : Op (List (Nat × Nat)) := do
  let n := 4 * nmN r
  let xs ← (if nmUsesX r then pagesOf (nmX r) n else []).mapM (nmPage c false)
  let rs ← (if nmUsesY r && nmOp r != 3 then pagesOf (nmY r) n else []).mapM (nmPage c false)
  let ys ← (if nmUsesY r then pagesOf (nmY r) n else []).mapM (nmPage c true)
  let zs ← (if nmUsesRes r then [nmRes r] else []).mapM (nmPage c true)
  pure (xs ++ rs ++ ys ++ zs)

/-- The first page that does not lie in the HBM stack of the first (15 R354). -/
def nmSpan (ps : List (Nat × Nat)) : Option Nat :=
  match ps with
  | [] => none
  | (_, p0) :: _ =>
    (ps.find? fun (_, pa) => spaceOf pa != 0 || (homeOf pa).hub != (homeOf p0).hub || (homeOf pa).place != (homeOf p0).place).map Prod.fst

/-- What a step of a command leaves. -/
structure NmOut where
  sum    : Nat
  flags  : Flags
  poison : Option Nat
  deriving DecidableEq, Repr

/-- One element of AXPBY or FADE: the new value and its conditions. -/
def nmElem (r k x y : Nat) : Nat × Flags :=
  let v := fun (c : Nat) => fmtF32.value c
  if nmOp r == 0 then
    let (p, f1) := mulVal (v (fld r 223 192)) (v x)
    let (q, f2) := mulVal (v (fld r 255 224)) (v y)
    let (z, f3) := addVal .rne p q
    finish fmtF32 .rne false (z, f1 ||| f2 ||| f3)
  else
    let (e, f1) := finish fmtF32 .rne false (mulVal (v (fld r 223 192)) (v x))
    let (z, f2) := finish fmtF32 .rne false (fmaVal .rne (v y) (v k) (v e).neg)
    (z, f1 ||| f2)

/-- FADE's k (15 R353). -/
def fadeK (r : Nat) : Nat × Flags :=
  let (p, f1) := finish fmtF32 .rne false (mulVal (fmtF32.value (fld r 223 192)) (fmtF32.value (fld r 255 224)))
  let (k, f2) := finish fmtF32 .rne false (addVal .rne (.fin false 1 0) (fmtF32.value p).neg)
  (k, f1 ||| f2)

/-- Word i of a line. -/
def lineWord (bs : List Byte) (i : Nat) : Nat := leNat ((bs.drop (4 * i)).take 4)

/-- One line of a command (15 R353, R355). -/
def nmLine (c : Self) (m : NmCmd) : Op NmOut := do
  let r := m.record
  let i := m.next
  let n := min 16 (nmN r - 16 * i)
  let x := nmX r + 64 * i
  let y := nmY r + 64 * i
  match nmOp r with
  | 2 =>
    let (bs, p) ← engBytes c x (4 * n)
    if p != 0 then pure ⟨m.sum, 0, some 0⟩
    else
      let (s, fl) := (List.range n).foldl (fun (s, fl) j =>
        let (s, f) := finish fmtF32 .rne false (addVal .rne (fmtF32.value s) (fmtF32.value (lineWord bs j)))
        (s, fl ||| f)) (m.sum, (0 : Flags))
      pure ⟨s, fl, none⟩
  | 3 =>
    engWrite c y ((List.range n).flatMap fun _ => natBytes 4 (fld r 223 192)) false
    pure ⟨0, 0, none⟩
  | op =>
    let (xs, p) ← engBytes c x (4 * n)
    let (ys, q) ← engBytes c y (4 * n)
    if p != 0 || q != 0 then
      engUpdate c y (4 * n) true fun old => (old, ())
      pure ⟨0, 0, some y⟩
    else
      let k := if op == 1 then (fadeK r).1 else 0
      let (bs, fl) := (List.range n).foldl (fun (bs, fl) j =>
        let (z, f) := nmElem r k (lineWord xs j) (lineWord ys j)
        (bs ++ natBytes 4 z, fl ||| f)) (([] : List Byte), (0 : Flags))
      engWrite c y bs false
      pure ⟨0, fl, none⟩

/-- The result word of SUM, poisoned when some line was (15 R355). -/
def nmResult (c : Self) (m : NmCmd) : Op NmOut := do
  if nmUsesRes m.record then
    engWrite c (nmRes m.record) (natBytes 4 m.sum) (m.poisons != 0)
    pure ⟨m.sum, 0, none⟩
  else pure ⟨m.sum, 0, none⟩

/-- DETAIL (15 R355). -/
def nmDetail (reason refusal poisons : Nat) (fl : Flags) : Nat :=
  reason * 2 ^ 56 + fl.toNat % 32 * 2 ^ 48 + refusal * 2 ^ 32 + poisons % 2 ^ 32

/-- Poisoned lines written, and the address of the first or of the page that ended the command (15 R355). -/
def NmCmd.badLines (m : NmCmd) : Nat := if nmUsesRes m.record then (if m.poisons == 0 || m.reason != 0 then 0 else 1) else m.poisons
def NmCmd.failAddr (m : NmCmd) : Nat :=
  if m.reason != 0 then alignDown m.failVa 4096
  else if nmUsesRes m.record then (if m.poisons == 0 then 0 else alignDown (nmRes m.record) 64)
  else m.failVa

/-- What a command's completion record says. -/
def NmCmd.info (m : NmCmd) : ComplInfo :=
  { detail := nmDetail m.reason 0 m.badLines m.flags, faultAddr := m.failAddr, faultPc := 0, startClk := m.clock, blocksRun := 0, fault := 0
    status := if m.reason != 0 then 3 else if m.poisons != 0 then 6 else 1 }

/-- The completion record of a posted command (15 R352, R355). -/
def nmComplete (c : Self) (m : NmCmd) : Op NmOut := do
  if m.inTask then pure ⟨m.sum, 0, none⟩
  else
    let s ← get
    let (g, n) := s.nameOf (some m.by_.task)
    engWrite c (nmCompl m.record) (natBytes 64 (complRecord m.info (s.clockOf m.by_.tenant) g n)) false
    pure ⟨m.sum, 0, none⟩

/-- The unit begins a command: every page translated, in one stack (15 R354). -/
def State.startNm (s : State) (id : Nat) : State :=
  match s.nm? id with
  | none => s
  | some m =>
    if m.started || m.park.entry.isSome then s
    else
      let begun := fun (reason va : Nat) (frames : List Nat) (s : State) =>
        s.updNm id fun m =>
          { m with started := true, clock := s.clockOf m.by_.tenant, reason := reason, failVa := va, frames := frames
                   next := if reason == 0 then 0 else m.lines + 1, park := .clear
                   flags := if reason == 0 && nmOp m.record == 1 then (fadeK m.record).2 else 0 }
      if m.park.bad then begun 2 m.failVa [] s
      else
        match engStep (m.by_.self id) (nmPages (m.by_.self id) m.record) s with
        | (.ok ps, s) =>
          match nmSpan ps with
          | some va => begun 1 va [] s
          | none => begun 0 0 (ps.map fun (_, pa) => pa / 4096) s
        | (.parked k, s) => s.updNm id fun m => { m with park := k }
        | (.held, s) => s
        | (.fail _ va, s) => begun 2 va [] s

/-- One step of a started command. -/
def State.stepNm (s : State) (id : Nat) : Bool × State :=
  match s.nm? id with
  | none => (false, s)
  | some m =>
    let n := m.lines
    if !m.started || m.park.entry.isSome || decide (n + 2 ≤ m.next) then (false, s)
    else if m.park.bad then
      (true, s.updNm id fun m =>
        if m.next ≤ n then { m with reason := 2, next := n + 1, park := .clear } else { m with next := n + 2, park := .clear })
    else
      let self := m.by_.self id
      match engStep self (if m.next < n then nmLine self m else if m.next == n then nmResult self m else nmComplete self m) s with
      | (.ok o, s) =>
        (true, s.updNm id fun m =>
          { m with next := m.next + 1, sum := o.sum, flags := m.flags ||| o.flags, poisons := m.poisons + b2n o.poison.isSome
                   failVa := if m.poisons == 0 then o.poison.getD m.failVa else m.failVa })
      | (.parked k, s) => (false, s.updNm id fun m => { m with park := k })
      | (.held, s) => (false, s)
      | (.fail _ va, s) =>
        (true, s.updNm id fun m => if m.next ≤ n then { m with reason := 2, failVa := va, next := n + 1 } else { m with next := n + 2 })

/-- Every step that can be done now. -/
def State.runNm (s : State) (id : Nat) : (fuel : Nat) → State
  | 0 => s
  | fuel + 1 =>
    match s.stepNm id with
    | (true, s) => State.runNm s id fuel
    | (false, s) => s

/-- The end of a near-memory task (15 R352, R355). -/
def State.endNmTask (s : State) (task : Nat) (i : ComplInfo) : State :=
  s.updTask task fun t =>
    { t with ending := some (t.ending.getD ⟨i.status, 0, 0, i.faultAddr⟩), phase := .ending, detail := i.detail, startClk := i.startClk }

/-- The end of a command that has nothing left to do. -/
def State.endNm (s : State) (id : Nat) : State :=
  match s.nm? id with
  | none => s
  | some m =>
    let s : State := { s with nms := s.nms.filter fun x => x.id != id }
    if m.inTask then s.endNmTask m.by_.task m.info else s.subPending m.by_.task m.by_.core

/-- NM_COMMAND_COMPLETE: what a command still has to do, and its end. -/
def State.completeNm (s : State) (id : Nat) : State :=
  match s.nm? id with
  | none => s
  | some m =>
    let s := s.runNm id (m.lines + 3)
    match s.nm? id with
    | some m => if m.started && decide (m.lines + 2 ≤ m.next) then s.endNm id else s
    | none => s

/-! ## Meanings -/

def execNmcmd (x : Dev) (s : State) : Host.Outcome State Fault Refusal := .next (runOp x (nmcmdOp x) s)
def execNmCommandStart (cmd : Nat) (s : State) : Host.Outcome State Fault Refusal := .next (s.startNm cmd)
def execNmCommandComplete (cmd : Nat) (s : State) : Host.Outcome State Fault Refusal := .next (s.completeNm cmd)

end Sys2Proof.Machine
end

