-- ==== Sys2Proof/Machine/CrossLane.lean ====
section
/-! DEFINITION. The cross-lane instructions: shuffles, votes, masks, matching, reductions, scans and ragged rows
(07 R162-R170). -/
namespace Sys2Proof.Machine

/-- An instruction whose lanes read each other's sources (07 R162). -/
def runCross (x : Dev) (f : Dev → List LaneCtx → LaneCtx → LaneRes) (s : State) : State :=
  runCohort x (fun act => pure (f x act)) s

/-- The active lane of a number. -/
def laneAt (act : List LaneCtx) (l : Nat) : Option LaneCtx := act.find? fun c => c.lane == l

/-- The mask of the active lanes that a test picks. -/
def laneMask (act : List LaneCtx) (p : LaneCtx → Bool) : Nat := act.foldl (fun m c => if p c then m + 2 ^ c.lane else m) 0

/-! ## Shuffle, votes, masks, matching (07 R164-R167) -/

/-- The source lane of SHFL, none where it is not valid (07 R164). -/
def shflSrc (mode wlog lane b : Nat) : Option Nat :=
  let w := 2 ^ wlog
  let base := lane / w * w
  match mode with
  | 0 => some (base + b % w)
  | 1 => some (base + (lane - base + b) % w)
  | 2 =>
    let src : Int := (lane : Int) + sextN b 32
    if (base : Int) ≤ src ∧ src < ((base + w : Nat) : Int) then some src.toNat else none
  | _ => some (lane ^^^ (b % w))

def shflLane (x : Dev) (act : List LaneCtx) (c : LaneCtx) : LaneRes :=
  let pd := fld x.m 7 5
  match (shflSrc (fld x.m 1 0) (fld x.m 4 2) c.lane (c.srcN x.b)).bind (laneAt act) with
  | some t => .done { regs := [(x.d, t.src x.a)], preds := [(pd, true)] }
  | none => .done { regs := [(x.d, c.src x.a)], preds := [(pd, false)] }

def voteLane (x : Dev) (act : List LaneCtx) (_ : LaneCtx) : LaneRes :=
  let q := fun (c : LaneCtx) => c.pred x.a != bit x.m 2
  match fld x.m 1 0 with
  | 0 => resultP x.d (act.all q)
  | 1 => resultP x.d (act.any q)
  | 2 => resultP x.d (act.all q || !act.any q)
  | _ => resultN x.d (laneMask act q)

def matchLanesLane (x : Dev) (act : List LaneCtx) (c : LaneCtx) : LaneRes :=
  let v := fun (c : LaneCtx) => if bit x.m 0 then c.srcWN x.a else c.srcN x.a
  resultN x.d (laneMask act fun t => v t == v c)

def electLane (x : Dev) (act : List LaneCtx) (c : LaneCtx) : LaneRes :=
  let leader := ((act.head?).map (·.lane)).getD 0
  let regs := if bit x.m 0 then [(x.a, (⟨BitVec.ofNat 32 leader, .n32⟩ : Reg))] else []
  .done { regs := regs, preds := [(x.d.predNo, c.lane == leader)] }

def actmaskLane (x : Dev) (act : List LaneCtx) (_ : LaneCtx) : LaneRes := resultN x.d (laneMask act fun _ => true)

/-! ## Reductions and scans (07 R168, R169) -/

/-- One application of the operator: exact integers, F32 codes, or words (07 R168). -/
def redStep (op : Nat) (tag : Tag) (ftz : Bool) (a b : Int) : Int × Flags :=
  let nat := fun (f : Nat → Nat → Nat) => ((f a.toNat b.toNat : Nat) : Int)
  match op with
  | 0 =>
    if tag == .f32 then
      let v := fun (n : Int) => fmtF32.value (fmtF32.flush ftz n.toNat)
      let (r, fl) := finish fmtF32 .rne ftz (addVal .rne (v a) (v b))
      ((r : Int), fl)
    else (a + b, 0)
  | 1 => if tag == .f32 then let (r, fl) := minMaxCode fmtF32 false ftz a.toNat b.toNat; ((r : Int), fl) else (min a b, 0)
  | 2 => if tag == .f32 then let (r, fl) := minMaxCode fmtF32 true ftz a.toNat b.toNat; ((r : Int), fl) else (max a b, 0)
  | 3 => (nat (· &&& ·), 0)
  | 4 => (nat (· ||| ·), 0)
  | _ => (nat (· ^^^ ·), 0)

/-- The identity of the operator (07 R168). -/
def redIdentity (op : Nat) (tag : Tag) : Int :=
  let r := intRange 32 (tag != .n32)
  match op with
  | 0 => if tag == .f32 then 0x80000000 else 0
  | 1 => if tag == .f32 then 0x7F800000 else r.2
  | 2 => if tag == .f32 then 0xFF800000 else r.1
  | 3 => 0xFFFFFFFF
  | _ => 0

/-- Whether the operator works on exact integers. -/
def redExact (op : Nat) (tag : Tag) : Bool := decide (op < 3) && tag != .f32

/-- A lane's input. -/
def redInput (op : Nat) (r : Reg) : Int := if redExact op r.tag then ival r else (r.val.toNat : Int)

/-- The tag that all active lanes carry, none where the rules of 07 R168 break. -/
def redTag (x : Dev) (act : List LaneCtx) : Option Tag :=
  match act with
  | [] => none
  | c :: cs =>
    let tag := (c.src x.a).tag
    if cs.any fun d => (d.src x.a).tag != tag then none
    else if tchkFails x.m [tag] then none
    else if decide (fld x.m 11 9 < 3) && !(scalarTag tag || tag == .f32) then none
    else some tag

/-- Combining two positions, with the flags so far. -/
def redCombine (op : Nat) (tag : Tag) (ftz : Bool) (t : List Int) (fl : Flags) (i j : Nat) : Int × Flags :=
  let (v, g) := redStep op tag ftz (t.getD i 0) (t.getD j 0)
  (v, fl ||| g)

/-- The pairwise tree of WRED (07 R169). -/
def redTree (op : Nat) (tag : Tag) (ftz : Bool) (t : List Int) : List Int × Flags :=
  (List.range 5).foldl (fun acc s =>
    (List.range (32 / 2 ^ (s + 1))).foldl (fun (acc : List Int × Flags) k =>
      let i := k * 2 ^ (s + 1)
      let (v, fl) := redCombine op tag ftz acc.1 acc.2 i (i + 2 ^ s)
      (acc.1.set i v, fl)) acc) (t, 0)

/-- One step of the segmented scan: each position reads the previous step's values. -/
def scanStep (op : Nat) (tag : Tag) (ftz : Bool) (acc : List Int × List Bool × Flags) (s : Nat) : List Int × List Bool × Flags :=
  let (t, f, fl) := acc
  let d := 2 ^ s
  (List.range 32).foldl (fun (acc : List Int × List Bool × Flags) i =>
    if i < d || f.getD i true then acc
    else
      let (v, fl) := redCombine op tag ftz t acc.2.2 (i - d) i
      (acc.1.set i v, acc.2.1.set i (f.getD (i - d) true), fl)) (t, f, fl)

/-- The segmented scan tree (07 R169). -/
def redScan (op : Nat) (tag : Tag) (ftz : Bool) (t : List Int) (f : List Bool) : List Int × Flags :=
  let (t, _, fl) := (List.range 5).foldl (scanStep op tag ftz) (t, f, 0)
  (t, fl)

/-- The inputs by position (07 R169). -/
def redInputs (x : Dev) (tag : Tag) (act : List LaneCtx) : List Int :=
  (List.range 32).map fun l =>
    match laneAt act l with
    | some c => redInput (fld x.m 11 9) (c.src x.a)
    | none => redIdentity (fld x.m 11 9) tag

/-- The heads: lane 0, and under a segmented instruction the active lanes whose C is 1. -/
def redHeads (seg : Bool) (x : Dev) (act : List LaneCtx) : List Bool :=
  (List.range 32).map fun l => l == 0 || (seg && ((laneAt act l).map fun c => c.pred x.c).getD false)

/-- A result of a reduction with the flags of every application. -/
def redResult (x : Dev) (op : Nat) (tag : Tag) (fl : Flags) (v : Int) : LaneRes :=
  if redExact op tag then
    let (n, g) := narrowInt (Dev.sat x) 32 (tag != .n32) v
    result x.d (BitVec.ofNat 32 n) tag (fl ||| g)
  else result x.d (BitVec.ofInt 32 v) tag fl

/-- WRED. -/
def wredLane (x : Dev) (act : List LaneCtx) : LaneCtx → LaneRes :=
  match redTag x act with
  | none => fun _ => tagFault
  | some tag =>
    let (t, fl) := redTree (fld x.m 11 9) tag (Dev.ftz x) (redInputs x tag act)
    fun _ => redResult x (fld x.m 11 9) tag fl (t.getD 0 0)

/-- WSCAN, and with `seg` SEGSCAN. -/
def scanLane (seg : Bool) (x : Dev) (act : List LaneCtx) : LaneCtx → LaneRes :=
  match redTag x act with
  | none => fun _ => tagFault
  | some tag =>
    let op := fld x.m 11 9
    let heads := redHeads seg x act
    let (t, fl) := redScan op tag (Dev.ftz x) (redInputs x tag act) heads
    fun c =>
      let v := if bit x.m 0 then (if heads.getD c.lane true then redIdentity op tag else t.getD (c.lane - 1) 0) else t.getD c.lane 0
      redResult x op tag fl v

/-- The last position of a lane's segment. -/
def segEnd (heads : List Bool) (l : Nat) : Nat :=
  match (List.range 32).find? fun q => decide (l < q) && heads.getD q false with
  | some q => q - 1
  | none => 31

/-- SEGRED. -/
def segredLane (x : Dev) (act : List LaneCtx) : LaneCtx → LaneRes :=
  match redTag x act with
  | none => fun _ => tagFault
  | some tag =>
    let op := fld x.m 11 9
    let heads := redHeads true x act
    let (t, fl) := redScan op tag (Dev.ftz x) (redInputs x tag act) heads
    fun c => redResult x op tag fl (t.getD (segEnd heads c.lane) 0)

/-! ## Ragged rows (07 R170) -/

/-- Row lengths read as the walk needs them, each at most once. `fuel` bounds the rows passed at one lane. -/
def ragAdvance (self : Self) (wa n e : Nat) : (fuel : Nat) → (k first : Nat) → (lens : List Nat) → Op (Nat × Nat × List Nat)
  | 0, k, first, lens => pure (k, first, lens)
  | fuel + 1, k, first, lens => do
    if n ≤ k then pure (k, first, lens)
    else
      let lens ← if k < lens.length then pure lens
                 else do let v ← readVa self .load (wa + 4 * k) 4; pure (lens ++ [v])
      let len := lens.getD k 0
      if first + len ≤ e then ragAdvance self wa n e fuel (k + 1) (first + len) lens
      else pure (k, first, lens)

/-- The rows and offsets of the lanes from one on, none past the entries read. -/
def ragRows (self : Self) (wa n b : Nat) : (lanes : List Nat) → (k first : Nat) → (lens : List Nat) → Op (List (Nat × Option Nat))
  | [], _, _, _ => pure []
  | l :: ls, k, first, lens => do
    let (k, first, lens) ← ragAdvance self wa n (b + l) 65 k first lens
    let rest ← ragRows self wa n b ls k first lens
    pure ((k, if k < n then some (b + l - first) else none) :: rest)

/-- RAGLD, taking its operands from the leader (07 R170). The canonical check comes before MISALIGN, and both come with c = 0 too (DESIGN CHOICE,
log entry 90). -/
def ragldOp (x : Dev) (act : List LaneCtx) : Op (LaneCtx → LaneRes) := do
  match act with
  | [] => pure fun _ => .done {}
  | c :: _ =>
    let s ← get
    let self := s.self c.ref
    let wa := c.srcWN x.a
    let n := min (c.srcN x.c) 64
    if !canonical wa then throw (.fault (pagePerm 1 1 wa false))
    if wa % 4 != 0 then throw (.fault { code := cMISALIGN, access := 1, addr := wa })
    let rows ← ragRows self wa n (c.srcN x.b) (List.range 32) 0 0 []
    let readUpTo := min n ((rows.getLast?.map (·.1)).getD 0 + 1)
    let s ← get
    pure fun c =>
      let row := (rows.getD c.lane (0, none))
      let head := row.2.isSome && (c.lane == 0 || (rows.getD (c.lane - 1) (0, none)).1 != row.1)
      let r : LaneRes := .done { regs := [(x.d, ⟨BitVec.ofNat 32 row.1, .n32⟩), (x.d.plus 1, ⟨BitVec.ofNat 32 (row.2.getD 0xFFFFFFFF), .n32⟩)]
                                 preds := [(fld x.m 2 0, head)] }
      r.withAfter (s.watchHit c.ref 62 wa (4 * readUpTo))

/-! ## Meanings -/

def execShfl (x : Dev) (s : State) : Host.Outcome State Fault Refusal := .next (runCross x shflLane s)
def execVote (x : Dev) (s : State) : Host.Outcome State Fault Refusal := .next (runCross x voteLane s)
def execWred (x : Dev) (s : State) : Host.Outcome State Fault Refusal := .next (runCross x wredLane s)
def execWscan (x : Dev) (s : State) : Host.Outcome State Fault Refusal := .next (runCross x (scanLane false) s)
def execMatchLanes (x : Dev) (s : State) : Host.Outcome State Fault Refusal := .next (runCross x matchLanesLane s)
def execElect (x : Dev) (s : State) : Host.Outcome State Fault Refusal := .next (runCross x electLane s)
def execActmask (x : Dev) (s : State) : Host.Outcome State Fault Refusal := .next (runCross x actmaskLane s)
def execRagld (x : Dev) (s : State) : Host.Outcome State Fault Refusal := .next (runCohort x (ragldOp x) s)
def execSegred (x : Dev) (s : State) : Host.Outcome State Fault Refusal := .next (runCross x segredLane s)
def execSegscan (x : Dev) (s : State) : Host.Outcome State Fault Refusal := .next (runCross x (scanLane true) s)

end Sys2Proof.Machine
end

