-- ==== Sys2Proof/Machine/System.lean ====
section
/-! DEFINITION. The system instructions (17 R379-R385) and the special registers (01 R24-R27), register space (01 R31, R33), and the
grant of a waiting REGGRW. -/
namespace Sys2Proof.Machine

/-! ## Special registers (01 R24, R25) -/

/-- The value that SRD reads; CLOCK has 64 bits. -/
def specialValue (s : State) (c : LaneCtx) (idx : Nat) : Nat :=
  let b := s.blockOf c.wave
  let t := b.bind s.taskOf
  let core := c.wave.ref.core
  match idx with
  | 0x00 => c.lane
  | 0x01 => c.wave.ref.slot
  | 0x02 => (b.map Block.blockId).getD 0
  | 0x03 => clusterOfCore core
  | 0x04 => dieOfCore core
  | 0x05 => clusterOfCore core
  | 0x06 => hubOfDie (dieOfCore core)
  | 0x07 => (t.map Task.taskNum).getD 0
  | 0x08 => (t.map Task.graphId).getD 0
  | 0x09 => c.th.ltid
  | 0x0A => (b.map Block.strandId).getD 0
  | 0x0B => s.tenantOfWave c.wave
  | 0x0C => s.clockOf (s.tenantOfWave c.wave)
  | 0x0D => c.wave.fstat.toNat
  | _ => c.th.trapinfo.toNat

def srdLane (x : Dev) (s : State) (c : LaneCtx) : LaneRes :=
  let v := specialValue s c x.m
  if x.m == 0x0C then resultW x.d v .n32 .n32 else resultN x.d v

/-- SWR of FSTAT: the bits that the active lanes' values name are cleared (17 R380). -/
def swrOp (x : Dev) (act : List LaneCtx) : Op (LaneCtx → LaneRes) := do
  let bits := act.foldl (fun (w : Word) c => w ||| (c.src x.a).val) 0
  match act.head? with
  | some c => modify fun s => s.updWave c.wave.ref fun w => { w with fstat := clearFlags w.fstat bits }
  | none => pure ()
  pure fun _ => .done {}

/-! ## TRET (17 R381) -/

/-- A tag of a trap frame. Code 15 is no tag, and the spec states no value for it: the tag is free then (log entry 27). -/
def State.frameTag (s : State) (code : Nat) : Tag × State :=
  match Tag.ofCode? code with
  | some t => (t, s)
  | none =>
    let (w, s) := s.drawWord
    ((Tag.ofCode? (w % 15)).getD .raw, s)

/-- The abort of the task of a lane that runs an instruction; the lane stays where it is (17 R371). -/
def abortHere (c : LaneCtx) (code : Nat) : Op LaneRes := do
  let s ← get
  match s.blockOf c.wave with
  | some b => set (s.markAbort b.task (faultEnd { code } c.th.pc.toNat))
  | none => pure ()
  pure (.done { pc := some c.th.pc })

def tretOp (_ : Dev) (c : LaneCtx) : Op LaneRes := do
  if c.th.trapinfo == 0 then throw (.fault { code := cILLEGAL_OP })
  let self := (← get).self c.ref
  let words ← (List.range 16).mapM fun i => readPriv self c.wave c.lane (4 * i) 4
  let f := words.foldr (fun w n => w + 2 ^ 32 * n) 0
  let pc := fld f 511 448
  if !canonical pc then abortHere c cPAGE_PERM
  else if pc % 4 != 0 then abortHere c cMISALIGN
  else
    let (t0, s) := (← get).frameTag (fld f 67 64)
    let (t1, s) := s.frameTag (fld f 71 68)
    set s
    let regs := if 2 ≤ c.wave.allot then
        [(.v 0, ⟨BitVec.ofNat 32 (fld f 31 0), t0⟩), (.v 1, ⟨BitVec.ofNat 32 (fld f 63 32), t1⟩)] else []
    pure (.done { regs, preds := (List.range 7).map fun i => (i, bit f (256 + i)), pc := some (BitVec.ofNat 60 pc), leaves := true })

/-! ## HLT, PERF, CLK, DBGMK, ISYNC (17 R382, R383, R385) -/

def hltOp (x : Dev) (c : LaneCtx) : Op LaneRes := do
  awaitHead ((← get).self c.ref).strand
  abortHere c (cHALT + fld x.m 7 0)

/-- What PERF answers for a counter that does not count. -/
def perfNone : Nat := 0xFFFFFFFFFFFFFFF0

/-- A counter of a tenant (18 R400). -/
def perfValue (t : Tenant) (hub : Option Nat) (n : Nat) : Nat :=
  match hub with
  | none =>
    let e := t.perfSels.getD n 0
    if n ≤ 15 && 1 ≤ e && e ≤ 7 then t.perfCore.getD n 0 else perfNone
  | some h =>
    let e := t.perfSels.getD (16 + n) 0
    if n ≤ 63 && 1 ≤ e && e ≤ 7 then (t.perfHub.getD h []).getD n 0 else perfNone

def perfLane (x : Dev) (s : State) (c : LaneCtx) : LaneRes :=
  let hub := if bit x.m 0 then some (hubOfDie (dieOfCore c.wave.ref.core)) else none
  resultW x.d (perfValue (s.tenant (s.tenantOfWave c.wave)) hub (c.srcN x.a)) .n32 .n32

/-- The clock of a block of the module as its limits leave it, in MHz. -/
def CoreClock.mhz (c : CoreClock) : Nat := min (c.thermal.getD Config.fullClock) (min (c.power.getD Config.fullClock) Config.fullClock)

/-- The limits on the clock of a block. -/
def State.limits (s : State) (b : PowerBlock) : CoreClock := ((s.clocks.find? fun p => p.1 == b).map (·.2)).getD ⟨none, none⟩

def clkLane (x : Dev) (s : State) (c : LaneCtx) : LaneRes :=
  let k := s.limits (.die (Fin.ofNat 8 (dieOfCore c.wave.ref.core)))
  resultN x.d (k.mhz + b2n k.thermal.isSome * 2 ^ 16 + b2n k.power.isSome * 2 ^ 17)

def dbgmkOp (x : Dev) (c : LaneCtx) : Op LaneRes := do
  let s ← get
  if bit (s.tenant (s.tenantOfWave c.wave)).vis.toNat 3 then
    set (s.visWrite c.ref { type := 2, pc := c.th.pc.toNat, aux := c.srcN x.a, id := x.m })
  pure (.done {})

def isyncLane (_ : Dev) (_ : LaneCtx) : LaneRes := .done {}

/-! ## Register space (01 R31, R33; 17 R384) -/

/-- Bytes of a core's register space that no wave holds. -/
def State.regSpace (s : State) (core : Nat) : Nat :=
  524288 - ((s.waves.filter fun w => w.ref.core == core).map fun w => 128 * w.allot).sum

/-- A number of registers rounded up to an allotment. -/
def allotFor (n : Int) : Nat := 8 * ((n.toNat + 7) / 8)

/-- A wave with another allotment: registers above it go, new ones are zero with tag I32. -/
def Wave.setAllot (w : Wave) (n : Nat) : Wave :=
  { w with allot := n
           threads := w.threads.map fun t => { t with regs := t.regs.take n ++ List.replicate (n - t.regs.length) Reg.zero } }

/-- The leader's operand; TAG_MISMATCH unless it is of the scalar class. -/
def allotOperand (x : Dev) (c : LaneCtx) : Op Int := do
  let a := c.src x.a
  if !scalarTag a.tag then throw (.fault { code := cTAG_MISMATCH })
  pure (ival a)

def regshrOp (x : Dev) (_ : List LaneCtx) (c : LaneCtx) : Op (LaneCtx → LaneRes) := do
  let n := allotFor (← allotOperand x c)
  if n < c.wave.allot then modify fun s => s.updWave c.wave.ref fun w => w.setAllot n
  pure fun _ => .done {}

def reggrwOp (x : Dev) (_ : List LaneCtx) (c : LaneCtx) : Op (LaneCtx → LaneRes) := do
  let i ← allotOperand x c
  if 256 < i then throw (.fault { code := cREG_RANGE })
  let n := allotFor i
  if n ≤ c.wave.allot then pure fun _ => .done {}
  else
    modify fun s => s.updCore c.wave.ref.core fun k => { k with reggrw := k.reggrw ++ [c.ref] }
    pure fun _ => .wait (.reggrw n)

/-- What a waiting thread's REGGRW asks for and where the thread goes on. -/
def State.reggrwOf (s : State) (r : ThreadRef) : Option (Nat × BitVec 60) :=
  match (s.thread? r).map Thread.status with
  | some (.waiting (.reggrw n) next) => some (n, next)
  | _ => none

/-- The oldest waiting REGGRW of a core and its request. -/
def State.nextReggrw (s : State) (core : Nat) : Option (ThreadRef × Nat × BitVec 60) :=
  (s.core core).reggrw.findSome? fun r => (s.reggrwOf r).map fun (n, next) => (r, n, next)

/-- Whether the oldest waiting REGGRW of a core can be granted: the space is there and no save holds it (17 R384, 18 R389). -/
def State.canGrant (s : State) (core : Nat) : Bool :=
  match s.nextReggrw core with
  | none => false
  | some (r, n, _) =>
    match s.wave? r.wave with
    | none => false
    | some w => (s.tenant (s.tenantOfWave w)).phase != .saving && decide (128 * (n - w.allot) ≤ s.regSpace core)

/-- The oldest waiting REGGRW of a core granted. -/
def State.grantReggrw (s : State) (core : Nat) : State :=
  match s.nextReggrw core with
  | none => s
  | some (r, n, next) =>
    if s.canGrant core then
      let s := s.updCore core fun k => { k with reggrw := k.reggrw.filter fun q => q != r && (s.reggrwOf q).isSome }
      let s := s.updWave r.wave fun w => if w.allot < n then w.setAllot n else w
      s.updWave r.wave fun w =>
        { w with threads := w.threads.map fun t =>
            match t.status with
            | .waiting (.reggrw m) k => if m == n && k == next then t.release else t
            | _ => t }
    else s

/-! ## Meanings -/

def execSrd (x : Dev) (s : State) : Host.Outcome State Fault Refusal :=
  .next (runLanes x.guard (lenBytes x.len) (fun c s' => (srdLane x s c, s')) s)
def execSwr (x : Dev) (s : State) : Host.Outcome State Fault Refusal := .next (runCohort x (swrOp x) s)
def execTret (x : Dev) (s : State) : Host.Outcome State Fault Refusal := .next (runOp x (tretOp x) s)
def execHlt (x : Dev) (s : State) : Host.Outcome State Fault Refusal := .next (runOp x (hltOp x) s)
def execPerf (x : Dev) (s : State) : Host.Outcome State Fault Refusal :=
  .next (runLanes x.guard (lenBytes x.len) (fun c s' => (perfLane x s c, s')) s)
def execClk (x : Dev) (s : State) : Host.Outcome State Fault Refusal :=
  .next (runLanes x.guard (lenBytes x.len) (fun c s' => (clkLane x s c, s')) s)
def execRegshr (x : Dev) (s : State) : Host.Outcome State Fault Refusal :=
  .next (runCohort x (fun act => match act.head? with | some c => regshrOp x act c | none => pure fun _ => .done {}) s)
def execReggrw (x : Dev) (s : State) : Host.Outcome State Fault Refusal :=
  .next (runCohort x (fun act => match act.head? with | some c => reggrwOp x act c | none => pure fun _ => .done {}) s)
def execDbgmk (x : Dev) (s : State) : Host.Outcome State Fault Refusal := .next (runOp x (dbgmkOp x) s)
def execIsync (x : Dev) (s : State) : Host.Outcome State Fault Refusal := .next (runPure x isyncLane s)
def execReggrwGrant (core : Nat) (s : State) : Host.Outcome State Fault Refusal := .next (s.grantReggrw core)

end Sys2Proof.Machine
end

