-- ==== Sys2Proof/Machine/Launch.lean ====
section
/-! DEFINITION. Dispatch: kernel headers, the choice among ready tasks, and the starts of blocks, gangs, host tasks, near-memory tasks
and copy tasks (01 R18, R28-R31; 06 R153-R156; 10 R244, R245; 15 R350, R352; 22 R420, R423, R424). -/
namespace Sys2Proof.Machine

/-! ## Kernel headers (01 R28-R31) -/

def hdrMagic (h : Nat) : Nat := fld h 31 0
def hdrVer (h : Nat) : Nat := fld h 47 32
def hdrClusterWin (h : Nat) : Bool := bit h 48
def hdrStrandOk (h : Nat) : Bool := bit h 49
def hdrEntry (h : Nat) : Nat := fld h 127 64
def hdrRestart (h : Nat) : Nat := fld h 191 128
def hdrVregs (h : Nat) : Nat := fld h 207 192
def hdrAccRows (h : Nat) : Nat := fld h 223 208
def hdrBarriers (h : Nat) : Nat := fld h 239 224
def hdrScratch (h : Nat) : Nat := fld h 287 256
def hdrSafeDist (h : Nat) : Nat := fld h 319 288

/-- The allotment of a kernel's waves. -/
def hdrAllot (h : Nat) : Nat := alignUp (hdrVregs h) 8
/-- The scratchpad of a block. -/
def hdrScratchLen (h : Nat) : Nat := alignUp (hdrScratch h) 256
/-- The waves of a block of T threads (06 R141). -/
def wavesOf (threads : Nat) : Nat := ceilDiv threads 32
/-- The waves of an allotment that a core can hold. -/
def maxWaves (allot : Nat) : Nat := if allot == 0 then 64 else min 64 (4096 / allot)

/-- A header that dispatch refuses for a block of T threads; its address is aligned (01 R29). -/
def headerBad (chosen h threads : Nat) : Bool :=
  hdrMagic h != 0x534B4C56 || !verOk (hdrVer h) chosen || fld h 2047 352 != 0 || fld h 255 240 != 0 || fld h 63 50 != 0
    || hdrEntry h % 4 != 0 || hdrRestart h % 4 != 0 || decide (256 < hdrVregs h) || decide (1572864 < hdrScratch h)
    || decide (4096 < hdrAccRows h) || decide (2048 < hdrBarriers h) || decide (maxWaves (hdrAllot h) < wavesOf threads)

/-- What a read at a task's start answers. -/
inductive TaskRead where
  | ok (x : Nat)
  | fail (code addr : Nat)
  | wait
  deriving DecidableEq, Repr

/-- One part of such a read, inside one line. -/
def State.taskPart (s : State) (t : Task) (va n : Nat) : TaskRead × State :=
  match s.devLook t.tenant t.slice .engineRead va with
  | (.wait id, s) => (.wait, s.updTask t.id fun t => { t with hdrWait := some id })
  | (.unresolved f, s) => (.fail f.code va, s)
  | (.leaf l, s) =>
    let pa := s.route (leafPa l.pte va)
    if handoverHold s pa then (.wait, s)
    else if poolLost s pa then (.fail cPOISON va, s.lostError pa)
    else if s.poisoned pa n then (.fail cPOISON va, s)
    else (.ok (s.peek pa n), s)

/-- n bytes read by the pool or a slice at a task's start, line by line. -/
def State.taskRead (s : State) (t : Task) : (fuel va n : Nat) → TaskRead × State
  | 0, _, _ => (.ok 0, s)
  | fuel + 1, va, n =>
    if n == 0 then (.ok 0, s)
    else
      let k := min n (64 - va % 64)
      match s.taskPart t va k with
      | (.ok x, s) =>
        match State.taskRead s t fuel ((va + k) % 2 ^ 64) (n - k) with
        | (.ok y, s) => (.ok (x + y * 2 ^ (8 * k)), s)
        | (r, s) => (r, s)
      | (r, s) => (r, s)

/-- The header of a task's kernel: a malformed translation, a window and a poisoned line refuse the block at once (01 R29). -/
def State.readHeader (s : State) (t : Task) : TaskRead × State :=
  match lookLeaf s (s.tenant t.tenant).root.toNat .engineRead t.codeVa with
  | .error f => if f.cause != 0 then (.fail f.code t.codeVa, s) else s.taskPart t t.codeVa 64
  | .ok _ =>
    match s.taskRead t 5 t.codeVa 256 with
    | (.fail code _, s) => (.fail code t.codeVa, s)
    | r => r

/-! ## Room on a core (06 R155) -/

/-- Wave slots of a core that no resident block holds, in ascending order: a block keeps its slots until it ends (06 R155). -/
def State.freeSlots (s : State) (core : Nat) : List Nat :=
  let used := (s.blocks.filter fun b => b.core == core).flatMap (·.slots)
  (List.range 64).filter fun i => !used.contains i

/-- Tasks that hold a slot of a core: with a block there, or operations outstanding there (06 R157). -/
def State.coreTasks (s : State) (core : Nat) : List Nat :=
  (((s.blocks.filter fun b => b.core == core).map (·.task))
    ++ ((s.tasks.filter fun t => t.pending.any fun p => p.1 == core).map (·.id))).eraseDups

/-- Private frames of a tenant that no live wave holds, the lowest first, as many as asked for. -/
def State.freePriv (s : State) (tenant n : Nat) : List Nat :=
  let used := (s.waves.filter fun w => s.tenantOfWave w == tenant).filterMap (·.frame)
  ((List.range (min (s.tenant tenant).privFrames (used.length + n))).filter fun i => !used.contains i).take n

/-- Whether a block of a task with a header fits on a core now. -/
def State.fits (s : State) (core : Nat) (t : Task) (h : Nat) : Bool :=
  let here := s.blocks.filter fun b => b.core == core
  let n := wavesOf t.threadsPer
  let sum := fun (f : Block → Nat) => (here.map f).sum
  decide (n ≤ (s.freeSlots core).length) && decide (n * 128 * hdrAllot h ≤ s.regSpace core)
    && decide (sum Block.scratchLen + hdrScratchLen h ≤ 1572864) && decide (sum (fun b => b.barriers.length) + hdrBarriers h ≤ 2048)
    && decide (sum (fun b => b.accRows.length) + hdrAccRows h ≤ 4096)
    && (let ts := s.coreTasks core; ts.contains t.id || decide (ts.length < 16))
    && ((s.tenant t.tenant).privFrames == 0 || (s.freePriv t.tenant n).length == n)

/-- Blocks of a task with a header that an empty core holds. -/
def coreCapacity (threads h : Nat) : Nat :=
  let n := wavesOf threads
  let per := fun (total use : Nat) => if use == 0 then 64 else total / use
  min (per (maxWaves (hdrAllot h)) n)
    (min (per 1572864 (hdrScratchLen h)) (min (per 2048 (hdrBarriers h)) (per 4096 (hdrAccRows h))))

/-! ## Starting a block (01 R18, R30; 07 R171) -/

/-- A thread at dispatch. -/
def newThread (ltid allot pc : Nat) : Thread :=
  { ltid, regs := List.replicate allot Reg.zero, preds := 0, pc := BitVec.ofNat 60 pc, trapinfo := 0, status := .run, turns := 0
    retry := false, stopped := false, again := false, inst := none, redo := none, watch := none, batch := 1, openLeft := 0, openSize := 0
    sealed := [], lastSeal := 0, doneUpTo := 0, copyErr := 0 }

/-- Wave i of a block of a task at dispatch. -/
def newWave (t : Task) (ten : Tenant) (blk : Nat) (ref : WaveRef) (i h : Nat) (frame : Option Nat) : Wave :=
  let n := min 32 (t.threadsPer - 32 * i)
  { ref, block := blk, index := i, allot := hdrAllot h
    sregs := ⟨BitVec.ofNat 32 t.addr, .n32⟩ :: ⟨BitVec.ofNat 32 (t.addr / 2 ^ 32), .n32⟩ :: List.replicate 62 Reg.zero
    fstat := 0, safeCnt := 0, frame, root := ten.root, priv := ten.priv, privsz := ten.privsz
    threads := (List.range n).map fun k => newThread (32 * i + k) (hdrAllot h) (t.codeVa + hdrEntry h) }

/-- A block at dispatch. -/
def newBlock (t : Task) (id core h : Nat) : Block :=
  { id, task := t.id, blockId := t.nextBlk, core, threads := t.threadsPer, scratchLen := hdrScratchLen h, safeDist := hdrSafeDist h
    clusterWin := hdrClusterWin h, scratch := [], scratchBad := []
    barriers := List.replicate (hdrBarriers h) ⟨0, 0, t.threadsPer, false⟩
    accRows := List.replicate (hdrAccRows h) ⟨0, List.replicate 256 0⟩, nextTicket := 0, opCodes := [], cancelLo := 0, cancelHi := 0
    saveLo := 0, saveHi := 0, slots := []
    rstpc := if hdrRestart h == 0 then 1 else (t.codeVa + hdrRestart h) % 2 ^ 60, header := t.codeVa, restarts := 0, restarting := 0
    strand := t.strand, guessOf := t.guessOf }

/-- A task has started: it binds its generations, and its start is dated (15 R333, 06 R158). Instances of a loop have the loop's. -/
def State.beginTask (s : State) (id : Nat) : State :=
  match s.task? id with
  | none => s
  | some t =>
    if t.phase == .running then s
    else
      let bound := if t.strand.isSome || t.guessOf.isSome then t.bound else s.currentBinding t.tenant
      s.updTask id fun t => { t with phase := .running, bound := bound, begun := true, startClk := s.clockOf t.tenant }

/-- The next block of a task started on a core where it fits. Its waves take the lowest free slots in ascending order (DESIGN CHOICE, log
entry 75). -/
def State.startBlock (s : State) (id core h : Nat) : State :=
  let s := s.beginTask id
  match s.task? id with
  | none => s
  | some t =>
    let ten := s.tenant t.tenant
    let n := wavesOf t.threadsPer
    let slots := (s.freeSlots core).take n
    let frames := if ten.privFrames == 0 then [] else s.freePriv t.tenant n
    let (blk, s) := s.newId
    let ws := slots.mapIdx fun i slot => newWave t ten blk ⟨core, slot⟩ i h frames[i]?
    let s : State := { s with blocks := s.blocks ++ [{ newBlock t blk core h with slots := slots }], waves := s.waves ++ ws }
    s.updTask id fun t => { t with nextBlk := t.nextBlk + 1, started := t.started + 1 }

/-- A task ended by dispatch or by its own start. -/
def State.endTask (s : State) (id : Nat) (e : TaskEnd) : State :=
  s.updTask id fun t => { t with ending := some (t.ending.getD e), phase := .ending, gang := none }

/-- A body kernel that may not run in a loop ends the loop with LAUNCH_INVALID: nothing of the round commits (09 R220). -/
def State.endLoopAt (s : State) (l k : Nat) (e : TaskEnd) : State :=
  match s.loop? l with
  | none => s
  | some lp =>
    let s := s.updLoop l fun x => { x with ending := some (x.ending.getD e) }
    let s := s.forEach ((List.range lp.strands.length).filter fun j => decide (k ≤ j)).reverse fun j s => s.rejectOne l j false
    s.tryVerdicts l

/-- What dispatch does with a block's header. -/
inductive Launch where
  /-- It may start where it fits. -/
  | header (h : Nat)
  /-- It is refused; the loop of a body instance may end with it. -/
  | refused (e : TaskEnd) (loopEnds : Bool)
  | wait
  deriving DecidableEq, Repr

/-- The header of a task's next block, checked (01 R29, 09 R220). -/
def State.launchOf (s : State) (t : Task) : Launch × State :=
  let bad := fun (code addr : Nat) => Launch.refused ⟨2, code, 0, addr⟩ false
  if t.codeVa % 256 != 0 then (bad 0 0, s)
  else
    match s.readHeader t with
    | (.wait, s) => (.wait, s)
    | (.fail code addr, s) => (bad code addr, s)
    | (.ok h, s) =>
      if headerBad (s.tenant t.tenant).verHeader h t.threadsPer then (bad 0 0, s)
      else if t.strand.isSome && !hdrStrandOk h then (.refused ⟨2, 0, 0, 0⟩ true, s)
      else (.header h, s)

/-- A refused block ends its task, or its loop. -/
def State.refuse (s : State) (t : Task) (e : TaskEnd) (loopEnds : Bool) : State :=
  match t.strand, loopEnds with
  | some (l, _), true => s.endLoopAt l 0 e
  | _, _ => s.endTask t.id e

/-! ## The choice among ready tasks (06 R154) -/

/-- A key's value in a list of pairs. -/
def lookupD (l : List (Nat × Nat)) (k d : Nat) : Nat := ((l.find? fun p => p.1 == k).map (·.2)).getD d
/-- A key's value replaced. -/
def setKey (l : List (Nat × Nat)) (k v : Nat) : List (Nat × Nat) := (k, v) :: l.filter fun p => p.1 != k

/-- Units that a task's next dispatch costs: a block's waves, all of a gang's, or 1. -/
def Task.cost (t : Task) : Nat :=
  if t.kind != 0 then 1 else if t.colevel == 0 then wavesOf t.threadsPer else t.blocks * wavesOf t.threadsPer

/-- The task of a tenant to be taken next: queues round robin after the last one served, the earliest task of the queue. -/
def nextOfTenant (sl : Slice) (key : Nat) (ts : List Task) : Option Task :=
  let last := lookupD sl.lastQ key 63
  ((List.range 64).map fun i => (last + 1 + i) % 64).findSome? fun q =>
    (ts.filter fun t => t.queue == q).foldl (fun m t => match m with | some x => if t.seq < x.seq then some t else some x | none => some t) none

/-- 64 × W, what a visit adds to a deficit. -/
def visitGain (weight : Nat → Nat) (tenant : Nat) : Nat := 64 * weight tenant

/-- Deficit round robin over a number of visits, from a tenant on: the task taken, or the tenant whose visit is next; and the slice with its
deficits as the visits leave them. -/
def roundRobin (lvl : Nat) (ts : List Task) (weight : Nat → Nat) : (visits tenant : Nat) → Slice → (Option Task × Nat) × Slice
  | 0, tenant, sl => ((none, tenant), sl)
  | visits + 1, tenant, sl =>
    let key := 64 * lvl + tenant
    let next := (tenant + 1) % 64
    let visit := fun (sl : Slice) =>
      { sl with deficits := setKey sl.deficits (64 * lvl + next) (lookupD sl.deficits (64 * lvl + next) 0 + visitGain weight next) }
    match nextOfTenant sl key (ts.filter fun t => t.tenant == tenant) with
    | none => roundRobin lvl ts weight visits next (visit { sl with deficits := setKey sl.deficits key 0 })
    | some t =>
      if t.cost ≤ lookupD sl.deficits key 0 then ((some t, tenant), { sl with lastTen := setKey sl.lastTen lvl tenant })
      else roundRobin lvl ts weight visits next (visit sl)

/-- Rounds of visits after which a tenant's deficit covers its next cost. The tenant whose visit is next already has its gain. -/
def roundsNeeded (lvl : Nat) (ts : List Task) (weight : Nat → Nat) (first : Nat) (sl : Slice) (tenant : Nat) : Option Nat :=
  (nextOfTenant sl (64 * lvl + tenant) (ts.filter fun t => t.tenant == tenant)).map fun t =>
    ceilDiv (t.cost - lookupD sl.deficits (64 * lvl + tenant) 0) (visitGain weight tenant) + b2n (tenant == first)

/-- Rounds in which no tenant is served, passed at once: each tenant with a startable task gains for each of them. -/
def passRounds (lvl : Nat) (ts : List Task) (weight : Nat → Nat) (first : Nat) (sl : Slice) : Slice :=
  let tenants := (ts.map (·.tenant)).eraseDups
  match (tenants.filterMap (roundsNeeded lvl ts weight first sl)).min? with
  | none => sl
  | some n => tenants.foldl (fun sl k =>
      { sl with deficits := setKey sl.deficits (64 * lvl + k) (lookupD sl.deficits (64 * lvl + k) 0 + (n - 1) * visitGain weight k) }) sl

/-- The task that deficit round robin takes at a level: within the first round of 64 visits, or in the round in which the first deficit covers
a cost, however many that takes (06 R154). -/
def serveLevel (lvl : Nat) (ts : List Task) (weight : Nat → Nat) (start : Nat) (sl : Slice) : Option (Task × Slice) :=
  match roundRobin lvl ts weight 64 start sl with
  | ((some t, _), sl) => some (t, sl)
  | ((none, at_), sl) =>
    match roundRobin lvl ts weight 65 at_ (passRounds lvl ts weight at_ sl) with
    | ((some t, _), sl) => some (t, sl)
    | _ => none

/-- The task that a slice takes among startable ones of a kind: strict priority, then the tenants of the level. -/
def State.pick (s : State) (slice kind : Nat) (startable : List Task) : Option (Task × Slice) :=
  let ts := startable.filter fun t => (s.tenant t.tenant).weight != 0
  (List.range 4).findSome? fun p =>
    let level := ts.filter fun t => t.prio == p
    let lvl := 4 * kind + p
    let sl := s.slice slice
    if level.isEmpty then none else serveLevel lvl level (fun n => (s.tenant n).weight) (lookupD sl.lastTen lvl 63) sl

/-- A dispatch charged to its tenant. The turn of the task's queue in the round passes with each dispatch, so with each block (DEDUCED, log
entry 74). -/
def Slice.charge (sl : Slice) (t : Task) : Slice :=
  let key := 64 * (4 * t.kind + t.prio) + t.tenant
  { sl with deficits := setKey sl.deficits key (lookupD sl.deficits key 0 - t.cost), lastQ := setKey sl.lastQ key t.queue }

/-- A slice replaced. -/
def State.setSlice (s : State) (h : Nat) (sl : Slice) : State := s.updSlice h fun x => { sl with nextSeq := x.nextSeq }

/-! ## What may be dispatched -/

/-- The hubs of the partition that holds a hub (22 R423). -/
def partOfHub (mode hub : Nat) : List Nat :=
  ((List.range 4).map (partitionHubs mode)).find? (·.contains hub) |>.getD []

/-- A partition change holds dispatch in the partitions that it affects (22 R424). -/
def State.partHeld (s : State) (hub : Nat) : Bool :=
  let r := s.modPart.toNat
  let cur := partOfHub (fld r 5 4) hub
  bit r 0 && fld r 63 56 == 2 && !((List.range 4).any fun p => partitionHubs (fld r 3 2) p == cur)

/-- Whether a task may be dispatched at all: it is ready, and neither its tenant, its loop nor a partition change holds it (18 R389, 22
R424, R425). -/
def State.dispatchable (s : State) (t : Task) : Bool :=
  let ten := s.tenant t.tenant
  (t.phase == .ready || (t.phase == .running && t.kind == 0 && decide (t.nextBlk < t.blocks))) && t.ending.isNone
    && t.hdrWait.all (fun e => !s.faults.any fun x => x.id == e) && ten.en && !ten.flr && ten.phase == .idle

/-- The instance of a task's level that a core belongs to. -/
def levelOf (colevel core : Nat) : Nat :=
  match colevel with
  | 1 => engineOfCore core
  | 2 => dieOfCore core
  | _ => hubOfDie (dieOfCore core)

/-- The cores of an instance of a level. -/
def levelCores (colevel inst : Nat) : List Nat :=
  let n := match colevel with | 1 => 4 | 2 => 32 | _ => 64
  (List.range n).map fun i => n * inst + i

/-- A core is reserved for a gang of another task (06 R156). -/
def State.reserved (s : State) (core task : Nat) : Bool :=
  s.tasks.any fun t => t.id != task && t.gang == some (levelOf t.colevel core)

/-- Every block of a gang placed on the cores of an instance, each on the first core with room; none when they do not fit now. -/
def placeGang (id h : Nat) (cores : List Nat) : (n : Nat) → State → Option State
  | 0, s => some s
  | n + 1, s =>
    match s.task? id with
    | none => none
    | some t =>
      match cores.find? fun c => !s.reserved c id && s.fits c t h with
      | none => none
      | some c => placeGang id h cores n (s.startBlock id c h)

/-- A gang can never fit in an empty instance of its level. -/
def gangTooBig (t : Task) (h : Nat) : Bool := decide ((levelCores t.colevel 0).length * coreCapacity t.threadsPer h < t.blocks)

/-- Whether a task's next dispatch can be made from a core: its block fits there or its gang in the core's instance; or its header
ends it or has to be waited for. -/
def State.startable (s : State) (core : Nat) (t : Task) : Bool :=
  t.kind == 0 && s.dispatchable t && !s.reserved core t.id &&
    match s.launchOf t with
    | (.wait, s') => (s'.task? t.id).any fun x => x.hdrWait != t.hdrWait
    | (.refused _ _, _) => true
    | (.header h, _) =>
      if t.colevel == 0 then s.fits core t h
      else gangTooBig t h || (placeGang t.id h (levelCores t.colevel (levelOf t.colevel core)) t.blocks s).isSome

/-- The slices that a die's dispatcher looks at: its own hub's first (06 R153), inside its partition. -/
def State.dieSlices (s : State) (die : Nat) : List Nat :=
  let h := hubOfDie die
  if s.partHeld h then []
  else ([0, 1, 2, 3].map fun i => (h + i) % 4).filter fun x => (partOfHub (fld s.modPart.toNat 5 4) h).contains x

/-- The cores of a die. -/
def dieCores (die : Nat) : List Nat := (List.range 32).map fun i => 32 * die + i

/-- The wave kernel that a die's dispatcher takes, from the first of its slices that holds a task it can start on some core (06 R153,
R154). -/
def State.pickDie (s : State) (die : Nat) : Option (Task × Nat × Slice) :=
  (s.dieSlices die).findSome? fun sl =>
    (s.pick sl 0 (s.tasks.filter fun t => t.slice == sl && (dieCores die).any fun c => s.startable c t)).map fun (t, x) => (t, sl, x)

/-- The wave kernel that the dispatcher of a core's die takes, where it can start on that core. -/
def State.pickWave (s : State) (core : Nat) : Option (Task × Nat × Slice) :=
  (s.pickDie (dieOfCore core)).filter fun p => s.startable core p.1

/-! ## Blocks and gangs (06 R155, R156) -/

/-- BLOCK_DISPATCH: the dispatcher of a core's die starts a block of its choice on the core, or refuses it. -/
def State.dispatchBlock (s : State) (core : Nat) : State :=
  match s.pickWave core with
  | none => s
  | some (t, sl, x) =>
    match s.launchOf t with
    | (.wait, s) => s
    | (.refused e le, s) => s.refuse t e le
    | (.header h, s) =>
      if t.colevel != 0 then (if gangTooBig t h then s.endTask t.id ⟨2, 0, 0, 0⟩ else s)
      else (s.setSlice sl (x.charge t)).startBlock t.id core h

/-- GANG_DISPATCH: every block of the gang that is chosen starts in an instance of its level. -/
def State.dispatchGang (s : State) (task inst : Nat) : State :=
  match s.task? task with
  | none => s
  | some t =>
    let cores := levelCores t.colevel inst
    match cores.findSome? s.pickWave with
    | some (p, sl, x) =>
      if t.colevel == 0 || p.id != task then s
      else
        match s.launchOf t with
        | (.wait, s) => s
        | (.refused e le, s) => s.refuse t e le
        | (.header h, s) =>
          if gangTooBig t h then s.endTask t.id ⟨2, 0, 0, 0⟩
          else
            match placeGang t.id h cores t.blocks s with
            | none => s
            | some s => (s.updTask t.id fun t => { t with gang := none }).setSlice sl (x.charge t)
    | none => s

/-- GANG_RESERVE: a gang that has been ready for 65,536 cycles reserves what an instance of its slice's choice frees. -/
def State.reserveGang (s : State) (task inst : Nat) : State :=
  match s.task? task with
  | none => s
  | some t =>
    let cores := levelCores t.colevel inst
    let mine := cores.head?.any fun c => (s.dieSlices (dieOfCore c)).contains t.slice
    if t.kind == 0 && t.colevel != 0 && t.phase == .ready && t.ending.isNone && t.gang.isNone && mine && decide (65536 ≤ s.clock - t.readyAt)
        && !(cores.any fun c => s.reserved c t.id) then
      s.updTask task fun t => { t with gang := some inst }
    else s

/-! ## Host tasks (22 R420) -/

/-- The task of a kind other than 0 that a slice takes. -/
def State.pickKind (s : State) (slice kind : Nat) (ok : Task → Bool) : Option (Task × Slice) :=
  if s.partHeld slice then none
  else s.pick slice kind (s.tasks.filter fun t => t.slice == slice && t.kind == kind && s.dispatchable t && ok t)

/-- HOST_TASK_DISPATCH. -/
def State.dispatchHost (s : State) (slice : Nat) : State :=
  match s.pickKind slice 1 fun _ => true with
  | none => s
  | some (t, x) =>
    let s := (s.setSlice slice (x.charge t)).beginTask t.id
    let s := s.updTenant t.tenant fun n => { n with hostQ := n.hostQ ++ [t.addr] }
    let hirq := fld (s.tenant t.tenant).ctl.toNat 46 36
    if hirq == 0 then s else { s with irqs := .hostTask t.tenant hirq :: s.irqs }

/-! ## Near-memory and copy tasks (15 R350, R352) -/

/-- Who posts a task's own operation. -/
def State.taskPoster (s : State) (t : Task) : Poster :=
  { tenant := t.tenant, task := t.id, block := none, thread := none, core := 0, die := 2 * t.slice, root := (s.tenant t.tenant).root.toNat
    strand := t.strand, pc := 0 }

/-- NM_TASK_START: a refused record has REASON 3; one that cannot be read has REASON 2. -/
def State.startNmTask (s : State) (slice : Nat) : State :=
  match s.pickKind slice 2 fun t => t.hdrWait.all fun e => !s.faults.any fun f => f.id == e with
  | none => s
  | some (t, x) =>
    let fail := fun (reason code addr : Nat) (s : State) =>
      ((s.setSlice slice (x.charge t)).updTask t.id fun t => { t with detail := nmDetail reason code 0 0 }).endTask t.id ⟨3, 0, 0, addr⟩
    match s.taskRead t 3 t.codeVa 64 with
    | (.wait, s) => s
    | (.fail _ addr, s) => fail 2 0 addr s
    | (.ok r, s) =>
      let code := lowCode (nmCode (s.tenant t.tenant).verTask r true) (t.codeVa % 64 != 0)
      if code != 0 then fail 3 code 0 s
      else
        let s := (s.setSlice slice (x.charge t)).beginTask t.id
        match s.task? t.id with
        | some t => s.postNm (s.taskPoster t) r true
        | none => s

/-- A copy descriptor that breaks 15 R338, R343 or its own layout. -/
def copyDescBad (chosen d : Nat) : Bool :=
  let mode := fld d 17 16
  let dirIn := bit d 18
  let a := fld d 255 192
  !verOk (fld d 15 0) chosen || fld d 511 504 != 0 || fld d 263 256 != 0 || fld d 127 42 != 0 || fld d 31 25 != 0
    || fld d 24 22 == 7 || (fld d 21 20 == 0 && fld d 24 22 != 0)
    || ((mode == 1 || mode == 2) && dirIn) || (bit d 19 && (mode == 1 || mode == 3))
    || !canonical a || a % (if mode == 1 then 8 else if mode == 2 then 4096 else 16) != 0

/-- The copy of a descriptor. -/
def descCopy (id : Nat) (p : Poster) (hub : Nat) (sn : Snap) (d : Nat) : Copy :=
  { id, hub, by_ := p
    kind := .box (some sn) (fld d 41 32) (fld d 383 264) (fld d 503 384) (fld d 255 192) (fld d 191 160)
      (if fld d 17 16 == 3 then fld d 159 128 else 0) (fld d 17 16) (bit d 18) (bit d 19)
    sw := none, sem := fld d 21 20, scope := fld d 24 22, batch := none, inTask := true, started := false, bytes := 0, next := 0, page := 0
    code := 0, flags := 0, failVa := 0, park := .clear }

/-- COPY_TASK_START: in a strand the task waits for its turn, and the strand publishes (09 R229). -/
def State.startCopyTask (s : State) (slice : Nat) : State :=
  match s.pickKind slice 3 fun t => !s.mustWait t.strand && t.hdrWait.all fun e => !s.faults.any fun f => f.id == e with
  | none => s
  | some (t, x) =>
    match Op.attempt (awaitHead t.strand) s with
    | (.error _, _) => s
    | (.ok _, s) =>
      let fail := fun (code addr : Nat) (s : State) => (s.setSlice slice (x.charge t)).endCopyTask t.id code 0 0 addr
      match s.taskRead t 3 t.codeVa 64 with
      | (.wait, s) => s
      | (.fail code addr, s) => fail (if code == cPOISON then 6 else 5) addr s
      | (.ok d, s) =>
        if copyDescBad (s.tenant t.tenant).verTask d then fail 4 0 s
        else
          let s := (s.setSlice slice (x.charge t)).beginTask t.id
          match s.task? t.id with
          | none => s
          | some t =>
            let (id, s) := s.newId
            let c := descCopy id (s.taskPoster t) slice (s.snapshot t.tenant t.id (fld d 41 32)) d
            { s with copies := s.copies ++ [c] }

/-! ## Meanings -/

def execBlockDispatch (core : Nat) (s : State) : Host.Outcome State Fault Refusal := .next (s.dispatchBlock core)
def execGangDispatch (task inst : Nat) (s : State) : Host.Outcome State Fault Refusal := .next (s.dispatchGang task inst)
def execGangReserve (task inst : Nat) (s : State) : Host.Outcome State Fault Refusal := .next (s.reserveGang task inst)
def execHostTaskDispatch (slice : Nat) (s : State) : Host.Outcome State Fault Refusal := .next (s.dispatchHost slice)
def execNmTaskStart (slice : Nat) (s : State) : Host.Outcome State Fault Refusal := .next (s.startNmTask slice)
def execCopyTaskStart (slice _engine : Nat) (s : State) : Host.Outcome State Fault Refusal := .next (s.startCopyTask slice)

end Sys2Proof.Machine
end

