-- ==== Sys2Proof/Machine/Fabric.lean ====
section
/-! DEFINITION. Crown and what the module's blocks do on their own: circuits and links, channel widths, and the limits of power and
temperature (21 R404-R412; 25 R449-R451). A message is delivered within the step that sends it, so none is ever under way between
steps (log entry 31). -/
namespace Sys2Proof.Machine

/-! ## The connection table (21 R408-R410) -/

def cteState (r : Dword) : Nat := fld r.toNat 63 62
def cteCmd (r : Dword) : Nat := fld r.toNat 61 60
def cteMask (r : Dword) : Nat := fld r.toNat 55 48
def cteBidir (r : Dword) : Bool := bit r.toNat 20
def cteDstNode (r : Dword) : Nat := fld r.toNat 19 16
def cteDstPort (r : Dword) : Nat := fld r.toNat 15 10
def cteSrcNode (r : Dword) : Nat := fld r.toNat 9 6
def cteSrcPort (r : Dword) : Nat := fld r.toNat 5 0

def State.cte (s : State) (n : Nat) : Cte := s.ctes.getD n ⟨0, false, 0⟩
def State.updCte (s : State) (n : Nat) (f : Cte → Cte) : State := { s with ctes := s.ctes.modify n f }

/-- Crown ports of a node (21 R404). -/
def nodePorts (node : Nat) : Nat := if node < 8 then 32 else if node < 12 then 48 else if node == 12 then 16 else 0

/-- The sides of ports that a circuit uses: node, port, and whether the side transmits (21 R409). -/
def cteSides (r : Dword) : List (Nat × Nat × Bool) :=
  let src := fun (tx : Bool) => (cteSrcNode r, cteSrcPort r, tx)
  let dst := fun (tx : Bool) => (cteDstNode r, cteDstPort r, tx)
  if cteBidir r then [src true, src false, dst true, dst false] else [src true, dst false]

/-- A command's fields that no circuit can have (21 R409). -/
def ctePortBad (r : Dword) : Bool :=
  decide (nodePorts (cteSrcNode r) ≤ cteSrcPort r) || decide (nodePorts (cteDstNode r) ≤ cteDstPort r) || cteSrcNode r == cteDstNode r
    || cteMask r == 0
    || cteMask r &&& ((Config.disabledWavelengths (cteSrcNode r) (cteSrcPort r)).toNat
        ||| (Config.disabledWavelengths (cteDstNode r) (cteDstPort r)).toNat) != 0

/-- Another entry in use has a wavelength of a circuit's in the same direction at one of its ports (21 R409). -/
def State.cteConflict (s : State) (n : Nat) (r : Dword) : Bool :=
  (List.range s.ctes.length).any fun m =>
    let o := (s.cte m).reg
    m != n && cteState o != 0 && cteMask o &&& cteMask r != 0 && (cteSides o).any fun x => (cteSides r).contains x

/-- An entry's STATE and RESULT. -/
def Cte.put (c : Cte) (state result : Nat) : Cte := { c with reg := setBits (setBits c.reg 63 62 state) 59 56 result }

/-- The fields of a write, ignored unless the entry is FREE (21 R408). -/
def Cte.fields (c : Cte) (v : Dword) : Cte :=
  if cteState c.reg == 0 then { c with reg := setBits (setBits c.reg 55 48 (cteMask v)) 20 0 (fld v.toNat 20 0) } else c

/-- CTE_UP. -/
def State.cteUp (s : State) (n : Nat) (v : Dword) : State :=
  if cteCmd v != 1 then s
  else
    let s := s.updCte n fun c => c.fields v
    let c := s.cte n
    let st := cteState c.reg
    if st != 0 then s.updCte n fun c => c.put st 4
    else if ctePortBad c.reg then s.updCte n fun c => c.put 0 3
    else if s.cteConflict n c.reg then s.updCte n fun c => c.put 0 2
    else s.updCte n fun c => { c.put 1 (fld c.reg.toNat 59 56) with lost := false, down := 0 }

/-- CTE_DOWN. -/
def State.cteDown (s : State) (n : Nat) (v : Dword) : State :=
  if cteCmd v != 2 then s
  else
    (s.updCte n fun c => c.fields v).updCte n fun c =>
      match cteState c.reg with
      | 2 => c.put 3 (fld c.reg.toNat 59 56)
      | 0 => c.put 0 1
      | st => c.put st 4

/-- CIRCUIT_UP: the rings of an entry in SETUP have tuned. -/
def State.circuitUp (s : State) (n : Nat) : State := s.updCte n fun c => if cteState c.reg == 1 then c.put 2 1 else c

/-- CIRCUIT_DRAINED: an entry in DRAIN becomes FREE, with LOST when its last wavelength failed. -/
def State.circuitDrained (s : State) (n : Nat) : State :=
  s.updCte n fun c => if cteState c.reg == 3 then { c.put 0 (if c.lost then 5 else 1) with lost := false, down := 0 } else c

/-- Wavelengths of an entry that is UP fail; with none left it drains (21 R410). -/
def Cte.fail (c : Cte) (mask : Nat) : Cte :=
  if cteState c.reg != 2 then c
  else
    let c := { c with down := c.down ||| BitVec.ofNat 8 (mask &&& cteMask c.reg) }
    if cteMask c.reg &&& c.down.toNat == cteMask c.reg then { c.put 3 (fld c.reg.toNat 59 56) with lost := true } else c

/-! ## Links (21 R407) -/

/-- One corrected error counted in a CE field (17 R374). -/
def countCe (r : Dword) : Dword := setBits r 47 16 (min (fld r.toNat 47 16 + 1) (2 ^ 32 - 1))

/-- One name for each link: a pair of hubs in order. -/
def linkName (l : Link) : Link :=
  match l with
  | .fallback a b => if b < a then .fallback b a else .fallback a b
  | l => l

/-- A link carries flits: a circuit that is UP or in DRAIN, an electrical link that is not down. -/
def State.carries (s : State) (l : Link) : Bool :=
  match l with
  | .circuit n => decide (2 ≤ cteState (s.cte n).reg)
  | .fallback a b => a != b && !s.linksDown.contains (linkName l)
  | l => !s.linksDown.contains l

/-- The receiving ends that a link may have: a die, a hub, or the CPU die, which counts no errors. -/
def State.linkEnds (s : State) (l : Link) : List Nat :=
  match l with
  | .circuit n =>
    let r := (s.cte n).reg
    cteDstNode r :: if cteBidir r then [cteSrcNode r] else []
  | .neighbour d => [d.val, 8 + hubOfDie d.val]
  | .fallback a b => [8 + a.val, 8 + b.val]
  | .cpuLink h => [8 + h.val, 12]

/-- The end that received, one of a link's: free where both directions are carried. -/
def State.linkEnd (s : State) (l : Link) : Nat × State :=
  match s.linkEnds l with
  | [a, b] => let (x, s) := s.drawBit; (if x then a else b, s)
  | a :: _ => (a, s)
  | [] => (12, s)

/-- FLIT_CRC_ERROR: the flit is sent again, and the receiving die or hub counts a corrected error. -/
def State.flitError (s : State) (l : Link) : State :=
  let (n, s) := s.linkEnd l
  if !s.carries l then s
  else if n < 8 then s.updDie n fun d => { d with errstat := countCe d.errstat }
  else if n < 12 then s.updHub (n - 8) fun h => { h with errstat := countCe h.errstat }
  else s

/-- LINK_DOWN: a circuit loses what the link carried, all its wavelengths; an electrical link is marked down and an end of it, the hub's of
a link to the CPU die, counts an uncorrectable error with UNIT 0. -/
def State.linkDown (s : State) (l : Link) : State :=
  match l with
  | .circuit n => s.updCte n fun c => c.fail 255
  | l =>
    if !s.carries l then s
    else
      let s : State := { s with linksDown := linkName l :: s.linksDown }
      let (n, s) := match l with | .cpuLink h => (8 + h.val, s) | l => s.linkEnd l
      if n < 8 then s.dieError n 0 0 else s.hubError (n - 8) 0 0

/-! ## Channel widths (21 R412) -/

/-- HBM_WSTAT of a stack after one width change. -/
def wstatChange (r : Dword) (channel : Nat) (half : Bool) : Dword :=
  setBits (setBits r channel channel (b2n half)) 63 48 (min (fld r.toNat 63 48 + 1) 65535)

/-- CHANNEL_HALF_WIDTH. -/
def State.halfWidth (s : State) (stack channel : Nat) (fault : Bool) : State :=
  if 40 ≤ channel then s
  else
    let s := if fault then { s with laneFlt := (stack, channel) :: s.laneFlt.filter (· != (stack, channel)) } else s
    { s with wstat := s.wstat.modify stack fun r =>
        let r := if fault then setBits r 40 40 1 else r
        if bit r.toNat channel then r else wstatChange r channel true }

/-- CHANNEL_FULL_WIDTH: a channel with a lane fault stays at half width. -/
def State.fullWidth (s : State) (stack channel : Nat) : State :=
  if 40 ≤ channel || s.laneFlt.contains (stack, channel) then s
  else { s with wstat := s.wstat.modify stack fun r => if bit r.toNat channel then wstatChange r channel false else r }

/-! ## Power and temperature (25 R450, R451) -/

/-- A block's limits changed; a block that no limit lowers is not kept. -/
def State.setLimits (s : State) (b : PowerBlock) (f : CoreClock → CoreClock) : State :=
  let c := f (s.limits b)
  let rest := s.clocks.filter fun p => p.1 != b
  { s with clocks := if c.thermal.isNone && c.power.isNone then rest else (b, c) :: rest }

/-! ## Meanings -/

def execCteUp (entry : Nat) (v : Dword) (s : State) : Host.Outcome State Fault Refusal := .next (s.cteUp entry v)
def execCteDown (entry : Nat) (v : Dword) (s : State) : Host.Outcome State Fault Refusal := .next (s.cteDown entry v)
def execCircuitUp (entry : Nat) (s : State) : Host.Outcome State Fault Refusal := .next (s.circuitUp entry)
def execCircuitDrained (entry : Nat) (s : State) : Host.Outcome State Fault Refusal := .next (s.circuitDrained entry)
def execWavelengthFailure (entry wavelength : Nat) (s : State) : Host.Outcome State Fault Refusal :=
  .next (s.updCte entry fun c => if wavelength < 8 then c.fail (2 ^ wavelength) else c)
def execFlitCrcError (l : Link) (s : State) : Host.Outcome State Fault Refusal := .next (s.flitError l)
def execLinkDown (l : Link) (s : State) : Host.Outcome State Fault Refusal := .next (s.linkDown l)
def execChannelHalfWidth (stack channel : Nat) (laneFault : Bool) (s : State) : Host.Outcome State Fault Refusal :=
  .next (s.halfWidth stack channel laneFault)
def execChannelFullWidth (stack channel : Nat) (s : State) : Host.Outcome State Fault Refusal := .next (s.fullWidth stack channel)
def execPowerLimit (b : PowerBlock) (mhz : Nat) (s : State) : Host.Outcome State Fault Refusal :=
  .next (s.setLimits b fun c => { c with power := some mhz })
def execTemperatureLimit (b : PowerBlock) (mhz : Nat) (s : State) : Host.Outcome State Fault Refusal :=
  .next (s.setLimits b fun c => { c with thermal := some mhz })
def execPowerLimitCleared (b : PowerBlock) (s : State) : Host.Outcome State Fault Refusal :=
  .next (s.setLimits b fun c => { c with power := none })
def execTemperatureLimitCleared (b : PowerBlock) (s : State) : Host.Outcome State Fault Refusal :=
  .next (s.setLimits b fun c => { c with thermal := none })

end Sys2Proof.Machine
end

