-- ==== Sys2Proof/Machine/Boot.lean ====
section
/-! DEFINITION. Reset and boot, attestation, the weight vault, and the sideband port (22 R429-R432; 25 R452-R454). -/
namespace Sys2Proof.Machine

/-! ## Reset (22 R429; 25 R452, R453) -/

/-- The module with every register and memory lost, in reset or booted; the vault, the inputs to come and the sideband's last reply
remain. The causes are numbered by the model: 0 none, 1 a module reset, 2 a critical temperature (log entry 32). -/
def State.lost (s : State) (inReset : Bool) (why : Nat) : State :=
  { State.reset with
    free := s.free, agenda := s.agenda, inReset := inReset, resetWhy := why, vault := s.vault, firmware := s.firmware
    booted := s.booted, sideband := s.sideband
    latent := s.latent.filter fun p => match p with | .vault _ _ => true | _ => false }

/-- The firmware image of the vault bears a good signature; the one installed first, whose bytes the spec does not give, does (22 R429). -/
def State.firmwareGood (s : State) : Bool := s.firmware.all fun image => Config.firmwareVerifies image

/-- CRITICAL_TEMPERATURE: the module enters reset, and no context leaves a completion record. -/
def State.critical (s : State) : State := s.lost true 2

/-- MODULE_RESET: the boot steps run and the driver is loaded, or a step fails and the module stays in reset: step 1 where the firmware image
does not verify, and the step that the input names. The configuration record is the one that State.reset was booted with. -/
def State.boot (s : State) (failedStep : Option Nat) : State :=
  let why := if s.inReset then s.resetWhy else 1
  if failedStep.isSome || !s.firmwareGood then s.lost true why
  else
    { s.lost false why with
      booted := s.firmware
      vault := s.vault.map fun v => { v with absent := !Config.headerVerifies v.header } }

/-! ## Physical runs of bytes -/

/-- Bytes written from the CPU die at physical addresses, line by line, each a host access of its own (13 R309); a part at an address that
does not exist is dropped. -/
def State.putSpan (s : State) : (fuel pa : Nat) → List Byte → State
  | 0, _, _ => s
  | fuel + 1, pa, bs =>
    if bs.isEmpty then s
    else
      let k := 64 - pa % 64
      let s := if paLegal pa then s.putHome noTenant pa true (bs.take k) else s
      State.putSpan s fuel (pa + k) (bs.drop k)

/-- n free bytes. -/
def State.freeBytes (s : State) : (n : Nat) → List Byte × State
  | 0 => ([], s)
  | n + 1 =>
    let (w, s) := s.drawWord
    let (bs, s) := State.freeBytes s n
    (BitVec.ofNat 8 w :: bs, s)

/-! ## Attestation (22 R430) -/

/-- The digest of the firmware that booted. -/
def State.firmwareDigest (s : State) : List Byte :=
  match s.booted with
  | some image => sha512 image
  | none => natBytes 64 Config.firmwareDigest.toNat

/-- The headers of the valid weight images, in image order. -/
def State.validHeaders (s : State) : List Byte :=
  (List.range 64).flatMap fun i => (s.vault.filter fun v => v.index == i && !v.absent).flatMap (·.header)

/-- A report but for its signature. -/
def State.report (s : State) (nonce : List Byte) : List Byte :=
  nonce ++ s.firmwareDigest ++ natBytes 64 Config.configDigest.toNat ++ sha512 s.validHeaders ++ natBytes 16 Config.serialNumber.toNat
    ++ natBytes 4 0xB0 ++ natBytes 12 0 ++ natBytes 512 Config.identityModulus.toNat

/-- MOD_ATTEST: the report is written within the write. A poisoned nonce is free. -/
def State.attestWrite (s : State) (v : Dword) : State :=
  let s : State := { s with attest := BitVec.ofNat 64 (fld v.toNat 55 6 * 64) }
  let pa := fld v.toNat 55 6 * 64
  if !bit v.toNat 0 || !paLegal pa then s
  else
    let at_ := s.route pa
    let s := if poolLost s at_ then s.lostError at_ else s.noteRead at_ 64
    let (nonce, s) := if s.poisoned at_ 64 || poolLost s at_ then s.freeBytes 64 else (natBytes 64 (s.peekDev at_ 64), s)
    let r := s.report nonce
    let sig := natBytes 512 (Config.attestSignature s.free r).toNat
    ({ s with free := s.free + 1 } : State).putSpan 22 pa (r ++ sig)

/-! ## The weight vault (22 R431, R432) -/

def shardHolders (e : Nat) : Nat := fld e 255 192
def shardDigest (e : Nat) : Nat := fld e 191 64
def shardBytes (e : Nat) : Nat := fld e 63 32
def shardOffset (e : Nat) : Nat := fld e 31 0 * 4096

/-- The image of a number, if the vault has it and boot did not mark it absent. -/
def State.image? (s : State) (n : Nat) : Option VaultImage := s.vault.find? fun v => v.index == n && !v.absent

/-- The shard-map entry of a module, which the header carries from its first byte on (DESIGN CHOICE, log entry 87); all zero where the map
has none. -/
def VaultImage.shard (v : VaultImage) (ord : Nat) : Nat := leNat ((v.header.drop (32 * ord)).take 32)

/-- The bytes of a shard as this vault holds them. -/
def VaultImage.shardData (v : VaultImage) (e : Nat) : List Byte := (v.bytes.drop (shardOffset e)).take (shardBytes e)

/-- The bytes of a shard read from this vault: a line with an uncorrectable error is counted, and its bytes are free (17 R374; log entry
81). -/
def State.vaultBytes (s : State) (v : VaultImage) (e : Nat) : List Byte × State :=
  let first := shardOffset e / 64
  s.latent.foldl (fun (bs, s) p =>
    match p with
    | .vault i l =>
      if i == v.index && decide (first ≤ l) && decide (64 * (l - first) < bs.length) then
        let (f, s) := (s.countError p).freeBytes 64
        ((bs.take (64 * (l - first)) ++ f ++ bs.drop (64 * (l - first) + 64)).take bs.length, s)
      else (bs, s)
    | _ => (bs, s)) (v.shardData e, s)

/-- A shard's bytes from this vault or from the lowest holder that can be reached: a peer's bytes are no state of this module and are
free (log entry 24). -/
def State.fetchShard (s : State) (v : VaultImage) (e : Nat) : Option (List Byte) × State :=
  if bit (shardHolders e) moduleOrd then (some (s.vaultBytes v e).1, (s.vaultBytes v e).2)
  else if (List.range 8).any fun k => k != moduleOrd && bit (shardHolders e) k && s.peersUp.getD k false then
    let (bs, s) := s.freeBytes (shardBytes e)
    (some bs, s)
  else (none, s)

/-- RESULT of MOD_VAULTRD. -/
def State.vaultResult (s : State) (code : Nat) : State := { s with vaultrd := setBits s.vaultrd 63 56 code }

/-- MOD_VAULTRD: the shard is read, checked and written within the write. -/
def State.vaultRead (s : State) (v : Dword) : State :=
  let s : State := { s with vaultrd := setBits (BitVec.ofNat 64 (fld v.toNat 55 6 * 64)) 63 56 (fld s.vaultrd.toNat 63 56) }
  if !bit v.toNat 0 then s
  else
    match s.image? (fld v.toNat 11 6) with
    | none => s.vaultResult 2
    | some img =>
      let e := img.shard moduleOrd
      match s.fetchShard img e with
      | (none, s) => s.vaultResult 4
      | (some bs, s) =>
        let s := s.putSpan (bs.length / 64 + 1) (fld v.toNat 55 12 * 4096) bs
        s.vaultResult (if fingerprint bs == shardDigest e then 1 else 3)

/-- VAULT_SHARD_RELAY: a peer asks for its own shard of an image, which this vault holds. -/
def State.relayShard (s : State) (peer image : Nat) : State :=
  match s.image? image with
  | some img =>
    let e := img.shard peer
    if peer != moduleOrd && bit (shardHolders e) moduleOrd && !bit (shardHolders e) peer && s.peersUp.getD peer false then
      let (bs, s) := s.vaultBytes img e
      { s with relays := (peer, image, bs) :: s.relays }
    else s
  | none => s

/-- Bytes of the images that lie behind a hub: an image lies behind the hub of its number modulo 4 (DESIGN CHOICE, log entry 81). -/
def vaultUsed (l : List VaultImage) (hub : Nat) : Nat :=
  ((l.filter fun v => v.index % 4 == hub).map fun v => v.header.length + v.bytes.length).sum

/-- An image installed: in installation mode, one of 64, within the 2 TiB behind its hub (00 R1, 22 R431). It is absent until a boot has
verified its header. -/
def State.installImage (s : State) (v : VaultImage) : State :=
  let l := { v with absent := true } :: s.vault.filter fun x => x.index != v.index
  if Config.installMode && decide (v.index < 64) && decide (vaultUsed l (v.index % 4) ≤ 2 ^ 41) then
    { s with vault := l, latent := s.latent.filter fun p => match p with | .vault i _ => i != v.index | _ => true }
  else s

/-! ## The sideband port (25 R454) -/

/-- What a sensor reads: the figures of power and temperature are free; CLK is coded as 17 R383 codes it. -/
def State.sensor (s : State) (x : Sensor) : Nat × State :=
  match x with
  | .power _ => ((Config.sensorReading s.free).toNat, { s with free := s.free + 1 })
  | .temperature _ => ((Config.sensorReading s.free).toNat, { s with free := s.free + 1 })
  | .clk b => let k := s.limits b; (k.mhz + b2n k.thermal.isSome * 2 ^ 16 + b2n k.power.isSome * 2 ^ 17, s)
  | .errstatDie d => ((s.die d.val).errstat.toNat, s)
  | .errstatHub h => ((s.hub h.val).errstat.toNat, s)
  | .resetCause => (s.resetWhy, s)

/-- The port's reply. -/
def State.reply (s : State) (x : Nat) : State := { s with sideband := some (BitVec.ofNat 64 x) }

/-! ## Meanings -/

def execCriticalTemperature (_b : PowerBlock) (s : State) : Host.Outcome State Fault Refusal := .next s.critical
def execModuleReset (failedStep : Option Nat) (s : State) : Host.Outcome State Fault Refusal := .next (s.boot failedStep)
def execModAttest (v : Dword) (s : State) : Host.Outcome State Fault Refusal := .next (s.attestWrite v)
def execModVaultrd (v : Dword) (s : State) : Host.Outcome State Fault Refusal := .next (s.vaultRead v)
def execVaultShardRelay (peer image : Nat) (s : State) : Host.Outcome State Fault Refusal := .next (s.relayShard peer image)
/-- PLDM types 0, 2 and 5 are implemented: bit t of the reply stands for type t (log entry 32). -/
def execPldmDiscovery (s : State) : Host.Outcome State Fault Refusal := .next (s.reply 0x25)
def execPldmSensorRead (sensor : Sensor) (s : State) : Host.Outcome State Fault Refusal :=
  .next (let (x, s) := s.sensor sensor; s.reply x)
def execPldmFirmwareUpdate (image : List Byte) (s : State) : Host.Outcome State Fault Refusal :=
  .next (if Config.installMode then { s with firmware := some image } else s)

end Sys2Proof.Machine
end

