-- ==== Sys2Proof/Machine/Control.lean ====
section
/-! DEFINITION. The control instructions, the waits that end by polling or by time, and TWAIT (04 R109-R120; 07 R182). -/
namespace Sys2Proof.Machine

/-! ## Branches (04 R111, R112) -/

/-- A completion with a jump. -/
def jumpTo (t : Nat) (regs : List (Operand × Reg)) : LaneRes := .done { regs := regs, pc := some (BitVec.ofNat 60 t) }

/-- MISALIGN of a control transfer's target (01 R20, 17 R369). -/
def branchMisalign : LaneRes := .fault { code := cMISALIGN, access := 0 }

/-- The target of BRA and CALL (04 R111). -/
def relTarget (c : LaneCtx) (i : Int) : Nat := wrapN ((c.th.pc.toNat : Int) + i) 60

/-- A register pair with a 64-bit number, tag N32 in both halves. -/
def pairN (d : Operand) (n : Nat) : List (Operand × Reg) :=
  [(d, ⟨BitVec.ofNat 32 n, .n32⟩), (d.plus 1, ⟨BitVec.ofNat 32 (n / 2 ^ 32), .n32⟩)]

/-- The link that CALL and CALLX write. -/
def linkRegs (x : Dev) (c : LaneCtx) : List (Operand × Reg) := pairN x.d (c.th.pc.toNat + c.len)

def braLane (x : Dev) (c : LaneCtx) : LaneRes :=
  let t := relTarget c x.imm32
  if t % 4 != 0 then branchMisalign else jumpTo t []

def callLane (x : Dev) (c : LaneCtx) : LaneRes :=
  let t := relTarget c x.imm32
  if t % 4 != 0 then branchMisalign else jumpTo t (linkRegs x c)

/-- BRX and CALLX, and RET with `rel` false (04 R112). -/
def indirect (rel : Bool) (x : Dev) (c : LaneCtx) (regs : List (Operand × Reg)) : LaneRes :=
  let a := c.srcWN x.a
  if !rel && !canonical a then .fault (pagePerm 1 0 a false)
  else
    let t := if rel then relTarget c (sextN a 64) else a
    if t % 4 != 0 then branchMisalign else jumpTo t regs

def brxLane (x : Dev) (c : LaneCtx) : LaneRes := indirect (bit x.m 0) x c []
def callxLane (x : Dev) (c : LaneCtx) : LaneRes := indirect (bit x.m 0) x c (linkRegs x c)
def retLane (x : Dev) (c : LaneCtx) : LaneRes := indirect false x c []

/-! ## NOP, YIELD, EXIT, traps (04 R113, R115, R116, R120) -/

def nopLane (_ : Dev) (_ : LaneCtx) : LaneRes := .done {}
def yieldLane (_ : Dev) (_ : LaneCtx) : LaneRes := .done {}
def exitLane (_ : Dev) (_ : LaneCtx) : LaneRes := .done { exits := true }
def trapLane (x : Dev) (_ : LaneCtx) : LaneRes := .fault { code := cTRAP, operand := fld x.m 7 0, after := true }
def bkptLane (x : Dev) (_ : LaneCtx) : LaneRes := .fault { code := cBKPT, operand := fld x.m 7 0, after := true }

/-! ## Safe points (04 R119, 18 R387, R388; 17 R377) -/

/-- A stop of a thread at a safe point while a save of its tenant is in progress (18 R388). -/
def State.stopAt (s : State) (r : ThreadRef) : State := s.updThread r fun t => { t with stopped := true }

/-- SAFEPT: the wave's count restarts, and threads stop under a save; nothing with SAFE_DIST = 0. -/
def runSafept (x : Dev) (s : State) : State :=
  let act := activeLanes x.guard (lenBytes x.len) s
  let s' := runPure x nopLane s
  match act.head? with
  | none => s'
  | some c =>
    match s.blockOf c.wave with
    | none => s'
    | some b =>
      let s' := s'.perfCoreEvent (s.tenantOfWave c.wave) 5 1
      if b.safeDist == 0 then s'
      else
        let s' := (s'.updWave c.wave.ref fun w => { w with safeCnt := 0 }).updBlock b.id fun b => { b with restarts := 0 }
        if (s.tenant (s.tenantOfWave c.wave)).phase == .saving then s'.forEach act fun c s => s.stopAt c.ref else s'

/-! ## NAP (04 R116) -/

/-- sat() clips the count to 0..1,048,575 and sets no flag: 04 R116 names none (DESIGN CHOICE, log entry 85). -/
def napLane (x : Dev) (s : State) (c : LaneCtx) : LaneRes :=
  let a := c.src x.a
  if !scalarTag a.tag then tagFault
  else
    let n := (satI (ival a) 0 1048575).toNat
    if n == 0 then .done {} else .wait (.nap (s.clock + n))

/-! ## WAITW and TWAIT (04 R117, R118; 07 R182) -/

/-- Bytes that a wait reads: the word, or the byte STATUS. -/
def waitBytes (cond : Nat) : Nat := if cond == 3 then 1 else 4

/-- The condition of a wait; 3 is STATUS ≠ 0. -/
def waitMet (cond x b : Nat) : Bool :=
  match cond with
  | 0 => x == b
  | 1 => x != b
  | 2 => decide (b ≤ x)
  | _ => x != 0

/-- One pass of the loop of 04 R117: the value that ends the wait, or none to go on. -/
def waitPass (c : Self) (ea cond b t0 limit level : Nat) : Op (Option Nat) := do
  let x ← readVa { c with who := { c.who with level := level } } .load ea (waitBytes cond)
  if waitMet cond x b then pure (some (if cond == 3 then x else 1))
  else if decide (limit ≤ (← get).clockOf c.who.tenant - t0) then pure (some 0)
  else pure none

/-- The issue of WAITW or TWAIT in one lane. -/
def waitLane (d : Operand) (ea cond : Nat) (b : Word) (limit level : Nat) (c : LaneCtx) : Op LaneRes := do
  let s ← get
  let self := s.self c.ref
  let t0 := s.clockOf self.who.tenant
  match ← waitPass self ea cond b.toNat t0 limit level with
  | some v => pure (LaneRes.withAfter (.done { regs := [(d, codeReg v)] }) ((← get).watchHit c.ref 62 ea (waitBytes cond)))
  | none => pure (.wait (.waitw ea cond b t0 limit level d))

def waitwOp (x : Dev) (c : LaneCtx) : Op LaneRes := do
  let ea := c.srcWN x.a
  if !canonical ea then throw (.fault (pagePerm 1 1 ea false))
  if ea % 4 != 0 then throw (.fault { code := cMISALIGN, access := 1, addr := ea })
  waitLane x.d ea (fld x.m 10 9) (c.src x.b).val (c.srcN x.c) (acquireLevel (Dev.sem x) (Dev.scope x)) c

def twaitOp (x : Dev) (c : LaneCtx) : Op LaneRes := do
  let ea := c.srcWN x.a
  if ea % 64 != 0 then throw (.fault { code := cMISALIGN, access := 1, addr := ea })
  if !canonical ea then throw (.fault (pagePerm 1 1 ea false))
  waitLane x.d ea 3 0 (c.srcN x.b) 2 c

/-- A fault of a thread outside an instruction's issue: at its PC, with itself alone in the lane mask. -/
def State.faultAt (s : State) (r : ThreadRef) (f : FInfo) : State :=
  match s.wave? r.wave, s.thread? r with
  | some w, some t =>
    s.raiseFault r { f with pc := t.pc.toNat, resume := t.pc.toNat, lanes := 2 ^ r.lane } w.parked
  | _, _ => s

/-- One more pass of a waiting WAITW or TWAIT. -/
def State.pollWait (s : State) (r : ThreadRef) : State :=
  match s.thread? r with
  | none => s
  | some t =>
    match t.status with
    | .waiting (.waitw ea cond b t0 limit level d) next =>
      match waitPass (s.self r) ea cond b.toNat t0 limit level s with
      | .ok none s => s
      | .ok (some v) s =>
        let hit := (s.watchHit r 62 ea (waitBytes cond)).map fun f =>
          { f with pc := t.pc.toNat, resume := next.toNat, lanes := 2 ^ r.lane }
        (s.writeDest r d (codeReg v)).updThread r fun t => Thread.release { t with watch := firstWatch t.watch hit }
      | .error (.fault f) s => s.faultAt r f
      | .error (.hold _) s => s
    | _ => s

/-- Whether the timeout of a thread's WAITW or TWAIT has passed. -/
def State.waitTimedOut (s : State) (r : ThreadRef) : Bool :=
  match s.thread? r with
  | some t =>
    match t.status with
    | .waiting (.waitw _ _ _ t0 limit _ _) _ => decide (limit ≤ s.clockOf (s.self r).who.tenant - t0)
    | _ => false
  | none => false

/-- The end of a NAP whose cycles have passed. -/
def State.endNap (s : State) (r : ThreadRef) : State :=
  match s.thread? r with
  | some t =>
    match t.status with
    | .waiting (.nap wake) _ => if wake ≤ s.clock then s.updThread r Thread.release else s
    | _ => s
  | none => s

/-! ## Meanings -/

def execSafept (x : Dev) (s : State) : Host.Outcome State Fault Refusal := .next (runSafept x s)
def execNap (x : Dev) (s : State) : Host.Outcome State Fault Refusal :=
  .next (runLanes x.guard (lenBytes x.len) (fun c s => (napLane x s c, s)) s)
def execWaitw (x : Dev) (s : State) : Host.Outcome State Fault Refusal := .next (runOp x (waitwOp x) s)
def execTwait (x : Dev) (s : State) : Host.Outcome State Fault Refusal := .next (runOp x (twaitOp x) s)
def execNapExpiry (t : ThreadRef) (s : State) : Host.Outcome State Fault Refusal := .next (s.endNap t)
def execWaitwPoll (t : ThreadRef) (s : State) : Host.Outcome State Fault Refusal := .next (s.pollWait t)
def execWaitwTimeout (t : ThreadRef) (s : State) : Host.Outcome State Fault Refusal :=
  .next (if s.waitTimedOut t then s.pollWait t else s)
def execNop (x : Dev) (s : State) : Host.Outcome State Fault Refusal := .next (runPure x nopLane s)
def execBra (x : Dev) (s : State) : Host.Outcome State Fault Refusal := .next (runPure x braLane s)
def execBrx (x : Dev) (s : State) : Host.Outcome State Fault Refusal := .next (runPure x brxLane s)
def execCall (x : Dev) (s : State) : Host.Outcome State Fault Refusal := .next (runPure x callLane s)
def execCallx (x : Dev) (s : State) : Host.Outcome State Fault Refusal := .next (runPure x callxLane s)
def execRet (x : Dev) (s : State) : Host.Outcome State Fault Refusal := .next (runPure x retLane s)
def execExit (x : Dev) (s : State) : Host.Outcome State Fault Refusal := .next (runPure x exitLane s)
def execTrap (x : Dev) (s : State) : Host.Outcome State Fault Refusal := .next (runPure x trapLane s)
def execBkpt (x : Dev) (s : State) : Host.Outcome State Fault Refusal := .next (runPure x bkptLane s)
def execYield (x : Dev) (s : State) : Host.Outcome State Fault Refusal := .next (runPure x yieldLane s)

end Sys2Proof.Machine
end

