-- ==== Sys2Proof/Machine/Faults.lean ====
section
/-! DEFINITION. Handler entries that waited, the fault ring, and the resolution of fault entries (10 R261; 17 R365-R367, R370-R372). -/
namespace Sys2Proof.Machine

/-! ## Handler entries that waited (09 R232; 17 R365, R370) -/

/-- A thread of an aborting task does not act any more (17 R371). -/
def State.abortingWave (s : State) (w : Wave) : Bool := (s.taskOfWave w).any fun t => t.aborting

/-- The faults of a wave that its strand has kept are raised together, so that those that park do so before any enters the handler (09
R232, 17 R365). -/
def State.raiseHeld (s : State) (w : Wave) : State :=
  let fs := w.threads.zipIdx.filterMap fun (t, i) => match t.status with | .heldFault f => if t.stopped then none else some (i, f) | _ => none
  let wavePark := w.parked || fs.any fun (_, f) => f.replay
  s.forEach fs fun (i, f) s => s.raiseFault ⟨w.ref, i⟩ f wavePark

/-- HANDLER_ENTRY: a fault that waited for its wave's replay, for a wait or for its strand is raised. -/
def State.enterHandler (s : State) (r : ThreadRef) : State :=
  match s.wave? r.wave, s.thread? r with
  | some w, some t =>
    if s.abortingWave w || t.stopped then s
    else
      match t.status with
      | .pending f => if w.parked then s else s.raiseFault r f false
      | .heldFault _ => if s.speculative (s.self r).strand then s else s.raiseHeld w
      | _ => s
  | _, _ => s

/-! ## The fault ring (17 R366) -/

/-- Entries of a tenant's fault ring. -/
def fqSize (fq : Nat) : Nat := 2 ^ max 6 (fld fq 7 4)

/-- Waves parked on an entry. -/
def State.wavesOn (s : State) (id : Nat) : Nat :=
  min 65535 ((s.waves.filter fun w => w.threads.any fun t => match t.status with | .parked e _ _ => e == id | _ => false).length)

/-- The record of an entry. -/
def State.faultRecord (s : State) (e : FaultEntry) (slot : Nat) : Nat :=
  e.page * 2 ^ 192 + e.time * 2 ^ 128 + e.info.detail * 2 ^ 96 + s.wavesOn e.id * 2 ^ 80 + slot * 2 ^ 68 + e.hub * 2 ^ 66
    + e.access * 2 ^ 64 + e.asid * 2 ^ 55 + b2n e.engine * 2 ^ 54 + e.info.cause % 64 * 2 ^ 48 + e.info.code * 2 ^ 32 + (s.tenant e.tenant).fqSeq

/-- FAULT_RECORD_WRITE: the oldest buffered entry of a hub without a record is written, once there is room. -/
def State.writeFaultRecord (s : State) (hub tenant : Nat) : State :=
  let t := s.tenant tenant
  let fq := t.fq.toNat
  let head := fld t.fqhead.toNat 15 0
  let tail := fld t.fqhead.toNat 31 16
  match s.faults.find? fun e => e.hub == hub && e.tenant == tenant && !e.written && e.slot.isSome with
  | none => s
  | some e =>
    if !bit fq 0 || t.flr || (tail + 2 ^ 16 - head) % 2 ^ 16 == fqSize fq then s
    else
      match s.devStore tenant (fld fq 59 12 * 4096 + 32 * (tail % fqSize fq)) (natBytes 32 (s.faultRecord e (e.slot.getD 0))) with
      | (.lost, _) => s
      | (.wait, s') => { s with faults := s'.faults, nextId := s'.nextId, badPages := s'.badPages }
      | (.done, s) =>
        let s : State := { s with faults := s.faults.map (fun x => if x.id == e.id then { x with written := true } else x)
                                  irqs := .faultRing tenant :: s.irqs }
        (s.updTenant tenant fun t =>
          { t with fqhead := setBits t.fqhead 31 16 ((tail + 1) % 2 ^ 16), fqSeq := (t.fqSeq + 1) % 2 ^ 32 }).perfHubEvent tenant hub 4 1

/-! ## Resolution (17 R367) -/

/-- A thread whose entry is resolved replays its access. Unresolved, its fault becomes a handler-class one with CAUSE 63. A thread whose
trap frame met the fault enters the handler again (17 R367, R370). -/
def Thread.resolve (t : Thread) (id : Nat) (ok : Bool) : Thread :=
  match t.status with
  | .parked e f g =>
    if e != id then t
    else
      match g, ok with
      | none, true => { t with status := .replay }
      | none, false =>
        { t with
          status := .pending { f with cause := 63, replay := false, pc := t.pc.toNat, resume := t.pc.toNat }
          again := false, inst := none, redo := none }
      | some g, _ => { t with status := .pending g }
  | _ => t

/-- Threads whose trap frame met an entry: their tasks abort with the fault that was being entered (17 R371). -/
def State.abortEntering (s : State) (id : Nat) : State :=
  s.forEach s.threads fun (_, w, t) s =>
    match t.status with
    | .parked e _ (some g) =>
      if e == id then (match s.blockOf w with | some b => s.markAbort b.task (faultEnd g g.pc) | none => s) else s
    | _ => s

/-- A park on an entry ended. A hub's own read of a fingerprint table that stays unresolved is no failure of the operation: the hub
goes on without the bucket (15 R346). -/
def Park.resolve (p : Park) (id : Nat) (ok : Bool) : Park :=
  if p.entry == some id then { Park.clear with bad := !ok && !p.table } else p

/-- The address that an operation failed at, once its park has ended badly. -/
def Park.failVa (p : Park) (id : Nat) (ok : Bool) (addr old : Nat) : Nat := if (p.resolve id ok).bad && p.entry == some id then addr else old

/-- Whether a hub's own access waits on an entry: for a thread, for an operation, or at a task's start. -/
def State.hubWaits (s : State) (id : Nat) : Bool :=
  s.threads.any (fun (_, _, t) => t.status == .held (.device id)) || s.tasks.any (fun t => t.hdrWait == some id)
    || s.mats.any (fun o => o.park.table && o.park.entry == some id) || s.copies.any (fun c => c.park.table && c.park.entry == some id)
    || s.nms.any fun c => c.park.table && c.park.entry == some id

/-- An entry freed, and what is parked on it replayed or completed unresolved (17 R367). A hub's or the pool's own access that waits, of which an
entry that nothing is parked on is one too, finds so when it is made again. -/
def State.resolveFault (s : State) (e : FaultEntry) (ok : Bool) : State :=
  let s := if ok then s else s.abortEntering e.id
  let waited := s.hubWaits e.id || e.engine && !s.entryWaited e.id
  let s := s.mapThreads fun _ t => t.resolve e.id ok
  let s : State :=
    { s with
      mats := s.mats.map fun o => { o with park := o.park.resolve e.id ok }
      copies := s.copies.map fun c =>
        { c with park := c.park.resolve e.id ok, failVa := if s.opBad c.id == 0 then c.park.failVa e.id ok e.info.addr c.failVa else c.failVa }
      nms := s.nms.map fun c => { c with park := c.park.resolve e.id ok, failVa := c.park.failVa e.id ok e.info.addr c.failVa }
      badPages := if !ok && waited then (e.tenant, e.page) :: s.badPages else s.badPages }
  s.freeFault e.id

/-- HUB_FLTRES: a command with an action on a buffered entry of the hub; done at once. -/
def State.runFltres (s : State) (hub action : Nat) (v : Dword) : State :=
  if bit (s.hub hub).fltres.toNat 31 || fld v.toNat 30 29 != action || !bit v.toNat 31 then s
  else
    let s := s.updHub hub fun h => { h with fltres := BitVec.ofNat 64 (action * 2 ^ 29 + fld v.toNat 17 0) }
    match s.faults.find? fun e => e.hub == hub && e.tenant == fld v.toNat 17 12 && e.slot == some (fld v.toNat 11 0) with
    | some e => s.resolveFault e (action == 0)
    | none => s

/-! ## Meanings -/

def execHandlerEntry (t : ThreadRef) (s : State) : Host.Outcome State Fault Refusal := .next (s.enterHandler t)
def execFaultRecordWrite (hub tenant : Nat) (s : State) : Host.Outcome State Fault Refusal := .next (s.writeFaultRecord hub tenant)
def execFltresReplay (hub : Nat) (v : Dword) (s : State) : Host.Outcome State Fault Refusal := .next (s.runFltres hub 0 v)
def execFltresUnresolved (hub : Nat) (v : Dword) (s : State) : Host.Outcome State Fault Refusal := .next (s.runFltres hub 1 v)

end Sys2Proof.Machine
end

