-- ==== Sys2Proof/Machine/Host.lean ====
section
/-! DEFINITION. The harts: their translation, and the instructions of the host extension (22 R415, R417-R419). -/
namespace Sys2Proof.Machine

/-! ## Translation of a hart (22 R415) -/

/-- satp.MODE. -/
def Hart.satpMode (h : Hart) : Nat := fld h.satp.toNat 63 60

/-- A hart translates through the tables of 10 R252. -/
def Hart.translates (h : Hart) : Bool := h.mode != .m && h.satpMode == 14

/-- The TMC_ROOT value that says what satp says: the root table, the ASID in nine bits, and EN. -/
def Hart.root (h : Hart) : Nat := fld h.satp.toNat 43 3 * 2 ^ 15 + fld h.satp.toNat 52 44 * 2 ^ 4 + 1

/-- Whether the mode of a hart may use a page: every leaf is a U page, which S-mode may load and store under SUM and never executes
(22 R415). -/
def Hart.mayUse (h : Hart) (fetch : Bool) : Bool := h.mode == .u || (h.mode == .s && h.sum && !fetch)

/-- A host-extension instruction of a hart that does not translate through these tables, or may not use their pages, finds no page
(PRESUMED, log entry 30). -/
def Hart.rootFor (h : Hart) (fetch : Bool) : Nat := if h.translates && h.mayUse fetch then h.root else 0

/-- Who a hart's access is made by. -/
def State.hartWho (s : State) (n : Nat) (fetch : Bool) : Who :=
  let h := s.hart n
  { tenant := fld h.htenant.toNat 5 0, die := hartDie n, core := none, root := h.rootFor fetch, trigDie := none, task := none
    mxr := h.mxr && h.mode == .s }

/-- The access context of a hart. -/
def State.hartSelf (s : State) (n : Nat) : Self :=
  { who := s.hartWho n false, by_ := .hart n, block := none, core := 0, strand := none }

/-- The RISC-V exception of a fault of a host-extension instruction: a load page fault at its address; poison is an access fault
(PRESUMED, log entry 30). -/
def FInfo.hostExc (f : FInfo) : HExc := if f.code == cPOISON then .accessFault f.addr else .loadPageFault f.addr

/-- The pc of a hart after an instruction of four bytes. -/
def Hart.advance (h : Hart) : Hart := { h with pc := h.pc + 4, wait := none, redo := none, held := none }

/-- A register of a hart written; x0 discards. -/
def Hart.write (h : Hart) (rd : Fin 32) (v : Nat) : Hart := { h with x := if rd == 0 then h.x else h.x.set rd.val (BitVec.ofNat 64 v) }

/-- A register of a hart; x0 reads as zero. -/
def Hart.reg (h : Hart) (r : Fin 32) : Nat := if r == 0 then 0 else (h.x.getD r.val 0).toNat

/-- A RISC-V exception of a hart: the pc stays at the instruction; the trap entry is the RISC-V privileged architecture's. -/
def State.hartExc (s : State) (n : Nat) (e : HExc) : State := s.updHart n fun h => { h with exc := some e, wait := none, redo := none, held := none }

/-- Whether a hart may execute the host extension (22 R417, R425). -/
def State.hostEnabled (s : State) (n : Nat) : Bool :=
  let t := (s.hart n).htenant.toNat
  bit t 63 && (s.tenant (fld t 5 0)).en && !(s.tenant (fld t 5 0)).flr

/-! ## Running an instruction of the host extension -/

/-- Runs a host-extension instruction: its answer goes to rd, a fault is the hart's exception, and an instruction that is held, or
that answers nothing, is executed again (22 R419). -/
def runHost (i : HostOp) (m : Nat → Hart → Op (Option Nat)) (s : State) : State :=
  match s.curHart with
  | none => s
  | some n =>
    let s : State := { s with curHart := none }
    if !s.hostEnabled n then s.hartExc n .illegalInstruction
    else
      match m n (s.hart n) s with
      | .ok (some v) s => s.updHart n fun h => (h.write i.rd v).advance
      | .ok none s => s.updHart n fun h => { h with held := none }
      | .error (.hold _) s => s.updHart n fun h => { h with held := some .ext }
      | .error (.fault f) s =>
        if f.code == cMIGRATION then s.updHart n fun h => (h.write i.rd (5 + 2 ^ 32 * f.detail)).advance
        else if f.code == cMISALIGN then s.hartExc n .loadMisaligned
        else s.hartExc n f.hostExc

/-- HSUBMIT: held while a save of the tenant is in progress (18 R388). -/
def hsubmitOp (i : HostOp) (n : Nat) (h : Hart) : Op (Option Nat) := do
  let self := (← get).hartSelf n
  savingHold self
  let code ← submit self .host (h.reg i.rs1)
  pure (some code)

/-- The host cycles since module reset: 3.2 GHz beside an arithmetic clock of 2.5 GHz (00 R1). -/
def State.hostCycles (s : State) : Nat := s.clock * 32 / 25

/-- HWAIT: one read of STATUS; the wait goes on with its first start. -/
def hwaitOp (i : HostOp) (n : Nat) (h : Hart) : Op (Option Nat) := do
  let va := h.reg i.rs1
  if va % 64 != 0 then throw (.fault { code := cMISALIGN, access := 1, addr := va })
  let self := (← get).hartSelf n
  let now := (← get).hostCycles
  let start := match h.wait with | some (_, t0, _) => t0 | none => now
  let x ← readVa self self.who.load va 1
  if x != 0 then pure (some x)
  else if h.reg i.rs2 ≤ (← get).hostCycles - start then pure (some 0)
  else
    modify fun s => s.updHart n fun h => { h with wait := some (va, start, h.reg i.rs2) }
    pure none

/-- HPIN and HUNPIN (12 R294). -/
def hpinOp (up : Bool) (i : HostOp) (n : Nat) (h : Hart) : Op (Option Nat) := do
  let w := (← get).hartWho n false
  let code ← pinRange w .host up (h.reg i.rs1) (h.reg i.rs2)
  pure (some code)

/-- How far a hart's placement request has come, kept. -/
def noteHart (n : Nat) (r : Redo) (s : State) : State := s.updHart n fun h => { h with redo := some r }

/-- HMHINT: every TAFF of the range first, then the requests as MHINT's, each to the page's home hub. -/
def hmhintOp (i : HostOp) (n : Nat) (h : Hart) : Op (Option Nat) := do
  let w := (← get).hartWho n false
  let t := i.taff.val
  let q : Option MoveReq := if t == 0 then none else some ⟨t - 1, none, none, none⟩
  let (code, _) ← moveRange w q (some t) true h.redo (noteHart n) (h.reg i.rs1) (h.reg i.rs2)
  pure (some code)

/-- HMQRY. -/
def hmqryOp (i : HostOp) (n : Nat) (h : Hart) : Op (Option Nat) := do
  let v ← mqryWord ((← get).hartWho n false) (h.reg i.rs1)
  pure (some v)

/-! ## htenant (22 R417) -/

/-- CSR numbers of htenant and uhtenant. -/
def csrHtenant : Nat := 0x5C0
def csrUhtenant : Nat := 0xCC0

/-- A write of htenant or uhtenant by a hart; another CSR is none of the host extension's. -/
def State.writeHtenant (s : State) (n csr : Nat) (v : Dword) : State :=
  if csr == csrUhtenant || (csr == csrHtenant && (s.hart n).mode == .u) then s.hartExc n .illegalInstruction
  else if csr == csrHtenant then
    s.updHart n fun h => { h with htenant := BitVec.ofNat 64 (fld v.toNat 5 0 + b2n (bit v.toNat 63) * 2 ^ 63) }
  else s

/-! ## Meanings -/

def execHsubmit (h : HostOp) (s : State) : Host.Outcome State Fault Refusal := .next (runHost h (hsubmitOp h) s)
def execHwait (h : HostOp) (s : State) : Host.Outcome State Fault Refusal := .next (runHost h (hwaitOp h) s)
def execHpin (h : HostOp) (s : State) : Host.Outcome State Fault Refusal := .next (runHost h (hpinOp true h) s)
def execHunpin (h : HostOp) (s : State) : Host.Outcome State Fault Refusal := .next (runHost h (hpinOp false h) s)
def execHmhint (h : HostOp) (s : State) : Host.Outcome State Fault Refusal := .next (runHost h (hmhintOp h) s)
def execHmqry (h : HostOp) (s : State) : Host.Outcome State Fault Refusal := .next (runHost h (hmqryOp h) s)
def execHtenantWrite (hart csr : Nat) (v : Dword) (s : State) : Host.Outcome State Fault Refusal := .next (s.writeHtenant hart csr v)

end Sys2Proof.Machine
end

