-- ==== Sys2Proof/WellFormed.lean ====
section
/-! DEFINITION. Well-formed instructions: those an encoding exists for, and events that name something the
module has. -/
namespace Sys2Proof

/-- A device instruction's fields agree with the field table of its opcode (03 R67, R70, R74). -/
def Dev.wf (opc : Nat) (x : Dev) : Bool :=
  match formOf opc x.mod.toNat x.xmod.toNat with
  | none => false
  | some fm =>
    fm.ok && decide (fm.base.bytes ≤ x.len.bytes) && immFits opc fm.base x.imm.toNat
      && (fm.base == .l128x || x.xmod == 0)
      && (List.zip fm.classes x.operands).all fun (c, o) => c.holds o

/-- The two slots of a pair are well-formed and legal together (03 R76, R77). A slot has no length code and
no immediate of its own, so it carries those of an L64. -/
def pairWf (a b : Slot) : Bool :=
  a.x.len == .l64 && b.x.len == .l64 && a.x.wf a.op.opcode && b.x.wf b.op.opcode
    && match formOf a.op.opcode a.x.mod.toNat a.x.xmod.toNat, formOf b.op.opcode b.x.mod.toNat b.x.xmod.toNat with
      | some fa, some fb => pairLegal a.op.opcode fa a.x b.op.opcode fb b.x
      | _, _ => false

/-- The unused fields of a host-extension instruction hold x0 and zero (22 R418). -/
def HostOp.wf (usesRs2 usesTaff : Bool) (h : HostOp) : Bool :=
  (usesRs2 || h.rs2 == 0) && (usesTaff || h.taff == 0)

/-- A place on the module: 256 cores of 64 wave slots of 32 lanes (00 R1, 06 R141). -/
def WaveRef.wf (w : WaveRef) : Bool := decide (w.core < 256) && decide (w.slot < 64)

/-- A lane of a wave's place. -/
def ThreadRef.wf (t : ThreadRef) : Bool := t.wave.wf && decide (t.lane < 32)

/-- Whether an instruction has an encoding, or an event names only parts that exist. -/
def Instr.wf (i : Instr) : Bool :=
  match i with
  | .pair a b => pairWf a b
  | .hsubmit h => h.wf false false
  | .hmqry h => h.wf false false
  | .hwait h => h.wf true false
  | .hpin h => h.wf true false
  | .hunpin h => h.wf true false
  | .hmhint h => h.wf true true
  | .htenantWrite hart csr _ => decide (hart < 64) && (csr == 0x5C0 || csr == 0xCC0)
  | .safeptOverrun w => w.wf
  | .napExpiry t => t.wf
  | .waitwPoll t => t.wf
  | .waitwTimeout t => t.wf
  | .handlerEntry t => t.wf
  | .registerFileError w => w.wf
  | .reggrwGrant core => decide (core < 256)
  | .blockDispatch core => decide (core < 256)
  | .visorSample core => decide (core < 256)
  | .hostTaskDispatch slice => decide (slice < 4)
  | .nmTaskStart slice => decide (slice < 4)
  | .copyTaskStart slice engine => decide (slice < 4) && decide (engine < 4)
  | .loopStart slice => decide (slice < 4)
  | .faultRecordWrite hub tenant => decide (hub < 4) && decide (tenant < 64)
  | .planeLoadStart e => decide (e < 64)
  | .planeLoadComplete e => decide (e < 64)
  | .arrayRunGrant e => decide (e < 64)
  | .runEnd e => decide (e < 64)
  | .matrixOpComplete e _ => decide (e < 64)
  | .moveStart hub => decide (hub < 4)
  | .tlbinvComplete hub => decide (hub < 4)
  | .poolLinkDown hub port => decide (hub < 4) && decide (port < 2)
  | .poolLinkUp hub port => decide (hub < 4) && decide (port < 2)
  | .peerLinkDown k => decide (k < 8)
  | .peerLinkUp k => decide (k < 8)
  | .channelHalfWidth stack c _ => decide (stack < 32) && decide (c < 40)
  | .channelFullWidth stack c => decide (stack < 32) && decide (c < 40)
  | .circuitUp e => decide (e < 512)
  | .circuitDrained e => decide (e < 512)
  | .cteUp e _ => decide (e < 512)
  | .cteDown e _ => decide (e < 512)
  | .wavelengthFailure e k => decide (e < 512) && decide (k < 8)
  | .htaskTake hart rd tenant => decide (hart < 64) && decide (rd < 32) && decide (tenant < 64)
  | i =>
    match i.dev? with
    | some (opc, x) => x.wf opc
    | none => true

end Sys2Proof
end

