-- ==== Sys2Proof/Decode.lean ====
section
/-! DEFINITION. Decoding: from the bytes at a 4-aligned address to an instruction or a named decode fault,
and back. -/
namespace Sys2Proof

/-- The decode-class faults that do not depend on the wave (03 R73); the fetch faults come before them and
the allotment check of REG_RANGE after them. -/
inductive DecodeFault where
  | illegalOp | illegalPair | regRange
  deriving DecidableEq, Repr

/-- What a field's code turns out to be under its class (03 R70). -/
inductive FieldFate where
  | good (o : Operand) | wrong | range
  deriving DecidableEq, Repr

/-- One field under its class (03 R70, 12 R283). -/
def decodeField (c : FieldClass) (code : Nat) : FieldFate :=
  match c with
  | .unused => if code == 0 then .good .unused else .wrong
  | c =>
    if 344 ≤ code then .range
    else if c.accepts code then .good (Operand.ofCode code) else .wrong

/-- The operand of a field that decoded, else no operand. -/
def FieldFate.operand (f : FieldFate) : Operand :=
  match f with
  | .good o => o
  | _ => .unused

/-- The nine-bit fields and the other parts of the L64 layout (03 R68). -/
structure Raw where
  mod   : BitVec 12
  c     : Nat
  b     : Nat
  a     : Nat
  d     : Nat
  neg   : Bool
  p     : Fin 8
  opc   : Nat
  deriving DecidableEq, Repr

/-- The fields of bits [63:2] of an instruction, or of a slot with its two leading bits restored (03 R68,
R76). -/
def rawOf (w : BitVec 64) : Raw where
  mod := w.extractLsb' 52 12
  c   := (w.extractLsb' 43 9).toNat
  b   := (w.extractLsb' 34 9).toNat
  a   := (w.extractLsb' 25 9).toNat
  d   := (w.extractLsb' 16 9).toNat
  neg := (w.extractLsb' 15 1) == 1
  p   := Fin.ofNat 8 (w.extractLsb' 12 3).toNat
  opc := (w.extractLsb' 2 10).toNat

/-- What the bits above [63:0] give under a base form: the immediate, XMOD and the codes of E to H; none when a
widening word or a reserved bit is nonzero (03 R67, R68). -/
def highOf (base : BaseForm) (hi : BitVec 64) : Option (BitVec 64 × BitVec 12 × Nat × Nat × Nat × Nat) :=
  match base with
  | .l64 => if hi == 0 then some (0, 0, 0, 0, 0, 0) else none
  | .l96 => if hi.extractLsb' 32 32 == 0 then some (hi, 0, 0, 0, 0, 0) else none
  | .l128 => some (hi, 0, 0, 0, 0, 0)
  | .l128x =>
    if hi.extractLsb' 48 16 == 0 then
      some (0, hi.extractLsb' 36 12, (hi.extractLsb' 0 9).toNat, (hi.extractLsb' 9 9).toNat,
        (hi.extractLsb' 18 9).toNat, (hi.extractLsb' 27 9).toNat)
    else none

/-- The base form of an opcode, whatever its MOD (03 R79). -/
def baseOf (opc : Nat) : BaseForm :=
  if opc == 0x001 || opc == 0x003 || opc == 0x065 || (decide (0x140 ≤ opc) && decide (opc ≤ 0x14B)) then .l96
  else if opc == 0x066 then .l128
  else if opc == 0x1D0 then .l128x
  else .l64

/-- The fields of one instruction under the table of its opcode: ILLEGAL_OP for a wrong field or MOD before
REG_RANGE for a code of 344-511 (03 R70, R73, R74). -/
def decodeFields (opc : Nat) (len : Len) (r : Raw) (imm : BitVec 64) (xmod : BitVec 12) (e f g h : Nat) :
    Except DecodeFault Dev :=
  match formOf opc r.mod.toNat xmod.toNat with
  | none => .error .illegalOp
  | some fm =>
    let fd := decodeField fm.d r.d
    let fa := decodeField fm.a r.a
    let fb := decodeField fm.b r.b
    let fc := decodeField fm.c r.c
    let fe := decodeField fm.e e
    let ff := decodeField fm.f f
    let fg := decodeField fm.g g
    let fh := decodeField fm.h h
    let all := [fd, fa, fb, fc, fe, ff, fg, fh]
    if !fm.ok || all.contains .wrong || !immFits opc fm.base imm.toNat then .error .illegalOp
    else if all.contains .range then .error .regRange
    else .ok { guard := ⟨r.neg, r.p⟩, len := len, mod := r.mod, d := fd.operand, a := fa.operand,
               b := fb.operand, c := fc.operand, e := fe.operand, f := ff.operand, g := fg.operand,
               h := fh.operand, xmod := xmod, imm := imm }

/-- A single instruction of a length (03 R65-R68, R73). -/
def decodeSingle (len : Len) (w : BitVec 128) : Except DecodeFault Instr :=
  let r := rawOf (w.extractLsb' 0 64)
  match mkDev r.opc with
  | none => .error .illegalOp
  | some mk =>
    if len.bytes < (baseOf r.opc).bytes then .error .illegalOp
    else
      match highOf (baseOf r.opc) (w.extractLsb' 64 64) with
      | none => .error .illegalOp
      | some (imm, xmod, e, f, g, h) =>
        match decodeFields r.opc len r imm xmod e f g h with
        | .error fault => .error fault
        | .ok x => .ok (mk x)

/-- What a P128 slot turns out to be: the fields of a pairable operation, or an opcode that is in the map and
not pairable, or a fault (03 R67, R73). -/
inductive SlotFate where
  | good (s : Slot) | range (s : Option Slot) | notPairable | illegal
  deriving DecidableEq, Repr

/-- One slot of a pair (03 R73, R76, R77). -/
def decodeSlot (w : BitVec 64) : SlotFate :=
  let r := rawOf w
  match PairOp.ofOpcode? r.opc with
  | none => if (mkDev r.opc).isSome then .notPairable else .illegal
  | some op =>
    match decodeFields r.opc .l64 r 0 0 0 0 0 0 with
    | .error .illegalOp => .illegal
    | .error _ => .range none
    | .ok x => .good ⟨op, x⟩

/-- The registers a slot's raw codes read and write when some code is out of range: a code of 344-511 names no
register, so the slot is judged by its other fields (03 R73, R77). -/
def slotRangeDev (w : BitVec 64) : Option (Nat × Form × Dev) :=
  let r := rawOf w
  match formOf r.opc r.mod.toNat 0 with
  | none => none
  | some fm =>
    some (r.opc, fm,
      { guard := ⟨r.neg, r.p⟩, len := .l64, mod := r.mod, d := (decodeField fm.d r.d).operand,
        a := (decodeField fm.a r.a).operand, b := (decodeField fm.b r.b).operand,
        c := (decodeField fm.c r.c).operand, e := .unused, f := .unused, g := .unused, h := .unused,
        xmod := 0, imm := 0 })

/-- A P128 pair: ILLEGAL_OP of either slot, then ILLEGAL_PAIR, then REG_RANGE (03 R73, R76, R77). -/
def decodePair (w : BitVec 128) : Except DecodeFault Instr :=
  let wa := w.extractLsb' 0 64
  let wb := w.extractLsb' 64 64
  let sa := decodeSlot wa
  let sb := decodeSlot wb
  if w.extractLsb' 64 2 != 0 || sa == .illegal || sb == .illegal then .error .illegalOp
  else if sa == .notPairable || sb == .notPairable then .error .illegalPair
  else
    match slotRangeDev wa, slotRangeDev wb with
    | some (oa, fa, xa), some (ob, fb, xb) =>
      if !pairLegal oa fa xa ob fb xb then .error .illegalPair
      else
        match sa, sb with
        | .good a, .good b => .ok (.pair a b)
        | _, _ => .error .regRange
    | _, _ => .error .illegalOp

/-- An instruction read from 128 bits with its first byte at the lowest place; the length code is bits [1:0]
(03 R65). The answer carries the length in bytes. -/
def decodeBits (w : BitVec 128) : Except DecodeFault Instr × Nat :=
  let lc := (w.extractLsb' 0 2).toNat
  if lc == 0 then (decodeSingle .l64 (w.extractLsb' 0 64 |>.setWidth 128), 8)
  else if lc == 1 then (decodeSingle .l96 (w.extractLsb' 0 96 |>.setWidth 128), 12)
  else if lc == 2 then (decodeSingle .l128 w, 16)
  else (decodePair w, 16)

/-- The instruction at an address whose fetch block has `room` bytes left, from the bytes found there:
ILLEGAL_OP when it crosses the block (01 R21, 03 R66), and its length in bytes. -/
def decode (room : Nat) (bytes : List Byte) : Except DecodeFault (Instr × Nat) :=
  let (r, n) := decodeBits (BitVec.ofNat 128 (leNat bytes))
  if room < n then .error .illegalOp
  else
    match r with
    | .error f => .error f
    | .ok i => .ok (i, n)

/-- What a 32-bit word of host code is to this machine: an instruction of the host extension, a reserved encoding
of custom-0, or an instruction of the harts' own base set (22 R418). -/
inductive HostWord where
  | ext (i : Instr) | illegal | base
  deriving DecidableEq, Repr

/-- The host extension (22 R418). -/
def decodeHost (w : BitVec 32) : HostWord :=
  if w.extractLsb' 0 7 != 0b0001011#7 then .base
  else
    let rd := Fin.ofNat 32 (w.extractLsb' 7 5).toNat
    let f3 := (w.extractLsb' 12 3).toNat
    let rs1 := Fin.ofNat 32 (w.extractLsb' 15 5).toNat
    let rs2 := Fin.ofNat 32 (w.extractLsb' 20 5).toNat
    let f7 := (w.extractLsb' 25 7).toNat
    let h : HostOp := ⟨rd, rs1, rs2, Fin.ofNat 4 f7⟩
    match f3 with
    | 0 => if f7 == 0 && rs2 == 0 then .ext (.hsubmit h) else .illegal
    | 1 => if f7 == 0 then .ext (.hwait h) else .illegal
    | 2 => if f7 == 0 then .ext (.hpin h) else .illegal
    | 3 => if f7 == 0 then .ext (.hunpin h) else .illegal
    | 4 => if f7 < 4 then .ext (.hmhint h) else .illegal
    | 5 => if f7 == 0 && rs2 == 0 then .ext (.hmqry h) else .illegal
    | _ => .illegal

/-- The decoder's answer for a table row's word: a 32-bit row is host code, every other row device code whose
bits above `nbits` are zero. -/
def decodeTableWord (nbits w : Nat) : Option Instr :=
  if nbits == 32 then
    match decodeHost (BitVec.ofNat 32 w) with
    | .ext i => some i
    | _ => none
  else
    match decode 32 (natBytes 16 (w % 2 ^ nbits)) with
    | .ok (i, _) => some i
    | .error _ => none

/-- The L64 layout with a length code (03 R68). -/
def encodeLow (opc : Nat) (x : Dev) (lc : BitVec 2) : BitVec 64 :=
  x.mod ++ BitVec.ofNat 9 x.c.code ++ BitVec.ofNat 9 x.b.code ++ BitVec.ofNat 9 x.a.code
    ++ BitVec.ofNat 9 x.d.code ++ BitVec.ofBool x.guard.neg ++ BitVec.ofNat 3 x.guard.p.val
    ++ BitVec.ofNat 10 opc ++ lc

/-- The bits above [63:0] of an instruction (03 R67, R68). -/
def encodeHigh (opc : Nat) (x : Dev) : BitVec 64 :=
  match baseOf opc with
  | .l128x =>
    0#16 ++ x.xmod ++ BitVec.ofNat 9 x.h.code ++ BitVec.ofNat 9 x.g.code ++ BitVec.ofNat 9 x.f.code
      ++ BitVec.ofNat 9 x.e.code
  | _ => x.imm

/-- The length code of a single instruction (03 R65). -/
def Len.lc (l : Len) : BitVec 2 :=
  match l with
  | .l64 => 0 | .l96 => 1 | .l128 => 2

/-- The bits of a host-extension instruction (22 R418). -/
def encodeHost (f3 : BitVec 3) (h : HostOp) : BitVec 32 :=
  0#5 ++ BitVec.ofNat 2 h.taff.val ++ BitVec.ofNat 5 h.rs2.val ++ BitVec.ofNat 5 h.rs1.val ++ f3
    ++ BitVec.ofNat 5 h.rd.val ++ 0b0001011#7

/-- The encoding of an instruction and its length in bytes, the bits above it zero; none for an event, which has
no encoding. -/
def encode (i : Instr) : Option (BitVec 128 × Nat) :=
  match i with
  | .pair a b => some (encodeLow b.op.opcode b.x 0 ++ encodeLow a.op.opcode a.x 3, 16)
  | .hsubmit h => some ((encodeHost 0 h).setWidth 128, 4)
  | .hwait h => some ((encodeHost 1 h).setWidth 128, 4)
  | .hpin h => some ((encodeHost 2 h).setWidth 128, 4)
  | .hunpin h => some ((encodeHost 3 h).setWidth 128, 4)
  | .hmhint h => some ((encodeHost 4 h).setWidth 128, 4)
  | .hmqry h => some ((encodeHost 5 h).setWidth 128, 4)
  | i =>
    match i.dev? with
    | some (opc, x) => some (encodeHigh opc x ++ encodeLow opc x x.len.lc, x.len.bytes)
    | none => none

end Sys2Proof
end

