-- ==== Sys2Proof/Machine/Moves.lean ====
section
/-! DEFINITION. The homes, walkers and hubs as they act of themselves: directory requests, walks, copy-on-write resolutions, moves with
their switch-over and retirement, and the hubs' commands TLBINV and HUB_FSTQ (10 R258-R260; 13 R307, R308, R315-R320, R325, R329; 15
R346). -/
namespace Sys2Proof.Machine

/-! ## Requests at a home (13 R309, R325) -/

/-- A directory request of a holder for a line, at the line's home in this module: 0 read, 1 ownership, 2 an operation executed there. A Cuff
holds it in arrival order (13 R317); one of a frame in handover is not served yet (23 R438). -/
def State.askHome (s : State) (x : Holder) (kind line : Nat) : State :=
  if handoverHold s (s.route (64 * line)) then s
  else
    match s.cuff? (64 * line) with
    | none => s.serveHolder x kind line
    | some m =>
      let b : HeldBy := .request x kind
      let l := m.srcLine line
      if s.mustQueue m b l (kind != 0) then s.updMove m.id fun m => { m with held := m.held ++ [⟨b, line, kind != 0, s.clock⟩] }
      else s.serveHolder x kind line

/-- A directory entry displaced by capacity. -/
def State.displace (s : State) (line : Nat) : State := if (s.dirEntry? line).isSome then s.recall line else s

/-! ## Walks and resolutions (10 R256, R258; 15 R346) -/

/-- The access context of a walker of a die for a tenant. -/
def State.walkWho (s : State) (die tenant : Nat) : Who :=
  { tenant, die, core := none, root := (s.tenant tenant).root.toNat, trigDie := if die < 8 then some die else none, task := none }

/-- PAGE_WALK: a missed translation is walked; a fault is its access's. -/
def State.walkPage (s : State) (die tenant va : Nat) (a : Access) : State :=
  let w := s.walkWho die tenant
  if !bit w.root 0 || (s.tlbFind w va).isSome then s else (Op.run? (walkFill w a va true) s).2

/-- COW_RESOLUTION of the page of an address. -/
def State.resolveCow (s : State) (tenant va : Nat) : State :=
  let w := s.walkWho 0 tenant
  match lookLeaf s w.root .store va with
  | .error _ => s
  | .ok l => if bit l.pte 2 then s else (Op.run? (cowResolve w l) s).2

/-! ## Moves (13 R315-R319) -/

/-- The frames of a move's source. -/
def Move.frames (m : Move) : List Nat := (List.range (framesOf m.size)).map (m.src + ·)

/-- Addresses of the leaf entries of the page that a frame's entry names. -/
def FrameState.groupPas (f : FrameState) : List Nat :=
  let n := [1, 16, 512, 64].getD f.size 1
  (List.range n).map fun i => alignDown f.leafPa (8 * n) + 8 * i

/-- The leaf entries of a page: they are valid and still hold the source PPN (13 R315). -/
def State.leafHolds (s : State) (f : FrameState) : Bool :=
  f.lvalid && f.groupPas.all fun pa => let e := s.peek pa 8; bit e 0 && !pteIsPointer e && fld e 55 12 == f.ppn

/-- The hub's fields of every frame of a move's source changed, in its copy and in the table. -/
def State.markSource (s : State) (m : Move) (g : FrameState → FrameState) : State :=
  s.forEach m.frames fun p s => match s.frame? p with | some f => s.writeFrame (g f) | none => s

/-- A move that is over: moves queued behind it start from the page's frame, at that frame's home (13 R320). -/
def State.dropMove (s : State) (m : Move) (src : Nat) : State :=
  let s : State :=
    { s with
      moves := (s.moves.filter fun x => x.id != m.id).map fun x =>
        if x.behind == some m.id then { x with src := src, hub := (homeOf (framePa src)).hub, behind := none } else x
      forwards := s.forwards.filter fun f => f.move != m.id }
  s.releaseMoves

/-- A move abandoned: MOVING and FROZEN clear, then a held count goes to the source (13 R315, 14 R329). -/
def State.abandonMove (s : State) (m : Move) (heldCnt : Nat) : State :=
  let s := s.markSource m fun f => { f with moving := false, frozen := false }
  let s := match s.frame? m.src with
    | some f => if heldCnt == 0 then s else s.writeFrame { f with raw := satAdd16 f.raw heldCnt }
    | none => s
  s.dropMove m m.src

/-- A queued move may start: none before it of the same page, no pin, no near-memory command on its frames (12 R294, 15 R354). -/
def State.startableMove (s : State) (m : Move) : Bool :=
  m.phase == .queued && m.behind.isNone
    && !(m.frames.any fun p => (s.pin p).cls != 0 || s.nms.any fun c => c.frames.contains p)

/-- Frames that a hub's engine copies now: one of each page in its copy phase, whose lines go in ascending order. -/
def State.runningMoves (s : State) (hub : Nat) : Nat :=
  (s.moves.filter fun m => m.hub == hub && m.phase == .copying && decide (m.copied < 64 * framesOf m.size)).length

/-- A move begun on a destination that has been taken. One whose leaf does not hold the page is abandoned, and its destination goes to the
release ring; while that is full nothing happens. -/
def State.beginMove (s : State) (m : Move) (d : Nat) : State :=
  match (s.frame? m.src).filter s.leafHolds with
  | none =>
    match s.releaseFrame m.destHub m.size d with
    | some s => s.abandonMove m m.heldCnt
    | none => s
  | some f =>
    let s := s.initFrames m.src d m.size
    let s := s.markSource m fun f => { f with moving := true }
    let s := match s.frame? d with
      | some g => s.writeFrame { g with raw := satAdd16 g.raw m.heldCnt }
      | none => s
    let s := s.forEach f.groupPas fun pa s => s.putPte noTenant pa (setFld (s.peek pa 8) 63 63 1)
    s.updMove m.id fun m => { m with phase := .copying, dest := some d, copied := 0, heldCnt := 0 }

/-- MOVE_START: the first of a hub's queued moves, of those that wait behind no other of their page. One that finds no destination frame waits,
and the rest behind it, as do one whose page may not move now and one whose destination would have nowhere to go back to (13 R315). -/
def State.startMove (s : State) (hub : Nat) : State :=
  match s.moves.find? fun m => m.hub == hub && m.phase == .queued && m.behind.isNone with
  | none => s
  | some m =>
    if decide (16 ≤ s.runningMoves hub) || !s.startableMove m then s
    else
      match s.takeDest m.destHub m.tier m.size m.destStk with
      | (none, s') => s'
      | (some d, s') =>
        let s' := s'.beginMove m d
        if s'.move? m.id == some m then s else s'

/-- MOVE_LINE_COPY: the next line of a page. A line that cannot be delivered leaves its copy poisoned (21 R457). -/
def State.copyMoveLine (s : State) (id : Nat) : State :=
  match s.move? id with
  | none => s
  | some m =>
    match m.dest with
    | none => s
    | some d =>
      if m.phase != .copying || decide (64 * framesOf m.size ≤ m.copied) then s
      else
        (s.copyLine (framePa m.src + 64 * m.copied) (framePa d + 64 * m.copied)).updMove id fun m => { m with copied := m.copied + 1 }

/-- Forwarding entries of a hub that are in use or that an open Cuff is to use (13 R319). -/
def State.usedForwards (s : State) (hub : Nat) : Nat :=
  (s.moves.filter fun m => m.hub == hub && (m.phase == .installed || m.phase == .cuff)).length

/-- Every cached copy of a move's source lines recalled. -/
def State.recallSource (s : State) (m : Move) : State :=
  s.forEach (List.range (64 * framesOf m.size)) fun i s => s.recall (m.src * 64 + i)

/-- A move abandoned whose destination goes to the release ring; while that is full it waits. -/
def State.giveUp (s : State) (m : Move) (d : Nat) : State :=
  match s.releaseFrame m.destHub m.size d with
  | some s => s.abandonMove m 0
  | none => s

/-- SWITCH_OVER: the Cuff opens and the source lines are recalled (13 R317 steps 1 and 2, R318), where a forwarding entry is free (R319) and
the requests of an earlier try have been performed. A page whose leaf the driver has changed is not moved (R320). -/
def State.openCuff (s : State) (id : Nat) : State :=
  match s.move? id with
  | none => s
  | some m =>
    match m.dest, m.phase == .copying && m.held.isEmpty && m.copied == 64 * framesOf m.size && decide (m.retryAt ≤ s.clock) with
    | some d, true =>
      if !(s.frame? m.src).any s.leafHolds then s.giveUp m d
      else if 256 ≤ s.usedForwards m.hub then s
      else (s.updMove id fun m => { m with phase := .cuff }).recallSource m
    | _, _ => s

/-- A Cuff holds more than 64 requests, or one for 5,000 cycles (13 R318). -/
def Move.overdue (m : Move) (clock : Nat) : Bool :=
  m.phase == .cuff && (decide (64 < m.held.length) || m.held.any fun q => decide (5000 ≤ clock - q.time))

/-- The Cuff closes with its page back in the copy phase: what it held is performed at the source in arrival order. -/
def State.closeCuff (s : State) (id retryAt : Nat) : State :=
  (s.updMove id fun m => { m with phase := .copying, retryAt := retryAt }).drainCuffs

/-- FORWARDING_INSTALL: steps 3 to 6, before the Cuff's bound. Copies that reads have made since are recalled with the others (13 R327), and
what the Cuff held is performed at the destination in arrival order. Where the driver has changed the leaf, what it held is performed at the
source, and the move is then abandoned (13 R320). -/
def State.installForward (s : State) (id : Nat) : State :=
  match s.move? id with
  | none => s
  | some m =>
    match m.dest, m.phase == .cuff && !m.overdue s.clock with
    | some d, true =>
      match (s.frame? m.src).filter s.leafHolds with
      | none => s.closeCuff id 0
      | some f =>
        let s := s.recallSource m
        let s : State := { s with forwards := s.forwards ++ [⟨id, m.src, d, m.size⟩] }
        let s := s.forEach f.groupPas fun pa s => s.putPte noTenant pa (setFld (setFld (s.peek pa 8) 55 12 d) 63 63 0)
        let s := (s.updMove id fun m => { m with phase := .installed }).shootFrames m.src m.size
        (s.remapStrands m.src d m.size).drainCuffs
    | _, _ => s

/-- CUFF_ABANDON: the page returns to its copy phase for 4,096 cycles at least (13 R318). -/
def State.abandonCuff (s : State) (id : Nat) : State :=
  match s.move? id with
  | none => s
  | some m => if m.overdue s.clock then (s.closeCuff id (s.clock + 4096)).perfHubEvent m.tenant m.hub 7 1 else s

/-- Driver pins that have come while a page moved apply at its destination (12 R294, 13 R328). -/
def State.movePins (s : State) (m : Move) : State :=
  { s with agenda := s.agenda.map fun i =>
      match i.act, m.dest with
      | .driverPin p true, some d =>
        if decide (i.due ≤ s.clock) && covers m.src m.size p then { i with act := .driverPin (d + p - m.src) true } else i
      | _, _ => i }

/-- FORWARDING_RETIRE: held requests have been performed, no translation of the source is left, and the source frame goes to the release
ring. -/
def State.retireMove (s : State) (id : Nat) : State :=
  match s.move? id with
  | none => s
  | some m =>
    if m.phase == .installed && m.held.isEmpty then
      match s.releaseFrame m.hub m.size m.src with
      | none => s
      | some s =>
        let s := s.markSource m fun f => { f with moving := false, frozen := true }
        ((s.dropMove m (m.dest.getD m.src)).movePins m).perfHubEvent m.tenant m.hub 3 1
    else s

/-! ## TLBINV (10 R259, R260) -/

/-- A command started at a hub; an access is performed within one step, so the translations go at once and BUSY stays until the hub says
so. -/
def State.startTlbinv (s : State) (hub kind : Nat) (v : Dword) (gone : TlbEntry → Bool) : State :=
  if bit (s.hub hub).tlbinv.toNat 0 || fld v.toNat 2 1 != kind || !bit v.toNat 0 then s
  else
    (s.updHub hub fun h => { h with tlbinv := BitVec.ofNat 64 (v.toNat % 2 ^ 60) }).dropTlb gone

/-- The end of a hub's command. -/
def State.endTlbinv (s : State) (hub : Nat) : State := s.updHub hub fun h => { h with tlbinv := setBits h.tlbinv 0 0 0 }

/-- A cached translation of an ASID. -/
def TlbEntry.ofAsid (t : TlbEntry) (v : Dword) : Bool := t.asid == fld v.toNat 11 3
/-- A cached translation of an ASID that covers an address. -/
def TlbEntry.ofPage (t : TlbEntry) (v : Dword) : Bool := t.ofAsid v && alignDown (fld v.toNat 59 12 * 4096) (pageBytes t.size) == t.page

/-! ## HUB_FSTQ (13 R308) -/

/-- A command of a hub on a frame: done at once, with COUNT. -/
def State.runFstq (s : State) (hub op : Nat) (v : Dword) (f : FrameState → State → Nat × State) : State :=
  if bit (s.hub hub).fstq.toNat 45 || fld v.toNat 47 46 != op || !bit v.toNat 45 then s
  else
    let ppn := fld v.toNat 43 0
    let (count, s) :=
      if (homeOf (framePa ppn)).hub != hub || !paLegal (framePa ppn) then (0, s)
      else match s.frame? ppn with
        | some x => f x s
        | none => (0, s)
    s.updHub hub fun h => { h with fstq := BitVec.ofNat 64 (count * 2 ^ 48 + op * 2 ^ 46 + ppn) }

def State.fstqReload (s : State) (hub : Nat) (v : Dword) : State :=
  s.runFstq hub 0 v fun x s => (fld v.toNat 63 48, (s.setFrame x).reloadFrame x.ppn)
def State.fstqRead (s : State) (hub : Nat) (v : Dword) : State := s.runFstq hub 1 v fun x s => (x.raw, s)
def State.fstqWrite (s : State) (hub : Nat) (v : Dword) : State :=
  s.runFstq hub 2 v fun x s => (fld v.toNat 63 48, s.writeFrame { x with raw := fld v.toNat 63 48 })

/-! ## Meanings -/

def execPageWalk (die tenant va : Nat) (a : Access) (s : State) : Host.Outcome State Fault Refusal := .next (s.walkPage die tenant va a)
def execHomeRead (x : Holder) (line : Nat) (s : State) : Host.Outcome State Fault Refusal := .next (s.askHome x 0 line)
def execHomeOwnership (x : Holder) (line : Nat) (s : State) : Host.Outcome State Fault Refusal := .next (s.askHome x 1 line)
def execHomeExecute (x : Holder) (line : Nat) (s : State) : Host.Outcome State Fault Refusal := .next (s.askHome x 2 line)
def execHomeDrop (x : Holder) (line : Nat) (s : State) : Host.Outcome State Fault Refusal := .next (s.dropHolder x line)
def execCapacityDisplacement (line : Nat) (s : State) : Host.Outcome State Fault Refusal := .next (s.displace line)
def execCowResolution (tenant va : Nat) (s : State) : Host.Outcome State Fault Refusal := .next (s.resolveCow tenant va)
def execMoveStart (hub : Nat) (s : State) : Host.Outcome State Fault Refusal := .next (s.startMove hub)
def execMoveLineCopy (move : Nat) (s : State) : Host.Outcome State Fault Refusal := .next (s.copyMoveLine move)
def execSwitchOver (move : Nat) (s : State) : Host.Outcome State Fault Refusal := .next (s.openCuff move)
def execForwardingInstall (move : Nat) (s : State) : Host.Outcome State Fault Refusal := .next (s.installForward move)
def execCuffAbandon (move : Nat) (s : State) : Host.Outcome State Fault Refusal := .next (s.abandonCuff move)
def execForwardingRetire (move : Nat) (s : State) : Host.Outcome State Fault Refusal := .next (s.retireMove move)
def execTlbinvPage (hub : Nat) (v : Dword) (s : State) : Host.Outcome State Fault Refusal :=
  .next (s.startTlbinv hub 0 v fun t => t.ofPage v)
def execTlbinvAsid (hub : Nat) (v : Dword) (s : State) : Host.Outcome State Fault Refusal :=
  .next (s.startTlbinv hub 1 v fun t => t.ofAsid v)
def execTlbinvAll (hub : Nat) (v : Dword) (s : State) : Host.Outcome State Fault Refusal := .next (s.startTlbinv hub 2 v fun _ => true)
def execTlbinvComplete (hub : Nat) (s : State) : Host.Outcome State Fault Refusal := .next (s.endTlbinv hub)
def execFstqReload (hub : Nat) (v : Dword) (s : State) : Host.Outcome State Fault Refusal := .next (s.fstqReload hub v)
def execFstqRead (hub : Nat) (v : Dword) (s : State) : Host.Outcome State Fault Refusal := .next (s.fstqRead hub v)
def execFstqWrite (hub : Nat) (v : Dword) (s : State) : Host.Outcome State Fault Refusal := .next (s.fstqWrite hub v)

end Sys2Proof.Machine
end

