-- ==== Sys2Proof/Machine/Loops.lean ====
section
/-! DEFINITION. The course of guess-carried loops, and the ends of tasks (06 R150, R152, R157, R158; 09 R219-R226, R232, R235; 17
R371). -/
namespace Sys2Proof.Machine

/-! ## The loop state block (09 R219) -/

/-- The carry of a state block of n words; none where a tag is 15. -/
def blockCarry (b n : Nat) : Option (List Reg) :=
  (List.range n).mapM fun i =>
    (Tag.ofCode? (fld b (512 + 4 * i + 3) (512 + 4 * i))).map fun t => (⟨BitVec.ofNat 32 (fld b (32 * i + 31) (32 * i)), t⟩ : Reg)

/-- Whether a tag of the sixteen is 15 (09 R219). -/
def blockTagsBad (b : Nat) : Bool := (List.range 16).any fun i => fld b (512 + 4 * i + 3) (512 + 4 * i) == 15

/-- The state block of a loop with an end cause. -/
def Loop.stateBlock (l : Loop) (cause : Nat) : Nat :=
  (l.carry.mapIdx fun i r => r.val.toNat * 2 ^ (32 * i) + r.tag.code * 2 ^ (512 + 4 * i)).sum
    + l.iter % 2 ^ 32 * 2 ^ 640 + l.rounds % 2 ^ 32 * 2 ^ 704 + l.accepted % 2 ^ 32 * 2 ^ 736 + l.rejected % 2 ^ 32 * 2 ^ 768
    + cause * 2 ^ 800

/-- The state block written whole, ITER with its last line. -/
def writeLoopBlock (l cause : Nat) : Op Unit := do
  match (← get).loop? l with
  | some lp => devSpan lp.tenant 3 lp.stateVa (natBytes 128 (lp.stateBlock cause))
  | none => pure ()

/-- A loop ended: its state block, and its task with DETAIL (09 R226). -/
def finishLoop (l cause : Nat) (e : TaskEnd) : Op Unit := do
  writeLoopBlock l cause
  match (← get).loop? l with
  | none => pure ()
  | some lp =>
    modify fun s =>
      ({ s with loops := s.loops.filter fun x => x.task != l } : State).updTask l fun t =>
        { t with ending := some e, phase := .ending, detail := lp.iter % 2 ^ 32 + lp.rejected % 2 ^ 32 * 2 ^ 32 }

/-! ## Rounds (09 R220-R222) -/

/-- A strand that has not started, with its guess. -/
def newStrand (carry : List Reg) (sealedIn : Bool) : Strand :=
  { phase := .notStarted, input := carry, sealedIn, prod := carry, sealed := false, exit := false, verdict := .none
    writes := [], reads := [], nextSlot := [], byExit := false, tasks := [], fail := none }

/-- An instance of a record of a loop entered in the pool, with the loop's tenant, priority and bound generations. -/
def State.enterInstance (s : State) (l : Nat) (c : RecCopy) (strand : Option (Nat × Nat)) (guessOf : Option Nat) : State :=
  match s.loop? l, s.task? l with
  | some lp, some t =>
    let r := setFld (setFld c.record 37 32 0) 21 20 t.prio
    let (id, s) := s.enterTask ⟨lp.tenant, { c with record := r }, s.sliceFor lp.tenant r t.slice, t.dieOf, strand, guessOf⟩
    s.updTask id fun x => { x with bound := lp.bound }
  | _, _ => s

/-- Strand k starts: its produced carry is its input, and its body's records enter the pool (09 R220, R222). -/
def State.beginStrand (s : State) (l k : Nat) : State :=
  match s.loop? l with
  | none => s
  | some lp =>
    let s := s.updStrand l k fun x => { x with phase := .running, prod := x.input, nextSlot := List.replicate lp.ncur 0 }
    s.forEach lp.body fun c s => s.enterInstance l c (some (l, k)) none

/-- The committed slot of each listed cursor. -/
def loopCommits (lp : Loop) : Op (List Nat) :=
  (List.range lp.ncur).mapM fun i => do pure (((← devGet lp.tenant (lp.curVa i) 32).map fun r => fld r 95 64).getD 0)

/-- A round begins: strand 0 on the committed carry, and the guess routine where there is a strand to guess for (09 R220). -/
def beginRound (l : Nat) : Op Unit := do
  match (← get).loop? l with
  | none => pure ()
  | some lp =>
    let n := min lp.nstrand (lp.iterMax - lp.iter)
    let commits ← loopCommits lp
    modify fun s =>
      let s := s.updLoop l fun x =>
        { x with width := n, strands := (List.range n).map fun k => newStrand x.carry (k == 0)
                 guessEnd := if 2 ≤ n then none else some true, commits }
      let s := s.beginStrand l 0
      if 2 ≤ n then s.enterInstance l lp.guess none (some l) else s

/-- Strand k may start now (09 R220). -/
def Loop.mayStart (l : Loop) (k : Nat) : Bool :=
  k != 0 && !l.neverStarts k && l.ending.isNone && !l.hold
    && (l.strand? k).any (fun x => x.phase == .notStarted && x.sealedIn)
    && (l.strand? (k - 1)).any fun x => x.phase == .running || x.phase == .completed

/-- STRAND_START. -/
def State.startStrand (s : State) (l k : Nat) : State :=
  if (s.loop? l).any fun lp => lp.mayStart k then s.beginStrand l k else s

/-! ## The start of a loop (09 R219, R221) -/

/-- LOOP_START: the loop task that a slice chooses binds its generations, reads its state block and begins its first round. -/
def State.startLoop (s : State) (slice : Nat) : State :=
  match s.pickKind slice 4 fun _ => true with
  | none => s
  | some (t, x) =>
    match s.loop? t.id with
    | none => s
    | some lp =>
      match s.taskRead t 4 lp.stateVa 128 with
      | (.wait, s) => s
      | (r, s) =>
        let begin_ : Op Unit := do
          modify fun s =>
            let s := (s.setSlice slice (x.charge t)).beginTask t.id
            s.updLoop t.id fun y => { y with bound := ((s.task? t.id).map (·.bound)).getD [] }
          match r with
          | .fail code addr => finishLoop t.id 3 ⟨3, code, 0, addr⟩
          | .wait => pure ()
          | .ok b =>
            modify fun s => s.updLoop t.id fun y =>
              { y with iter := fld b 671 640, rounds := fld b 735 704, accepted := fld b 767 736, rejected := fld b 799 768
                       carry := (blockCarry b lp.ncarry).getD [] }
            if blockTagsBad b then finishLoop t.id 3 ⟨3, 0, 0, 0⟩
            else if lp.iterMax ≤ fld b 671 640 then finishLoop t.id 2 ⟨1, 0, 0, 0⟩
            else beginRound t.id
        (s.settleOp begin_).2

/-! ## Commit (09 R225, R226) -/

/-- The round may commit: the guess routine has ended, every strand that started has completed or been rejected, and no other starts. -/
def Loop.mayCommit (l : Loop) : Bool :=
  l.width != 0 && l.guessEnd.isSome && !l.hold
    && (List.range l.strands.length).all fun k =>
      (l.strand? k).any fun x => x.phase == .completed || x.phase == .rejected
        || (x.phase == .notStarted && (l.neverStarts k || l.ending.isSome))

/-- The highest confirmed strand that has completed. -/
def Loop.commitTop (l : Loop) : Option Nat :=
  (List.range l.strands.length).foldl (fun m k =>
    if l.confirmed k && (l.strand? k).any fun x => x.phase == .completed then some k else m) none

/-- A slot that a commit takes and no append reached: zero bytes, CLIP clear, READY where its page is open (09 R225). -/
def fillSlot (tenant cursor slot : Nat) : Op Unit := do
  match ← devGet tenant cursor 32 with
  | none => pure ()
  | some r =>
    if fld r 143 128 * curSpp r ≤ slot then return
    let ea := curPlist r + 64 * (slot / curSpp r)
    match ← devGet tenant ea 64 with
    | none => pure ()
    | some e =>
      let i := slot % curSpp r
      match ← devGet tenant (fld e 63 0) 64 with
      | none => pure ()
      | some d =>
        let n := 2 ^ fld r 163 160
        devSpan tenant (n / 64 + 2) (fld d 63 0 + i * n) (List.replicate n 0)
        devPut tenant (fld e 63 0 + 8) (natBytes 8 (fld (setFld d (64 + i) (64 + i) 0) 127 64))
        if bit e 64 then devPut tenant (ea + 16) (natBytes 8 (fld (setFld e (128 + i) (128 + i) 1) 191 128))

/-- COMMIT of a cursor, with SPEC and PAGE, put at a slot. -/
def setCommit (tenant cursor t : Nat) : Op Unit := do
  match ← devGet tenant cursor 32 with
  | none => pure ()
  | some r =>
    devPut tenant cursor (natBytes 32 (setFld r 95 64 t))
    modify fun s => s.setSpec tenant cursor t

/-- Every listed cursor advanced over the slots of strands 0 to m. -/
def commitCursors (lp : Loop) (m : Nat) : Op Unit := do
  for i in List.range lp.ncur do
    for k in List.range (m + 1) do
      let used := ((lp.strand? k).map fun x => x.nextSlot.getD i 0).getD 0
      for j in (List.range (lp.curQ i)).filter fun j => decide (used ≤ j) do
        fillSlot lp.tenant (lp.curVa i) (lp.ownFirst i k + j)
    setCommit lp.tenant (lp.curVa i) (lp.commits.getD i 0 + (m + 1) * lp.curQ i)
    modify fun s => s.releaseCurq lp.tenant (lp.curVa i)

/-- Strands of the round that started and were rejected, but for those that an EXIT below them rejected (09 R225). -/
def Loop.roundRejected (l : Loop) : Nat := (l.strands.filter fun x => x.phase == .rejected && !x.byExit).length

/-- The end of a round whose commit has been performed, or that commits nothing. -/
def afterRound (l : Nat) (exited : Bool) : Op Unit := do
  let s ← get
  match s.loop? l with
  | none => pure ()
  | some lp =>
    match lp.ending with
    | some e => finishLoop l 3 e
    | none =>
      if lp.cancel then finishLoop l 4 (((s.task? l).bind (·.ending)).getD ⟨4, 0, 0, 0⟩)
      else if exited then finishLoop l 1 ⟨1, 0, 0, 0⟩
      else if lp.iterMax ≤ lp.iter then finishLoop l 2 ⟨1, 0, 0, 0⟩
      else beginRound l

/-- The commit of a round that may commit: its write sets, cursors and state block as one step (09 R225). -/
def commitOp (l : Nat) (lp : Loop) : Op Unit := do
  match lp.commitTop with
  | none =>
    modify fun s => s.updLoop l fun x => { x with rejected := x.rejected + x.roundRejected }
    afterRound l false
  | some m =>
    publish l m
    commitCursors lp m
    modify fun s => s.updLoop l fun x =>
      { x with carry := ((lp.strand? m).map (·.prod)).getD x.carry, iter := x.iter + m + 1, rounds := x.rounds + 1
               accepted := x.accepted + m + 1, rejected := x.rejected + x.roundRejected }
    writeLoopBlock l 0
    afterRound l ((lp.strand? m).any fun x => x.verdict == .exited)

/-- LOOP_COMMIT. -/
def State.commitLoop (s : State) (l : Nat) : State :=
  match s.loop? l with
  | none => s
  | some lp => if lp.mayCommit then (s.settleOp (commitOp l lp)).2 else s

/-! ## The ends of instances (09 R220, R222, R232) -/

/-- The lowest strand that has failed and is non-speculative ends the loop (09 R232). -/
def State.settleFail (s : State) (l : Nat) : State :=
  match s.loop? l with
  | none => s
  | some lp =>
    match (List.range lp.strands.length).find? fun k => lp.nonSpec k && (lp.strand? k).any fun x => x.fail.isSome && x.phase == .running with
    | none => s
    | some k => 
      let e := ((lp.strand? k).bind (·.fail)).getD ⟨3, 0, 0, 0⟩
      s.endLoopAt l k { e with status := if e.status == 2 then 2 else 3 }

/-- A body task of strand k has ended. -/
def State.bodyDone (s : State) (l k : Nat) (e : TaskEnd) (addr : Nat) : State :=
  let s := s.updStrand l k fun x =>
    if e.status == 1 then { x with tasks := addr :: x.tasks } else { x with fail := some (x.fail.getD e) }
  match s.loop? l with
  | none => s
  | some lp =>
    match lp.strand? k with
    | none => s
    | some x =>
      let s :=
        if x.phase == .running && x.fail.isNone && decide (lp.body.length ≤ x.tasks.length) then
          (s.updStrand l k fun x => { x with phase := .completed }).sealProduced l k
        else s
      s.settleFail l

/-- The guess routine has ended (09 R220). -/
def State.guessDone (s : State) (l : Nat) (ok : Bool) : State :=
  let s := s.updLoop l fun x => { x with guessEnd := some ok, strands := if ok then x.strands.map fun y => { y with sealedIn := true } else x.strands }
  s.tryVerdicts l

/-! ## The completion of a task (06 R150, R152, R157, R158) -/

/-- How a task ends. -/
def Task.endOf (t : Task) : TaskEnd := t.ending.getD ⟨1, 0, 0, 0⟩

/-- A task that is ready to complete (06 R157). One with blocks in the image of a save in progress goes on after a restore (18 R389,
R395). -/
def State.mayComplete (s : State) (t : Task) : Bool :=
  (t.phase == .ending || (t.kind == 0 && t.phase == .running && decide (t.blocks ≤ t.nextBlk)))
    && !s.hasBlocks t && (t.saved == 0 || t.aborting) && t.pending.isEmpty
    && (match t.kind with
        | 1 => let n := s.tenant t.tenant; !(n.hostQ.contains t.addr) && !(n.taken.contains t.addr)
        | 4 => (s.loop? t.id).all fun l => l.width == 0
        | _ => !(s.copies.any fun c => c.by_.task == t.id) && !(s.nms.any fun c => c.by_.task == t.id))

/-- A task's signals that find no live task (06 R150). -/
def State.earlySignals (s : State) (t : Task) : Nat :=
  ((t.succs ++ t.added).filter fun a => (s.liveTask? t.tenant a).isNone).length

/-- A signal within an instance of a loop's body. -/
def State.signalInstance (s : State) (t : Task) (addr : Nat) (failed : Bool) : State :=
  match s.tasks.find? fun x => x.id != t.id && x.strand == t.strand && x.guessOf == t.guessOf && x.addr == addr with
  | some x => s.signalTask x failed
  | none => s

/-- A completed task leaves the pool; tasks that waited for it by R151 count one signal less. -/
def State.leavePool (s : State) (t : Task) : State :=
  let s : State := { s with tasks := s.tasks.filter fun x => x.id != t.id, loops := s.loops.filter fun x => x.task != t.id }
  s.forEach (s.tasks.filter fun x => x.waitsOn.contains t.id) fun x s =>
    s.updTask x.id fun x => ({ x with waitsOn := x.waitsOn.filter (· != t.id) } : Task).signalled s.clock

/-- The completion record of a task. -/
def State.taskCompletion (s : State) (t : Task) : Nat :=
  let e := t.endOf
  complRecord { detail := t.detail, faultAddr := e.faultAddr, faultPc := e.faultPc, startClk := t.startClk, blocksRun := t.started
                fault := e.fault, status := e.status } (s.clockOf t.tenant) t.graphId t.taskNum

/-- TASK_COMPLETE. -/
def State.completeTask (s : State) (id : Nat) : State :=
  match s.task? id with
  | none => s
  | some t =>
    let e := t.endOf
    let failed := e.status != 1
    if !s.mayComplete t then s
    else
      match t.strand, t.guessOf with
      | some (l, k), _ =>
        let s := s.forEach (t.succs ++ t.added) fun a s => s.signalInstance t a failed
        (s.leavePool t).bodyDone l k e t.addr
      | none, some l => (s.leavePool t).guessDone l (!failed)
      | none, none =>
        let n := s.earlySignals t
        if n != 0 && decide (16384 < (s.tenant t.tenant).early.length + n) then s
        else
          match s.settleOp (devPut t.tenant t.complVa (natBytes 64 (s.taskCompletion t))) with
          | (none, s) => s
          | (some _, s) =>
            let s := s.leavePool t
            let s := if bit t.record 28 then s.postEvent t.tenant 2 t.complVa t.graphId t.taskNum t.evtCode else s
            s.forEach (t.succs ++ t.added) fun a s => s.signalAddr t.tenant a failed

/-! ## Meanings -/

def execLoopStart (slice : Nat) (s : State) : Host.Outcome State Fault Refusal := .next (s.startLoop slice)
def execStrandStart (loop strand : Nat) (s : State) : Host.Outcome State Fault Refusal := .next (s.startStrand loop strand)
def execLoopCommit (loop : Nat) (s : State) : Host.Outcome State Fault Refusal := .next (s.commitLoop loop)
def execTaskComplete (task : Nat) (s : State) : Host.Outcome State Fault Refusal := .next (s.completeTask task)
def execTaskAbort (task : Nat) (s : State) : Host.Outcome State Fault Refusal :=
  .next (if (s.task? task).any fun t => t.aborting then s.discardTask task else s)

end Sys2Proof.Machine
end

