-- ==== Sys2Proof/Machine/Image.lean ====
section
/-! DEFINITION. The context image: block, wave and lane records, and the pool, tensor-ID and counter sections, written and read back (18
R391-R395, R401). The spec gives the layout of block, wave, lane and counter records and of a slot word. It names what a task's 64 bytes
of state and a round state hold and leaves their bits open; the pool must also keep its copies of successor lists, loop records and body
records. Their layout here is the model's own (DESIGN CHOICE, log entry 33). -/
namespace Sys2Proof.Machine

/-! ## Bytes of registers -/

/-- Nibbles packed into bytes, the first in the low half of the first byte. -/
def nibbleBytes : List Nat → List Byte
  | a :: b :: rest => BitVec.ofNat 8 (a + 16 * b) :: nibbleBytes rest
  | [a] => [BitVec.ofNat 8 a]
  | [] => []

/-- Nibble k of a byte list. -/
def nibbleAt (bs : List Byte) (k : Nat) : Nat := fld (bs.getD (k / 2) 0).toNat (4 * (k % 2) + 3) (4 * (k % 2))

/-- n bytes of a list from an offset, as a value. -/
def bytesAt (bs : List Byte) (o n : Nat) : Nat := leNat ((bs.drop o).take n)

/-- A register read back: its value and its tag. -/
def regOf (val tag : Nat) : Reg := ⟨BitVec.ofNat 32 val, (Tag.ofCode? tag).getD .i32⟩

/-! ## Lane and wave records (18 R393, R394) -/

/-- The resume PC of a stopped thread. A fault that awaits a replay names its own instruction, which a WATCH has left behind. -/
def Thread.savedPc (t : Thread) : Nat :=
  match t.status with
  | .waiting (.barrier _ _ true) next => next.toNat
  | .pending f => f.pc
  | _ => t.pc.toNat

/-- BAR, TOKEN and BWAIT of a thread that waits in BARW. -/
def Thread.savedWait (t : Thread) : Nat :=
  match t.status with
  | .waiting (.barrier idx token true) _ => 2 ^ 64 + idx * 2 ^ 85 + token.toNat * 2 ^ 96
  | _ => 0

/-- REPLAY: the access at PC had faulted and was not performed. A thread whose trap frame met the fault raises its fault again. -/
def Thread.savedReplay (t : Thread) : Bool :=
  match t.status with
  | .parked _ _ none => true
  | .replay => true
  | .held _ => t.again
  | _ => false

/-- The lane record of a thread. -/
def Thread.laneRecord (t : Thread) : Nat :=
  t.savedPc + t.savedWait + t.trapinfo.toNat * 2 ^ 128 + t.batch % 2 ^ 32 * 2 ^ 160 + t.copyErr % 2 ^ 32 * 2 ^ 192
    + t.openSize % 512 * 2 ^ 224 + t.preds.toNat * 2 ^ 233 + b2n (t.status == .exited) * 2 ^ 240 + b2n t.savedReplay * 2 ^ 241

/-- The registers of a lane of a wave; zero where the lane is absent. -/
def Wave.laneReg (w : Wave) (lane r : Nat) : Reg := ((w.threads[lane]?).map fun t => t.regs.getD r Reg.zero).getD Reg.zero

/-- What stands for no private frame (log entry 33). -/
def noFrame : Nat := 0xFFFFFFFF

/-- A wave record. -/
def Wave.image (w : Wave) : List Byte :=
  let cells := (List.range w.allot).flatMap fun r => (List.range 32).map fun l => w.laneReg l r
  w.sregs.flatMap (fun r => natBytes 4 r.val.toNat) ++ nibbleBytes (w.sregs.map fun r => r.tag.code) ++ natBytes 4 w.fstat.toNat
    ++ natBytes 4 w.allot ++ natBytes 4 w.safeCnt ++ natBytes 4 (w.frame.getD noFrame) ++ natBytes 4 w.index ++ natBytes 12 0
    ++ (List.range 32).flatMap (fun l => natBytes 32 (((w.threads[l]?).map Thread.laneRecord).getD (2 ^ 240)))
    ++ cells.flatMap (fun r => natBytes 4 r.val.toNat) ++ nibbleBytes (cells.map fun r => r.tag.code)

/-- Bytes of a wave record. -/
def waveBytes (allot : Nat) : Nat := 1344 + 144 * allot

/-! ## Block records (18 R392) -/

/-- REC_BYTES. -/
def recBytes (b : Block) (ws : List Wave) : Nat :=
  128 + 64 * ceilDiv (8 * b.barriers.length) 64 + b.scratchLen + (ws.map fun w => waveBytes w.allot).sum

/-- A barrier's state (07 R171). -/
def Barrier.image (b : Barrier) : Nat := b.phase.toNat * 2 ^ 32 + b.arrived % 4096 * 2 ^ 20 + b.expected % 4096 * 2 ^ 8 + b2n b.init

/-- A barrier read back. -/
def barrierOfImage (x : Nat) : Barrier := ⟨BitVec.ofNat 32 (fld x 63 32), fld x 31 20, fld x 19 8, bit x 0⟩

/-- The block header of a record of a task with a record address. -/
def Block.imageHeader (b : Block) (taskVa : Nat) (ws : List Wave) : Nat :=
  b.threads * 2 ^ 576 + b.accRows.length * 2 ^ 592 + b.barriers.length * 2 ^ 608 + ws.length * 2 ^ 624 + b.scratchLen * 2 ^ 640
    + recBytes b ws * 2 ^ 672 + b.saveLo * 2 ^ 704 + b.saveHi * 2 ^ 736 + b.nextTicket * 2 ^ 768 + b.blockId * 2 ^ 800
    + b.rstpc * 2 ^ 832 + b.header * 2 ^ 896 + taskVa * 2 ^ 960

/-- Bytes with zeros behind them up to a multiple of 64. -/
def pad64 (bs : List Byte) : List Byte := bs ++ List.replicate (alignUp bs.length 64 - bs.length) 0

/-- A block record. -/
def Block.image (b : Block) (taskVa : Nat) (ws : List Wave) : List Byte :=
  natBytes 128 (b.imageHeader taskVa ws) ++ pad64 (b.barriers.flatMap fun x => natBytes 8 x.image)
    ++ b.scratch.readBytes 0 b.scratchLen ++ ws.flatMap Wave.image

/-! ## Words of the model's own layout -/

/-- A value as n words of 64 bits. -/
def words (n x : Nat) : List Nat := (List.range n).map fun i => x / 2 ^ (64 * i) % 2 ^ 64
/-- A list with its length. -/
def wordList {α : Type} (l : List α) (f : α → List Nat) : List Nat := l.length :: l.flatMap f
/-- A register's word. -/
def Reg.word (r : Reg) : Nat := r.val.toNat + r.tag.code * 2 ^ 32

def RecCopy.words (c : RecCopy) : List Nat :=
  c.addr :: Machine.words 16 c.record ++ wordList c.ops (Machine.words 4) ++ wordList c.succs fun a => [a]
def TaskEnd.words (e : TaskEnd) : List Nat := [e.status, e.fault, e.faultPc, e.faultAddr]
def optWords {α : Type} (x : Option α) (f : α → List Nat) : List Nat := match x with | none => [0] | some a => 1 :: f a

/-- The code of a strand's standing (09 R240). -/
def StrandPhase.code (p : StrandPhase) : Nat :=
  match p with
  | .notStarted => 0
  | .running => 1
  | .completed => 2
  | .rejected => 3
def strandPhaseOf (n : Nat) : StrandPhase := [StrandPhase.notStarted, .running, .completed, .rejected].getD n .notStarted
def verdictOf (n : Nat) : Verdict := [Verdict.none, .match_, .mismatch, .conflict, .last, .dropped, .quota, .exited].getD n .none

def Strand.words (x : Strand) : List Nat :=
  [x.phase.code, b2n x.sealedIn, b2n x.sealed, b2n x.exit, x.verdict.code, b2n x.byExit] ++ wordList x.input (fun r => [r.word])
    ++ wordList x.prod (fun r => [r.word]) ++ wordList x.nextSlot (fun n => [n]) ++ wordList x.tasks (fun n => [n])
    ++ optWords x.fail TaskEnd.words

/-- A round state: the place of the loop's task in the section, and all that the pool keeps of the loop but write sets. -/
def Loop.words (l : Loop) (place : Nat) : List Nat :=
  place :: Machine.words 16 l.record ++ wordList l.body RecCopy.words ++ l.guess.words ++ wordList l.bound (fun p => [p.1, p.2])
    ++ wordList l.carry (fun r => [r.word]) ++ [l.iter, l.rounds, l.accepted, l.rejected, l.width] ++ wordList l.strands Strand.words
    ++ optWords l.guessEnd (fun b => [b2n b]) ++ wordList l.commits (fun n => [n]) ++ [b2n l.cancel] ++ optWords l.ending TaskEnd.words

/-! ## The pool section (18 R395) -/

def TaskPhase.code (p : TaskPhase) : Nat :=
  match p with
  | .waiting => 0
  | .ready => 1
  | .running => 2
  | .ending => 3
def taskPhaseOf (n : Nat) : TaskPhase := [TaskPhase.waiting, .ready, .running, .ending].getD n .waiting

/-- The place of a task in a list. -/
def placeOf (ts : List Task) (id : Nat) : Nat := (ts.findIdx? fun t => t.id == id).getD 65535

/-- A task's 64 bytes of state (log entry 33). -/
def Task.stateBytes (t : Task) (ts : List Task) : Nat :=
  let (l, k) := t.strand.getD (0, 0)
  let e := t.endOf
  t.addr + t.count * 2 ^ 64 + t.phase.code * 2 ^ 96 + b2n t.evWait * 2 ^ 98 + b2n t.ending.isSome * 2 ^ 99 + b2n t.strand.isSome * 2 ^ 100
    + b2n t.guessOf.isSome * 2 ^ 101 + k * 2 ^ 102 + b2n t.begun * 2 ^ 111 + placeOf ts (t.guessOf.getD l) * 2 ^ 112 + t.nextBlk * 2 ^ 128 + t.started * 2 ^ 160
    + t.startClk * 2 ^ 192 + e.status * 2 ^ 256 + e.fault * 2 ^ 264 + e.faultPc * 2 ^ 288 + e.faultAddr * 2 ^ 352 + t.detail * 2 ^ 416

/-- The binding map of a task: 3 bits for each entry (15 R333). -/
def Task.bindingMap (t : Task) : Nat :=
  if t.hasBound then ((t.bound.filter fun p => decide (p.1 < 1024)).map fun p => p.2 % 8 * 2 ^ (3 * p.1)).sum else 0

/-- A task's entry. -/
def Task.image (t : Task) (ts : List Task) : List Byte :=
  natBytes 128 t.record ++ (List.range 16).flatMap (fun i => natBytes 32 (t.ops.getD i 0)) ++ natBytes 384 t.bindingMap
    ++ natBytes 64 (t.stateBytes ts)

/-- The early-signal table: an address with its count in each used entry. -/
def earlyImage (early : List Nat) : List Byte :=
  let addrs := early.eraseDups
  addrs.flatMap (fun a => natBytes 8 a ++ natBytes 8 (early.countP (· == a))) ++ List.replicate (16 * (16384 - addrs.length)) 0

/-- The live tasks of a tenant in the order of acceptance, and its loops. -/
def State.tenantTasks (s : State) (tenant : Nat) : List Task := s.tasks.filter fun t => t.tenant == tenant
def State.tenantLoops (s : State) (tenant : Nat) : List Loop := s.loops.filter fun l => l.tenant == tenant

/-- The words behind the event SEQ: the round states, and the successors of every task. -/
def State.poolWords (s : State) (tenant : Nat) : List Nat :=
  let ts := s.tenantTasks tenant
  wordList (s.tenantLoops tenant) (fun l => l.words (placeOf ts l.task))
    ++ ts.flatMap fun t => wordList t.succs (fun a => [a]) ++ wordList t.added fun a => [a]

/-- The pool section. -/
def State.poolImage (s : State) (tenant : Nat) : List Byte :=
  let ts := s.tenantTasks tenant
  pad64 (ts.flatMap (fun t => t.image ts) ++ earlyImage (s.tenant tenant).early ++ natBytes 64 (s.tenant tenant).evSeq
    ++ (s.poolWords tenant).flatMap (natBytes 8))

/-! ## The tensor-ID and counter sections (18 R395, R401) -/

/-- The word of a generation slot. -/
def State.slotWord (s : State) (tenant : Nat) (e : TensorEntry) (i : Nat) : Nat :=
  match e.slots.getD i none with
  | none => 0
  | some g =>
    let cur := e.current == some i
    g.gen + b2n g.valid * 2 ^ 31 + b2n (cur || s.slotHeld tenant e.tid i) * 2 ^ 32 + b2n cur * 2 ^ 33

/-- The tensor-ID section. -/
def State.tidImage (s : State) (tenant : Nat) : List Byte :=
  (List.range 1024).flatMap fun t =>
    let e := (s.tenant tenant).tensor t
    (List.range 8).flatMap fun i => natBytes 8 (s.slotWord tenant e i)

/-- The counter section. -/
def Tenant.counterImage (t : Tenant) : List Byte :=
  (List.range 80).flatMap (fun i => natBytes 2 (t.perfSels.getD i 0)) ++ List.replicate 96 0
    ++ (List.range 16).flatMap (fun i => natBytes 8 (t.perfCore.getD i 0))
    ++ (List.range 4).flatMap fun h => (List.range 64).flatMap fun i => natBytes 8 ((t.perfHub.getD h []).getD i 0)

/-! ## Reading back -/

/-- A reader of words. -/
abbrev Rd (α : Type) := StateT (List Nat) Option α

def rdWord : Rd Nat := fun l => match l with | [] => none | x :: xs => some (x, xs)
def rdBool : Rd Bool := do pure ((← rdWord) != 0)
/-- A value of n words. -/
def rdBig : Nat → Rd Nat
  | 0 => pure 0
  | n + 1 => do
    let x ← rdWord
    let y ← rdBig n
    pure (x + y * 2 ^ 64)
def rdMany {α : Type} (r : Rd α) : Nat → Rd (List α)
  | 0 => pure []
  | n + 1 => do
    let x ← r
    let xs ← rdMany r n
    pure (x :: xs)
def rdList {α : Type} (r : Rd α) : Rd (List α) := do rdMany r (← rdWord)
def rdOpt {α : Type} (r : Rd α) : Rd (Option α) := do
  if ← rdBool then
    let x ← r
    pure (some x)
  else pure none
def rdReg : Rd Reg := do
  let x ← rdWord
  pure (regOf (x % 2 ^ 32) (x / 2 ^ 32))
def rdEnd : Rd TaskEnd := do
  let a ← rdWord
  let b ← rdWord
  let c ← rdWord
  let d ← rdWord
  pure ⟨a, b, c, d⟩
def rdCopy : Rd RecCopy := do
  let a ← rdWord
  let r ← rdBig 16
  let ops ← rdList (rdBig 4)
  let succs ← rdList rdWord
  pure ⟨a, r, ops, succs⟩
def rdPair : Rd (Nat × Nat) := do
  let a ← rdWord
  let b ← rdWord
  pure (a, b)
def rdStrand : Rd Strand := do
  let phase ← rdWord
  let sealedIn ← rdBool
  let sealed_ ← rdBool
  let exit ← rdBool
  let verdict ← rdWord
  let byExit ← rdBool
  let input ← rdList rdReg
  let prod ← rdList rdReg
  let nextSlot ← rdList rdWord
  let tasks ← rdList rdWord
  let fail ← rdOpt rdEnd
  pure { phase := strandPhaseOf phase, input, sealedIn, prod, sealed := sealed_, exit, verdict := verdictOf verdict, writes := []
         reads := [], nextSlot, byExit, tasks, fail }

/-- A loop of a tenant; `ids` are the new names of the tasks by place. -/
def rdLoop (tenant : Nat) (ids : List Nat) : Rd Loop := do
  let place ← rdWord
  let record ← rdBig 16
  let body ← rdList rdCopy
  let guess ← rdCopy
  let bound ← rdList rdPair
  let carry ← rdList rdReg
  let iter ← rdWord
  let rounds ← rdWord
  let accepted ← rdWord
  let rejected ← rdWord
  let width ← rdWord
  let strands ← rdList rdStrand
  let guessEnd ← rdOpt rdBool
  let commits ← rdList rdWord
  let cancel ← rdBool
  let ending ← rdOpt rdEnd
  pure { task := ids.getD place 0, tenant, record, body, guess, bound, carry, iter, rounds, accepted, rejected, width, strands, guessEnd, commits
         cancel, ending, hold := false }

/-- The words of a byte list. -/
def wordsOf (n : Nat) (bs : List Byte) : List Nat := (List.range n).map fun i => bytesAt bs (8 * i) 8

/-- A task of an entry, with a new name, its slice and its place in the order; its successors come later. -/
def taskOfImage (bs : List Byte) (tenant id slice seq clock : Nat) (ids : List Nat) : Task :=
  let record := bytesAt bs 0 128
  let x := bytesAt bs 1024 64
  let phase := taskPhaseOf (fld x 97 96)
  let owner := ids.getD (fld x 127 112) 0
  let n := fld record 207 192
  { id, tenant, addr := fld x 63 0, record, ops := (List.range n).map (fun i => bytesAt bs (128 + 32 * i) 32), succs := [], added := [], slice
    seq, count := fld x 95 64, evWait := bit x 98, waitsOn := [], phase, readyAt := clock, nextBlk := fld x 159 128, started := fld x 191 160
    startClk := fld x 255 192
    ending := if bit x 99 then some ⟨fld x 263 256, fld x 279 264, fld x 351 288, fld x 415 352⟩ else none
    aborting := false, detail := fld x 479 416, pending := []
    bound := (List.range 1024).filterMap fun t =>
      let v := bytesAt bs 640 384 / 2 ^ (3 * t) % 8
      if v == 0 then none else some (t, v)
    dieOf := 2 * slice
    strand := if bit x 100 then some (owner, fld x 105 102) else none
    guessOf := if bit x 101 then some owner else none, hdrWait := none, gang := none, begun := bit x 111, saved := 0 }

/-- The early signals of a table. -/
def earlyOfImage (bs : List Byte) : List Nat :=
  (List.range 16384).flatMap fun i => List.replicate (bytesAt bs (16 * i + 8) 8) (bytesAt bs (16 * i) 8)

/-- A generation slot of a word, with its record. -/
def tensorGenOf (x record : Nat) : Option TensorGen := if bit x 32 then some ⟨fld x 30 0, bit x 31, record⟩ else none

/-- A tensor entry of its eight words; `rec_` reads the table area. -/
def tensorEntryOf (tid : Nat) (ws : List Nat) (rec_ : Nat → Nat) : TensorEntry :=
  let cur := (List.range 8).find? fun i => bit (ws.getD i 0) 33
  { tid, slots := ws.mapIdx fun i x => tensorGenOf x (rec_ i), current := cur, lastGen := (cur.map fun i => fld (ws.getD i 0) 30 0).getD 0 }

/-- The batch number before a counter's value. -/
def prevBatch (n : Nat) : Nat := if n ≤ 1 then 0 else n - 1

/-- A thread of a lane record. `rst` is the restart address, 1 for none (18 R396). -/
def threadOfImage (x ltid rst : Nat) (regs : List Reg) : Thread :=
  let pc := BitVec.ofNat 60 (if rst == 1 then fld x 63 0 else rst)
  let status : TStatus :=
    if bit x 240 then .exited
    else if rst != 1 then .run
    else if bit x 64 then .waiting (.barrier (fld x 95 85) (BitVec.ofNat 32 (fld x 127 96)) true) pc
    else if bit x 241 then .replay else .run
  { ltid, regs, preds := BitVec.ofNat 7 (fld x 239 233), pc, trapinfo := BitVec.ofNat 32 (fld x 159 128), status, turns := 0
    retry := rst == 1 && bit x 241, stopped := false, again := false, inst := none, redo := none, watch := none
    batch := fld x 191 160, openLeft := 0, openSize := fld x 232 224, sealed := []
    lastSeal := prevBatch (fld x 191 160), doneUpTo := prevBatch (fld x 191 160), copyErr := fld x 223 192 }

/-- A wave of its record; `threads` is the block's thread count. -/
def waveOfImage (bs : List Byte) (ten : Tenant) (threads rst : Nat) : Wave :=
  let allot := bytesAt bs 0x124 4
  let frame := bytesAt bs 0x12C 4
  let index := bytesAt bs 0x130 4
  let cell := fun (l r : Nat) => regOf (bytesAt bs (0x540 + 4 * (32 * r + l)) 4) (nibbleAt (bs.drop (0x540 + 128 * allot)) (32 * r + l))
  { ref := ⟨0, 0⟩, block := 0, index, allot
    sregs := (List.range 64).map fun k => regOf (bytesAt bs (4 * k) 4) (nibbleAt (bs.drop 0x100) k)
    fstat := BitVec.ofNat 32 (bytesAt bs 0x120 4), safeCnt := 0, frame := if frame == noFrame then none else some frame
    root := ten.root, priv := ten.priv, privsz := ten.privsz
    threads := (List.range (min 32 (threads - 32 * index))).map fun l =>
      threadOfImage (bytesAt bs (0x140 + 32 * l) 32) (32 * index + l) rst ((List.range allot).map (cell l)) }

/-- The wave records of a block, one after another. -/
def wavesOfImage (ten : Tenant) (threads rst : Nat) : (n : Nat) → List Byte → List Wave
  | 0, _ => []
  | n + 1, bs => waveOfImage bs ten threads rst :: wavesOfImage ten threads rst n (bs.drop (waveBytes (bytesAt bs 0x124 4)))

/-- Memory of a byte list from address 0. -/
def memoryOf (bs : List Byte) : Memory := Memory.writeBytes [] 0 bs

/-- A block of its record, for a task; `hdr` is its kernel header (18 R396). -/
def blockOfImage (bs : List Byte) (ten : Tenant) (t : Task) (hdr : Nat) : RestBlock :=
  let h := bytesAt bs 0 128
  let n := fld h 623 608
  let bars := 128 + 64 * ceilDiv (8 * n) 64
  let len := fld h 671 640
  let rst := fld h 895 832
  let threads := fld h 591 576
  { block :=
      { id := 0, task := t.id, blockId := fld h 831 800, core := 0, threads, scratchLen := len, safeDist := hdrSafeDist hdr
        clusterWin := hdrClusterWin hdr, scratch := memoryOf ((bs.drop bars).take len), scratchBad := []
        barriers := (List.range n).map fun i => barrierOfImage (bytesAt bs (128 + 8 * i) 8)
        accRows := List.replicate (fld h 607 592) ⟨0, List.replicate 256 0⟩, nextTicket := fld h 799 768, opCodes := []
        cancelLo := fld h 735 704, cancelHi := fld h 767 736, saveLo := 0, saveHi := 0, slots := []
        rstpc := rst, header := fld h 959 896, restarts := 0, restarting := 0
        strand := t.strand, guessOf := t.guessOf }
    waves := wavesOfImage ten threads rst (fld h 639 624) (bs.drop (bars + len)) }

/-! ## Reserved fields of an image (18 R396) -/

/-- A reserved field of a lane record that is not zero: its own and those of TRAPINFO (17 R369, 18 R393). -/
def laneReserved (x : Nat) : Bool := fld x 255 242 != 0 || fld x 84 65 != 0 || bit x 150 || fld x 143 138 != 0

/-- A reserved field of a wave record that is not zero: its own, those of FSTAT and those of its lanes (01 R27, 18 R393). -/
def waveReserved (w : List Byte) : Bool :=
  let fstat := bytesAt w 0x120 4
  bytesAt w 0x134 12 != 0 || fld fstat 31 9 != 0 || bit fstat 5 || (List.range 32).any fun l => laneReserved (bytesAt w (0x140 + 32 * l) 32)

/-- A reserved field of the wave records of a block that is not zero. -/
def wavesReserved : Nat → List Byte → Bool
  | 0, _ => false
  | k + 1, w => waveReserved w || wavesReserved k (w.drop (waveBytes (bytesAt w 0x124 4)))

/-- A reserved field of a block record that is not zero (07 R171; 18 R392, R393). -/
def blockReserved (bs : List Byte) : Bool :=
  let h := bytesAt bs 0 128
  let n := fld h 623 608
  fld h 575 0 != 0
    || ((List.range n).any fun i => fld (bytesAt bs (128 + 8 * i) 8) 7 1 != 0)
    || wavesReserved (fld h 639 624) (bs.drop (128 + 64 * ceilDiv (8 * n) 64 + fld h 671 640))

/-- A reserved field of a task's entry that is not zero: of its record or of an operand (06 R147, R148). -/
def taskReserved (bs : List Byte) : Bool :=
  let r := bytesAt bs 0 128
  fld r 1023 640 != 0 || fld r 191 176 != 0 || fld r 63 38 != 0 || fld r 30 29 != 0
    || (List.range 16).any fun i => fld (bytesAt bs (128 + 32 * i) 32) 255 252 != 0

/-- Bits above CURRENT of a slot word of the tensor-ID section that are not zero (18 R395). -/
def slotsReserved (bs : List Byte) : Bool := (List.range 8192).any fun i => fld (bytesAt bs (8 * i) 8) 63 34 != 0

end Sys2Proof.Machine
end

