-- ==== Sys2Proof/Machine/Array.lean ====
section
/-! DEFINITION. The arithmetic of the matrix engine: the array form, the exact band sums with their check, promotion, the sum in
ascending K, and the accumulator store's conversions (02 R57-R60; 08 R184-R193, R208-R210; 15 R357, R358). -/
namespace Sys2Proof.Machine

/-! ## Format classes (02 R58, 08 R185) -/

/-- The format classes. -/
inductive ArrCls where
  | bf16 | bit8 | int8 | fp4
  deriving DecidableEq, Repr

/-- Elements per cell. -/
def ArrCls.n (c : ArrCls) : Nat :=
  match c with
  | .bf16 => 1
  | .bit8 => 2
  | .int8 => 2
  | .fp4 => 4

/-- KIND of the results: 0 F32, 1 I32. -/
def ArrCls.kind (c : ArrCls) : Nat := if c == .int8 then 1 else 0

/-- A format as the array takes it: its class, its element format (none for INT8), the array width, and the bits of an element. -/
structure ArrFmt where
  cls  : ArrCls
  fmt  : Option Fmt
  w    : Nat
  bits : Nat
  deriving DecidableEq, Repr

/-- The array's reading of a record's FMT. -/
def arrFmt (f : Nat) : Option ArrFmt :=
  match f with
  | 3 => some ⟨.bf16, some fmtBF16, 16, 16⟩
  | 5 | 12 => some ⟨.bit8, some fmtE4M3, 12, 8⟩
  | 6 | 13 => some ⟨.bit8, some fmtE5M2, 12, 8⟩
  | 7 | 14 => some ⟨.bit8, some fmtE3M2, 12, 6⟩
  | 8 | 15 => some ⟨.fp4, some fmtE2M1, 5, 4⟩
  | 9 => some ⟨.int8, none, 8, 8⟩
  | _ => none

/-- The record FMT that MSTRM's IFMT stands for (08 R208). -/
def ifmtRec (i : Nat) : Option Nat :=
  match i with
  | 3 => some 3
  | 5 => some 5
  | 6 => some 6
  | 7 => some 7
  | 8 => some 8
  | 9 => some 9
  | _ => none

/-- SC10 of 1.0, the scale of a plain format. -/
def scOne : Nat := 0x1FC

/-! ## Array form (02 R57) -/

/-- The value of an element code. -/
def ArrFmt.value (f : ArrFmt) (code : Nat) : FVal :=
  match f.fmt with
  | some fm => fm.value code
  | none => intVal (sextN code 8) 0

/-- The exponent of a finite nonzero value. -/
def finExp (v : FVal) : Option Int :=
  match v with
  | .fin _ m e => if m == 0 then none else some ((Nat.log2 m : Int) + e)
  | _ => none

/-- The largest of some integers, 0 for none. -/
def maxInt (l : List Int) : Int :=
  match l with
  | [] => 0
  | x :: xs => xs.foldl max x

/-- The integers of a band-block and its shared exponent. -/
def arrForm (f : ArrFmt) (codes : List Nat) : List Int × Int :=
  match f.fmt with
  | none => (codes.map fun c => sextN c 8, 0)
  | some _ =>
    let vs := codes.map f.value
    let e := maxInt (vs.filterMap finExp)
    (vs.map fun v => match v with
      | .fin s m x => if m == 0 then 0 else (roundInt .rne s m (x + (f.w : Int) - 2 - e)).1
      | _ => 0, e)

/-! ## The band sum (08 R187) -/

/-- Σ x² of integers: RA and CB. -/
def sumSq (l : List Int) : Int := (l.map fun x => x * x).sum

/-- D = S - RA - CB; `bad` is an error of a cell, the chain or the correction register. -/
def bandD (α β : List Int) (cb : Int) (bad : Bool) : Int :=
  (List.zipWith (fun a b => (a + b) * (a + b)) α β).sum + (if bad then 1 else 0) - sumSq α - cb

/-! ## Specials and promotion (02 R59, 08 R189) -/

/-- A zero value. -/
def FVal.isZero (v : FVal) : Bool :=
  match v with
  | .fin _ m _ => m == 0
  | _ => false

/-- An infinite value. -/
def FVal.isInf (v : FVal) : Bool :=
  match v with
  | .inf _ => true
  | _ => false

/-- The NaN or infinity that a band-block product gives, with its condition; none where the integer sum stands. -/
def bandSpecial (xs ys : List FVal) : Option (FVal × Flags) :=
  let ps := List.zip xs ys
  let nan := ps.any fun (x, y) => x.isNan || y.isNan
  let infZero := ps.any fun (x, y) => (x.isInf && y.isZero) || (y.isInf && x.isZero)
  if nan || infZero then
    some (.nan false, flagIf (infZero || ps.any fun (x, y) => x.isSnan || y.isSnan) fNV)
  else
    let signs := (ps.filter fun (x, y) => x.isInf || y.isInf).map fun (x, y) => x.sign != y.sign
    match signs with
    | [] => none
    | s :: rest => if rest.all (· == s) then some (.inf s, 0) else some (.nan false, fNV)

/-- What multiplies a band-block's sum: the scales of both operands and the tensor scales. -/
structure Scales where
  scA  : Nat
  scB  : Nat
  tauA : Nat
  tauB : Nat
  deriving DecidableEq, Repr

/-- The value of a band-block from its sum P and the exponent of its unit (08 R189). -/
def promote (p : Int) (unit : Int) (sp : Option (FVal × Flags)) (k : Scales) : Nat × Flags :=
  let f := fmtF32
  let ta := f.value k.tauA
  let tb := f.value k.tauB
  let fl := (sp.map (·.2)).getD 0
  match sc10Value k.scA, sc10Value k.scB with
  | some (ka, ea), some (kb, eb) =>
    if ta.isNan || tb.isNan then (f.nanCode, fl)
    else
      let neg := ta.sign != tb.sign
      let zero := ta.isZero || tb.isZero
      match sp with
      | some (.inf s, _) => if zero then (f.nanCode, fl ||| fNV) else (f.infCode (s != neg), fl)
      | some _ => (f.nanCode, fl)
      | none =>
        if ta.isInf || tb.isInf then
          if p == 0 then (f.nanCode, fNV) else (f.infCode (decide (p < 0) != neg), 0)
        else
          match ta, tb with
          | .fin _ ma xa, .fin _ mb xb =>
            roundVal f .rne false (.fin (decide (p < 0) != neg) (p.natAbs * ka * kb * ma * mb) (unit + ea + eb + xa + xb))
          | _, _ => (f.nanCode, fl)
  | _, _ => (f.nanCode, fl)

/-! ## A row against a plane (08 R187-R190) -/

/-- A band-block of an A row in the forms that the cells and the promotion use. -/
structure ArrBand where
  vals : List FVal
  ints : List Int
  e    : Int
  scale : Nat
  deriving DecidableEq, Repr

def arrBand (f : ArrFmt) (b : BandBlock) : ArrBand :=
  let (m, e) := arrForm f b.codes
  ⟨b.codes.map f.value, m, e, b.scale⟩

/-- The column correction of a band-block (08 R187). -/
def colCorr (f : ArrFmt) (b : BandBlock) : Nat := (sumSq (arrForm f b.codes).1).toNat

/-- What a streamed row gives: for each column its value (an integer for INT8, a code otherwise), the conditions, and the band
and column whose check failed. -/
structure RowOut where
  vals   : List Int
  flags  : Flags
  parity : Option (Nat × Nat)
  deriving DecidableEq, Repr

/-- F32 addition and multiplication, rounded to nearest even. -/
def addF32 (a b : Nat) : Nat × Flags := finish fmtF32 .rne false (addVal .rne (fmtF32.value a) (fmtF32.value b))
def mulF32 (a b : Nat) : Nat × Flags := finish fmtF32 .rne false (mulVal (fmtF32.value a) (fmtF32.value b))

/-- One column: its band-blocks in ascending order. `bad` names the band whose cell or chain is in error. -/
def arrColumn (fa fb : ArrFmt) (tauA tauB : Nat) (bad : Option Nat) (row : List ArrBand) (col : List (BandBlock × Nat)) :
    Int × Flags × Option Nat :=
  let n := fb.cls.n
  let step := fun (acc : Int × Flags × Option Nat) (x : Nat × ArrBand × BandBlock × Nat) =>
    let (s, fl, par) := acc
    let (blk, a, b, cb) := x
    let bb := arrBand fb b
    let d := bandD a.ints bb.ints (cb : Int) (bad == some (blk / n) && blk % n == 0)
    let par := if d % 2 != 0 && par.isNone then some (blk / n) else par
    if fb.cls == .int8 then (s + d / 2, fl, par)
    else
      let (v, f1) := promote (d / 2) (a.e + 2 - fa.w + bb.e + 2 - fb.w) (bandSpecial a.vals bb.vals) ⟨a.scale, bb.scale, tauA, tauB⟩
      let (s, f2) := if blk == 0 then (v, 0) else addF32 s.toNat v
      ((s : Int), fl ||| f1 ||| f2, par)
  (List.zip (List.range row.length) (List.zip row col)).foldl step (0, 0, none)

/-- One row of A against a plane's columns. -/
def arrRow (fa fb : ArrFmt) (tauA tauB : Nat) (bad : Option (Nat × Nat)) (row : List BandBlock) (cols : List (List (BandBlock × Nat))) :
    RowOut :=
  let r := row.map (arrBand fa)
  let outs := cols.mapIdx fun j col =>
    arrColumn fa fb tauA tauB (match bad with | some (b, c) => if c == j then some b else none | none => none) r col
  { vals := outs.map (·.1), flags := outs.foldl (fun f o => f ||| o.2.1) 0
    parity := (List.zip (List.range outs.length) outs).findSome? fun (j, o) => o.2.2.map fun b => (b, j) }

/-- A plane's columns with their corrections. -/
def Plane.pairs (p : Plane) : List (List (BandBlock × Nat)) := List.zipWith List.zip p.cols p.cb

/-- A plane's columns with the K-elements from `cut` on taken as +0 (15 R357). -/
def Plane.masked (p : Plane) (f : ArrFmt) (cut : Nat) : List (List (BandBlock × Nat)) :=
  if 256 * f.cls.n ≤ cut then p.pairs
  else
    p.cols.map fun col =>
      (col.mapIdx fun blk b => { b with codes := b.codes.mapIdx fun k c => if 32 * blk + k < cut then c else 0 }).map fun b =>
        (b, colCorr f b)

/-! ## The accumulator store (08 R190, R193, R209-R212) -/

/-- Row values put into an accumulator row (08 R190). -/
def AccRow.accumulate (r : AccRow) (int8 accum : Bool) (vals : List Int) : AccRow × Flags :=
  let cells := List.zipWith (fun (w : Word) (v : Int) =>
    if int8 then
      let y := if accum then w.toInt + v else v
      let z := satI y (-2147483648) 2147483647
      (BitVec.ofInt 32 z, flagIf (y != z) fACCSAT)
    else if accum then let (x, f) := addF32 w.toNat v.toNat; (BitVec.ofNat 32 x, f)
    else (BitVec.ofInt 32 v, 0)) r.words vals
  (⟨if int8 then 1 else 0, cells.map (·.1)⟩, cells.foldl (fun f c => f ||| c.2) 0)

/-- A row of zeros of a kind. -/
def accZero (kind : Nat) : AccRow := ⟨kind, List.replicate 256 0⟩

/-- Kind of row that an OFMT drains, for MDRN; none where it fails with FMT (08 R209). -/
def drainKind (ofmt : Nat) : Option Nat :=
  match ofmt with
  | 2 | 3 | 4 | 5 => some 0
  | 0 | 9 => some 1
  | _ => none

/-- Bytes of a drained row. -/
def drainBytes (ofmt : Nat) : Nat :=
  match ofmt with
  | 3 | 4 => 512
  | 5 | 9 => 256
  | _ => 1024

/-- One word of a row as OFMT holds it: its bytes and conditions (08 R209, R210). -/
def drainWord (ofmt : Nat) (w : Word) : List Byte × Flags :=
  match ofmt with
  | 3 => let (c, f) := narrowVal fmtBF16 .rne true false (fmtF32.value w.toNat); (natBytes 2 c, f)
  | 4 => let (c, f) := narrowVal fmtF16 .rne true false (fmtF32.value w.toNat); (natBytes 2 c, f)
  | 5 => let (c, f) := narrowVal fmtE4M3 .rne true false (fmtF32.value w.toNat); (natBytes 1 c, f)
  | 9 => let z := satI w.toInt (-128) 127; (natBytes 1 (wrapN z 8), flagIf (z != w.toInt) fSAT)
  | _ => (natBytes 4 w.toNat, 0)

/-- A row as OFMT holds it. -/
def AccRow.drain (r : AccRow) (ofmt : Nat) : List Byte × Flags :=
  let ws := r.words.map (drainWord ofmt)
  (ws.flatMap (·.1), ws.foldl (fun f w => f ||| w.2) 0)

/-- A code of F32 with a NaN made canonical. -/
def canonF32 (c : Nat) : Nat := if (fmtF32.value c).isNan then fmtF32.nanCode else c

/-- Bytes of a row that ACCLD reads, and what it holds then (08 R210). -/
def loadBytes (ifmt : Nat) : Nat := if ifmt == 3 then 512 else 1024
def AccRow.ofBytes (ifmt : Nat) (bs : List Byte) : AccRow :=
  let word := fun (i : Nat) =>
    match ifmt with
    | 0 => leNat ((bs.drop (4 * i)).take 4)
    | 3 => canonF32 (leNat ((bs.drop (2 * i)).take 2) * 2 ^ 16)
    | _ => canonF32 (leNat ((bs.drop (4 * i)).take 4))
  ⟨if ifmt == 0 then 1 else 0, (List.range 256).map fun i => BitVec.ofNat 32 (word i)⟩

/-- A row multiplied by an F32 (08 R212). -/
def AccRow.scale (r : AccRow) (c : Nat) : AccRow × Flags :=
  let ws := r.words.map fun w => mulF32 w.toNat c
  ({ r with words := ws.map fun w => BitVec.ofNat 32 w.1 }, ws.foldl (fun f w => f ||| w.2) 0)

/-! ## Attention and merges (15 R357, R358) -/

/-- F32 -Inf and 1.0. -/
def f32NegInf : Nat := 0xFF800000
def f32One : Nat := 0x3F800000

/-- The larger of two codes (05 R125), the difference, and the Brim's exp2 (02 R62). -/
def maxF32 (a b : Nat) : Nat × Flags := minMaxCode fmtF32 true false a b
def subF32 (a b : Nat) : Nat × Flags := finish fmtF32 .rne false (addVal .rne (fmtF32.value a) (fmtF32.value b).neg)
def exp2F32 (a : Nat) : Nat × Flags := fexp2Code false a

/-- m, l and O of one query row. -/
structure AttnRow where
  m : Nat
  l : Nat
  o : List Word
  deriving DecidableEq, Repr

/-- Scores of a chunk turned into p: the row's state before the V pass, p as BF16 codes (none where the chunk is skipped), and the
conditions. `key` says whether key k of the chunk is kept (15 R357). -/
def attnScores (scale : Nat) (key : Nat → Bool) (dHead : Nat) (r : AttnRow) (s : List Int) : AttnRow × Option (List Word) × Flags :=
  let ts := s.mapIdx fun k x => let (t, f) := mulF32 x.toNat scale; (if key k then t else f32NegInf, f)
  let fl := ts.foldl (fun f t => f ||| t.2) 0
  let (mn, fl) := ts.foldl (fun (m, f) t => let (m, g) := maxF32 m t.1; (m, f ||| g)) (r.m, fl)
  if mn == f32NegInf then (r, none, fl)
  else
    let (d, f1) := subF32 r.m mn
    let (a, f2) := exp2F32 d
    let ps := ts.map fun t => let (d, f) := subF32 t.1 mn; let (e, g) := exp2F32 d; (e, f ||| g)
    let (lc, f3) := ps.foldl (fun (x, f) p => let (y, g) := addF32 x p.1; (y, f ||| g ||| p.2)) (0, (0 : Flags))
    let (la, f4) := mulF32 r.l a
    let (l, f5) := addF32 la lc
    let os := r.o.mapIdx fun j w =>
      if j < dHead then let (x, f) := mulF32 w.toNat a; (BitVec.ofNat 32 x, f) else (w, (0 : Flags))
    let qs := ps.map fun p => roundVal fmtBF16 .rne false (fmtF32.value p.1)
    (⟨mn, l, os.map (·.1)⟩, some (qs.map fun q => BitVec.ofNat 32 q.1),
     fl ||| f1 ||| f2 ||| f3 ||| f4 ||| f5 ||| os.foldl (fun f o => f ||| o.2) 0 ||| qs.foldl (fun f q => f ||| q.2) 0)

/-- P·V added into O (15 R357). -/
def attnAdd (dHead : Nat) (o : List Word) (vals : List Int) : List Word × Flags :=
  let os := o.mapIdx fun j w => if j < dHead then let (x, f) := addF32 w.toNat (vals.getD j 0).toNat; (BitVec.ofNat 32 x, f) else (w, (0 : Flags))
  (os.map (·.1), os.foldl (fun f x => f ||| x.2) 0)

/-- A partial state folded into a row (15 R358). -/
def mergeRow (dHead : Nat) (r p : AttnRow) : AttnRow × Flags :=
  let (mn, f0) := maxF32 r.m p.m
  let ((a, fa), (b, fb)) :=
    if mn == f32NegInf then ((f32One, (0 : Flags)), (f32One, (0 : Flags)))
    else
      let (x, f) := subF32 r.m mn
      let (y, g) := subF32 p.m mn
      let (ex, f') := exp2F32 x
      let (ey, g') := exp2F32 y
      ((ex, f ||| f'), (ey, g ||| g'))
  let mix := fun (x y : Nat) =>
    let (u, f) := mulF32 x a
    let (v, g) := mulF32 y b
    let (w, h) := addF32 u v
    (w, f ||| g ||| h)
  let (l, fl) := mix r.l p.l
  let os := r.o.mapIdx fun j w =>
    if j < dHead then let (x, f) := mix w.toNat (p.o.getD j 0).toNat; (BitVec.ofNat 32 x, f) else (w, (0 : Flags))
  (⟨mn, l, os.map (·.1)⟩, f0 ||| fa ||| fb ||| fl ||| os.foldl (fun f x => f ||| x.2) 0)

end Sys2Proof.Machine
end

