-- ==== Sys2Proof/Machine/Matrix.lean ====
section
/-! DEFINITION. The matrix engine: parameter blocks, postings and the reservation table, planes, runs, the operations on the
accumulator store, ATTN and ACCMRG, and completion (08 R193-R216, 15 R356-R360). -/
namespace Sys2Proof.Machine

/-! ## Parameter blocks (08 R202, 15 R356) -/

def pbContrib (p : Nat) : Nat := fld p 479 464
def pbSwOff (p : Nat) : Nat := fld p 447 416
def pbSpOff (p : Nat) : Nat := fld p 415 384
def pbSpStride (p : Nat) : Nat := fld p 383 368
def pbMemVa (p : Nat) : Nat := fld p 319 256
def pbMemStride (p : Nat) : Nat := fld p 255 224
def pbBatch (p : Nat) : Nat := fld p 223 200
def pbN0 (p : Nat) : Nat := fld p 199 176
def pbK0 (p : Nat) : Nat := fld p 175 152
def pbM0 (p : Nat) : Nat := fld p 151 128
def pbRows (p : Nat) : Nat := fld p 127 112
def pbAcc0 (p : Nat) : Nat := fld p 111 96
def pbATid (p : Nat) : Nat := fld p 95 86
def pbBTid (p : Nat) : Nat := fld p 85 76
def pbOfmt (p : Nat) : Nat := fld p 75 72
def pbIfmt (p : Nat) : Nat := fld p 71 68
def pbAscl (p : Nat) : Bool := bit p 67
def pbPrio (p : Nat) : Nat := fld p 66 65
def pbSwEn (p : Nat) : Bool := bit p 64
def pbAccum (p : Nat) : Bool := bit p 63
def pbClr (p : Nat) : Bool := bit p 62
/-- Fields of ATTN and ACCMRG. -/
def pbDHead (p : Nat) : Nat := fld p 367 352
def pbARows (p : Nat) : Nat := fld p 351 336
def pbKv0 (p : Nat) : Nat := fld p 319 296
def pbNkeys (p : Nat) : Nat := fld p 295 272
def pbABatch (p : Nat) : Nat := fld p 271 248
def pbQpos0 (p : Nat) : Nat := fld p 247 224
def pbScale (p : Nat) : Nat := fld p 223 192
def pbAAcc0 (p : Nat) : Nat := fld p 191 176
def pbMl (p : Nat) : Nat := fld p 175 160
def pbKTid (p : Nat) : Nat := fld p 159 150
def pbVTid (p : Nat) : Nat := fld p 149 140
def pbInit (p : Nat) : Bool := bit p 63
def pbCausal (p : Nat) : Bool := bit p 62
def pbMOff (p : Nat) : Nat := fld p 319 288
def pbLOff (p : Nat) : Nat := fld p 287 256

/-- First row, rows and value of an operation without a parameter block (08 R211, R212). -/
def pbPlain (a b v : Nat) : Nat := a + b * 2 ^ 32 + v * 2 ^ 64
def MatOp.plainRow (o : MatOp) : Nat := fld o.pb 31 0
def MatOp.plainRows (o : MatOp) : Nat := fld o.pb 63 32
def MatOp.plainVal (o : MatOp) : Nat := fld o.pb 95 64

/-- Passes: operations that stream rows against the plane of their parameter block. -/
def MatKind.isPass (k : MatKind) : Bool := k == .mpass || k == .mstrm
/-- Operations that name planes. -/
def MatKind.usesPlane (k : MatKind) : Bool := k == .mlds || k.isPass || k == .attn

/-- The ranges of accumulator rows that an operation touches: first row and count (08 R200, 15 R356). -/
def MatOp.ranges (o : MatOp) : List (Nat × Nat) :=
  match o.kind with
  | .mlds => []
  | .mzro => [(o.plainRow, o.plainRows)]
  | .accsc => [(o.plainRow, o.plainRows)]
  | .attn => [(pbAAcc0 o.pb, pbARows o.pb), (pbMl o.pb, 2)]
  | .accmrg => [(pbAAcc0 o.pb, pbARows o.pb), (pbMl o.pb, 2)]
  | .mpass => [(pbAcc0 o.pb, pbRows o.pb)]
  | .mstrm => [(pbAcc0 o.pb, pbRows o.pb)]
  | .mdrn => [(pbAcc0 o.pb, pbRows o.pb)]
  | .accld => [(pbAcc0 o.pb, pbRows o.pb)]
  | .accst => [(pbAcc0 o.pb, pbRows o.pb)]

/-- Rows that an operation works through. -/
def MatOp.rowCount (o : MatOp) : Nat :=
  match o.kind with
  | .mlds => 0
  | .mzro => o.plainRows
  | .accsc => o.plainRows
  | .attn => pbARows o.pb
  | .accmrg => pbARows o.pb
  | _ => pbRows o.pb

/-- Two lists of ranges share a row. -/
def rangesMeet (xs ys : List (Nat × Nat)) : Bool :=
  xs.any fun (a, n) => ys.any fun (b, m) => n != 0 && m != 0 && decide (a < b + m) && decide (b < a + n)

/-- The record of a snapshot's array format. -/
def snapFmt (x : Option Snap) : Option ArrFmt := (x.bind Snap.record).bind fun r => arrFmt (recFmt r)
def snapRec (x : Option Snap) : Nat := (x.bind Snap.record).getD 0

/-- The array format of an operation's A rows. -/
def MatOp.fmtA (o : MatOp) : Option ArrFmt :=
  match o.kind with
  | .mstrm => (ifmtRec (pbIfmt o.pb)).bind arrFmt
  | .mpass => snapFmt o.snapA
  | _ => arrFmt 3

/-- Bytes of an MSTRM row's elements, and of the row with its scale words (08 R208). -/
def strmElems (f : ArrFmt) : Nat := 32 * f.cls.n * f.bits
def strmBytes (f : ArrFmt) (ascl : Bool) : Nat := strmElems f + if ascl then 4 * ceilDiv (8 * f.cls.n) 3 else 0

/-! ## The checks at posting (08 R194, R203; 15 R356) -/

/-- FMT. -/
def MatOp.fmtBad (o : MatOp) : Bool :=
  match o.kind with
  | .mlds => (snapFmt o.snapB).isNone
  | .mpass => (snapFmt o.snapB).isNone || (snapFmt o.snapA).map ArrFmt.cls != (snapFmt o.snapB).map ArrFmt.cls
  | .mstrm => (snapFmt o.snapB).isNone || o.fmtA.map ArrFmt.cls != (snapFmt o.snapB).map ArrFmt.cls
  | .mdrn => (drainKind (pbOfmt o.pb)).isNone
  | .accld => !(pbIfmt o.pb == 0 || pbIfmt o.pb == 2 || pbIfmt o.pb == 3)
  | .accst => !(pbOfmt o.pb == 0 || pbOfmt o.pb == 2 || pbOfmt o.pb == 3)
  | .attn => (o.snapA.bind Snap.record).map recFmt != some 3 || (o.snapB.bind Snap.record).map recFmt != some 3
  | _ => false

/-- n rows of len bytes at a stride end beyond a scratchpad of `size` bytes. -/
def rowsBeyond (size off stride n len : Nat) : Bool := n != 0 && decide (size < off + (n - 1) * stride + len)

/-- RANGE. -/
def MatOp.rangeBad (o : MatOp) (accRows size : Nat) : Bool :=
  let p := o.pb
  (o.kind != .mzro || o.plainRows != 0) && (o.ranges.any fun (a, n) => decide (accRows < a + n))
    || (match o.kind with
        | .mstrm => match o.fmtA with
          | some f => rowsBeyond size (pbSpOff p) (pbSpStride p) (pbRows p) (strmBytes f (pbAscl p))
          | none => false
        | .mdrn => rowsBeyond size (pbSpOff p) (pbSpStride p) (pbRows p) (drainBytes (pbOfmt p))
        | .attn => rowsBeyond size (pbSpOff p) (pbSpStride p) (pbARows p) (2 * pbDHead p)
        | .accmrg => rowsBeyond size (pbSpOff p) (pbSpStride p) (pbARows p) (4 * pbDHead p)
            || decide (size < pbMOff p + 4 * pbARows p) || decide (size < pbLOff p + 4 * pbARows p)
        | _ => false)

/-- FIELD. -/
def MatOp.fieldBad (o : MatOp) (size : Nat) : Bool :=
  let p := o.pb
  if !o.kind.hasBlock then false
  else
    let sw := fld p 463 448 != 0 || pbSwOff p % 16 != 0 || decide (size < pbSwOff p + 16)
    let plain := fld p 367 320 != 0 || fld p 61 0 != 0
    let k0 := pbK0 p % 32 != 0
    let sp := pbSpOff p % 16 != 0 || pbSpStride p % 16 != 0
    let mem := pbMemVa p % 64 != 0 || pbMemStride p % 64 != 0
    let head := decide (pbDHead p < 1) || decide (256 < pbDHead p) || decide (pbARows p < 1) || decide (256 < pbARows p)
      || rangesMeet [(pbAAcc0 p, pbARows p)] [(pbMl p, 2)] || fld p 335 320 != 0 || fld p 61 0 != 0
    sw || (match o.kind with
      | .mlds => plain || k0
      | .mpass => plain || k0
      | .mstrm => plain || k0 || sp || (match o.fmtA with | some f => decide (pbSpStride p < strmBytes f (pbAscl p)) | none => false)
      | .mdrn => plain || sp
      | .accld => plain || mem
      | .accst => plain || mem
      | .attn => head || sp || pbKv0 p % 32 != 0 || decide (pbSpStride p < 2 * pbDHead p) || fld p 139 67 != 0
      | .accmrg => head || sp || decide (pbSpStride p < 4 * pbDHead p) || pbMOff p % 4 != 0 || pbLOff p % 4 != 0
          || fld p 255 192 != 0 || fld p 159 67 != 0 || bit p 62
      | _ => false)

/-- The code that an operation fails with at posting, 0 for none. -/
def MatOp.postCode (o : MatOp) (accRows size : Nat) : Nat :=
  if o.fmtBad then 2 else if o.rangeBad accRows size then 3 else if o.fieldBad size then 4 else 0

/-! ## Posting (08 R196, R199, R207) -/

/-- The ticket after a ticket. -/
def nextTicketOf (n : Nat) : Nat := if (n + 1) % 2 ^ 32 == 0 then 1 else (n + 1) % 2 ^ 32

/-- The tensor IDs that an operation names: A and B, or K and V. -/
def MatKind.tids (k : MatKind) (p : Nat) : Option Nat × Option Nat :=
  match k with
  | .mlds => (none, some (pbBTid p))
  | .mstrm => (none, some (pbBTid p))
  | .mpass => (some (pbATid p), some (pbBTid p))
  | .attn => (some (pbKTid p), some (pbVTid p))
  | _ => (none, none)

/-- An operation posted by a lane: it waits for an entry, takes its snapshot and a ticket (08 R207). -/
def postMat (x : Dev) (c : LaneCtx) (kind : MatKind) (off pb : Nat) : Op LaneRes := do
  let s ← get
  let core := c.wave.ref.core
  if 16 ≤ (s.mats.filter fun o => o.by_.core == core).length then throw (.hold (.posting core))
  if kind == .accst then awaitHead (s.self c.ref).strand
  let s ← get
  match s.blockOf c.wave with
  | none => pure (.done {})
  | some b =>
    let by_ := s.posterOf c
    let snap := fun (t : Option Nat) => t.map fun t => s.snapshot by_.tenant by_.task t
    let (ta, tb) := kind.tids pb
    let ticket := nextTicketOf b.nextTicket
    let (id, s) := s.newId
    let o : MatOp :=
      { id, by_, engine := engineOfCore core, kind, ticket, postedAt := s.clock, off, pb, sem := Dev.sem x, scope := Dev.scope x
        snapA := snap ta, snapB := snap tb, phase := .waiting, code := 0, flags := 0, rowsDone := 0, chunk := 0, vPass := false
        probs := [], begun := false, qrows := [], work := [], park := .clear }
    let o := { o with code := o.postCode b.accRows.length b.scratchLen }
    let s := s.updBlock b.id fun b => { b with nextTicket := ticket }
    set (({ s with mats := s.mats ++ [o] } : State).addPending by_.task by_.core)
    pure (resultN x.d ticket)

/-- The posting of an operation with a parameter block (08 R207). -/
def postBlock (kind : MatKind) (x : Dev) (c : LaneCtx) : Op LaneRes := do
  let off := c.srcN x.a
  if off % 64 != 0 then throw (.fault (misalign 1 off))
  match (← get).blockOf c.wave with
  | none => pure (.done {})
  | some b =>
    if b.scratchLen < off + 64 then throw (.fault (pagePerm 2 1 off false))
    if b.granulesBad off 64 then
      modify fun s => s.noteScratch b.id off 64
      throw (.fault (poisonFault .load 3 off))
    postMat x c kind off (b.scratch.readNat off 64)

def mzroOp (x : Dev) (c : LaneCtx) : Op LaneRes := postMat x c .mzro 0 (pbPlain (c.srcN x.a) (c.srcN x.b) (b2n (bit x.m 9)))

def accscOp (x : Dev) (c : LaneCtx) : Op LaneRes := do
  let k := c.src x.c
  if k.tag != .f32 then throw (.fault { code := cTAG_MISMATCH })
  postMat x c .accsc 0 (pbPlain (c.srcN x.a) (c.srcN x.b) k.val.toNat)

/-! ## MSYNC and MRST (08 R213, R214) -/

def msyncLane (x : Dev) (s : State) (c : LaneCtx) : LaneRes :=
  let t := c.srcN x.a
  match s.blockOf c.wave with
  | none => .done {}
  | some b =>
    if s.mats.any fun o => o.by_.block == some b.id && covered t b.nextTicket o.ticket then
      .wait (.msync (t + 2 ^ 32 * b.nextTicket) x.d)
    else resultN x.d (msyncCode b t b.nextTicket)

def mrstOp (x : Dev) (c : LaneCtx) : Op LaneRes := do
  let set_ := fun (v : Nat) => modify fun s => s.updBlock c.wave.block fun b => { b with rstpc := v }
  if bit x.m 0 then set_ 1
  else
    let wa := c.srcWN x.a
    if !canonical wa then throw (.fault (pagePerm 1 3 wa false))
    if wa % 4 != 0 then throw (.fault (misalign 3 wa))
    set_ wa
  pure (.done {})

/-! ## The table and its order (08 R200, R201) -/

def State.mat? (s : State) (id : Nat) : Option MatOp := s.mats.find? fun o => o.id == id
def State.updMat (s : State) (id : Nat) (f : MatOp → MatOp) : State := { s with mats := s.mats.map fun o => if o.id == id then f o else o }
def State.engine (s : State) (e : Nat) : Engine := s.engines.getD e ⟨none, none, none, [], none⟩
def State.updEngine (s : State) (e : Nat) (f : Engine → Engine) : State := { s with engines := s.engines.modify e f }

/-- The operations of the same block that were posted before an operation. -/
def State.matsBefore (s : State) (o : MatOp) : List MatOp :=
  (s.mats.takeWhile fun x => x.id != o.id).filter fun x => x.by_.block == o.by_.block

/-- Earlier operations of the block on overlapping rows have completed (08 R200). -/
def State.rowsFree (s : State) (o : MatOp) : Bool :=
  (s.matsBefore o).all fun x => !rangesMeet x.ranges o.ranges

/-- The effective priority (08 R201). -/
def State.matPrio (s : State) (o : MatOp) : Nat := (if o.kind.hasBlock then pbPrio o.pb else 0) - (s.clock - o.postedAt) / 4096

/-- Operations in the arbiter's order: by effective priority, then by arrival. -/
def State.arbiter (s : State) (l : List MatOp) : List MatOp := (List.range 4).flatMap fun p => l.filter fun o => s.matPrio o == p

/-- ATTN: keys of a chunk start here. -/
def MatOp.chunkKey (o : MatOp) : Nat := pbKv0 o.pb + 256 * o.chunk
/-- ATTN: every chunk is done. -/
def MatOp.attnOver (o : MatOp) : Bool := decide (pbNkeys o.pb ≤ 256 * o.chunk)

/-- The plane that an operation names now, with its record and format (08 R195, 15 R357). -/
def MatOp.plane? (o : MatOp) : Option (PlaneId × Nat × ArrFmt) :=
  let mk := fun (sn : Option Snap) (b k n : Nat) =>
    match sn, snapFmt sn with
    | some x, some f => some (⟨o.by_.tenant, x.tid, x.gen, b, k, n⟩, snapRec sn, f)
    | _, _ => none
  match o.kind with
  | .mlds => mk o.snapB (pbBatch o.pb) (pbK0 o.pb) (pbN0 o.pb)
  | .mpass => mk o.snapB (pbBatch o.pb) (pbK0 o.pb) (pbN0 o.pb)
  | .mstrm => mk o.snapB (pbBatch o.pb) (pbK0 o.pb) (pbN0 o.pb)
  | .attn =>
    if o.attnOver then none
    else if o.vPass then mk o.snapB (pbABatch o.pb) o.chunkKey 0
    else mk o.snapA (pbABatch o.pb) 0 o.chunkKey
  | _ => none

/-- An operation of an engine that waits and has not failed. -/
def MatOp.waits (o : MatOp) (e : Nat) : Bool := o.engine == e && o.phase == .waiting && o.code == 0

/-- The identity of the plane that an operation names. -/
def MatOp.planeId? (o : MatOp) : Option PlaneId := o.plane?.map (·.1)

/-- A waiting entry of an engine names a plane. -/
def State.planeNamed (s : State) (e : Nat) (p : PlaneId) : Bool := s.mats.any fun o => o.waits e && o.planeId? == some p

/-- The engine holds a plane. -/
def Engine.holds (g : Engine) (p : PlaneId) : Bool := (g.active.map Plane.id) == some p || (g.shadow.map Plane.id) == some p

/-- A pass that may stream: not parked, its rows free, its plane in a slot. -/
def State.passReady (s : State) (e : Nat) (o : MatOp) : Bool :=
  o.waits e && (o.kind.isPass || o.kind == .attn) && o.park.entry.isNone && s.rowsFree o
    && (o.planeId?.map (s.engine e).holds).getD false

/-! ## Planes (08 R186, R195-R197) -/

/-- The geometry of rows of a tensor from a K-element on (08 R186, R202). -/
def rowsGeom (r n k0 row0 rows batch : Nat) : BoxGeom :=
  { boxGeom r 0 (256 * n + rows * 2 ^ 24 + 2 ^ 48 + 2 ^ 72 + 2 ^ 96) 0 0 0 0 false true with org := [k0, row0, batch, 0, 0] }

/-- The band-blocks of element bytes with their scales. -/
def bandBlocks (f : ArrFmt) (bytes : List Byte) (scales : List Nat) : List BandBlock :=
  let x := leNat bytes
  (List.range (8 * f.cls.n)).map fun blk =>
    ⟨(List.range 32).map fun k => let i := 32 * blk + k; fld x (f.bits * i + f.bits - 1) (f.bits * i), scales.getD blk scOne⟩

/-- One row of a tensor as band-blocks, with the poisoned lines read. -/
def readRow (c : Self) (f : ArrFmt) (g : BoxGeom) (r : Nat) : Op (List BandBlock × Nat) := do
  let (bs, p) ← boxElems c g r 0 g.db
  if !g.scl then pure (bandBlocks f bs [], p)
  else
    let (sc, q) ← (List.range (8 * f.cls.n)).foldlM (fun (l, q) j => do
      let (x, k) ← boxScale c g r j
      pure (l ++ [x], q + k)) (([] : List Nat), 0)
    pure (bandBlocks f bs sc, p + q)

/-- A plane read from its tensor; poison ends it with POISON. -/
def loadPlane (c : Self) (p : PlaneId) (r : Nat) (f : ArrFmt) : Op Plane := do
  let g := rowsGeom r f.cls.n p.k0 p.n0 256 p.batch
  let cols ← (List.range 256).mapM fun j => do
    let (col, bad) ← readRow c f g j
    if bad != 0 then throw (engFail 6 (tensorRow r (g.idx j)))
    pure col
  pure { id := p, fmt := recFmt r, cols, cb := cols.map fun col => col.map (colCorr f) }

/-- An operation ended with a code; it leaves its run. -/
def State.failMat (s : State) (id code : Nat) : State :=
  match s.mat? id with
  | none => s
  | some o => (s.updMat id fun o => { o with code := code, phase := .waiting, park := .clear }).updEngine o.engine fun g =>
      { g with run := g.run.filter (· != id) }

/-- The load of a plane starts into SHADOW: a plane that a waiting entry names and no slot holds, in arbiter order, once SHADOW holds
none that a waiting entry names (08 R201). -/
def State.startLoad (s : State) (e : Nat) : State :=
  let g := s.engine e
  if g.loading.isSome || (g.shadow.map fun p => s.planeNamed e p.id).getD false then s
  else
    let wants := s.arbiter (s.mats.filter fun o => o.waits e && o.park.entry.isNone)
    match wants.findSome? fun o => o.planeId?.bind fun p => if g.holds p then none else some (p, o.id) with
    | none => s
    | some (p, id) => s.updEngine e fun g => { g with shadow := none, loading := some (p, id) }

/-- SHADOW becomes ACTIVE while the array is free: a ready pass names it and none names ACTIVE, or the first pass in order names it.
Whether the old ACTIVE plane stays in the other slot is open, and free (08 R201; log entry 28). -/
def State.promotePlane (s : State) (e : Nat) : State :=
  let g := s.engine e
  if !g.run.isEmpty then s
  else
    let ready := s.arbiter (s.mats.filter (s.passReady e))
    let names := fun (x : Option Plane) (o : MatOp) => o.planeId?.isSome && o.planeId? == x.map Plane.id
    if (ready.any (names g.shadow) && !ready.any (names g.active)) || (ready.head?.map (names g.shadow)).getD false then
      let (keep, s) := s.drawBit
      s.updEngine e fun g => { g with active := g.shadow, shadow := if keep then g.active else none }
    else s

/-- The load of a plane ends, or waits for a translation, or fails with the operation that caused it (08 R195, R204). -/
def State.finishLoad (s : State) (e : Nat) : State :=
  match (s.engine e).loading with
  | none => s
  | some (p, id) =>
    let drop := fun (s : State) => s.updEngine e fun g => { g with loading := none }
    match s.mat? id with
    | none => drop s
    | some o =>
      match o.plane? with
      | none => drop s
      | some (_, r, f) =>
        if o.code != 0 then drop s
        else if o.park.entry.isSome then s
        else if o.park.bad then (drop s).failMat id 5
        else
          match engStep (o.by_.self o.id) (loadPlane (o.by_.self o.id) p r f) s with
          | (.ok pl, s) => (s.updEngine e fun g => { g with loading := none, shadow := some pl }).promotePlane e
          | (.parked k, s) => s.updMat id fun o => { o with park := k }
          | (.held, s) => s
          | (.fail code _, s) => (drop s).failMat id code

/-! ## Accumulator rows -/

def State.accRow (s : State) (o : MatOp) (i : Nat) : AccRow :=
  (((o.by_.block.bind s.block?).bind fun b => b.accRows[i]?)).getD (accZero 0)
def State.setAcc (s : State) (o : MatOp) (i : Nat) (r : AccRow) : State :=
  match o.by_.block with
  | some b => s.updBlock b fun b => { b with accRows := b.accRows.set i r }
  | none => s

/-- The kind that every touched row must have, none where any kind will do (08 R194, 15 R356). -/
def MatOp.needKind (o : MatOp) : Option Nat :=
  match o.kind with
  | .mpass => if pbAccum o.pb then (snapFmt o.snapB).map fun f => f.cls.kind else none
  | .mstrm => if pbAccum o.pb then (snapFmt o.snapB).map fun f => f.cls.kind else none
  | .mdrn => drainKind (pbOfmt o.pb)
  | .accst => some (if pbOfmt o.pb == 0 then 1 else 0)
  | .accsc => some 0
  | .attn => if pbInit o.pb then none else some 0
  | .accmrg => if pbInit o.pb then none else some 0
  | _ => none

/-- Some touched row does not have the kind it needs. -/
def State.kindBad (s : State) (o : MatOp) : Bool :=
  match o.needKind with
  | none => false
  | some k => o.ranges.any fun (a, n) => (List.range n).any fun i => (s.accRow o (a + i)).kind != k

/-- The rows that ATTN starts from: O, then m, then l (15 R356). -/
def State.attnStart (s : State) (o : MatOp) : List AccRow :=
  let p := o.pb
  let n := pbARows p
  let clear := fun (v cells : Nat) (r : AccRow) => ({ kind := 0, words := r.words.mapIdx fun j w => if j < cells then BitVec.ofNat 32 v else w } : AccRow)
  let os := (List.range n).map fun i => s.accRow o (pbAAcc0 p + i)
  let m := s.accRow o (pbMl p)
  let l := s.accRow o (pbMl p + 1)
  if pbInit p then os.map (clear 0 (pbDHead p)) ++ [clear f32NegInf n m, clear 0 n l] else os ++ [m, l]

/-- The start of an operation: its check of KIND, once. -/
def State.beginMat (s : State) (o : MatOp) : State :=
  if o.begun then s
  else if s.kindBad o then s.failMat o.id 7
  else s.updMat o.id fun o => { o with begun := true, work := if o.kind == .attn then s.attnStart o else [] }

/-! ## Rows of passes (08 R187-R190, R208) -/

/-- A row of A: from the tensor, or from scratchpad. -/
def passRow (c : Self) (o : MatOp) (f : ArrFmt) (i : Nat) : Op (List BandBlock) := do
  let p := o.pb
  if o.kind == .mpass then
    let (row, bad) ← readRow c f (rowsGeom (snapRec o.snapA) f.cls.n (pbK0 p) (pbM0 p) (max 1 (pbRows p)) (pbBatch p)) i
    if bad != 0 then throw (engFail 6 0)
    pure row
  else
    let bs ← engScratchRead c (pbSpOff p + i * pbSpStride p) (strmBytes f (pbAscl p))
    let words := if pbAscl p then
        (List.range (8 * f.cls.n)).map fun j => fld (leNat ((bs.drop (strmElems f + 4 * (j / 3))).take 4)) (10 * (j % 3) + 9) (10 * (j % 3))
      else []
    pure (bandBlocks f (bs.take (strmElems f)) words)

/-- τ of A: the record's, or 1 for a row from scratchpad (08 R189). -/
def MatOp.tauA (o : MatOp) : Nat := if o.kind == .mpass then recTau (snapRec o.snapA) else f32One

/-- What a step of a streaming operation leaves: it goes on, it has streamed its last row, it stops for now, or a check of the array
has failed. -/
inductive StreamRes where
  | more | done | stop | parity (place : Nat × Nat)
  deriving DecidableEq, Repr

/-- One row of a pass. -/
def State.streamRow (s : State) (e : Nat) (o : MatOp) (pl : Plane) (fb : ArrFmt) : StreamRes × State :=
  if o.rowCount ≤ o.rowsDone then (.done, s)
  else
    match o.fmtA with
    | none => (.stop, s.failMat o.id 2)
    | some fa =>
      match engStep (o.by_.self o.id) (passRow (o.by_.self o.id) o fa o.rowsDone) s with
      | (.parked k, s) => (.stop, s.updMat o.id fun o => { o with park := k })
      | (.held, s) => (.stop, s)
      | (.fail code _, s) => (.stop, s.failMat o.id code)
      | (.ok row, s) =>
        let out := arrRow fa fb o.tauA (recTau (snapRec o.snapB)) (s.engine e).corrupt row pl.pairs
        match out.parity with
        | some place => (.parity place, s)
        | none =>
          let i := pbAcc0 o.pb + o.rowsDone
          let (r, fl) := (s.accRow o i).accumulate (fb.cls == .int8) (pbAccum o.pb) out.vals
          let s := (s.setAcc o i r).updMat o.id fun o => { o with rowsDone := o.rowsDone + 1, flags := o.flags ||| out.flags ||| fl }
          (.more, s.perfCoreEvent o.by_.tenant 6 1)

/-! ## Rows of ATTN (15 R357) -/

/-- A Q row as BF16 codes: read once, D_HEAD elements, the rest +0. -/
def attnQ (c : Self) (o : MatOp) (i : Nat) : Op (List Nat) := do
  match o.qrows[i]? with
  | some q => pure q
  | none =>
    let bs ← engScratchRead c (pbSpOff o.pb + i * pbSpStride o.pb) (2 * pbDHead o.pb)
    pure ((List.range 256).map fun k => leNat ((bs.drop (2 * k)).take 2))

/-- Codes of BF16 as band-blocks. -/
def bf16Blocks (codes : List Nat) : List BandBlock := (List.range 8).map fun b => ⟨(codes.drop (32 * b)).take 32, scOne⟩

/-- The state of query row i among ATTN's rows. -/
def MatOp.attnRow (o : MatOp) (i : Nat) : AttnRow :=
  let n := pbARows o.pb
  let row := fun (k : Nat) => (o.work.getD k (accZero 0)).words
  ⟨((row n).getD i 0).toNat, ((row (n + 1)).getD i 0).toNat, row i⟩

/-- The state of a query row put back. -/
def MatOp.setAttnRow (o : MatOp) (i : Nat) (r : AttnRow) : MatOp :=
  let n := pbARows o.pb
  let put := fun (k v : Nat) (l : List AccRow) => l.modify k fun x => { x with words := x.words.set i (BitVec.ofNat 32 v) }
  { o with work := put (n + 1) r.l (put n r.m (o.work.modify i fun x => { x with words := r.o })) }

/-- Which keys of the chunk a query row keeps. -/
def MatOp.keepKey (o : MatOp) (i k : Nat) : Bool :=
  let n := o.chunkKey + k
  decide (n < pbKv0 o.pb + pbNkeys o.pb) && !(pbCausal o.pb && decide (pbQpos0 o.pb + i < n))

/-- One row of the K pass or the V pass of a chunk. `probs` counts the rows of the K pass, `rowsDone` those of the V pass. -/
def State.attnStep (s : State) (e : Nat) (o : MatOp) (pl : Plane) (f : ArrFmt) : StreamRes × State :=
  let n := pbARows o.pb
  let bad := (s.engine e).corrupt
  if !o.vPass then
    let i := o.probs.length
    if n ≤ i then (.done, s.updMat o.id fun o => { o with vPass := true, rowsDone := 0 })
    else
      match engStep (o.by_.self o.id) (attnQ (o.by_.self o.id) o i) s with
      | (.parked k, s) => (.stop, s.updMat o.id fun o => { o with park := k })
      | (.held, s) => (.stop, s)
      | (.fail code _, s) => (.stop, (s.updMat o.id fun o => { o with rowsDone := 0 }).failMat o.id code)
      | (.ok q, s) =>
        let out := arrRow f f f32One (recTau (snapRec o.snapA)) bad (bf16Blocks q) (pl.masked f (pbDHead o.pb))
        match out.parity with
        | some place => (.parity place, s)
        | none =>
          let (r, ps, fl) := attnScores (pbScale o.pb) (o.keepKey i) (pbDHead o.pb) (o.attnRow i) out.vals
          let s := s.updMat o.id fun o =>
            { o.setAttnRow i r with
              probs := o.probs ++ [ps], flags := o.flags ||| out.flags ||| fl
              qrows := if o.qrows.length == i then o.qrows ++ [q] else o.qrows }
          (.more, s.perfCoreEvent o.by_.tenant 6 1)
  else
    let i := o.rowsDone
    if n ≤ i then
      (.done, s.updMat o.id fun o => { o with vPass := false, chunk := o.chunk + 1, probs := [], rowsDone := 0 })
    else
      match (o.probs.getD i none) with
      | none => (.more, s.updMat o.id fun o => { o with rowsDone := i + 1 })
      | some p =>
        let valid := pbKv0 o.pb + pbNkeys o.pb - o.chunkKey
        let out := arrRow f f f32One (recTau (snapRec o.snapB)) bad (bf16Blocks (p.map BitVec.toNat)) (pl.masked f valid)
        match out.parity with
        | some place => (.parity place, s)
        | none =>
          let r := o.attnRow i
          let (os, fl) := attnAdd (pbDHead o.pb) r.o out.vals
          let s := s.updMat o.id fun o => { o.setAttnRow i { r with o := os } with rowsDone := i + 1, flags := o.flags ||| out.flags ||| fl }
          (.more, s.perfCoreEvent o.by_.tenant 6 1)

/-! ## Runs (08 R201, R215, R216) -/

/-- One row of an operation in the run, against the ACTIVE plane. -/
def State.runStep (s : State) (e id : Nat) : StreamRes × State :=
  match s.mat? id, (s.engine e).active with
  | some o, some pl =>
    if o.code != 0 || o.park.entry.isSome then (.stop, s)
    else if o.park.bad then (.stop, s.failMat id 5)
    else
      match o.plane? with
      | none => (.done, s)
      | some (_, _, f) => if o.kind == .attn then s.attnStep e o pl f else s.streamRow e o pl f
  | _, _ => (.stop, s)

/-- Every row of an operation that can stream now. -/
def State.runPass (s : State) (e id : Nat) : (fuel : Nat) → StreamRes × State
  | 0 => (.stop, s)
  | fuel + 1 =>
    match s.runStep e id with
    | (.more, s) => State.runPass s e id fuel
    | r => r

/-- A block that an ARRAY_PARITY event or an accumulator error names: its operations go, and it is to restart. A block of a speculative
strand is not restarted: its strand and the later ones are rejected (08 R215, 17 R377). -/
def State.loseAcc (s : State) (blk code : Nat) : State :=
  let strand := (s.block? blk).bind (·.strand)
  match strand, s.speculative strand with
  | some (l, k), true => (s.rejectAbove l (k - 1) false).recordVerdict l (k - 1) .dropped
  | _, _ => (s.cancelMats blk).updBlock blk fun b => { b with restarting := code }

/-- ARRAY_PARITY at a band and a column: every block with an entry in the run is treated, whether its pass has started or not (08 R216). -/
def State.arrayParity (s : State) (e : Nat) (place : Nat × Nat) : State :=
  let blks := ((s.engine e).run.filterMap fun id => (s.mat? id).bind fun o => o.by_.block).eraseDups
  let s := s.dieError (e / 8) 6 0
  ({ s with checks := ⟨e / 8, e % 8, place.1, place.2⟩ :: s.checks } : State).forEach blks fun b s => s.loseAcc b cARRAY_PARITY

/-- The passes of the run streamed in order, each begun and all its rows together; the answer says whether all are done. One that must wait
keeps its place, and the rest of the run behind it (08 R201). -/
def State.streamAll (s : State) (e : Nat) : List Nat → Bool × State
  | [] => (true, s)
  | id :: rest =>
    match s.mat? id with
    | none => State.streamAll s e rest
    | some o =>
      if o.phase == .inRun || o.code != 0 then State.streamAll s e rest
      else
        match (s.beginMat o).runPass e id (2 * o.rowCount + 2) with
        | (.done, s) => State.streamAll (s.updMat id fun o => { o with phase := .inRun }) e rest
        | (.parity place, s) => (false, s.arrayParity e place)
        | (_, s) => if (s.mat? id).all fun o => o.code != 0 then State.streamAll s e rest else (false, s)

/-- Passes put into the run, and the run streamed as far as it goes. -/
def State.streamRun (s : State) (e : Nat) (more : List Nat) : Bool × State :=
  let s := s.updEngine e fun g => { g with run := g.run ++ more }
  s.streamAll e (s.engine e).run

/-- The ready passes that name the ACTIVE plane, in order. -/
def State.joiners (s : State) (e : Nat) : List Nat :=
  let act := (s.engine e).active.map Plane.id
  ((s.arbiter (s.mats.filter (s.passReady e))).filter fun o => o.planeId?.isSome && o.planeId? == act).map (·.id)

/-- The array granted to a run (08 R201). -/
def State.grantRun (s : State) (e : Nat) : State :=
  if !(s.engine e).run.isEmpty then s
  else
    let s := s.promotePlane e
    (s.streamRun e (s.joiners e)).2

/-- An operation whose run has ended: a pass has streamed, a chunk of ATTN goes back to the table for its next pass. -/
def MatOp.leaveRun (o : MatOp) : MatOp :=
  if o.phase == .inRun then { o with phase := if o.kind == .attn then .waiting else .streamed } else o

/-- The end of a run. What a wait has kept from streaming streams first; then passes that have become ready for the ACTIVE plane join; when all
have streamed, SHADOW may become ACTIVE (08 R201). -/
def State.endRun (s : State) (e : Nat) : State :=
  if (s.engine e).run.isEmpty then s
  else
    match s.streamRun e [] with
    | (false, s) => s
    | (true, s) =>
      match s.streamRun e (s.joiners e) with
      | (false, s) => s
      | (true, s) =>
        let s := s.forEach (s.engine e).run fun id s => s.updMat id MatOp.leaveRun
        (s.updEngine e fun g => { g with run := [] }).promotePlane e

/-! ## Operations of the accumulator's ports (08 R209-R212, 15 R358) -/

/-- Words of a scratchpad as an engine reads them; poison ends the operation. -/
def scratchWords (c : Self) (a n : Nat) : Op (List Word) := do
  let bs ← engScratchRead c a (4 * n)
  pure ((List.range n).map fun i => BitVec.ofNat 32 (leNat ((bs.drop (4 * i)).take 4)))

/-- One row of ACCMRG. -/
def mergeStep (c : Self) (o : MatOp) (i : Nat) : Op Flags := do
  let p := o.pb
  let m ← scratchWords c (pbMOff p + 4 * i) 1
  let l ← scratchWords c (pbLOff p + 4 * i) 1
  let os ← scratchWords c (pbSpOff p + i * pbSpStride p) (pbDHead p)
  let s ← get
  let dh := pbDHead p
  let orow := s.accRow o (pbAAcc0 p + i)
  let mrow := s.accRow o (pbMl p)
  let lrow := s.accRow o (pbMl p + 1)
  let part : AttnRow := ⟨(m.getD 0 0).toNat, (l.getD 0 0).toNat, os⟩
  let old : AttnRow := ⟨(mrow.words.getD i 0).toNat, (lrow.words.getD i 0).toNat, orow.words⟩
  let (new, fl) := if pbInit p then
      ((⟨part.m, part.l, orow.words.mapIdx fun j w => if j < dh then os.getD j 0 else w⟩ : AttnRow), (0 : Flags))
    else mergeRow dh old part
  let s := s.setAcc o (pbAAcc0 p + i) ⟨0, new.o⟩
  let s := s.setAcc o (pbMl p) ⟨0, mrow.words.set i (BitVec.ofNat 32 new.m)⟩
  set (s.setAcc o (pbMl p + 1) ⟨0, lrow.words.set i (BitVec.ofNat 32 new.l)⟩)
  pure fl

/-- One row of ACCST: its atoms written. -/
def storeAtoms (c : Self) : (fuel va : Nat) → List Byte → Op Unit
  | 0, _, _ => pure ()
  | fuel + 1, va, bs =>
    if bs.isEmpty then pure ()
    else do
      engWrite c va (bs.take 64) false
      storeAtoms c fuel ((va + 64) % 2 ^ 64) (bs.drop 64)

/-- One row of an operation that does not use the array. -/
def portRow (c : Self) (o : MatOp) (i : Nat) : Op Flags := do
  let p := o.pb
  let s ← get
  match o.kind with
  | .mzro => set (s.setAcc o (o.plainRow + i) (accZero o.plainVal)); pure 0
  | .accsc =>
    let (r, fl) := (s.accRow o (o.plainRow + i)).scale o.plainVal
    set (s.setAcc o (o.plainRow + i) r)
    pure fl
  | .mdrn =>
    let r := s.accRow o (pbAcc0 p + i)
    let (bs, fl) := r.drain (pbOfmt p)
    let s := match o.by_.block with | some b => s.engScratch b (pbSpOff p + i * pbSpStride p) bs false | none => s
    set (if pbClr p then s.setAcc o (pbAcc0 p + i) (accZero r.kind) else s)
    pure fl
  | .accld =>
    let (bs, bad) ← engBytes c ((pbMemVa p + i * pbMemStride p) % 2 ^ 64) (loadBytes (pbIfmt p))
    if bad != 0 then throw (engFail 6 (pbMemVa p + i * pbMemStride p))
    modify fun s => s.setAcc o (pbAcc0 p + i) (.ofBytes (pbIfmt p) bs)
    pure 0
  | .accst =>
    let (bs, fl) := (s.accRow o (pbAcc0 p + i)).drain (pbOfmt p)
    storeAtoms c 16 ((pbMemVa p + i * pbMemStride p) % 2 ^ 64) bs
    pure fl
  | .accmrg => mergeStep c o i
  | _ => pure 0

/-- Every row of such an operation that can be done now. -/
def State.runPort (s : State) (id : Nat) : (fuel : Nat) → State
  | 0 => s
  | fuel + 1 =>
    match s.mat? id with
    | none => s
    | some o =>
      if o.code != 0 || o.park.entry.isSome || decide (o.rowCount ≤ o.rowsDone) then s
      else if o.park.bad then s.failMat id 5
      else
        match engStep (o.by_.self o.id) (portRow (o.by_.self o.id) o o.rowsDone) s with
        | (.ok fl, s) => State.runPort (s.updMat id fun o => { o with rowsDone := o.rowsDone + 1, flags := o.flags ||| fl }) id fuel
        | (.parked k, s) => s.updMat id fun o => { o with park := k }
        | (.held, s) => s
        | (.fail code _, s) => s.failMat id code

/-! ## Completion (08 R205) -/

/-- The rows of ATTN put into the accumulator store when its last chunk is done. -/
def State.attnCommit (s : State) (o : MatOp) : State :=
  let p := o.pb
  let n := pbARows p
  let s := s.forEach (List.range n) fun i s => s.setAcc o (pbAAcc0 p + i) (o.work.getD i (accZero 0))
  let s := s.setAcc o (pbMl p) (o.work.getD n (accZero 0))
  (s.setAcc o (pbMl p + 1) (o.work.getD (n + 1) (accZero 0))).updMat o.id fun o => { o with rowsDone := n }

/-- The code that an operation ends with, 0 while it has something left to do. -/
def State.matDone (s : State) (o : MatOp) : Nat :=
  if o.code != 0 then o.code
  else
    match o.kind with
    | .mlds => if (o.planeId?.map (s.engine o.engine).holds).getD false then 1 else 0
    | .mpass => if o.phase == .streamed then 1 else 0
    | .mstrm => if o.phase == .streamed then 1 else 0
    | .attn => if o.begun && o.phase == .waiting && o.attnOver then 1 else 0
    | _ => if o.begun && decide (o.rowCount ≤ o.rowsDone) then 1 else 0

/-- An operation ends: STATUS, flags, the sync word, the entry, the count (08 R205). -/
def State.endMat (s : State) (o : MatOp) (code : Nat) : State :=
  let s := (s.writeStatus o code).raiseMat o
  let s := match o.by_.block with
    | some b => if o.kind.hasBlock && pbSwEn o.pb && code != 8 then s.syncStep b (pbSwOff o.pb) (.contribute (pbContrib o.pb)) else s
    | none => s
  let s : State := { s with mats := s.mats.filter fun x => x.id != o.id }
  let s := s.subPending o.by_.task o.by_.core
  match o.by_.block with
  | some b => ((s.updBlock b fun b => b.addCode o.ticket code).releaseMsync b).endBlock b
  | none => s

/-- MATRIX_OP_COMPLETE: an operation that does not use the array runs once its rows are free, and an operation with nothing left to do
ends. -/
def State.completeMat (s : State) (e id : Nat) : State :=
  match s.mat? id with
  | none => s
  | some o =>
    if o.engine != e || o.park.entry.isSome then s
    else
      let port := !o.kind.usesPlane || (o.kind == .attn && o.attnOver)
      let s := if o.code == 0 && port && s.rowsFree o then
          let s := s.beginMat o
          if o.kind == .attn then s else s.runPort id (o.rowCount + 1)
        else s
      match s.mat? id with
      | none => s
      | some o =>
        let code := s.matDone o
        if code == 0 then s
        else if o.kind == .attn && code == 1 then
          let s := s.attnCommit o
          match s.mat? id with
          | some o => s.endMat o 1
          | none => s
        else s.endMat o code

/-! ## Meanings -/

def execMlds (x : Dev) (s : State) : Host.Outcome State Fault Refusal := .next (runOp x (postBlock .mlds x) s)
def execMstrm (x : Dev) (s : State) : Host.Outcome State Fault Refusal := .next (runOp x (postBlock .mstrm x) s)
def execMdrn (x : Dev) (s : State) : Host.Outcome State Fault Refusal := .next (runOp x (postBlock .mdrn x) s)
def execMpass (x : Dev) (s : State) : Host.Outcome State Fault Refusal := .next (runOp x (postBlock .mpass x) s)
def execMzro (x : Dev) (s : State) : Host.Outcome State Fault Refusal := .next (runOp x (mzroOp x) s)
def execAccld (x : Dev) (s : State) : Host.Outcome State Fault Refusal := .next (runOp x (postBlock .accld x) s)
def execAccst (x : Dev) (s : State) : Host.Outcome State Fault Refusal := .next (runOp x (postBlock .accst x) s)
def execAccsc (x : Dev) (s : State) : Host.Outcome State Fault Refusal := .next (runOp x (accscOp x) s)
def execMsync (x : Dev) (s : State) : Host.Outcome State Fault Refusal :=
  .next (runLanes x.guard (lenBytes x.len) (fun c s' => (msyncLane x s c, s')) s)
def execMrst (x : Dev) (s : State) : Host.Outcome State Fault Refusal := .next (runOp x (mrstOp x) s)
def execAttn (x : Dev) (s : State) : Host.Outcome State Fault Refusal := .next (runOp x (postBlock .attn x) s)
def execAccmrg (x : Dev) (s : State) : Host.Outcome State Fault Refusal := .next (runOp x (postBlock .accmrg x) s)
def execPlaneLoadStart (engine : Nat) (s : State) : Host.Outcome State Fault Refusal := .next (s.startLoad engine)
def execPlaneLoadComplete (engine : Nat) (s : State) : Host.Outcome State Fault Refusal := .next (s.finishLoad engine)
def execArrayRunGrant (engine : Nat) (s : State) : Host.Outcome State Fault Refusal := .next (s.grantRun engine)
def execRunEnd (engine : Nat) (s : State) : Host.Outcome State Fault Refusal := .next (s.endRun engine)
def execMatrixOpComplete (engine op : Nat) (s : State) : Host.Outcome State Fault Refusal := .next (s.completeMat engine op)

end Sys2Proof.Machine
end

