-- ==== Sys2Proof/Machine/Save.lean ====
section
/-! DEFINITION. Saving and restoring a tenant context (17 R378; 18 R386-R390, R396). -/
namespace Sys2Proof.Machine

/-! ## The save area (18 R386) -/

def Tenant.areaVa (t : Tenant) : Nat := fld t.save.toNat 59 7 * 128
def Tenant.areaBytes (t : Tenant) : Nat := fld t.pre.toNat 63 32 * 1024

/-- TMC_PRE with a RESULT: the command is over. -/
def State.preResult (s : State) (tenant code : Nat) : State :=
  s.updTenant tenant fun t => { t with pre := setBits (setBits t.pre 15 8 code) 0 0 0 }

/-- Bytes written through a tenant's translations, line by line; false where a part cannot be performed, which raises no fault (17 R378). -/
def State.areaWrite (s : State) (tenant : Nat) : (fuel va : Nat) → List Byte → Bool × State
  | 0, _, _ => (true, s)
  | fuel + 1, va, bs =>
    if bs.isEmpty then (true, s)
    else
      let k := 64 - va % 64
      match s.devWrite tenant va (bs.take k) with
      | (false, s') => (false, { s' with faults := s.faults })
      | (true, s) => State.areaWrite s tenant fuel (va + k) (bs.drop k)

/-- A run of bytes put at an offset of the image. -/
def State.imageWrite (s : State) (tenant o : Nat) (bs : List Byte) : Bool × State :=
  s.areaWrite tenant (bs.length / 64 + 2) ((s.tenant tenant).areaVa + o) bs

/-- Bytes read through a tenant's translations, line by line; none where a part cannot be read. -/
def areaRead (tenant : Nat) : (fuel va n : Nat) → Op (Option (List Byte))
  | 0, _, _ => pure (some [])
  | fuel + 1, va, n => do
    if n == 0 then return some []
    let k := min n (64 - va % 64)
    match ← devGet tenant va k with
    | none => pure none
    | some x => pure ((← areaRead tenant fuel (va + k) (n - k)).map (natBytes k x ++ ·))

/-- n bytes of the image from an offset. -/
def imageRead (tenant o n : Nat) : Op (Option (List Byte)) := do
  areaRead tenant (n / 64 + 2) (((← get).tenant tenant).areaVa + o) n

/-! ## The loss of a context (17 R378) -/

/-- A running task of a lost context ends with CONTEXT_LOST. -/
def State.loseTask (s : State) (t : Task) : State :=
  let e : TaskEnd := ⟨7, 0, 0, 0⟩
  match t.kind with
  | 0 => s.markAbort t.id e
  | 4 => s.endLoopAt t.id 0 e
  | _ =>
    let s : State := { s with copies := s.copies.filter fun c => c.by_.task != t.id, nms := s.nms.filter fun c => c.by_.task != t.id }
    (s.updTenant t.tenant fun n => { n with hostQ := n.hostQ.filter (· != t.addr), taken := n.taken.filter (· != t.addr) }).endTask t.id e

/-- The context of a tenant is lost: its running tasks complete with CONTEXT_LOST, and the command ends so. -/
def State.loseContext (s : State) (tenant : Nat) : State :=
  let s : State :=
    { s with loops := s.loops.map fun l => if l.tenant == tenant then { l with hold := false } else l
             tasks := s.tasks.map fun t => if t.tenant == tenant then { t with saved := 0 } else t }
  let s := s.forEach (s.tasks.filter fun t => t.tenant == tenant && t.phase == .running) fun t s => s.loseTask t
  (s.updTenant tenant fun t => { t with phase := .idle, rest := [] }).preResult tenant 3

/-! ## The start of a save (18 R389 steps 1 and 2) -/

/-- The resident blocks of a tenant. -/
def State.tenantBlocks (s : State) (tenant : Nat) : List Block :=
  s.blocks.filter fun b => ((s.task? b.task).map (·.tenant)) == some tenant

/-- SIZE of an image with these block bytes. -/
def State.imageSize (s : State) (tenant blockBytes : Nat) : Nat :=
  128 + blockBytes + (s.poolImage tenant).length + (s.tidImage tenant).length + (s.tenant tenant).counterImage.length

/-- Strand k of a loop is speculative and has started. -/
def Loop.rejectable (l : Loop) (k : Nat) : Bool :=
  !l.nonSpec k && (l.strand? k).any fun x => x.phase == .running || x.phase == .completed

/-- The write sets of a loop's non-speculative strands published; they stay where the publication must wait. -/
def State.publishLoop (s : State) (l : Nat) : State :=
  match s.loop? l with
  | none => s
  | some lp =>
    match ((List.range lp.strands.length).filter fun k => lp.nonSpec k).getLast? with
    | none => s
    | some k => match publish l k s with | .ok _ s => s | .error _ s => s

/-- A round stopped for a save: its speculative strands are rejected, with DROPPED below the lowest, and the head publishes. -/
def State.holdLoop (s : State) (l : Nat) : State :=
  match s.loop? l with
  | none => s
  | some lp =>
    let s := s.updLoop l fun x => { x with hold := true }
    let ks := (List.range lp.strands.length).filter fun k => lp.rejectable k
    let s := match ks.head? with
      | none => s
      | some j => (s.rejectAbove l (j - 1) false).recordVerdict l (j - 1) .dropped
    s.publishLoop l

/-- SAVE: the image is sized; a context that fits is held, its loops are stopped, and its waiting threads are stopped. -/
def State.startSave (s : State) (tenant : Nat) : State :=
  let size := s.imageSize tenant ((s.tenantBlocks tenant).map fun b => recBytes b (s.blockWaves b.id)).sum
  let t := s.tenant tenant
  if t.areaBytes < size then s.preResult tenant 2
  else if t.flr then s.preResult tenant 3
  else
    let s := s.updTenant tenant fun t => { t with phase := .saving, savePos := 128, saveCnt := 0 }
    let s : State := { s with tasks := s.tasks.map fun t => if t.tenant == tenant then { t with gang := none } else t }
    let s := s.forEach (s.tenantLoops tenant) fun l s => s.holdLoop l.task
    s.forEach s.waves fun w s => if s.tenantOfWave w == tenant then s.stopThreads w.ref else s

/-- A write of TMC_PRE: ignored while BUSY; AREA_KIB and CMD are kept, and BUSY = 1 starts CMD. -/
def State.preFields (s : State) (tenant : Nat) (v : Dword) : State :=
  s.updTenant tenant fun t => { t with pre := setBits (setBits (setBits t.pre 63 32 (fld v.toNat 63 32)) 3 2 (fld v.toNat 3 2)) 0 0 (fld v.toNat 0 0) }

/-! ## Restarting a block (17 R377) -/

/-- A thread that a restart of its block sends to RSTPC. -/
def Thread.restart (t : Thread) (rst : Nat) : Thread :=
  if t.status == .exited then t
  else { t with status := .run, pc := BitVec.ofNat 60 rst, trapinfo := 0, turns := 0, retry := false, again := false, inst := none, redo := none
                watch := none }

/-- The barriers of a block at its start (07 R171). -/
def Block.freshBarriers (b : Block) : List Barrier := b.barriers.map fun _ => ⟨0, 0, b.threads, false⟩

/-- The block's live threads at RSTPC, its barriers as at its start, and its waits, parks and held requests gone. -/
def State.restartBlock (s : State) (blk : Nat) : State :=
  match s.block? blk with
  | none => s
  | some b =>
    let mine := fun (r : ThreadRef) => ((s.wave? r.wave).map (·.block)) == some blk
    let s : State :=
      { s with
        waves := s.waves.map fun w =>
          if w.block == blk then { w with threads := w.threads.map fun t => t.restart b.rstpc } else w
        moves := s.moves.map fun m => { m with held := m.held.filter fun q => match q.by_ with | .thread r => !mine r | _ => true }
        cores := s.cores.map fun c => { c with reggrw := c.reggrw.filter fun r => !mine r } }
    (s.updBlock blk fun b => { b with barriers := b.freshBarriers, restarts := b.restarts + 1, restarting := 0 }).sweepFaults

/-- Nothing of a block is in flight. -/
def State.drained (s : State) (blk : Nat) : Bool :=
  !(s.copies.any fun c => c.by_.block == some blk) && !(s.nms.any fun c => c.by_.block == some blk)
    && !(s.mats.any fun o => o.by_.block == some blk)

/-- A block that an event ends: it has no restart address, or this is its sixteenth restart without a SAFEPT. -/
def Block.givesUp (b : Block) : Bool := b.rstpc == 1 || decide (16 ≤ b.restarts + 1)

/-- The abort of a block that cannot restart, with the code of its event. -/
def State.abortBlock (s : State) (b : Block) (code : Nat) : State := s.markAbort b.task ⟨3, code, 0, 0⟩

/-! ## Stopping a block (18 R388, R389 steps 3 to 5) -/

/-- All threads of a block are stopped. -/
def State.blockStopped (s : State) (blk : Nat) : Bool := (s.blockWaves blk).all fun w => w.threads.all fun t => t.stopped || t.status == .exited

/-- A block that a save may pre-empt: its kernel has safe points and it is stopped, and with co-residency so are all its task's blocks. -/
def State.preemptable (s : State) (b : Block) (t : Task) : Bool :=
  b.safeDist != 0 && s.blockStopped b.id
    && (t.colevel == 0 || (s.blocks.filter fun x => x.task == t.id).all fun x => x.safeDist != 0 && s.blockStopped x.id)

/-- A thread that leaves the fault entry it is parked on. -/
def Thread.unpark (t : Thread) : Thread :=
  match t.status with
  | .parked _ _ none => { t with status := .replay }
  | .parked _ _ (some g) => { t with status := .pending g }
  | _ => t

/-- SAVE_BLOCK_STOP: the block's engine operations are cancelled and its parks left; once the rest has drained its record is written and
its core is free. An unreadable granule of its scratchpad loses the context. -/
def State.stopBlock (s : State) (blk : Nat) : State :=
  match s.block? blk with
  | none => s
  | some b =>
    match s.taskOf b with
    | none => s
    | some t =>
      if (s.tenant t.tenant).phase != .saving || t.aborting || !s.preemptable b t then s
      else
        let s := s.saveMats blk
        let s : State :=
          { s with waves := s.waves.map fun w => if w.block == blk then { w with threads := w.threads.map Thread.unpark } else w }
        let s := s.sweepFaults
        if !s.drained blk then s
        else if b.restarting != 0 && b.givesUp then s.abortBlock b b.restarting
        else
          let s := if b.restarting != 0 then s.restartBlock blk else s
          match s.block? blk with
          | none => s
          | some b =>
            if !b.scratchBad.isEmpty then
              let s : State := { s with latent := s.latent.filter fun p => match p with | .scratch x _ => x != blk | _ => true }
              (s.dieError (dieOfCore b.core) 11 0).loseContext t.tenant
            else
              let ws := s.blockWaves blk
              match s.imageWrite t.tenant (s.tenant t.tenant).savePos (b.image t.addr ws) with
              | (false, s) => s.loseContext t.tenant
              | (true, s) =>
                let s := s.updTask t.id fun t => { t with saved := t.saved + 1 }
                (s.updTenant t.tenant fun n => { n with savePos := n.savePos + recBytes b ws, saveCnt := n.saveCnt + 1 }).dropBlock blk

/-! ## The end of a save (18 R389 steps 6 to 8) -/

/-- A task that must complete before the pool's sections are written. One with a block in the image is live, whatever has ended it. -/
def State.mustEnd (s : State) (t : Task) : Bool :=
  s.mayComplete t || (t.phase == .ending && t.kind != 4 && t.saved == 0) || (t.phase == .running && t.kind != 0 && t.kind != 4)

/-- All blocks of a tenant are saved or have ended, and its operations, host tasks and publications are done. -/
def State.saveReady (s : State) (tenant : Nat) : Bool :=
  (s.tenant tenant).phase == .saving && (s.tenantBlocks tenant).isEmpty && !(s.mats.any fun o => o.by_.tenant == tenant)
    && !(s.copies.any fun c => c.by_.tenant == tenant) && !(s.nms.any fun c => c.by_.tenant == tenant)
    && !(s.tenantTasks tenant).any s.mustEnd && (s.tenantLoops tenant).all fun l => l.strands.all fun x => x.writes.isEmpty

/-- What the module keeps of a tenant once it is saved: its memory, its registers and the counts of its rings. -/
def State.removeTenant (s : State) (tenant : Nat) : State :=
  let s : State :=
    { s with tasks := s.tasks.filter fun t => t.tenant != tenant, loops := s.loops.filter fun l => l.tenant != tenant
             faults := s.faults.filter fun e => e.tenant != tenant, badPages := s.badPages.filter fun p => p.1 != tenant }
  s.updTenant tenant fun t =>
    { t with early := [], evSeq := 0, evLost := false, tensors := [], perfSels := List.replicate 80 0, perfCore := List.replicate 16 0
             perfHub := List.replicate 4 (List.replicate 64 0), copyRem := [0, 0, 0, 0], hostQ := [], taken := [], rest := [] }

/-- The header of an image. -/
def imageHeader (t ver size nblocks ntasks clock pool tid cnt digest : Nat) : Nat :=
  0x43584D49 + ver * 2 ^ 32 + t * 2 ^ 48 + clock * 2 ^ 448 + ntasks * 2 ^ 512 + nblocks * 2 ^ 544 + size * 2 ^ 576 + 128 * 2 ^ 640
    + cnt * 2 ^ 704 + tid * 2 ^ 768 + pool * 2 ^ 832 + digest * 2 ^ 896

/-- SAVE_COMPLETE: the sections, then the header. The version written is this edition's. -/
def State.completeSave (s : State) (tenant : Nat) : State :=
  let s := if (s.tenant tenant).phase == .saving then s.forEach (s.tenantLoops tenant) fun l s => s.publishLoop l.task else s
  if !s.saveReady tenant then s
  else
    let t := s.tenant tenant
    let pool := s.poolImage tenant
    let tid := s.tidImage tenant
    let tidOff := t.savePos + pool.length
    let cntOff := tidOff + tid.length
    let size := cntOff + t.counterImage.length
    match s.imageWrite tenant t.savePos (pool ++ tid ++ t.counterImage) with
    | (false, s) => s.loseContext tenant
    | (true, s) =>
      match s.settleOp (imageRead tenant 128 (size - 128)) with
      | (some (some bs), s) =>
        let h := imageHeader tenant 0x0200 size t.saveCnt (s.tenantTasks tenant).length (s.clockOf tenant) t.savePos tidOff cntOff (fingerprint bs)
        match s.imageWrite tenant 0 (natBytes 128 h) with
        | (false, s) => s.loseContext tenant
        | (true, s) => ((s.removeTenant tenant).updTenant tenant fun t => { t with phase := .idle }).preResult tenant 1
      | (_, s) => s.loseContext tenant

/-! ## Restoring (18 R396) -/

/-- The header fields and sections of an image that has passed the checks. -/
structure ImageParts where
  header : Nat
  bytes  : List Byte                -- image bytes 0 to SIZE - 1
  deriving DecidableEq, Repr

def ImageParts.f (p : ImageParts) (hi lo : Nat) : Nat := fld p.header hi lo

/-- The block records of an image in order: each with its offset. -/
def blockOffsets (bs : List Byte) : (n o : Nat) → List Nat
  | 0, _ => []
  | n + 1, o => o :: blockOffsets bs n (o + fld (bytesAt bs o 128) 703 672)

/-- What the check of an image answers. -/
inductive ImageCheck where
  | ok (p : ImageParts)
  | refused (code : Nat)
  | lost
  deriving DecidableEq, Repr

/-- A reserved field of a section that is not zero. -/
def ImageParts.reserved (p : ImageParts) : Bool :=
  ((blockOffsets p.bytes (p.f 575 544) (p.f 703 640)).any fun o => blockReserved (p.bytes.drop o))
    || ((List.range (p.f 543 512)).any fun i => taskReserved (p.bytes.drop (p.f 895 832 + 1088 * i)))
    || slotsReserved (p.bytes.drop (p.f 831 768))

/-- The checks, in the order of the rule. A context that was refused, or never created, has no version that an image could have: RESULT
VERSION (00 R12; DESIGN CHOICE, log entry 77). -/
def checkImage (tenant : Nat) : Op ImageCheck := do
  let s ← get
  let t := s.tenant tenant
  if !(s.tenantTasks tenant).isEmpty || !(s.tenantBlocks tenant).isEmpty then pure (.refused 6)
  else
    match ← imageRead tenant 0 128 with
    | none => pure .lost
    | some hb =>
      let h := leNat hb
      let size := fld h 639 576
      if fld h 31 0 != 0x43584D49 || decide (t.areaBytes < size) || decide (size < 128) || fld h 447 64 != 0 || fld h 63 54 != 0 then
        pure (.refused 4)
      else
        match ← imageRead tenant 128 (size - 128) with
        | none => pure .lost
        | some bs =>
          let p : ImageParts := ⟨h, hb ++ bs⟩
          if fingerprint bs != p.f 1023 896 || p.reserved then pure (.refused 4)
          else if !t.en || !verOk (p.f 47 32) t.verImage then pure (.refused 5)
          else pure (.ok p)

/-- The kernel header of a restored block, read through the tenant's translations; zero where it cannot be read. -/
def restHeader (tenant va : Nat) : Op Nat := do pure (((← areaRead tenant 5 va 256).map leNat).getD 0)

/-- The tasks of an image entered one after another: each gets a name, its slice and its place in the order. -/
def State.restTasks (s : State) (tenant : Nat) (ids : List Nat) : List (Nat × List Byte) → State
  | [] => s
  | (id, bs) :: rest =>
    let slice := s.sliceFor tenant (bytesAt bs 0 128) 0
    let t := taskOfImage bs tenant id slice (s.slice slice).nextSeq s.clock ids
    let s := s.updSlice slice fun x => { x with nextSeq := x.nextSeq + 1 }
    State.restTasks { s with tasks := s.tasks ++ [t] } tenant ids rest

/-- Names drawn for n tasks. -/
def State.newIds (s : State) : Nat → List Nat × State
  | 0 => ([], s)
  | n + 1 =>
    let (i, s) := s.newId
    let (is, s) := State.newIds s n
    (i :: is, s)

/-- The earlier conflicting tasks that each restored task waits for (06 R151). -/
def State.restConflicts (s : State) (tenant : Nat) : State :=
  let ts := s.tenantTasks tenant
  { s with tasks := s.tasks.map fun t =>
      if t.tenant == tenant && t.phase == .waiting then
        { t with waitsOn := ((ts.takeWhile fun x => x.id != t.id).filter fun x =>
            x.graphId == t.graphId && x.strand == t.strand && x.guessOf == t.guessOf && opsConflict x.ops t.ops).map (·.id) }
      else t }

/-- The words behind the event SEQ read: the loops, and the successors of each task. -/
def rdPool (tenant : Nat) (ids : List Nat) : Rd (List Loop × List (List Nat × List Nat)) := do
  let loops ← rdList (rdLoop tenant ids)
  let succs ← rdMany (do
    let a ← rdList rdWord
    let b ← rdList rdWord
    pure (a, b)) ids.length
  pure (loops, succs)

/-- The pool, the tensor table, the counters and the blocks of an image reinstated; the blocks wait for cores. -/
def State.reinstate (s : State) (tenant : Nat) (p : ImageParts) : Option State :=
  let n := p.f 543 512
  let (ids, s) := s.newIds n
  let pool := p.bytes.drop (p.f 895 832)
  let tail := pool.drop (1088 * n)
  match rdPool tenant ids (wordsOf ((p.f 831 768 - p.f 895 832 - 1088 * n - 262208) / 8) (tail.drop 262208)) with
  | none => none
  | some ((loops, succs), _) =>
    let entries := (ids.mapIdx fun i id => (id, (pool.drop (1088 * i)).take 1088))
    let s := s.restTasks tenant ids entries
    let s := s.forEach (ids.zip succs) fun (id, a, b) s => s.updTask id fun t => { t with succs := a, added := b }
    let s := (({ s with loops := s.loops ++ loops } : State)).restConflicts tenant
    let tid := p.bytes.drop (p.f 831 768)
    let base := fld (s.tenant tenant).tid.toNat 55 19 * 2 ^ 19
    let entry := fun (t : Nat) =>
      tensorEntryOf t ((List.range 8).map fun i => bytesAt tid (64 * t + 8 * i) 8) fun i => s.peek (base + 512 * t + 64 * i) 64
    let cnt := p.bytes.drop (p.f 767 704)
    let (blocks, s) := s.settleOp ((blockOffsets p.bytes (p.f 575 544) (p.f 703 640)).filterMapM fun o => do
      let bs := p.bytes.drop o
      let h := bytesAt bs 0 128
      match (s.tenantTasks tenant).find? fun t => t.addr == fld h 1023 960 && t.codeVa == fld h 959 896 && t.begun with
      | none => pure none
      | some t => pure (some (blockOfImage bs (s.tenant tenant) t (← restHeader tenant (fld h 959 896)))))
    some (s.updTenant tenant fun t =>
      { t with
        early := earlyOfImage tail, evSeq := bytesAt tail 262144 4, evLost := false, phase := .restoring, rest := blocks.getD []
        tensors := ((List.range 1024).map entry).filter fun e => e != .initial e.tid
        perfSels := (List.range 80).map fun i => bytesAt cnt (2 * i) 2
        perfCore := (List.range 16).map fun i => bytesAt cnt (0x100 + 8 * i) 8
        perfHub := (List.range 4).map fun h => (List.range 64).map fun i => bytesAt cnt (0x180 + 512 * h + 8 * i) 8
        restClk := p.f 511 448 })

/-- Whether a restored block fits on a core now (06 R155). -/
def State.fitsRest (s : State) (core : Nat) (t : Task) (r : RestBlock) : Bool :=
  let here := s.blocks.filter fun b => b.core == core
  let sum := fun (f : Block → Nat) => (here.map f).sum
  decide (wavesOf r.block.threads ≤ (s.freeSlots core).length) && decide ((r.waves.map fun w => 128 * w.allot).sum ≤ s.regSpace core)
    && decide (sum Block.scratchLen + r.block.scratchLen ≤ 1572864)
    && decide (sum (fun b => b.barriers.length) + r.block.barriers.length ≤ 2048)
    && decide (sum (fun b => b.accRows.length) + r.block.accRows.length ≤ 4096)
    && (let ts := s.coreTasks core; ts.contains t.id || decide (ts.length < 16)) && !s.reserved core t.id

/-- A restored block put on a core, with a slot for each of the waves that it was dispatched with. -/
def State.putRest (s : State) (core : Nat) (r : RestBlock) : State :=
  let slots := (s.freeSlots core).take (wavesOf r.block.threads)
  let (id, s) := s.newId
  let ws := (r.waves.zip slots).map fun (w, slot) => { w with ref := ⟨core, slot⟩, block := id }
  { s with blocks := s.blocks ++ [{ r.block with id := id, core := core, slots := slots }], waves := s.waves ++ ws }

/-- The cores that may hold a restored block of a task, from a free one on (log entry 33). -/
def State.restCores (s : State) (t : Task) (cores : List Nat) : List Nat × State :=
  let hubs := s.tenantHubs t.tenant
  let ok := cores.filter fun c => hubs.contains (hubOfDie (dieOfCore c)) && !s.partHeld (hubOfDie (dieOfCore c))
  let (w, s) := s.drawWord
  (ok.rotateLeft (w % (ok.length + 1)), s)

/-- Blocks put on cores, each on the first that has room; none where one has no room. -/
def State.putAll (s : State) (t : Task) (cores : List Nat) : List RestBlock → Option State
  | [] => some s
  | r :: rest =>
    match cores.find? fun c => s.fitsRest c t r with
    | none => none
    | some c => State.putAll (s.putRest c r) t cores rest

/-- The restored blocks of a task placed: one by one, or a gang together in an instance of its level. -/
def State.placeTask (s : State) (t : Task) (rs : List RestBlock) : State :=
  let keep := fun (s : State) (gone : List RestBlock) =>
    s.updTenant t.tenant fun n => { n with rest := n.rest.filter fun r => !gone.contains r }
  if t.colevel == 0 then
    s.forEach rs fun r s =>
      let (cores, s) := s.restCores t (List.range 256)
      match s.putAll t cores [r] with
      | some s => keep s [r]
      | none => s
  else
    let n := match t.colevel with | 1 => 64 | 2 => 8 | _ => 4
    let (first, s) := s.drawWord
    let insts := (List.range n).map fun i => (first + i) % n
    match insts.findSome? fun i => let (cores, s) := s.restCores t (levelCores t.colevel i); s.putAll t cores rs with
    | some s => keep s rs
    | none => s

/-- The end of a restore: the context's clock goes on at or above SAVE_CLOCK. -/
def Tenant.endRestore (t : Tenant) (clock : Nat) : Tenant := { t with phase := .idle, clkOff := t.restClk - clock, restClk := 0 }

/-- The blocks of a restored image that cores have room for are placed; with all placed the command is over. -/
def State.placeRest (s : State) (tenant : Nat) : State :=
  let s := s.forEach (s.tenantTasks tenant) fun t s =>
    let rs := (s.tenant tenant).rest.filter fun r => r.block.task == t.id
    if rs.isEmpty then s else s.placeTask t rs
  if (s.tenant tenant).rest.isEmpty then (s.updTenant tenant fun t => t.endRestore s.clock).preResult tenant 1 else s

/-- RESTORE: an image that passes the checks is reinstated, and its blocks are placed. A tenant under a function-level reset takes no image (22
R425). -/
def State.startRestore (s : State) (tenant : Nat) : State :=
  if (s.tenant tenant).flr then s.preResult tenant 3
  else
  match s.settleOp (checkImage tenant) with
  | (some (.ok p), s) =>
    match s.reinstate tenant p with
    | none => s.preResult tenant 4
    | some s => s.placeRest tenant
  | (some (.refused code), s) => s.preResult tenant code
  | (_, s) => s.loseContext tenant

/-- A command of TMC_PRE. -/
def State.startPre (s : State) (tenant cmd : Nat) (v : Dword) (run : State → State) : State :=
  if bit (s.tenant tenant).pre.toNat 0 || fld v.toNat 3 2 != cmd || !bit v.toNat 0 then s else run (s.preFields tenant v)

/-! ## Meanings -/

def execSave (tenant : Nat) (v : Dword) (s : State) : Host.Outcome State Fault Refusal :=
  .next (s.startPre tenant 0 v fun s => s.startSave tenant)
def execSaveBlockStop (block : Nat) (s : State) : Host.Outcome State Fault Refusal := .next (s.stopBlock block)
def execSaveComplete (tenant : Nat) (s : State) : Host.Outcome State Fault Refusal := .next (s.completeSave tenant)
/-- A restore whose blocks wait for cores goes on with the event, whatever the value. -/
def execRestore (tenant : Nat) (v : Dword) (s : State) : Host.Outcome State Fault Refusal :=
  .next (if (s.tenant tenant).phase == .restoring then s.placeRest tenant else s.startPre tenant 1 v fun s => s.startRestore tenant)

end Sys2Proof.Machine
end

