-- ==== Sys2Proof/Machine/Restart.lean ====
section
/-! DEFINITION. Errors that lose a wave or a block's accumulators, the restart of a block, and the stall samples of Visor (17 R376, R377; 18
R397, R398). -/
namespace Sys2Proof.Machine

/-! ## Errors (17 R374, R376, R377) -/

/-- REGISTER_FILE_ERROR: the wave's threads are discarded and its task aborts. -/
def State.loseWave (s : State) (ref : WaveRef) : State :=
  match s.wave? ref with
  | none => s
  | some w =>
    let s := s.dieError (dieOfCore ref.core) 1 0
    let s := match s.blockOf w with | some b => s.markAbort b.task ⟨3, cCONTEXT_ERROR, 0, 0⟩ | none => s
    let s := s.updWave ref fun w => { w with threads := w.threads.map fun t => { t.seal with status := .exited } }
    ((s.endWaves w.block).endBlock w.block).sweepHeld.sweepFaults

/-- ACC_ERROR: the die counts the error, the block's engine operations go, and it is to restart. -/
def State.accError (s : State) (blk : Nat) : State :=
  match s.block? blk with
  | none => s
  | some b => (s.dieError (dieOfCore b.core) 5 0).loseAcc blk cACC_ERROR

/-- BLOCK_RESTART: what was in flight has drained. -/
def State.resumeBlock (s : State) (blk : Nat) : State :=
  match s.block? blk with
  | none => s
  | some b =>
    if b.restarting == 0 then s
    else if b.givesUp then s.abortBlock b b.restarting
    else if s.drained blk then s.restartBlock blk
    else s

/-! ## Stall samples (18 R397, R398) -/

/-- The thread that a sample of a wave names: the lowest-numbered of the threads at the lowest PC. -/
def Wave.sampled (w : Wave) : Option (Nat × Thread) :=
  ((w.threads.mapIdx fun i t => (i, t)).filter fun p => p.2.status != .exited).foldl (fun m p =>
    match m with
    | none => some p
    | some q => if p.2.pc.toNat < q.2.pc.toNat then some p else some q) none

/-- What a sample says: a reason and the PC to blame; a reason the rule does not name is free. -/
inductive Stall where
  | known (reason blame : Nat)
  | busy
  | unnamed
  deriving DecidableEq, Repr

/-- The PC of the oldest posting of a list of operations. -/
def blamePc (l : List Poster) : Nat := ((l.head?).map (·.pc)).getD 0

/-- The stall of a waiting thread. -/
def State.waitStall (s : State) (r : ThreadRef) (blk : Nat) (w : Wait) : Stall :=
  match w with
  | .msync t _ => .known 2 (blamePc ((s.mats.filter fun o => o.by_.block == some blk && covered (t % 2 ^ 32) (t / 2 ^ 32) o.ticket).map (·.by_)))
  | .barrier _ _ _ => .known 3 0
  | .sync _ _ => .known 4 0
  | .waitw .. => .known 5 0
  | .curq _ _ _ => .known 5 0
  | .cwait _ => .known 6 (blamePc ((s.copies.filter fun c => c.by_.thread == some r).map (·.by_)))
  | .nap _ => .known 10 0
  | .reggrw _ => .known 10 0
  | .gcmp _ => .unnamed
  | .moves _ _ => .unnamed

/-- The stall of a held thread. -/
def State.holdStall (s : State) (r : ThreadRef) (h : Hold) : Stall :=
  match h with
  | .posting _ => .known 7 0
  | .copyQueue _ => .known 7 0
  | .batchLimit => .known 6 (blamePc ((s.copies.filter fun c => c.by_.thread == some r).map (·.by_)))
  | .strand => .known 9 0
  | .saving => .known 13 0
  | _ => .unnamed

/-- The stall of a wave's sampled thread. -/
def State.stallOf (s : State) (r : ThreadRef) (w : Wave) (t : Thread) : Stall :=
  match w.threads.find? fun x => match x.status with | .parked _ _ _ => true | _ => false with
  | some x => .known 8 x.pc.toNat
  | none =>
    if t.stopped then .known 13 0
    else
      match t.status with
      | .waiting x _ => s.waitStall r w.block x
      | .held h => s.holdStall r h
      | .pending _ => .known 8 t.pc.toNat
      | .heldFault _ => .known 8 t.pc.toNat
      | _ => .busy

/-- The reason and blame of a stall. A ready wave may have issued, or wait for its scoreboard, its fetch or its turn: which, and the
producer, is free, since the model keeps no pipeline (00 R6). -/
def State.stallCode (s : State) (x : Stall) : (Nat × Nat) × State :=
  match x with
  | .known r b => ((r, b), s)
  | .busy =>
    let (w, s) := s.drawWord
    let (p, s) := s.drawWord
    let r := [0, 1, 11, 12].getD (w % 4) 0
    ((r, if r == 1 then p else 0), s)
  | .unnamed =>
    let (w, s) := s.drawWord
    ((w % 14, 0), s)

/-- A wave of a core sampled. -/
def State.sampleWave (s : State) (w : Wave) : State :=
  match w.sampled with
  | none => s
  | some (i, t) =>
    let r : ThreadRef := ⟨w.ref, i⟩
    let ((reason, blame), s) := s.stallCode (s.stallOf r w t)
    s.visWrite r { type := 1, pc := t.pc.toNat, aux := blame, reason }

/-- A tenant's waves on a core. -/
def State.coreWaves (s : State) (core tenant : Nat) : List Wave := s.waves.filter fun w => w.ref.core == core && s.tenantOfWave w == tenant

/-- A sample of a tenant is due on a core: an interval of its PERIOD has ended since the last one. -/
def State.sampleDue (s : State) (core tenant : Nat) : Bool :=
  let v := (s.tenant tenant).vis.toNat
  let n := 2 ^ (fld v 7 4 + 8)
  bit v 0 && bit v 1 && !(s.coreWaves core tenant).isEmpty && decide (lookupD (s.core core).visorAt tenant 0 / n < s.clock / n)

/-- VISOR_SAMPLE: one resident wave, a free one, of each tenant whose interval has ended. -/
def State.sampleCore (s : State) (core : Nat) : State :=
  s.forEach (List.range 64) fun tenant s =>
    if s.sampleDue core tenant then
      let ws := s.coreWaves core tenant
      let n := Config.choice s.free
      let s : State := { s with free := s.free + 1 }
      let s := s.updCore core fun c => { c with visorAt := setKey c.visorAt tenant s.clock }
      match ws[n % ws.length]? with
      | some w => s.sampleWave w
      | none => s
    else s

/-! ## Meanings -/

def execRegisterFileError (w : WaveRef) (s : State) : Host.Outcome State Fault Refusal := .next (s.loseWave w)
def execAccError (block : Nat) (s : State) : Host.Outcome State Fault Refusal := .next (s.accError block)
def execBlockRestart (block : Nat) (s : State) : Host.Outcome State Fault Refusal := .next (s.resumeBlock block)
def execVisorSample (core : Nat) (s : State) : Host.Outcome State Fault Refusal := .next (s.sampleCore core)

end Sys2Proof.Machine
end

