-- ==== Sys2Proof/Machine/Registers.lean ====
section
/-! DEFINITION. The register space: contexts, function-level reset, partitions, host tasks, rings, counters and logs, and the write of any
register of the map (22 R416, R420-R427). -/
namespace Sys2Proof.Machine

/-- A register with the RW bits of a mask written. -/
def rwBits (old v : Dword) (mask : Nat) : Dword := (old &&& ~~~BitVec.ofNat 64 mask) ||| (v &&& BitVec.ofNat 64 mask)

/-- The mask of bits [hi:lo]. -/
def span (hi lo : Nat) : Nat := 2 ^ (hi + 1) - 2 ^ lo

/-! ## Selectors of counters (18 R400) -/

/-- n free 16-bit values. -/
def State.freeSels (s : State) : Nat → List Nat × State
  | 0 => ([], s)
  | n + 1 =>
    let (w, s) := s.drawWord
    let (l, s) := State.freeSels s n
    (w % 65536 :: l, s)

/-- The selector table read; where it cannot be read the selectors are free. -/
def State.loadSels (s : State) (tenant : Nat) : State :=
  match s.settleOp (areaRead tenant 4 (fld (s.tenant tenant).perfsel.toNat 59 6 * 64) 160) with
  | (some (some bs), s) => s.updTenant tenant fun t => { t with perfSels := (List.range 80).map fun i => bytesAt bs (2 * i) 2 }
  | (_, s) =>
    let (l, s) := s.freeSels 80
    s.updTenant tenant fun t => { t with perfSels := l }

/-- TMC_PERFSEL written. -/
def State.writePerfsel (s : State) (tenant : Nat) (v : Dword) : State :=
  (s.updTenant tenant fun t => { t with perfsel := rwBits t.perfsel v (span 59 6) }).loadSels tenant

/-! ## Contexts (22 R421, R422) -/

/-- The versions that a tenant chooses, in the order of 00 R11. -/
def Tenant.choices (t : Tenant) : List Nat :=
  [t.verTask, t.verTensor, t.verHeader, t.verImage, fld t.verb.toNat 15 0, fld t.verb.toNat 31 16]

/-- Every choice lies in this module's range and in the range of every peer whose link is up. -/
def State.versionsOk (s : State) (t : Tenant) : Bool :=
  (List.range 6).all fun i =>
    let c := t.choices.getD i 0
    let r := (s.capver.getD i 0).toNat
    decide (fld r 15 0 ≤ c) && decide (c ≤ fld r 31 16)
      && (List.range 8).all fun k =>
        !(k != moduleOrd && s.peersUp.getD k false)
          || (decide ((Config.peerVersions k i).1 ≤ c) && decide (c ≤ (Config.peerVersions k i).2))

/-- RESULT of TMC_CTL. -/
def State.ctlResult (s : State) (tenant code : Nat) : State := s.updTenant tenant fun t => { t with ctl := setBits t.ctl 63 56 code }

/-- A write of EN = 1. A context that exists is left as it is. -/
def State.createContext (s : State) (tenant : Nat) : State :=
  let t := s.tenant tenant
  if t.flr then s.ctlResult tenant 3
  else if t.en then s
  else if !s.versionsOk t then s.ctlResult tenant 2
  else
    let s := s.updTenant tenant fun t =>
      { t with ctl := setBits (setBits t.ctl 63 56 1) 0 0 1, tensors := [], clkOff := 0, perfCore := List.replicate 16 0
               perfHub := List.replicate 4 (List.replicate 64 0), copyRem := [0, 0, 0, 0] }
    s.loadSels tenant

/-! ## Function-level reset (22 R425) -/

/-- A request of a Cuff's queue that belongs to a tenant: of a thread or an engine operation of its own, or a record of the pool for it. -/
def State.heldOf (s : State) (tenant : Nat) (q : HeldReq) : Bool :=
  match q.by_ with
  | .thread r => (s.wave? r.wave).any fun w => s.tenantOfWave w == tenant
  | .op id => s.mats.any (fun o => o.id == id && o.by_.tenant == tenant) || s.copies.any (fun c => c.id == id && c.by_.tenant == tenant)
      || s.nms.any fun c => c.id == id && c.by_.tenant == tenant
  | .data t _ _ _ => t == tenant
  | _ => false

/-- Steps 1 to 4: dispatch stops, and everything of the tenant that runs or waits is removed without effect or record. -/
def State.startFlr (s : State) (tenant : Nat) : State :=
  if tenant < 64 then
    let was := s
    let s := s.forEach (s.tenantBlocks tenant) fun b s => s.dropBlock b.id
    let ids := (s.mats.filter fun o => o.by_.tenant == tenant).map (·.id)
    let s : State :=
      { s with
        tasks := s.tasks.filter fun t => t.tenant != tenant
        loops := s.loops.filter fun l => l.tenant != tenant
        mats := s.mats.filter fun o => o.by_.tenant != tenant
        copies := s.copies.filter fun c => c.by_.tenant != tenant
        nms := s.nms.filter fun c => c.by_.tenant != tenant
        engines := s.engines.map fun e => { e with run := e.run.filter fun i => !ids.contains i }
        faults := s.faults.filter fun e => e.tenant != tenant
        badPages := s.badPages.filter fun p => p.1 != tenant
        moves := s.moves.map fun m => { m with held := m.held.filter fun q => !was.heldOf tenant q } }
    let s := if (s.tenant tenant).phase == .idle then s else s.preResult tenant 3
    s.updTenant tenant fun t =>
      { t with ctl := setBits t.ctl 2 2 1, early := [], hostQ := [], taken := [], rest := [], phase := .idle, restClk := 0 }
  else s

/-- FLR_COMPLETE: no flit of the tenant remains. -/
def State.endFlr (s : State) (tenant : Nat) : State :=
  if (s.tenant tenant).flr then
    s.updTenant tenant fun t => { t with ctl := setBits (setBits t.ctl 2 2 0) 0 0 0, tensors := [] }
  else s

/-- TMC_CTL written: HIRQ, WEIGHT, and PART unless a partition change runs; then FLR and EN act. -/
def State.writeCtl (s : State) (tenant : Nat) (v : Dword) : State :=
  let part := if bit s.modPart.toNat 0 then 0 else span 27 26
  let s := s.updTenant tenant fun t => { t with ctl := rwBits t.ctl v (span 46 28 ||| part) }
  let s := if bit v.toNat 2 then s.startFlr tenant else s
  if bit v.toNat 0 then s.createContext tenant else s

/-! ## Partitions (22 R423, R424) -/

/-- Partitions of a mode. -/
def partitionsOf (mode : Nat) : Nat := [1, 2, 4].getD mode 0

/-- MOD_PART with a RESULT and BUSY. -/
def State.partResult (s : State) (code busy : Nat) : State := { s with modPart := setBits (setBits s.modPart 63 56 code) 0 0 busy }

/-- The hubs whose partition a change affects. -/
def State.heldHubs (s : State) : List Nat := (List.range 4).filter fun h => s.partHeld h

/-- A tenant has a block on the cores of held hubs. -/
def State.inHeld (s : State) (tenant : Nat) : Bool :=
  (s.tenantBlocks tenant).any fun b => s.partHeld (hubOfDie (dieOfCore b.core))

/-- MOD_PART written. -/
def State.writePart (s : State) (v : Dword) : State :=
  if bit s.modPart.toNat 0 then s
  else
    let req := fld v.toNat 3 2
    let s : State := { s with modPart := setBits s.modPart 3 1 (fld v.toNat 3 1) }
    if !bit v.toNat 0 || req == 3 then s
    else if s.tenants.any fun t => t.en && decide (partitionsOf req ≤ t.part) then s.partResult 3 0
    else
      let s := s.partResult 2 1
      if bit v.toNat 1 then
        s.forEach (List.range 64) fun t s =>
          if s.inHeld t && !bit (s.tenant t).pre.toNat 0 then
            (s.updTenant t fun n => { n with pre := setBits (setBits n.pre 3 2 0) 0 0 1 }).startSave t
          else s
      else s

/-- A task of a held hub's slice has been dispatched and has not ended. The blocks of a kernel and of a loop's instances stand for it. -/
def State.dispatchedIn (s : State) (t : Task) : Bool :=
  s.partHeld t.slice && ((t.kind != 0 && t.kind != 4 && (t.phase == .running || t.phase == .ending)) || !t.pending.isEmpty)

/-- PARTITION_CHANGE_COMPLETE. -/
def State.endPart (s : State) : State :=
  let r := s.modPart.toNat
  if !bit r 0 || fld r 63 56 != 2 || s.blocks.any (fun b => s.partHeld (hubOfDie (dieOfCore b.core))) || s.tasks.any s.dispatchedIn then s
  else ({ s with modPart := setBits s.modPart 5 4 (fld r 3 2) } : State).partResult 1 0

/-! ## Host tasks (22 R420) -/

/-- The address of a register of a tenant. -/
def tenantReg (tenant o : Nat) : Nat := 0x00C0000001000000 + 0x1000 * tenant + o

/-- HTASK_TAKE: a hart's read of TMC_HTASK. A read from U-mode is an access fault (22 R416). -/
def State.takeTask (s : State) (hart rd tenant : Nat) : State :=
  if (s.hart hart).mode == .u then s.hartExc hart (.accessFault (tenantReg tenant 0xA8))
  else
    let a := ((s.tenant tenant).hostQ.head?).getD 0
    let s := s.updTenant tenant fun t => { t with hostQ := t.hostQ.drop 1, taken := t.taken ++ t.hostQ.take 1 }
    s.updHart hart fun h => h.write (Fin.ofNat 32 rd) a

/-- TMC_HDONE written: a taken task completes; any other address is ignored. -/
def State.finishHostTask (s : State) (tenant : Nat) (v : Dword) : State :=
  let addr := fld v.toNat 63 7 * 128
  let t := s.tenant tenant
  if t.taken.contains addr then
    let s := s.updTenant tenant fun t =>
      { t with hdone := rwBits t.hdone v (span 63 7 ||| span 2 0), taken := t.taken.filter (· != addr) }
    match s.liveTask? tenant addr with
    | some t => s.endTask t.id ⟨if fld v.toNat 2 0 == 1 then 1 else 3, 0, 0, 0⟩
    | none => s
  else s

/-! ## Event ring (22 R420) -/

/-- TMC_EVQ written: a ring that changes or goes off starts empty. -/
def State.writeEvq (s : State) (tenant : Nat) (v : Dword) : State :=
  s.updTenant tenant fun t =>
    let q := rwBits t.evq v (span 59 8 ||| 1)
    let fresh := !bit q.toNat 0 || fld q.toNat 59 8 != fld t.evq.toNat 59 8
    { t with evq := q, evqhead := if fresh then setBits t.evqhead 31 0 (fld t.evqhead.toNat 63 32) else t.evqhead }

/-- HEAD of the event ring written, unless the ring would hold more than its entries. -/
def State.writeEvqHead (s : State) (tenant : Nat) (v : Dword) : State :=
  s.updTenant tenant fun t =>
    let tail := fld t.evqhead.toNat 63 32
    let head := fld v.toNat 31 0
    if 2 ^ (fld t.evq.toNat 11 8 + 6) < (tail + 2 ^ 32 - head) % 2 ^ 32 then t
    else { t with evqhead := setBits t.evqhead 31 0 head }

/-! ## Dirty log (22 R427) -/

/-- Lines that a cache may write, or has written, recalled. The directory keeps no tenant, so every such line is (log entry 34). -/
def State.recallOwned (s : State) : State :=
  s.forEach (s.dir.filter fun e => e.state == .e || e.state == .m) fun e s => s.recall e.line

/-- TMC_DIRTY written. -/
def State.writeDirty (s : State) (tenant : Nat) (v : Dword) : State :=
  let was := bit (s.tenant tenant).dirty.toNat 0
  let s := s.updTenant tenant fun t => { t with dirty := rwBits t.dirty v (span 63 21 ||| 1) }
  if bit v.toNat 0 && !was then s.recallOwned else s

/-! ## Writes of registers (22 R416) -/

/-- TMC_PRE written. -/
def State.writePre (s : State) (tenant : Nat) (v : Dword) : State :=
  if bit (s.tenant tenant).pre.toNat 0 then s
  else
    match bit v.toNat 0, fld v.toNat 3 2 with
    | true, 0 => (s.preFields tenant v).startSave tenant
    | true, 1 => (s.preFields tenant v).startRestore tenant
    | _, _ => s.preFields tenant (setBits v 0 0 0)

/-- A tenant's register at an offset written. -/
def State.writeTenant (s : State) (n o : Nat) (v : Dword) : State :=
  let upd := fun (f : Tenant → Tenant) => s.updTenant n f
  match o with
  | 0x000 => s.writeCtl n v
  | 0x008 => upd fun t => if t.en then t else { t with vera := v }
  | 0x010 => upd fun t => if t.en then t else { t with verb := rwBits t.verb v (span 31 0) }
  | 0x018 => upd fun t => { t with root := rwBits t.root v (span 55 15 ||| 1 ||| if t.en then 0 else span 12 4) }
  | 0x020 => upd fun t => { t with priv := rwBits t.priv v (span 59 16) }
  | 0x028 => upd fun t => { t with privsz := rwBits t.privsz v (span 31 16 ||| span 12 0) }
  | 0x030 => upd fun t => { t with tid := rwBits t.tid v (span 55 19 ||| 1) }
  | 0x038 => upd fun t => { t with ddw := rwBits t.ddw v (span 59 7 ||| 1) }
  | 0x040 => upd fun t => { t with fq := rwBits t.fq v (span 59 12 ||| span 7 4 ||| 1) }
  | 0x048 => upd fun t => { t with fqhead := rwBits t.fqhead v (span 15 0) }
  | 0x050 => upd fun t => { t with trap := rwBits t.trap v (span 59 2 ||| 1) }
  | 0x058 => upd fun t => { t with save := rwBits t.save v (span 59 7) }
  | 0x060 => s.writePre n v
  | 0x068 => upd fun t => { t with vis := rwBits t.vis v (span 59 0) }
  | 0x070 => upd fun t => { t with vishead := rwBits t.vishead v (span 31 0) }
  | 0x078 => upd fun t => { t with watch := t.watch.set 0 v }
  | 0x080 => upd fun t => { t with watch := t.watch.set 1 v }
  | 0x088 => upd fun t => { t with watch := t.watch.set 2 v }
  | 0x090 => upd fun t => { t with watch := t.watch.set 3 v }
  | 0x098 => s.writePerfsel n v
  | 0x0A0 => s.writeEvq n v
  | 0x0B0 => s.finishHostTask n v
  | 0x0B8 => s.writeDirty n v
  | 0x0C0 => s.writeEvqHead n v
  | _ => s

/-- ERRSTAT written: CE and UE take the values, UE_PEND is cleared by a 1 (17 R374). -/
def errWrite (old v : Dword) : Dword :=
  setBits (rwBits old v (span 63 16)) 0 0 (if bit v.toNat 0 then 0 else fld old.toNat 0 0)

/-- HUB_FSTQ written: a command, or its fields alone. -/
def State.writeFstq (s : State) (h : Nat) (v : Dword) : State :=
  if bit (s.hub h).fstq.toNat 45 then s
  else
    match bit v.toNat 45, fld v.toNat 47 46 with
    | true, 0 => s.fstqReload h v
    | true, 1 => s.fstqRead h v
    | true, 2 => s.fstqWrite h v
    | _, _ => s.updHub h fun x => { x with fstq := rwBits x.fstq v (span 63 46 ||| span 43 0) }

/-- TLBINV written: a command, or its fields alone; KIND 3 is ignored. -/
def State.writeTlbinv (s : State) (h : Nat) (v : Dword) : State :=
  if bit (s.hub h).tlbinv.toNat 0 then s
  else
    match fld v.toNat 2 1, bit v.toNat 0 with
    | 3, _ => s
    | 0, true => s.startTlbinv h 0 v fun t => t.ofPage v
    | 1, true => s.startTlbinv h 1 v fun t => t.ofAsid v
    | _, true => s.startTlbinv h 2 v fun _ => true
    | _, false => s.updHub h fun x => { x with tlbinv := rwBits x.tlbinv v (span 59 1) }

/-- HUB_FLTRES written: a command, or its fields alone. -/
def State.writeFltres (s : State) (h : Nat) (v : Dword) : State :=
  if bit (s.hub h).fltres.toNat 31 then s
  else
    match bit v.toNat 31, fld v.toNat 30 29 with
    | true, 0 => s.runFltres h 0 v
    | true, 1 => s.runFltres h 1 v
    | _, _ => s.updHub h fun x => { x with fltres := rwBits x.fltres v (span 30 29 ||| span 17 0) }

/-- A hub's register at an offset written. -/
def State.writeHub (s : State) (h o : Nat) (v : Dword) : State :=
  let upd := fun (f : Hub → Hub) => s.updHub h f
  if o < 0x50 then upd fun x => { x with fst := x.fst.modify (o / 8) fun r => rwBits r v (span 55 12 ||| 1) }
  else
    match o with
    | 0x50 => s.writeFstq h v
    | 0x58 => upd fun x => { x with migctl := rwBits x.migctl v (span 47 16 ||| 1) }
    | 0x60 => upd fun x => { x with rings := rwBits x.rings v (span 55 10 ||| 1) }
    | 0x68 => s.writeTlbinv h v
    | 0x70 => s.writeFltres h v
    | 0x78 => upd fun x => { x with errstat := errWrite x.errstat v }
    | _ => s

/-- POOL_CMD written: a command, or its fields alone. -/
def State.writePoolCmd (s : State) (v : Dword) : State :=
  if bit s.poolCmd.toNat 0 then s
  else
    match bit v.toNat 0, fld v.toNat 3 2 with
    | true, 0 => s.startCmd v State.serveAcquire
    | true, 1 => s.startCmd v State.serveShare
    | _, _ => s.poolCmdFields v

/-- CROWN_CTE of an entry written. -/
def State.writeCte (s : State) (n : Nat) (v : Dword) : State :=
  match cteCmd v with
  | 1 => s.cteUp n v
  | 2 => s.cteDown n v
  | _ => s.updCte n fun c => c.fields v

/-- A register of the module at an offset written. MOD_CAPVER and unassigned offsets ignore writes. -/
def State.writeModule (s : State) (o : Nat) (v : Dword) : State :=
  if 0x200000 ≤ o then
    (if (o - 0x200000) % 0x100 == 0 then
       { s with wstat := s.wstat.modify ((o - 0x200000) / 0x100) fun r => rwBits r v (span 63 48) } else s)
  else if 0x100000 ≤ o then s.writeCte ((o - 0x100000) / 8) v
  else
    match o with
    | 0x00 => s.writePart v
    | 0x38 => s.attestWrite v
    | 0x40 => s.vaultRead v
    | 0x48 => { s with poolOwt := rwBits s.poolOwt v (1 ||| if bit s.poolOwt.toNat 0 then 0 else span 47 12) }
    | 0x50 => s.writePoolCmd v
    | _ => s

/-! ## Reads of registers (22 R416) -/

/-- A tenant's register at an offset. TMC_HTASK is read by `takeTask`. -/
def Tenant.readReg (t : Tenant) (o : Nat) : Dword :=
  match o with
  | 0x000 => t.ctl
  | 0x008 => t.vera
  | 0x010 => t.verb
  | 0x018 => t.root
  | 0x020 => t.priv
  | 0x028 => t.privsz
  | 0x030 => t.tid
  | 0x038 => t.ddw
  | 0x040 => t.fq
  | 0x048 => t.fqhead
  | 0x050 => t.trap
  | 0x058 => t.save
  | 0x060 => t.pre
  | 0x068 => t.vis
  | 0x070 => t.vishead
  | 0x078 => t.watch.getD 0 0
  | 0x080 => t.watch.getD 1 0
  | 0x088 => t.watch.getD 2 0
  | 0x090 => t.watch.getD 3 0
  | 0x098 => t.perfsel
  | 0x0A0 => t.evq
  | 0x0B0 => t.hdone
  | 0x0B8 => t.dirty
  | 0x0C0 => t.evqhead
  | _ => 0

/-- A hub's register at an offset. -/
def Hub.readReg (h : Hub) (o : Nat) : Dword :=
  if o < 0x50 then (if o % 8 == 0 then h.fst.getD (o / 8) 0 else 0)
  else
    match o with
    | 0x50 => h.fstq
    | 0x58 => h.migctl
    | 0x60 => h.rings
    | 0x68 => h.tlbinv
    | 0x70 => h.fltres
    | 0x78 => h.errstat
    | 0x80 => h.erraddr
    | _ => 0

/-- A register of the module at an offset. -/
def State.readModule (s : State) (o : Nat) : Dword :=
  if 0x200000 ≤ o then (if (o - 0x200000) % 0x100 == 0 then s.wstat.getD ((o - 0x200000) / 0x100) 0 else 0)
  else if 0x100000 ≤ o then (s.cte ((o - 0x100000) / 8)).reg
  else
    match o with
    | 0x00 => s.modPart
    | 0x38 => s.attest
    | 0x40 => s.vaultrd
    | 0x48 => s.poolOwt
    | 0x50 => s.poolCmd
    | _ => if decide (0x08 ≤ o) && decide (o ≤ 0x30) then s.capver.getD (o / 8 - 1) 0 else 0

/-- An aligned read of 8 bytes of register space; an unassigned address reads 0. -/
def State.readRegister (s : State) (pa : Nat) : Dword :=
  if pa / 2 ^ 54 != 3 || pa % 8 != 0 then 0
  else
    let o := pa % 2 ^ 54
    if o < 0x1000000 then s.readModule o
    else if o < 0x1000000 + 0x1000 * 64 then (s.tenant ((o - 0x1000000) / 0x1000)).readReg (o % 0x1000)
    else if 0x2000000 ≤ o && o < 0x2000000 + 0x10000 * 4 then (s.hub ((o - 0x2000000) / 0x10000)).readReg (o % 0x10000)
    else if 0x3000000 ≤ o && o < 0x3000000 + 0x10000 * 8 then
      match o % 0x10000 with
      | 0 => (s.die ((o - 0x3000000) / 0x10000)).errstat
      | 8 => (s.die ((o - 0x3000000) / 0x10000)).erraddr
      | _ => 0
    else 0

/-- REGISTER_WRITE: an aligned write of 8 bytes to register space; an unassigned address ignores it. -/
def State.writeRegister (s : State) (pa : Nat) (v : Dword) : State :=
  if pa / 2 ^ 54 != 3 || pa % 8 != 0 then s
  else
    let o := pa % 2 ^ 54
    if o < 0x1000000 then s.writeModule o v
    else if o < 0x1000000 + 0x1000 * 64 then s.writeTenant ((o - 0x1000000) / 0x1000) (o % 0x1000) v
    else if 0x2000000 ≤ o && o < 0x2000000 + 0x10000 * 4 then s.writeHub ((o - 0x2000000) / 0x10000) (o % 0x10000) v
    else if 0x3000000 ≤ o && o < 0x3000000 + 0x10000 * 8 && o % 0x10000 == 0 then
      s.updDie ((o - 0x3000000) / 0x10000) fun d => { d with errstat := errWrite d.errstat v }
    else s

/-! ## Meanings -/

def execContextCreate (tenant : Nat) (v : Dword) (s : State) : Host.Outcome State Fault Refusal :=
  .next (if bit v.toNat 0 then s.writeCtl tenant v else s)
def execFlr (tenant : Nat) (v : Dword) (s : State) : Host.Outcome State Fault Refusal :=
  .next (if bit v.toNat 2 then s.writeCtl tenant v else s)
def execFlrComplete (tenant : Nat) (s : State) : Host.Outcome State Fault Refusal := .next (s.endFlr tenant)
def execPartitionChange (v : Dword) (s : State) : Host.Outcome State Fault Refusal := .next (s.writePart v)
def execPartitionChangeComplete (s : State) : Host.Outcome State Fault Refusal := .next s.endPart
def execHtaskTake (hart rd tenant : Nat) (s : State) : Host.Outcome State Fault Refusal := .next (s.takeTask hart rd tenant)
def execHdone (tenant : Nat) (v : Dword) (s : State) : Host.Outcome State Fault Refusal := .next (s.finishHostTask tenant v)
def execEvqConfigWrite (tenant : Nat) (v : Dword) (s : State) : Host.Outcome State Fault Refusal := .next (s.writeEvq tenant v)
def execEvqHeadWrite (tenant : Nat) (v : Dword) (s : State) : Host.Outcome State Fault Refusal := .next (s.writeEvqHead tenant v)
def execPerfselLoad (tenant : Nat) (v : Dword) (s : State) : Host.Outcome State Fault Refusal := .next (s.writePerfsel tenant v)
def execDirtyLogEnable (tenant : Nat) (v : Dword) (s : State) : Host.Outcome State Fault Refusal :=
  .next (if bit v.toNat 0 then s.writeDirty tenant v else s)
def execRegisterWrite (pa : Nat) (v : Dword) (s : State) : Host.Outcome State Fault Refusal := .next (s.writeRegister pa v)

end Sys2Proof.Machine
end

