-- ==== Sys2Proof/Machine/HostAccess.lean ====
section
/-! DEFINITION. What a hart's own instructions ask of the device: loads, stores, AMOs, LR and SC of memory, reads and writes of register
space, fences, and reads of htenant (11 R282; 13 R309; 22 R415-R417). -/
namespace Sys2Proof.Machine

/-! ## Where an access goes (22 R415, R416) -/

/-- The misaligned exception of an access. -/
def hartMisaligned (write : Bool) : HExc := if write then .storeMisaligned else .loadMisaligned

/-- The RISC-V exception of a fault of a hart's own access: the page fault of its class; data that is poisoned is an access fault (22 R415;
PRESUMED, log entry 30). -/
def hartExcOf (write : Bool) (f : FInfo) : HExc :=
  if f.code == cPOISON then .accessFault f.addr
  else if write then .storePageFault f.addr
  else .loadPageFault f.addr

/-- Whether a hart that does not translate through the tables of 10 R252 may reach a register: from M-mode, or from S-mode where PMP grants
access (22 R416). -/
def Hart.reaches (h : Hart) (pa : Nat) : Bool := h.mode == .m || h.mode == .s && Config.pmpGrants pa

/-- A hart that does not translate names an address of register space. -/
def Hart.atRegister (h : Hart) (va : Nat) : Bool := !h.translates && spaceOf va == 3 && decide (va < 2 ^ 56)

/-! ## Memory (11 R282) -/

/-- The access context of a hart at a level: an acquire of system scope completes at the home (11 R265). -/
def State.hartCtx (s : State) (n : Nat) (acquire : Bool) : Self :=
  let c := s.hartSelf n
  if acquire then { c with who := { c.who with level := 2 } } else c

/-- The pieces of an access of n bytes: one in each line. -/
def hartPieces (va n : Nat) : List (Nat × Nat) :=
  let k := 64 - va % 64
  if n ≤ k then [(va, n)] else [(va, k), (va + k, n - k)]

/-- The memory that an access names, with its leaf, 0 where none was used. A hart in another translation mode, whose tables the spec does not
give, names the physical address itself (log entry 88). -/
def hartMem (n : Nat) (a : Access) (write : Bool) (va : Nat) : Op (Nat × Nat) := do
  let s ← get
  let w := s.hartWho n false
  let (pa, leaf) ← if !(s.hart n).translates then pure (va, 0) else if write then translateWrite w a va else translate w a va
  if pa < 2 ^ 56 && paLegal pa then pure (pa, leaf) else throw (.fault (poisonFault a 0 va))

/-- Bytes of a plain load: each line's are read at once (11 R267). -/
def hartRead (n : Nat) (a : Access) (va bytes : Nat) : Op Nat := do
  let mut out := 0
  let mut at_ := 0
  for (v, k) in hartPieces va bytes do
    let (pa, leaf) ← hartMem n a false v
    let c := (← get).hartCtx n false
    let x ← readPa c.who c.by_ a leaf pa v k
    out := out + x * 2 ^ (8 * at_)
    at_ := at_ + k
  pure out

/-- Bytes of a plain store: every page is looked at before the first byte is written. -/
def hartWrite (n va : Nat) (bs : List Byte) : Op Unit := do
  for (v, _) in hartPieces va bs.length do
    let _ ← hartMem n .store true v
  let mut rest := bs
  for (v, k) in hartPieces va bs.length do
    let (pa, leaf) ← hartMem n .store true v
    let c := (← get).hartCtx n false
    writePa c.who c.by_ leaf pa (rest.take k) false
    rest := rest.drop k

/-- What an AMO stores: the word is of n bytes (PRESUMED, log entry 80). -/
def amoNew (op : AmoOp) (n m v : Nat) : Nat :=
  match op with
  | .swap => v
  | .add => (m + v) % 2 ^ (8 * n)
  | .xor => m ^^^ v
  | .and => m &&& v
  | .or => m ||| v
  | .min => if sextN m (8 * n) ≤ sextN v (8 * n) then m else v
  | .max => if sextN v (8 * n) ≤ sextN m (8 * n) then m else v
  | .minu => min m v
  | .maxu => max m v

/-- An atomic of a hart: system scope, so that it is executed at the home (11 R265, R282). -/
def hartRmw (n va bytes : Nat) (f : Nat → Option Nat) : Op Nat := do
  let (pa, leaf) ← hartMem n .atomic true va
  let c := (← get).hartCtx n true
  let m ← rmwPa c false leaf pa va bytes true f
  pure (m.getD 0)

/-- A value of n bytes as a register takes it. -/
def hartValue (signed : Bool) (n x : Nat) : Nat := if signed then wrapN (sextN x (8 * n)) 64 else x

/-- A register of a hart takes what an access has read. -/
def hartResult (n : Nat) (rd : Fin 32) (x : Nat) : Op Unit := modify fun s => s.updHart n fun h => h.write rd x

/-! ## Registers (22 R416) -/

/-- A load or store of register space: naturally aligned and of 8 bytes, else an access fault. -/
def hartReg (n : Nat) (op : HartOp) (pa : Nat) : Op Unit := do
  let s ← get
  let fault : Op Unit := throw (.fault (poisonFault .load 0 pa))
  if !(s.hart n).reaches pa || pa % 8 != 0 then fault
  else
    match op with
    | .load rd 8 _ =>
      let o := pa - tenantReg 0 0
      if tenantReg 0 0 ≤ pa && o < 0x1000 * 64 && o % 0x1000 == 0xA8 then set (s.takeTask n rd.val (o / 0x1000))
      else hartResult n rd (s.readRegister pa).toNat
    | .store 8 v => set (s.writeRegister pa v)
    | _ => fault

/-! ## The access -/

/-- An AMO, LR or SC is naturally aligned. -/
def hartAligned (n : Nat) (write : Bool) (va bytes : Nat) (x : Op Unit) : Op Unit := do
  if va % bytes != 0 then modify fun s => s.hartExc n (hartMisaligned write) else x

/-- What a hart's own access does; it is in order, so a fence has no more to do (11 R282; log entry 2). -/
def hartOp (n : Nat) (op : HartOp) (va : Nat) : Op Unit := do
  match op with
  | .fence _ _ => pure ()
  | .csrRead rd csr =>
    let h := (← get).hart n
    if csr == csrHtenant && h.mode == .u then modify fun s => s.hartExc n .illegalInstruction
    else if csr == csrHtenant || csr == csrUhtenant then hartResult n rd h.htenant.toNat
    else pure ()
  | op =>
    let h := (← get).hart n
    if h.atRegister va then hartReg n op va
    else
      match op with
      | .load rd bytes signed =>
        let x ← hartRead n ((← get).hartWho n false).load va bytes
        hartResult n rd (hartValue signed bytes x)
      | .store bytes v => hartWrite n va (natBytes bytes v.toNat)
      | .amo op rd bytes v _ _ =>
        hartAligned n true va bytes do
          let m ← hartRmw n va bytes fun m => some (amoNew op bytes m (v.toNat % 2 ^ (8 * bytes)))
          hartResult n rd (hartValue true bytes m)
      | .lr rd bytes _ _ =>
        hartAligned n false va bytes do
          let (pa, leaf) ← hartMem n .load false va
          let c := (← get).hartCtx n true
          let x ← readPa c.who c.by_ .load leaf pa va bytes
          modify fun s => s.updHart n fun h => { h with resv := some (lineOf (s.route pa)) }
          hartResult n rd (hartValue true bytes x)
      | .sc rd bytes v _ _ =>
        hartAligned n true va bytes do
          let (pa, _) ← hartMem n .atomic true va
          let s ← get
          let ok := (s.hart n).resv == some (lineOf (s.route pa))
          if ok then
            let _ ← hartRmw n va bytes fun _ => some (v.toNat % 2 ^ (8 * bytes))
          modify fun s => s.updHart n fun h => { h with resv := none }
          hartResult n rd (b2n !ok)
      | _ => pure ()

/-- A class of access that writes. -/
def HartOp.writes (op : HartOp) : Bool :=
  match op with
  | .store _ _ => true
  | .amo .. => true
  | .sc .. => true
  | _ => false

/-- A hart's own access: performed, held, or an exception. What its instruction does beside it, its pc with it, comes as another input. -/
def State.hartAccess (s : State) (n : Nat) (op : HartOp) (va : Nat) : State :=
  if (s.hart n).exc.isSome then s
  else
    match hartOp n op va s with
    | .ok _ s => s.updHart n fun h => { h with held := none }
    | .error (.hold _) s => s.updHart n fun h => { h with held := some (.access op va) }
    | .error (.fault f) s => s.hartExc n (hartExcOf op.writes f)

end Sys2Proof.Machine
end

