-- ==== Sys2Proof/Machine/Pair.lean ====
section
/-! DEFINITION. A P128 pair: two operations of one thread that read before either writes (03 R76-R78). -/
namespace Sys2Proof.Machine

/-- What an operation of a pair does in a lane: the same as its instruction alone. -/
def pairLane (op : PairOp) : Dev → LaneCtx → LaneRes :=
  match op with
  | .iadd => iaddLane
  | .isub => isubLane
  | .imul => imulLane
  | .imulh => imulhLane
  | .imad => imadLane
  | .imin => iminLane
  | .imax => imaxLane
  | .iabs => iabsLane
  | .ineg => inegLane
  | .iaddc => iaddcLane
  | .isubb => isubbLane
  | .isad => isadLane
  | .idp4 => idp4Lane
  | .and => andLane
  | .or => orLane
  | .xor => xorLane
  | .not => notLane
  | .andn => andnLane
  | .lop3 => lop3Lane
  | .shl => shlLane
  | .shr => shrLane
  | .sar => sarLane
  | .rotl => rotlLane
  | .shf => shfLane
  | .bfe => bfeLane
  | .bfi => bfiLane
  | .brev => brevLane
  | .popc => popcLane
  | .clz => clzLane
  | .ctz => ctzLane
  | .prmt => prmtLane
  | .icmp => icmpLane
  | .sel => selLane
  | .mov => movLane
  | .lea => leaLane
  | .add64 => add64Lane
  | .sub64 => sub64Lane
  | .cmp64 => cmp64Lane
  | .plop => plopLane
  | .pmov => pmovLane
  | .fadd => faddLane
  | .fsub => fsubLane
  | .fmul => fmulLane
  | .ffma => ffmaLane
  | .fmin => fminLane
  | .fmax => fmaxLane
  | .fcmp => fcmpLane

/-- One slot in a lane: nothing where its guard is false. -/
def slotRes (t : Slot) (c : LaneCtx) : LaneRes := if c.th.guard t.x.guard then pairLane t.op t.x c else .done {}

/-- A fault of slot B names it (17 R369). -/
def LaneRes.inB (r : LaneRes) : LaneRes :=
  match r with
  | .fault f => .fault { f with slotB := true }
  | r => r

/-- Both slots' results together; a fault of either is the pair's, that of slot A where both fault (log entry 29). -/
def pairRes (a b : LaneRes) : LaneRes :=
  match a, b with
  | .done x, .done y => .done { x with regs := x.regs ++ y.regs, preds := x.preds ++ y.preds, flags := x.flags ||| y.flags }
  | .done _, y => y.inB
  | x, _ => x

def pairInstr (a b : Slot) (c : LaneCtx) : LaneRes := pairRes (slotRes a c) (slotRes b c)

/-- The guard that always holds. -/
def guardAlways : Guard := ⟨false, 7⟩

/-- A thread acts in a pair where the guard of a slot is true (03 R72, R78). -/
def pairActs (a b : Slot) (t : Thread) : Bool := t.guard a.x.guard || t.guard b.x.guard

def execPair (a b : Slot) (s : State) : Host.Outcome State Fault Refusal :=
  .next (runActing (pairActs a b) 16 (fun c s => (pairInstr a b c, s)) s)

end Sys2Proof.Machine
end

