-- ==== Sys2Proof/Machine/Issue.lean ====
section
/-! DEFINITION. What the next step does: the issue turns of the quadrants and their cohorts, fetch and the decode-class faults, the
instructions of the harts, the inputs, and the choice among all that the module may do (01 R20, R21; 03 R66, R73; 06 R142-R144; 17
R365, R373-R375; 18 R387; 22 R415). -/
namespace Sys2Proof.Machine

/-- What a step is to do: run an instruction or event, nothing more than has been done, or stop. -/
inductive Plan where
  | run (i : Instr) (s : State)
  | done (s : State)
  | stop (f : Fault)
  | refuse (r : Refusal)
  deriving DecidableEq, Repr

/-! ## Cohorts (06 R142, R144; 17 R365) -/

/-- A thread may issue (06 R142). -/
def State.threadReady (s : State) (r : ThreadRef) (t : Thread) : Bool :=
  !t.stopped && match t.status with
    | .run => true
    | .replay => true
    | .held h => holdCleared s r h
    | _ => false

/-- The threads of a wave with their lanes. -/
def Wave.lanes (w : Wave) : List (Nat × Thread) := w.threads.mapIdx fun i t => (i, t)

/-- A wave issues nothing while a lane is parked, while its task aborts, and while its block restarts (17 R365, R371, R377). -/
def State.waveHalted (s : State) (w : Wave) : Bool :=
  w.threads.any (fun t => match t.status with | .parked _ _ _ => true | _ => false) || s.abortingWave w
    || (s.blockOf w).all fun b => b.restarting != 0

/-- The lanes of a wave that may issue: after the resolution of faults only those that are replayed, until the last of them has performed
its access (17 R365). -/
def State.readyLanes (s : State) (w : Wave) : List (Nat × Thread) :=
  if s.waveHalted w then []
  else (if w.parked then w.lanes.filter fun p => p.2.unreplayed else w.lanes).filter fun p => s.threadReady ⟨w.ref, p.1⟩ p.2

/-- The lower of two PCs. -/
def minPc (a b : Nat × Thread) : Nat × Thread := if b.2.pc.toNat < a.2.pc.toNat then b else a
/-- The thread that has waited longer; on equal waits the one at the lower PC. -/
def longerWait (a b : Nat × Thread) : Nat × Thread :=
  if a.2.turns < b.2.turns then b else if a.2.turns == b.2.turns then minPc a b else a

/-- pc_sel of 06 R144. -/
def pcSel (ready : List (Nat × Thread)) : Option (BitVec 60) :=
  match ready.filter fun p => decide (64 ≤ p.2.turns) with
  | p :: rest => some (rest.foldl longerWait p).2.pc
  | [] => match ready with | p :: rest => some (rest.foldl minPc p).2.pc | [] => none

/-- The cohort that a wave issues in its turn. -/
def State.cohortOf (s : State) (w : Wave) : Option Cohort :=
  let ready := s.readyLanes w
  (pcSel ready).map fun pc => ⟨w.ref, (ready.filter fun p => p.2.pc == pc).map (·.1), pc⟩

/-! ## Turns (06 R143, R144; 18 R387, R400) -/

/-- The wave of a quadrant that has the next turn, round robin in WAVEID order, with its cohort. -/
def State.turnOf (s : State) (core quad : Nat) : Option (Wave × Cohort) :=
  let last := (s.core core).lastTurn.getD quad 63
  ((List.range 64).map fun i => (last + 1 + i) % 64).findSome? fun slot =>
    if slot % 4 != quad then none
    else (s.wave? ⟨core, slot⟩).bind fun w => (s.cohortOf w).map fun c => (w, c)

/-- An issue that SAFECOUNT counts: some lane does not repeat, or replay, an instruction already counted (18 R387). -/
def Cohort.counted (c : Cohort) (w : Wave) : Bool := c.lanes.any fun i => (w.threads[i]?).any fun t => !t.retry

/-- An issue that would exceed the distance of safe points (18 R387). -/
def State.overrun (s : State) (c : Cohort) (w : Wave) : Bool :=
  c.counted w && (s.blockOf w).any fun b => b.safeDist != 0 && decide (b.safeDist ≤ w.safeCnt)

/-- The wave after a turn: ready threads that do not issue have waited one turn more. -/
def Wave.afterTurn (w : Wave) (ready : List Nat) (c : Cohort) (count : Bool) : Wave :=
  { w with
    safeCnt := if count then w.safeCnt + 1 else w.safeCnt
    threads := w.threads.mapIdx fun i t =>
      { t with turns := if c.lanes.contains i then t.turns else if ready.contains i then t.turns + 1 else 0 } }

/-- A turn taken: the quadrant's claim, the waits, SAFECOUNT, the counters. -/
def State.takeTurn (s : State) (w : Wave) (c : Cohort) (count : Bool) : State :=
  let ready := (s.readyLanes w).map (·.1)
  let tenant := s.tenantOfWave w
  let s := s.updCore w.ref.core fun k => { k with lastTurn := k.lastTurn.set (w.ref.slot % 4) w.ref.slot }
  let s := s.updWave w.ref fun w => w.afterTurn ready c count
  (s.perfCoreEvent tenant 2 1).perfCoreEvent tenant 3 c.lanes.length

/-! ## Fetch (01 R20, R21; 03 R66; 17 R375) -/

/-- Bytes from an address to the end of its fetch block. -/
def fetchRoom (pc : Nat) : Nat := 32 - pc % 32

/-- POISON of a fetch has CAUSE 1. -/
def fetchFault (f : FInfo) : FInfo := if f.code == cPOISON && f.cause == 0 then { f with cause := 1 } else f

/-- The bytes of an instruction: at most sixteen, and none beyond its fetch block. A thread fetches past its L1. -/
def fetchBytes (r : ThreadRef) (pc : Nat) : Op (List Byte) := do
  let who : Who := { ((← get).self r).who with level := 1 }
  let n := min 16 (fetchRoom pc)
  let (pa, leaf) ← translate who .fetch pc
  let x ← readPa who (.thread r) .fetch leaf pa pc n
  pure (natBytes n x)

/-! ## Decode-class faults (03 R73) -/

/-- Slot B alone raised the decode fault of a pair (17 R369). -/
def faultOfB (f : DecodeFault) (w : BitVec 128) : Bool :=
  let a := decodeSlot (w.extractLsb' 0 64)
  let b := decodeSlot (w.extractLsb' 64 64)
  w.extractLsb' 0 2 == 3 && w.extractLsb' 64 2 == 0 && match f with
    | .illegalOp => a != .illegal && b == .illegal
    | .illegalPair => a != .notPairable && b == .notPairable
    | .regRange => match a with | .good _ => true | _ => false

/-- A decode fault of the bytes at a PC. -/
def decodeFInfo (f : DecodeFault) (room : Nat) (bytes : List Byte) : FInfo :=
  { code := match f with | .illegalOp => cILLEGAL_OP | .illegalPair => cILLEGAL_PAIR | .regRange => cREG_RANGE
    slotB := decide (16 ≤ room) && faultOfB f (BitVec.ofNat 128 (leNat bytes)) }

/-- Fields of one encoding stay inside the wave's allotment. -/
def devWithin (allot opc : Nat) (x : Dev) : Bool := (formOf opc x.mod.toNat x.xmod.toNat).any fun fm => formWithin allot fm x

/-- REG_RANGE of a register beyond the wave's allotment; of a pair, slot A's first. -/
def allotFault (allot : Nat) (i : Instr) : Option FInfo :=
  match i with
  | .pair a b =>
    if !devWithin allot a.op.opcode a.x then some { code := cREG_RANGE }
    else if !devWithin allot b.op.opcode b.x then some { code := cREG_RANGE, slotB := true }
    else none
  | i => match i.dev? with
    | some (opc, x) => if devWithin allot opc x then none else some { code := cREG_RANGE }
    | none => none

/-- The instruction of a cohort, or the fault of its decoding. -/
def decodeFor (allot pc : Nat) (bytes : List Byte) : Except FInfo Instr :=
  match decode (fetchRoom pc) bytes with
  | .error f => .error (decodeFInfo f (fetchRoom pc) bytes)
  | .ok (i, _) => match allotFault allot i with | some f => .error f | none => .ok i

/-! ## Issue -/

/-- SAFEPT with a lane whose guard is true ends the distance instead of exceeding it (DEDUCED from 18 R387, 04 R119; log entry 35). -/
def passesSafept (i : Instr) (w : Wave) (c : Cohort) : Bool :=
  match i with
  | .safept x => c.lanes.any fun l => (w.threads[l]?).any fun t => t.guard x.guard
  | _ => false

/-- The same result for every lane of a cohort, whatever the guards (03 R72). -/
def State.allLanes (s : State) (c : Cohort) (r : LaneRes) : State :=
  runLanes guardAlways 0 (fun _ s => (r, s)) { s with cur := some c }

/-- The turn of a cohort whose fetch stops. At the end of the distance the issue does not count yet: it is judged again when the lanes
issue again (18 R387). -/
def State.stopFetch (s : State) (w : Wave) (c : Cohort) (late : Bool) (r : LaneRes) : State :=
  let s := (s.takeTurn w c (c.counted w && !late)).allLanes c r
  if late then s.forEach c.lanes fun i s => s.updThread ⟨c.wave, i⟩ fun t => { t with retry := false } else s

/-- What a cohort of a wave does in its turn: fetch, decode, the checks of the wave, then its instruction. -/
def State.issueCohort (s : State) (w : Wave) (c : Cohort) : Plan :=
  let late := s.overrun c w
  let counted := c.counted w
  match fetchBytes ⟨c.wave, c.lanes.headD 0⟩ c.pc.toNat s with
  | .error (.hold h) s => .done (s.stopFetch w c late (.hold h))
  | .error (.fault f) s => .done (s.stopFetch w c late (.fault (fetchFault f)))
  | .ok bytes s =>
    match decodeFor w.allot c.pc.toNat bytes with
    | .error f => .done ((s.takeTurn w c counted).allLanes c (.fault f))
    | .ok i =>
      if late && !passesSafept i w c then .run (.safeptOverrun w.ref) { s.takeTurn w c false with cur := some c }
      else .run i { s.takeTurn w c counted with cur := some c }

/-- The issue turn of a quadrant; without a ready wave nothing happens. -/
def State.issueTurn (s : State) (core quad : Nat) : Plan :=
  match s.turnOf core quad with
  | some (w, c) => s.issueCohort w c
  | none => .done s

/-- SAFEPT_OVERRUN in every thread of the cohort whose issue exceeds the distance: the one at hand, or the wave's next (18 R387). -/
def State.raiseOverrun (s : State) (ref : WaveRef) : State :=
  match s.wave? ref with
  | none => s
  | some w =>
    match (match s.cur with | some c => if c.wave == ref then some c else s.cohortOf w | none => s.cohortOf w) with
    | some c => if s.overrun c w then s.allLanes c (.fault { code := cSAFEPT_OVERRUN }) else s
    | none => s

/-! ## Harts (22 R415, R417-R419) -/

/-- Two bytes of a hart's code. -/
def hartHalf (n : Nat) (va : Nat) : Op Nat := do
  let s ← get
  let h := s.hart n
  let w := s.hartWho n true
  if h.mode == .m || h.satpMode == 0 then
    if !paLegal va then throw (.fault (pagePerm 3 0 va false))
    readPa w (.hart n) .fetch 0 va va 2
  else
    let (pa, leaf) ← translate w .fetch va
    readPa w (.hart n) .fetch leaf pa va 2

/-- The word at a hart's pc; none where its low bits say that it has sixteen bits. -/
def hartWord (n : Nat) : Op (Option Nat) := do
  let pc := ((← get).hart n).pc.toNat
  let lo ← hartHalf n pc
  if lo % 4 != 3 then pure none
  else
    let hi ← hartHalf n ((pc + 2) % 2 ^ 64)
    pure (some (lo + hi * 2 ^ 16))

/-- The exception of a hart's fetch (PRESUMED, log entry 30). -/
def hartFetchExc (bare : Bool) (f : FInfo) : HExc := if f.code == cPOISON || bare then .accessFault f.addr else .fetchPageFault f.addr

/-- What a hart does in its step: an access that it is held in, or the instruction at its pc. Only the host extension is in the spec: at an
instruction of the base set, and under a translation mode that is not 10 R252's, the hart's own effects have to come as inputs. -/
def State.hartTurn (s : State) (n : Nat) : Plan :=
  let h := s.hart n
  let bare := h.mode == .m || h.satpMode == 0
  match h.exc with
  | some e => .stop (.hartException n e)
  | none =>
    if let some (.access op va) := h.held then .done (s.hartAccess n op va)
    else if !bare && h.satpMode != 14 then .refuse (.hostBaseIsa n)
    else
      match hartWord n s with
      | .error (.hold _) s => .done (s.updHart n fun h => { h with held := some .ext })
      | .error (.fault f) s => .done (s.hartExc n (hartFetchExc bare f))
      | .ok none _ => .refuse (.hostBaseIsa n)
      | .ok (some x) s =>
        match decodeHost (BitVec.ofNat 32 x) with
        | .ext i => .run i { s with curHart := some n }
        | .illegal => .done (s.hartExc n .illegalInstruction)
        | .base => .refuse (.hostBaseIsa n)

/-! ## Inputs -/

/-- The registers that a hart's own instructions have left; x0 stays zero. -/
def Hart.leave (h : Hart) (x : List Dword) (pc satp : Dword) (mode : HMode) (sum mxr : Bool) : Hart :=
  { h with x := 0 :: (List.range 31).map fun i => x.getD (i + 1) 0
           pc, satp, mode, sum, mxr, exc := none, wait := none, redo := none, held := none }

/-- SFENCE.VMA of a hart: its own cached translations of an address, an address space or both. -/
def State.hartFence (s : State) (n : Nat) (va asid : Option Nat) : State :=
  s.dropTlb fun t => t.at_ == .hart n && asid.all (· == t.asid) && va.all fun a => alignDown a (pageBytes t.size) == t.page

/-- A corrected error of a hub or of a die (17 R373, R374). -/
def State.correctHub (s : State) (h : Nat) : State := s.updHub h fun x => { x with errstat := countCe x.errstat }
def State.correctDie (s : State) (d : Nat) : State := s.updDie d fun x => { x with errstat := countCe x.errstat }

/-- An error that nothing has read yet. -/
def State.addError (s : State) (p : ErrPlace) : State := if s.latent.contains p then s else { s with latent := p :: s.latent }

/-- Data goes bad beyond correction where it stands. A clean copy of a die's L2 or of a core's L1 is fetched again, and the event counts as
corrected (17 R373). -/
def State.spoil (s : State) (p : ErrPlace) : State :=
  match p with
  | .memory line => if paLegal (64 * line) then s.addError p else s
  | .l2 d line =>
    match s.dirEntry? line with
    | some e =>
      if e.owner == some (.die (Fin.ofNat 8 d)) && (e.state == .m || e.state == .o) then s.addError p
      else if e.dies.getLsbD d then s.correctDie d
      else s
    | none => s
  | .l1 c line => if s.l1.contains (c, line) then s.addError p else s
  | .scratch b g => if (s.block? b).any fun x => decide (16 * g < x.scratchLen) then s.addError p else s
  | .vault i l => if s.vault.any fun v => v.index == i && decide (64 * l < v.bytes.length) then s.addError p else s

/-- The driver's pin or unpin of a frame. -/
def State.drivePin (s : State) (ppn : Nat) (up : Bool) : State :=
  match s.pinEntryStep .driver up ppn with
  | .ok s => s
  | .error _ => s

/-- What an input does by itself. -/
def State.input (s : State) (a : Act) : State :=
  match a with
  | .hartState h x pc satp mode sum mxr => s.updHart h fun y => y.leave x pc satp mode sum mxr
  | .hartAccess h op va => if h < 64 then s.hartAccess h op va else s
  | .sfence h va asid => s.hartFence h va asid
  | .store pa bytes => s.putSpan (bytes.length / 64 + 2) pa bytes
  | .corruptArray e place => s.updEngine e fun g => { g with corrupt := place }
  | .poison p => s.spoil p
  | .dirError line => (s.hubError (homeOf (64 * line)).hub 7 0).recall line
  | .correctedHub h => s.correctHub h
  | .correctedDie d => s.correctDie d
  | .driverPin ppn up => s.drivePin ppn up
  | .install v => s.installImage v
  | _ => s

/-- Inputs that a module in reset takes: a reset, the sideband, and the installation of images (22 R429, 25 R452-R454). -/
def Act.inReset (a : Act) : Bool :=
  match a with
  | .event (.moduleReset _) => true
  | .event .pldmDiscovery => true
  | .event (.pldmSensorRead _) => true
  | .event (.pldmFirmwareUpdate _) => true
  | .install _ => true
  | _ => false

/-- What an act is to do. -/
def State.plan (s : State) (a : Act) : Plan :=
  if s.inReset && !a.inReset then .done s
  else
    match a with
    | .issue core quad => s.issueTurn core quad
    | .hart n => if n < 64 then s.hartTurn n else .done s
    | .event i => .run i s
    | a => .done (s.input a)

/-! ## What the module may do by itself -/

/-- Quadrants with a ready wave. -/
def State.issueActs (s : State) : List Act :=
  (((s.waves.filter fun w => (s.cohortOf w).isSome).map fun w => (w.ref.core, w.ref.slot % 4)).eraseDups).map fun p => .issue p.1 p.2

/-- What may end the wait of a thread, or let it enter its handler. -/
def State.threadEvents (s : State) : List Instr :=
  s.threads.flatMap fun (r, w, t) =>
    match t.status with
    | .waiting (.nap wake) _ => if decide (wake ≤ s.clock) then [.napExpiry r] else []
    | .waiting (.waitw ..) _ => if s.waitTimedOut r then [.waitwPoll r, .waitwTimeout r] else [.waitwPoll r]
    | .pending _ => if w.parked || t.stopped || s.abortingWave w then [] else [.handlerEntry r]
    | .heldFault _ => if s.speculative (s.self r).strand || t.stopped || s.abortingWave w then [] else [.handlerEntry r]
    | _ => []

/-- Waves of the cores that wait for registers, and samples of Visor. -/
def State.coreEvents (s : State) : List Instr :=
  (List.range 256).flatMap fun c =>
    (if s.canGrant c then [Instr.reggrwGrant c] else [])
      ++ if !s.waves.isEmpty && (List.range 64).any (s.sampleDue c) then [.visorSample c] else []

/-- Starts of blocks and gangs. -/
def State.dispatchEvents (s : State) : List Instr :=
  if !(s.tasks.any fun t => t.kind == 0 && s.dispatchable t) then []
  else
    (List.range 8).flatMap fun d =>
      match s.pickDie d with
      | none => []
      | some (t, _, _) =>
        ((dieCores d).filter fun c => s.startable c t).flatMap fun c =>
          if t.colevel == 0 then [.blockDispatch c] else [.gangDispatch t.id (levelOf t.colevel c), .blockDispatch c]

/-- Gangs that have waited for 65,536 cycles (06 R156). -/
def State.reserveEvents (s : State) : List Instr :=
  (s.tasks.filter fun t => t.kind == 0 && t.colevel != 0 && t.phase == .ready && t.ending.isNone && t.gang.isNone
      && decide (65536 ≤ s.clock - t.readyAt)).flatMap fun t =>
    (List.range (match t.colevel with | 1 => 64 | 2 => 8 | _ => 4)).map fun i => .gangReserve t.id i

/-- Starts of the tasks of other kinds. -/
def State.sliceEvents (s : State) : List Instr :=
  if !(s.tasks.any fun t => t.kind != 0 && s.dispatchable t) then []
  else
    (List.range 4).flatMap fun h =>
      (if (s.pickKind h 1 fun _ => true).isSome then [Instr.hostTaskDispatch h] else [])
        ++ (if (s.pickKind h 2 fun _ => true).isSome then [.nmTaskStart h] else [])
        ++ (if (s.pickKind h 3 fun t => !s.mustWait t.strand).isSome then [.copyTaskStart h 0] else [])
        ++ (if (s.pickKind h 4 fun _ => true).isSome then [.loopStart h] else [])

/-- Ends of tasks. -/
def State.taskEvents (s : State) : List Instr :=
  s.tasks.flatMap fun t =>
    (if s.mayComplete t then [Instr.taskComplete t.id] else [])
      ++ if t.aborting && s.hasBlocks t then [.taskAbort t.id] else []

/-- Strands and rounds of the loops. -/
def State.loopEvents (s : State) : List Instr :=
  s.loops.flatMap fun l =>
    (((List.range l.strands.length).filter l.mayStart).map fun k => Instr.strandStart l.task k)
      ++ if l.mayCommit then [.loopCommit l.task] else []

/-- Fault records to be written. -/
def State.faultEvents (s : State) : List Instr :=
  (((s.faults.filter fun e => !e.written && e.slot.isSome && bit (s.tenant e.tenant).fq.toNat 0).map fun e => (e.hub, e.tenant)).eraseDups).map
    fun p => .faultRecordWrite p.1 p.2

/-- The engines' own steps. -/
def State.engineEvents (s : State) : List Instr :=
  (((s.mats.map (·.engine)) ++ ((List.range 64).filter fun e => (s.engine e).loading.isSome || !(s.engine e).run.isEmpty)).eraseDups).flatMap fun e =>
    let g := s.engine e
    let ops := s.mats.filter fun o => o.engine == e
    (if ops.isEmpty then [] else [Instr.planeLoadStart e])
      ++ (if g.loading.isSome then [.planeLoadComplete e] else [])
      ++ (if g.run.isEmpty then (if ops.isEmpty then [] else [.arrayRunGrant e]) else [.runEnd e])
      ++ (ops.filter fun o => o.park.entry.isNone).map fun o => .matrixOpComplete e o.id

/-- The copies' steps. -/
def State.copyEvents (s : State) : List Instr :=
  (s.copies.filter fun c => c.park.entry.isNone).flatMap fun c =>
    if !c.started then [Instr.copyStart c.id]
    else if c.paged && !c.over then [.ddwPageStep c.id, .copyComplete c.id] else [.copyComplete c.id]

/-- The near-memory commands' steps. -/
def State.nmEvents (s : State) : List Instr :=
  (s.nms.filter fun m => m.park.entry.isNone).map fun m => if m.started then .nmCommandComplete m.id else .nmCommandStart m.id

/-- The moves' steps. -/
def State.moveEvents (s : State) : List Instr :=
  ((List.range 4).filter fun h => s.moves.any fun m => m.hub == h && s.startableMove m).map Instr.moveStart
    ++ s.moves.flatMap fun m =>
      match m.phase with
      | .queued => []
      | .copying => if decide (m.copied < 64 * framesOf m.size) then [Instr.moveLineCopy m.id]
                    else if decide (m.retryAt ≤ s.clock) then [.switchOver m.id] else []
      | .cuff => if m.overdue s.clock then [.forwardingInstall m.id, .cuffAbandon m.id] else [.forwardingInstall m.id]
      | .installed => if m.held.isEmpty then [.forwardingRetire m.id] else []

/-- A tenant under a save has a write set that is yet to be published (18 R389 step 2). -/
def State.publishes (s : State) (tenant : Nat) : Bool :=
  (s.tenant tenant).phase == .saving && (s.tenantLoops tenant).any fun l => l.strands.any fun x => !x.writes.isEmpty

/-- What tenants, hubs, circuits and blocks have under way. -/
def State.otherEvents (s : State) : List Instr :=
  (s.handovers.map fun h => Instr.handoverComplete h.frame)
    ++ ((s.blocks.filter fun b => (s.taskOf b).any fun t => (s.tenant t.tenant).phase == .saving).map fun b => .saveBlockStop b.id)
    ++ ((s.blocks.filter fun b => b.restarting != 0).map fun b => .blockRestart b.id)
    ++ ((List.range 64).flatMap fun t =>
        (if s.saveReady t || s.publishes t then [Instr.saveComplete t] else []) ++ (if (s.tenant t).phase == .restoring then [.restore t 0] else [])
          ++ (if (s.tenant t).flr then [.flrComplete t] else []))
    ++ (if bit s.modPart.toNat 0 then [.partitionChangeComplete] else [])
    ++ (((List.range 4).filter fun h => bit (s.hub h).tlbinv.toNat 0).map Instr.tlbinvComplete)
    ++ ((List.range 512).flatMap fun n =>
        match cteState (s.cte n).reg with
        | 1 => [Instr.circuitUp n]
        | 3 => [.circuitDrained n]
        | _ => [])

/-- Harts that ask again for what they are held in, or go on with an HWAIT (22 R419). -/
def State.hartActs (s : State) : List Act :=
  ((List.range 64).filter fun n => (s.hart n).exc.isNone && ((s.hart n).held.isSome || (s.hart n).wait.isSome)).map Act.hart

/-- Moves whose Cuff has reached its bound: each is abandoned before anything else happens (13 R318). -/
def State.overdueMoves (s : State) : List Move := s.moves.filter fun m => m.overdue s.clock

/-- Everything that the module may do next by itself. -/
def State.enabled (s : State) : List Act :=
  if s.inReset then []
  else if !s.overdueMoves.isEmpty then s.overdueMoves.map fun m => .event (.cuffAbandon m.id)
  else
    s.issueActs ++ s.hartActs ++ (s.threadEvents ++ s.coreEvents ++ s.dispatchEvents ++ s.reserveEvents ++ s.sliceEvents ++ s.taskEvents
      ++ s.loopEvents ++ s.faultEvents ++ s.engineEvents ++ s.copyEvents ++ s.nmEvents ++ s.moveEvents ++ s.otherEvents).map Act.event

/-- How often an act has been passed over. -/
def State.age (s : State) (a : Act) : Nat := ((s.ages.find? fun p => p.1 == a).map (·.2)).getD 0

/-- The oldest of several acts, the first of equals. -/
def State.oldest (s : State) (l : List Act) : Option Act :=
  l.foldl (fun m a => match m with | some b => if s.age b < s.age a then some a else some b | none => some a) none

/-- Which of the things that the module may do comes next is free, until one has been passed over too often: then the oldest comes first, so
that every one that stays possible happens in the end (06 R161). -/
def State.ownAct (s : State) : Option Act × State :=
  match s.enabled with
  | [] => (none, { s with ages := [] })
  | [a] => (some a, { s with ages := [] })
  | l =>
    let old := s.oldest l
    let late := old.any fun a => decide (Config.patience < s.age a)
    let a := if late then old else l[Config.choice s.free % l.length]?
    (a, { s with free := if late then s.free else s.free + 1, ages := (l.filter fun x => some x != a).map fun x => (x, s.age x + 1) })

/-- An input that has come and waits: of a hart that is held, and a driver's pin of a page that moves or is handed over (12 R294, 13 R328). -/
def State.waits (s : State) (a : Act) : Bool :=
  match a with
  | .hart n => (s.hart n).held.isSome
  | .hartState n .. => (s.hart n).held.isSome
  | .hartAccess n .. => (s.hart n).held.isSome
  | .driverPin ppn true => (s.movingPage? ppn).isSome || handoverHold s (framePa ppn)
  | _ => false

/-- The first input that has come and need not wait, and the others. -/
def State.nextInput (s : State) : List Input → Option (Act × List Input)
  | [] => none
  | i :: rest =>
    if s.clock < i.due then none
    else if s.waits i.act then (State.nextInput s rest).map fun p => (p.1, i :: p.2)
    else some (i.act, rest)

/-- What happens next: an input, or one of the things the module may do; an overdue Cuff comes before any input. -/
def State.nextAct (s : State) : Option Act × State :=
  if !s.inReset && !s.overdueMoves.isEmpty then s.ownAct
  else
    match s.nextInput s.agenda with
    | some (a, rest) => (some a, { s with agenda := rest })
    | none => s.ownAct

/-- Cycles pass: the clock, and the counters of cycles with a wave resident (01 R26; 18 R400). -/
def State.tick (s : State) (n : Nat) : State :=
  let here := (s.waves.map fun w => (w.ref.core, s.tenantOfWave w)).eraseDups
  let s := s.forEach here fun p s => s.perfCoreEvent p.2 1 n
  { s with clock := s.clock + n }

/-- Lines of engine operations that are over are forgotten. -/
def State.sweepTouched (s : State) : State :=
  if s.touched.isEmpty then s
  else { s with touched := s.touched.filter fun t =>
      s.mats.any (fun o => o.id == t.op) || s.copies.any (fun c => c.id == t.op) || s.nms.any fun c => c.id == t.op }

/-- The free number of cycles that a step takes; a step of several quadrants or units in one cycle takes none, an idle step at least
one (00 R6). Between steps, the queues of the Cuffs go on. -/
def State.pass (s : State) (idle : Bool) : State :=
  let s := s.settleCuffs.sweepTouched
  let n := Config.elapsed s.free + b2n idle
  ({ s with free := s.free + 1 } : State).tick n

/-! ## A program in place (log entry 36) -/

/-- Page tables of four levels at 0x8000 to 0x27FFF whose first entries lead address 0 to one page at 0x28000 that may be read, written
and executed, and an instruction's bytes there. -/
def fetchMemory (bytes : List Byte) : Memory :=
  Memory.writeBytes (Memory.writeBytes (Memory.writeBytes (Memory.writeBytes (Memory.writeBytes []
    0x8000 (natBytes 8 0x10001)) 0x10000 (natBytes 8 0x18001)) 0x18000 (natBytes 8 0x20001)) 0x20000 (natBytes 8 0x2806F)) 0x28000 bytes

/-- A tenant that uses those tables. -/
def fetchTenant (t : Tenant) : Tenant := { t with ctl := 1, root := 0x8001, privsz := 0 }

/-- The record of a task of one block of one thread. -/
def fetchRecord : Nat := 2 ^ 128 + 2 ^ 160

/-- A running task of tenant 0 with all its blocks started. -/
def fetchTask : Task :=
  { id := 1, tenant := 0, addr := 0, record := fetchRecord, ops := [], succs := [], added := [], slice := 0, seq := 0, count := 0
    evWait := false, waitsOn := [], phase := .running, readyAt := 0, nextBlk := 1, started := 1, startClk := 0, ending := none
    aborting := false, detail := 0, pending := [], bound := [], dieOf := 0, strand := none, guessOf := none, hdrWait := none, gang := none
    begun := true, saved := 0 }

/-- A kernel header with an allotment of 256 and nothing else. -/
def fetchHeader : Nat := 256 * 2 ^ 192

/-- One wave of one thread at PC 0. -/
def State.fetchWave (s : State) : State :=
  { s with
    inReset := false, cur := none, curHart := none, poison := [], latent := [], faults := []
    tlb := [], dir := [], l1 := [], locks := []
    moves := [], forwards := [], handovers := [], loops := [], mats := [], copies := [], nms := []
    tenants := s.tenants.modify 0 fetchTenant, nextId := max s.nextId 3
    tasks := [fetchTask], blocks := [{ newBlock fetchTask 2 0 fetchHeader with slots := [0] }]
    waves := [newWave fetchTask (fetchTenant (s.tenant 0)) 2 ⟨0, 0⟩ 0 fetchHeader none], agenda := [⟨0, .issue 0 0⟩] }

/-- Hart 0 in U-mode at address 0 of the same tables, for tenant 0. -/
def State.fetchHart (s : State) : State :=
  { s with
    inReset := false, cur := none, curHart := none, poison := [], latent := [], faults := []
    tlb := [], dir := [], l1 := [], locks := []
    moves := [], forwards := [], handovers := [], tenants := s.tenants.modify 0 fetchTenant
    harts := s.harts.modify 0 fun h =>
      { h with
        pc := 0, mode := .u, satp := 14 * 2 ^ 60 + 8, htenant := 2 ^ 63
        exc := none, wait := none, redo := none, held := none }
    agenda := [⟨0, .hart 0⟩] }

/-! ## Meanings -/

def execSafeptOverrun (w : WaveRef) (s : State) : Host.Outcome State Fault Refusal := .next (s.raiseOverrun w)

end Sys2Proof.Machine
end

