-- ==== Sys2Proof/Machine/LoopInstr.lean ====
section
/-! DEFINITION. The instructions of guess-carried loops (09 R236-R240). GLOOP stands with the task instructions. -/
namespace Sys2Proof.Machine

/-- The body strand that a thread runs: the loop, its number, and the strand. -/
def State.bodyOf (s : State) (c : LaneCtx) : Option (Nat × Nat × Loop × Strand) :=
  (s.blockOf c.wave).bind fun b => b.strand.bind fun (l, k) =>
    (s.loop? l).bind fun lp => (lp.strand? k).map fun x => (l, k, lp, x)

/-- The loop whose guess routine a thread runs. -/
def State.guessLoopOf (s : State) (c : LaneCtx) : Option (Nat × Loop) :=
  (s.blockOf c.wave).bind fun b => b.guessOf.bind fun l => (s.loop? l).map fun lp => (l, lp)

/-! ## GCARRY (09 R238) -/

def gcarryLane (x : Dev) (c : LaneCtx) (s : State) : LaneRes × State :=
  let word := fld x.m 3 0
  let exit := bit x.m 4
  let noval := bit x.m 5
  match s.bodyOf c with
  | none => (resultN x.d 1, s)
  | some (l, k, lp, st) =>
    if st.sealed then (resultN x.d 2, s)
    else if !noval && decide (lp.ncarry ≤ word) then (resultN x.d 3, s)
    else
      (resultN x.d 0, s.updStrand l k fun y =>
        { y with prod := if noval then y.prod else y.prod.set word (c.src x.a), exit := y.exit || exit })

/-! ## GGUESS (09 R220, R238) -/

def gguessLane (x : Dev) (c : LaneCtx) (s : State) : LaneRes × State :=
  let word := fld x.m 3 0
  let k := fld x.m 6 4
  match s.guessLoopOf c with
  | none => (resultN x.d 1, s)
  | some (l, lp) =>
    if decide (lp.width ≤ k) || decide (lp.ncarry ≤ word) then (resultN x.d 3, s)
    else if (lp.strand? k).any (·.sealedIn) then (resultN x.d 2, s)
    else (resultN x.d 0, s.updStrand l k fun y => { y with input := y.input.set word (c.src x.a) })

/-- GGUESS over the cohort; with GO, the guess is sealed after the last active lane. -/
def runGguess (x : Dev) (s : State) : State :=
  let act := activeLanes x.guard (lenBytes x.len) s
  let k := fld x.m 6 4
  let goes := match act.head? with
    | none => none
    | some c =>
      if bit x.m 7 then
        (s.guessLoopOf c).bind fun (l, lp) =>
          if k < lp.width ∧ fld x.m 3 0 < lp.ncarry ∧ (lp.strand? k).any fun y => !y.sealedIn then some l else none
      else none
  let s := runLanes x.guard (lenBytes x.len) (gguessLane x) s
  match goes with
  | some l => s.sealGuess l k
  | none => s

/-! ## GCMP (09 R239) -/

def gcmpLane (x : Dev) (c : LaneCtx) (s : State) : LaneRes × State :=
  match s.bodyOf c with
  | none => (resultN x.d 8, s)
  | some (l, k, _, st) =>
    let s := if st.sealed then s else s.sealProduced l k
    match s.bodyOf c with
    | some (_, _, _, st) => if st.verdict == .none then (.wait (.gcmp x.d), s) else (resultN x.d st.verdict.code, s)
    | none => (resultN x.d 8, s)

/-! ## GSTAT (09 R240) -/

/-- The state code of a strand. -/
def Loop.stateCode (l : Loop) (k : Nat) : Nat :=
  match (l.strand? k).map Strand.phase with
  | some .running => if l.nonSpec k then 2 else 1
  | some .completed => 3
  | some .rejected => 4
  | _ => 0

/-- Codes of three bits, strand 0 lowest. -/
def packCodes (f : Nat → Nat) (n : Nat) : Nat := (List.range n).foldl (fun a j => a + f j * 2 ^ (3 * j)) 0

/-- Word k of a carry of n words; 0 beyond them. -/
def carryWord (l : List Reg) (n k : Nat) : Reg := if k < n then l.getD k ⟨0, .n32⟩ else ⟨0, .n32⟩

def gstatLane (x : Dev) (c : LaneCtx) (s : State) : LaneRes × State :=
  let sel := fld x.m 3 0
  let k := c.srcN x.a
  let body := s.bodyOf c
  let lp? := match body with
    | some (_, _, lp, _) => some lp
    | none => (s.guessLoopOf c).map Prod.snd
  match lp? with
  | none => (resultN x.d 0, s)
  | some lp =>
    let word := fun (r : Reg) => result x.d r.val r.tag
    let r := match sel with
      | 0 => resultN x.d (lp.iter + (match body with | some (_, j, _, _) => j | none => 0))
      | 1 => resultN x.d lp.width
      | 2 => resultN x.d (packCodes (fun j => ((lp.strand? j).map fun (y : Strand) => y.verdict.code).getD 0) lp.width)
      | 3 => resultN x.d (packCodes lp.stateCode lp.width)
      | 4 => match body with | some (_, _, _, st) => word (carryWord st.input lp.ncarry k) | none => resultN x.d 0
      | 5 => match body with | some (_, _, _, st) => word (carryWord st.prod lp.ncarry k) | none => resultN x.d 0
      | 6 => word (carryWord lp.carry lp.ncarry k)
      | _ => resultN x.d lp.rounds
    (r, s)

/-! ## Meanings -/

def execGcarry (x : Dev) (s : State) : Host.Outcome State Fault Refusal := .next (runLanes x.guard (lenBytes x.len) (gcarryLane x) s)
def execGguess (x : Dev) (s : State) : Host.Outcome State Fault Refusal := .next (runGguess x s)
def execGcmp (x : Dev) (s : State) : Host.Outcome State Fault Refusal := .next (runLanes x.guard (lenBytes x.len) (gcmpLane x) s)
def execGstat (x : Dev) (s : State) : Host.Outcome State Fault Refusal := .next (runLanes x.guard (lenBytes x.len) (gstatLane x) s)

end Sys2Proof.Machine
end

