-- ==== Sys2Proof/Machine/Dispatch.lean ====
section
/-! DEFINITION. One arm per instruction or event of the opcode table. -/
namespace Sys2Proof.Machine

/-- The effect of an instruction or event on the machine. -/
def exec (i : Instr) (s : State) : Host.Outcome State Fault Refusal :=
  match i with
  | .nop x => Sys2Proof.Machine.execNop x s
  | .bra x => Sys2Proof.Machine.execBra x s
  | .brx x => Sys2Proof.Machine.execBrx x s
  | .call x => Sys2Proof.Machine.execCall x s
  | .callx x => Sys2Proof.Machine.execCallx x s
  | .ret x => Sys2Proof.Machine.execRet x s
  | .exit x => Sys2Proof.Machine.execExit x s
  | .trap x => Sys2Proof.Machine.execTrap x s
  | .bkpt x => Sys2Proof.Machine.execBkpt x s
  | .yield x => Sys2Proof.Machine.execYield x s
  | .nap x => Sys2Proof.Machine.execNap x s
  | .waitw x => Sys2Proof.Machine.execWaitw x s
  | .safept x => Sys2Proof.Machine.execSafept x s
  | .iadd x => Sys2Proof.Machine.execIadd x s
  | .isub x => Sys2Proof.Machine.execIsub x s
  | .imul x => Sys2Proof.Machine.execImul x s
  | .imulh x => Sys2Proof.Machine.execImulh x s
  | .imad x => Sys2Proof.Machine.execImad x s
  | .imadw x => Sys2Proof.Machine.execImadw x s
  | .idiv x => Sys2Proof.Machine.execIdiv x s
  | .irem x => Sys2Proof.Machine.execIrem x s
  | .imin x => Sys2Proof.Machine.execImin x s
  | .imax x => Sys2Proof.Machine.execImax x s
  | .iabs x => Sys2Proof.Machine.execIabs x s
  | .ineg x => Sys2Proof.Machine.execIneg x s
  | .iaddc x => Sys2Proof.Machine.execIaddc x s
  | .isubb x => Sys2Proof.Machine.execIsubb x s
  | .isad x => Sys2Proof.Machine.execIsad x s
  | .idp4 x => Sys2Proof.Machine.execIdp4 x s
  | .and x => Sys2Proof.Machine.execAnd x s
  | .or x => Sys2Proof.Machine.execOr x s
  | .xor x => Sys2Proof.Machine.execXor x s
  | .not x => Sys2Proof.Machine.execNot x s
  | .andn x => Sys2Proof.Machine.execAndn x s
  | .lop3 x => Sys2Proof.Machine.execLop3 x s
  | .shl x => Sys2Proof.Machine.execShl x s
  | .shr x => Sys2Proof.Machine.execShr x s
  | .sar x => Sys2Proof.Machine.execSar x s
  | .rotl x => Sys2Proof.Machine.execRotl x s
  | .shf x => Sys2Proof.Machine.execShf x s
  | .bfe x => Sys2Proof.Machine.execBfe x s
  | .bfi x => Sys2Proof.Machine.execBfi x s
  | .brev x => Sys2Proof.Machine.execBrev x s
  | .popc x => Sys2Proof.Machine.execPopc x s
  | .clz x => Sys2Proof.Machine.execClz x s
  | .ctz x => Sys2Proof.Machine.execCtz x s
  | .prmt x => Sys2Proof.Machine.execPrmt x s
  | .icmp x => Sys2Proof.Machine.execIcmp x s
  | .sel x => Sys2Proof.Machine.execSel x s
  | .mov x => Sys2Proof.Machine.execMov x s
  | .movi x => Sys2Proof.Machine.execMovi x s
  | .movw x => Sys2Proof.Machine.execMovw x s
  | .lea x => Sys2Proof.Machine.execLea x s
  | .add64 x => Sys2Proof.Machine.execAdd64 x s
  | .sub64 x => Sys2Proof.Machine.execSub64 x s
  | .cmp64 x => Sys2Proof.Machine.execCmp64 x s
  | .plop x => Sys2Proof.Machine.execPlop x s
  | .pmov x => Sys2Proof.Machine.execPmov x s
  | .fadd x => Sys2Proof.Machine.execFadd x s
  | .fsub x => Sys2Proof.Machine.execFsub x s
  | .fmul x => Sys2Proof.Machine.execFmul x s
  | .ffma x => Sys2Proof.Machine.execFfma x s
  | .fmin x => Sys2Proof.Machine.execFmin x s
  | .fmax x => Sys2Proof.Machine.execFmax x s
  | .fcmp x => Sys2Proof.Machine.execFcmp x s
  | .fclass x => Sys2Proof.Machine.execFclass x s
  | .frint x => Sys2Proof.Machine.execFrint x s
  | .fscale x => Sys2Proof.Machine.execFscale x s
  | .fdot x => Sys2Proof.Machine.execFdot x s
  | .fdota x => Sys2Proof.Machine.execFdota x s
  | .frcp x => Sys2Proof.Machine.execFrcp x s
  | .frsq x => Sys2Proof.Machine.execFrsq x s
  | .fsqrt x => Sys2Proof.Machine.execFsqrt x s
  | .fexp2 x => Sys2Proof.Machine.execFexp2 x s
  | .flog2 x => Sys2Proof.Machine.execFlog2 x s
  | .fsin x => Sys2Proof.Machine.execFsin x s
  | .fcos x => Sys2Proof.Machine.execFcos x s
  | .ftanh x => Sys2Proof.Machine.execFtanh x s
  | .fdiv x => Sys2Proof.Machine.execFdiv x s
  | .cvt x => Sys2Proof.Machine.execCvt x s
  | .pack x => Sys2Proof.Machine.execPack x s
  | .unpk x => Sys2Proof.Machine.execUnpk x s
  | .qnt x => Sys2Proof.Machine.execQnt x s
  | .dqnt x => Sys2Proof.Machine.execDqnt x s
  | .sclx x => Sys2Proof.Machine.execSclx x s
  | .tagrd x => Sys2Proof.Machine.execTagrd x s
  | .retag x => Sys2Proof.Machine.execRetag x s
  | .shfl x => Sys2Proof.Machine.execShfl x s
  | .vote x => Sys2Proof.Machine.execVote x s
  | .wred x => Sys2Proof.Machine.execWred x s
  | .wscan x => Sys2Proof.Machine.execWscan x s
  | .matchLanes x => Sys2Proof.Machine.execMatchLanes x s
  | .elect x => Sys2Proof.Machine.execElect x s
  | .actmask x => Sys2Proof.Machine.execActmask x s
  | .ragld x => Sys2Proof.Machine.execRagld x s
  | .segred x => Sys2Proof.Machine.execSegred x s
  | .segscan x => Sys2Proof.Machine.execSegscan x s
  | .ld x => Sys2Proof.Machine.execLd x s
  | .st x => Sys2Proof.Machine.execSt x s
  | .lds x => Sys2Proof.Machine.execLds x s
  | .sts x => Sys2Proof.Machine.execSts x s
  | .ldp x => Sys2Proof.Machine.execLdp x s
  | .stp x => Sys2Proof.Machine.execStp x s
  | .atom x => Sys2Proof.Machine.execAtom x s
  | .atoms x => Sys2Proof.Machine.execAtoms x s
  | .red x => Sys2Proof.Machine.execRed x s
  | .fence x => Sys2Proof.Machine.execFence x s
  | .pref x => Sys2Proof.Machine.execPref x s
  | .cctl x => Sys2Proof.Machine.execCctl x s
  | .pin x => Sys2Proof.Machine.execPin x s
  | .unpin x => Sys2Proof.Machine.execUnpin x s
  | .mhint x => Sys2Proof.Machine.execMhint x s
  | .mqry x => Sys2Proof.Machine.execMqry x s
  | .mmove x => Sys2Proof.Machine.execMmove x s
  | .curopen x => Sys2Proof.Machine.execCuropen x s
  | .curadv x => Sys2Proof.Machine.execCuradv x s
  | .curq x => Sys2Proof.Machine.execCurq x s
  | .qapp x => Sys2Proof.Machine.execQapp x s
  | .binit x => Sys2Proof.Machine.execBinit x s
  | .barv x => Sys2Proof.Machine.execBarv x s
  | .bwait x => Sys2Proof.Machine.execBwait x s
  | .barw x => Sys2Proof.Machine.execBarw x s
  | .btest x => Sys2Proof.Machine.execBtest x s
  | .swarm x => Sys2Proof.Machine.execSwarm x s
  | .swadd x => Sys2Proof.Machine.execSwadd x s
  | .swwait x => Sys2Proof.Machine.execSwwait x s
  | .swtest x => Sys2Proof.Machine.execSwtest x s
  | .tspawn x => Sys2Proof.Machine.execTspawn x s
  | .tdep x => Sys2Proof.Machine.execTdep x s
  | .tfire x => Sys2Proof.Machine.execTfire x s
  | .twait x => Sys2Proof.Machine.execTwait x s
  | .tcncl x => Sys2Proof.Machine.execTcncl x s
  | .tevt x => Sys2Proof.Machine.execTevt x s
  | .gloop x => Sys2Proof.Machine.execGloop x s
  | .gcarry x => Sys2Proof.Machine.execGcarry x s
  | .gguess x => Sys2Proof.Machine.execGguess x s
  | .gcmp x => Sys2Proof.Machine.execGcmp x s
  | .gstat x => Sys2Proof.Machine.execGstat x s
  | .tidset x => Sys2Proof.Machine.execTidset x s
  | .tidrd x => Sys2Proof.Machine.execTidrd x s
  | .tidclr x => Sys2Proof.Machine.execTidclr x s
  | .cpyb x => Sys2Proof.Machine.execCpyb x s
  | .cpyl x => Sys2Proof.Machine.execCpyl x s
  | .cseal x => Sys2Proof.Machine.execCseal x s
  | .cwait x => Sys2Proof.Machine.execCwait x s
  | .cqry x => Sys2Proof.Machine.execCqry x s
  | .nmcmd x => Sys2Proof.Machine.execNmcmd x s
  | .mlds x => Sys2Proof.Machine.execMlds x s
  | .mstrm x => Sys2Proof.Machine.execMstrm x s
  | .mdrn x => Sys2Proof.Machine.execMdrn x s
  | .mpass x => Sys2Proof.Machine.execMpass x s
  | .mzro x => Sys2Proof.Machine.execMzro x s
  | .accld x => Sys2Proof.Machine.execAccld x s
  | .accst x => Sys2Proof.Machine.execAccst x s
  | .accsc x => Sys2Proof.Machine.execAccsc x s
  | .msync x => Sys2Proof.Machine.execMsync x s
  | .mrst x => Sys2Proof.Machine.execMrst x s
  | .accmrg x => Sys2Proof.Machine.execAccmrg x s
  | .attn x => Sys2Proof.Machine.execAttn x s
  | .srd x => Sys2Proof.Machine.execSrd x s
  | .swr x => Sys2Proof.Machine.execSwr x s
  | .tret x => Sys2Proof.Machine.execTret x s
  | .hlt x => Sys2Proof.Machine.execHlt x s
  | .perf x => Sys2Proof.Machine.execPerf x s
  | .clk x => Sys2Proof.Machine.execClk x s
  | .regshr x => Sys2Proof.Machine.execRegshr x s
  | .reggrw x => Sys2Proof.Machine.execReggrw x s
  | .dbgmk x => Sys2Proof.Machine.execDbgmk x s
  | .isync x => Sys2Proof.Machine.execIsync x s
  | .pair a b => Sys2Proof.Machine.execPair a b s
  | .hsubmit h => Sys2Proof.Machine.execHsubmit h s
  | .hwait h => Sys2Proof.Machine.execHwait h s
  | .hpin h => Sys2Proof.Machine.execHpin h s
  | .hunpin h => Sys2Proof.Machine.execHunpin h s
  | .hmhint h => Sys2Proof.Machine.execHmhint h s
  | .hmqry h => Sys2Proof.Machine.execHmqry h s
  | .htenantWrite hart csr v => Sys2Proof.Machine.execHtenantWrite hart csr v s
  | .safeptOverrun w => Sys2Proof.Machine.execSafeptOverrun w s
  | .napExpiry t => Sys2Proof.Machine.execNapExpiry t s
  | .waitwPoll t => Sys2Proof.Machine.execWaitwPoll t s
  | .waitwTimeout t => Sys2Proof.Machine.execWaitwTimeout t s
  | .reggrwGrant core => Sys2Proof.Machine.execReggrwGrant core s
  | .blockDispatch core => Sys2Proof.Machine.execBlockDispatch core s
  | .gangDispatch task inst => Sys2Proof.Machine.execGangDispatch task inst s
  | .gangReserve task inst => Sys2Proof.Machine.execGangReserve task inst s
  | .hostTaskDispatch slice => Sys2Proof.Machine.execHostTaskDispatch slice s
  | .nmTaskStart slice => Sys2Proof.Machine.execNmTaskStart slice s
  | .copyTaskStart slice engine => Sys2Proof.Machine.execCopyTaskStart slice engine s
  | .loopStart slice => Sys2Proof.Machine.execLoopStart slice s
  | .taskComplete task => Sys2Proof.Machine.execTaskComplete task s
  | .taskAbort task => Sys2Proof.Machine.execTaskAbort task s
  | .strandStart loop strand => Sys2Proof.Machine.execStrandStart loop strand s
  | .loopCommit loop => Sys2Proof.Machine.execLoopCommit loop s
  | .handlerEntry t => Sys2Proof.Machine.execHandlerEntry t s
  | .faultRecordWrite hub tenant => Sys2Proof.Machine.execFaultRecordWrite hub tenant s
  | .pageWalk die tenant va a => Sys2Proof.Machine.execPageWalk die tenant va a s
  | .homeRead x line => Sys2Proof.Machine.execHomeRead x line s
  | .homeOwnership x line => Sys2Proof.Machine.execHomeOwnership x line s
  | .homeExecute x line => Sys2Proof.Machine.execHomeExecute x line s
  | .homeDrop x line => Sys2Proof.Machine.execHomeDrop x line s
  | .capacityDisplacement line => Sys2Proof.Machine.execCapacityDisplacement line s
  | .cowResolution tenant va => Sys2Proof.Machine.execCowResolution tenant va s
  | .moveStart hub => Sys2Proof.Machine.execMoveStart hub s
  | .moveLineCopy move => Sys2Proof.Machine.execMoveLineCopy move s
  | .switchOver move => Sys2Proof.Machine.execSwitchOver move s
  | .forwardingInstall move => Sys2Proof.Machine.execForwardingInstall move s
  | .cuffAbandon move => Sys2Proof.Machine.execCuffAbandon move s
  | .forwardingRetire move => Sys2Proof.Machine.execForwardingRetire move s
  | .handoverRequest frame requester => Sys2Proof.Machine.execHandoverRequest frame requester s
  | .handoverComplete frame => Sys2Proof.Machine.execHandoverComplete frame s
  | .planeLoadStart engine => Sys2Proof.Machine.execPlaneLoadStart engine s
  | .planeLoadComplete engine => Sys2Proof.Machine.execPlaneLoadComplete engine s
  | .arrayRunGrant engine => Sys2Proof.Machine.execArrayRunGrant engine s
  | .runEnd engine => Sys2Proof.Machine.execRunEnd engine s
  | .matrixOpComplete engine op => Sys2Proof.Machine.execMatrixOpComplete engine op s
  | .copyStart copy => Sys2Proof.Machine.execCopyStart copy s
  | .ddwPageStep copy => Sys2Proof.Machine.execDdwPageStep copy s
  | .copyComplete copy => Sys2Proof.Machine.execCopyComplete copy s
  | .nmCommandStart cmd => Sys2Proof.Machine.execNmCommandStart cmd s
  | .nmCommandComplete cmd => Sys2Proof.Machine.execNmCommandComplete cmd s
  | .tlbinvPage hub v => Sys2Proof.Machine.execTlbinvPage hub v s
  | .tlbinvAsid hub v => Sys2Proof.Machine.execTlbinvAsid hub v s
  | .tlbinvAll hub v => Sys2Proof.Machine.execTlbinvAll hub v s
  | .tlbinvComplete hub => Sys2Proof.Machine.execTlbinvComplete hub s
  | .fstqReload hub v => Sys2Proof.Machine.execFstqReload hub v s
  | .fstqRead hub v => Sys2Proof.Machine.execFstqRead hub v s
  | .fstqWrite hub v => Sys2Proof.Machine.execFstqWrite hub v s
  | .fltresReplay hub v => Sys2Proof.Machine.execFltresReplay hub v s
  | .fltresUnresolved hub v => Sys2Proof.Machine.execFltresUnresolved hub v s
  | .contextCreate tenant v => Sys2Proof.Machine.execContextCreate tenant v s
  | .flr tenant v => Sys2Proof.Machine.execFlr tenant v s
  | .flrComplete tenant => Sys2Proof.Machine.execFlrComplete tenant s
  | .save tenant v => Sys2Proof.Machine.execSave tenant v s
  | .saveBlockStop block => Sys2Proof.Machine.execSaveBlockStop block s
  | .saveComplete tenant => Sys2Proof.Machine.execSaveComplete tenant s
  | .restore tenant v => Sys2Proof.Machine.execRestore tenant v s
  | .partitionChange v => Sys2Proof.Machine.execPartitionChange v s
  | .partitionChangeComplete => Sys2Proof.Machine.execPartitionChangeComplete s
  | .cteUp entry v => Sys2Proof.Machine.execCteUp entry v s
  | .cteDown entry v => Sys2Proof.Machine.execCteDown entry v s
  | .circuitUp entry => Sys2Proof.Machine.execCircuitUp entry s
  | .circuitDrained entry => Sys2Proof.Machine.execCircuitDrained entry s
  | .wavelengthFailure entry wavelength => Sys2Proof.Machine.execWavelengthFailure entry wavelength s
  | .flitCrcError l => Sys2Proof.Machine.execFlitCrcError l s
  | .linkDown l => Sys2Proof.Machine.execLinkDown l s
  | .poolLinkDown hub port => Sys2Proof.Machine.execPoolLinkDown hub port s
  | .channelHalfWidth stack channel laneFault => Sys2Proof.Machine.execChannelHalfWidth stack channel laneFault s
  | .channelFullWidth stack channel => Sys2Proof.Machine.execChannelFullWidth stack channel s
  | .powerLimit b mhz => Sys2Proof.Machine.execPowerLimit b mhz s
  | .temperatureLimit b mhz => Sys2Proof.Machine.execTemperatureLimit b mhz s
  | .criticalTemperature b => Sys2Proof.Machine.execCriticalTemperature b s
  | .moduleReset failedStep => Sys2Proof.Machine.execModuleReset failedStep s
  | .registerFileError w => Sys2Proof.Machine.execRegisterFileError w s
  | .accError block => Sys2Proof.Machine.execAccError block s
  | .blockRestart block => Sys2Proof.Machine.execBlockRestart block s
  | .modAttest v => Sys2Proof.Machine.execModAttest v s
  | .modVaultrd v => Sys2Proof.Machine.execModVaultrd v s
  | .poolAcquire v => Sys2Proof.Machine.execPoolAcquire v s
  | .poolShare v => Sys2Proof.Machine.execPoolShare v s
  | .htaskTake hart rd tenant => Sys2Proof.Machine.execHtaskTake hart rd tenant s
  | .hdone tenant v => Sys2Proof.Machine.execHdone tenant v s
  | .evqConfigWrite tenant v => Sys2Proof.Machine.execEvqConfigWrite tenant v s
  | .evqHeadWrite tenant v => Sys2Proof.Machine.execEvqHeadWrite tenant v s
  | .perfselLoad tenant v => Sys2Proof.Machine.execPerfselLoad tenant v s
  | .dirtyLogEnable tenant v => Sys2Proof.Machine.execDirtyLogEnable tenant v s
  | .visorSample core => Sys2Proof.Machine.execVisorSample core s
  | .pldmDiscovery => Sys2Proof.Machine.execPldmDiscovery s
  | .pldmSensorRead sensor => Sys2Proof.Machine.execPldmSensorRead sensor s
  | .pldmFirmwareUpdate image => Sys2Proof.Machine.execPldmFirmwareUpdate image s
  | .registerWrite pa v => Sys2Proof.Machine.execRegisterWrite pa v s
  | .poolLinkUp hub port => Sys2Proof.Machine.execPoolLinkUp hub port s
  | .peerLinkDown peer => Sys2Proof.Machine.execPeerLinkDown peer s
  | .peerLinkUp peer => Sys2Proof.Machine.execPeerLinkUp peer s
  | .temperatureLimitCleared b => Sys2Proof.Machine.execTemperatureLimitCleared b s
  | .powerLimitCleared b => Sys2Proof.Machine.execPowerLimitCleared b s
  | .vaultShardRelay peer image => Sys2Proof.Machine.execVaultShardRelay peer image s

end Sys2Proof.Machine
end

