-- ==== Sys2Proof/Machine/Step.lean ====
section
/-! DEFINITION. One step of the module, and an instruction put where the next step fetches. -/
namespace Sys2Proof.Machine

/-- Cycles pass after an instruction or event; a stop stays a stop. -/
def afterExec (o : Host.Outcome State Fault Refusal) : Host.Outcome State Fault Refusal :=
  match o with
  | .next s => .next (s.pass false)
  | o => o

/-- What a plan comes to. -/
def runPlan (p : Plan) : Host.Outcome State Fault Refusal :=
  match p with
  | .run i s => afterExec (exec i s)
  | .done s => .next (s.pass false)
  | .stop f => .fault f
  | .refuse r => .refused r

/-- One step: the next input or act of the module, then the passing of its cycles; with nothing to do, only cycles pass. -/
def step (s : State) : Host.Outcome State Fault Refusal :=
  match s.nextAct with
  | (some a, s) => runPlan (s.plan a)
  | (none, s) => .next (s.pass true)

/-- The state with an instruction of a wave, or of a hart where it has 32 bits, in place as the next to be fetched (log entry 36). -/
def State.withFetchWord (s : State) (nbits w : Nat) : State :=
  let s : State := { s with mem := fetchMemory (natBytes 16 (w % 2 ^ nbits)) }
  if nbits == 32 then s.fetchHart else s.fetchWave

end Sys2Proof.Machine
end

