-- ==== Sys2Proof/Safety.lean ====
section
/-! DEFINITION. What the claims call a safe step, the well-formedness of a state, and the words in which they say where an instruction
completes and what its next state is. -/
namespace Sys2Proof.Machine

/-- The step answers a next state: it neither faults nor refuses. -/
def StepSafe (s : State) : Prop := ∃ t, step s = .next t

/-- Memory is in its canonical form. -/
def MemoryInv (s : State) : Prop := s.mem.wf = true

/-- The register file of a hart: 32 registers, the first zero (22 R415). -/
def Hart.wf (h : Hart) : Bool := decide (h.x.length = 32) && h.x.head? == some 0

/-- The tables have the sizes that the module has (00 R1, 06 R146), harts' x0 is zero, and memories are canonical. -/
def State.wf (s : State) : Bool :=
  s.mem.wf && s.blocks.all (fun b => b.scratch.wf) && s.harts.all Hart.wf && decide (s.harts.length = 64) && decide (s.tenants.length = 64)
    && decide (s.hubs.length = 4) && decide (s.dies.length = 8) && decide (s.cores.length = 256) && decide (s.slices.length = 4)
    && decide (s.engines.length = 64) && decide (s.ctes.length = 512)

/-! ## Where a cohort stands when its instruction executes -/

/-- The wave of a cohort, alone under its name; its tenant watches nothing (18 R399) and is not being saved (18 R388). -/
structure Ready (s : State) (c : Cohort) (w : Wave) : Prop where
  wave  : s.wave? c.wave = some w
  only  : ∀ v ∈ s.waves, v.ref = c.wave → v = w
  watch : ∀ r ∈ (s.tenant (s.tenantOfWave w)).watch, bit r.toNat 60 = false
  phase : (s.tenant (s.tenantOfWave w)).phase ≠ .saving

/-- The state with no cohort at its instruction: what an instruction's lanes act on. -/
def State.idle (s : State) : State := { s with cur := none }

/-- A cohort at its instruction: lanes in ascending order that exist, none of them outstanding in an instruction begun before (01 R15). -/
structure Stage (s : State) (c : Cohort) (w : Wave) : Prop where
  cur   : s.cur = some c
  ready : Ready s.idle c w
  asc   : c.lanes.Pairwise (· < ·)
  exist : ∀ i ∈ c.lanes, i < w.threads.length
  fresh : ∀ i ∈ c.lanes, ∀ t, w.threads[i]? = some t → t.inst = none

/-- The lanes of a cohort whose guard is true, with what each sees before the instruction. -/
def Cohort.active (c : Cohort) (w : Wave) (x : Dev) : List LaneCtx :=
  (c.lanesOf w (lenBytes x.len)).filter fun l => l.th.guard x.guard

/-- The same with exactly one active lane. -/
structure OneLane (s : State) (c : Cohort) (w : Wave) (x : Dev) (l : LaneCtx) : Prop extends Stage s c w where
  act : c.active w x = [l]

/-! ## What completing lanes leave -/

/-- What a lane gives a uniform register: the last it writes there. -/
def LaneOut.uniform (o : LaneOut) (n : Nat) : Option Reg :=
  (o.regs.reverse.find? fun p => match p.1 with | .s m => m.val == n | _ => false).map (·.2)

/-- A wave `v` after every active lane of a cohort of `w` has completed with `out`: each active lane's thread completes, an idle lane of the
cohort only moves on (03 R72), a uniform register takes what the lowest lane that writes it gives (01 R15), and conditions are or-ed
into FSTAT (02 R46). -/
def Wave.after (v : Wave) (c : Cohort) (act : List LaneCtx) (len : Nat) (out : LaneCtx → LaneOut) : Wave :=
  { v with
    threads := v.threads.mapIdx fun i t =>
      match act.find? fun l => l.lane == i with
      | some l => t.complete (out l) len
      | none => if c.lanes.contains i then t.skip len else t
    sregs := v.sregs.mapIdx fun n r => (act.findSome? fun l => (out l).uniform n).getD r
    fstat := act.foldl (fun f l => raiseFlags f (out l).flags) v.fstat }

/-- The state with the cohort's wave as it is after its lanes have completed, and nothing else changed. -/
def State.issued (s : State) (c : Cohort) (v w : Wave) (x : Dev) (out : LaneCtx → LaneOut) : State :=
  { s with waves := s.waves.map fun u => if u.ref == c.wave then v.after c (c.active w x) (lenBytes x.len) out else u }

/-- Registers written, and conditions. -/
def outR (d : Operand) (v : Nat) (t : Tag) (fl : Flags := 0) : LaneOut := { regs := [(d, ⟨BitVec.ofNat 32 v, t⟩)], flags := fl }
/-- A pair written. -/
def outW (d : Operand) (v : Nat) (t : Tag) (fl : Flags := 0) : LaneOut :=
  { regs := [(d, ⟨BitVec.ofNat 32 v, t⟩), (d.plus 1, ⟨BitVec.ofNat 32 (v / 2 ^ 32), t⟩)], flags := fl }
/-- A predicate written. -/
def outP (d : Operand) (b : Bool) (fl : Flags := 0) : LaneOut := { preds := [(d.predNo, b)], flags := fl }

/-- WHERE A REGISTER INSTRUCTION COMPLETES, AND WITH WHAT: for every cohort at the instruction all of whose active lanes meet `normal`, exec
answers a next state in which exactly those lanes have completed with `out`. -/
def LanesDo (i : Dev → Instr) (normal : Dev → LaneCtx → Prop) (out : Dev → LaneCtx → LaneOut) : Prop :=
  ∀ (s : State) (c : Cohort) (w : Wave) (x : Dev), Stage s c w → (∀ l ∈ c.active w x, normal x l) →
    exec (i x) s = .next (s.idle.issued c w w x (out x))

/-- Tags that are all of a class and pass the check of TCHK (03 R74). -/
def LaneCtx.tags (l : LaneCtx) (x : Dev) (os : List Operand) (p : Tag → Prop) : Prop :=
  tchkFails x.m (os.map fun o => (l.src o).tag) = false ∧ ∀ o ∈ os, p (l.src o).tag

/-! ## Integers (04 R87-R89) -/

/-- A scalar integer tag. -/
def Tag.isScalar (t : Tag) : Prop := t = .i32 ∨ t = .n32

/-- The value of a scalar integer register. -/
def numOf (r : Reg) : Int := if r.tag = .n32 then (r.val.toNat : Int) else r.val.toInt

/-- y in w bits: the nearest number of the range where SAT is 1, and else y modulo 2^w; SAT of FSTAT where that changed y. -/
def narrowed (x : Dev) (w : Nat) (unsigned : Bool) (y : Int) : Nat × Flags :=
  let lo : Int := if unsigned then 0 else -(2 : Int) ^ (w - 1)
  let hi : Int := if unsigned then (2 : Int) ^ w - 1 else (2 : Int) ^ (w - 1) - 1
  if bit x.m 3 then
    let z := max lo (min y hi)
    ((z % (2 : Int) ^ w).toNat, if z = y then 0 else fSAT)
  else ((y % (2 : Int) ^ w).toNat, 0)

/-- A scalar result in the format of a tag (R88). -/
def scalarOut (x : Dev) (t : Tag) (y : Int) : LaneOut :=
  outR x.d (narrowed x 32 (t = .n32) y).1 t (narrowed x 32 (t = .n32) y).2

/-- Width, count and signlessness of the elements of a packed integer tag. -/
def packedShape (t : Tag) : Option (Nat × Nat × Bool) :=
  match t with
  | .i16x2 => some (16, 2, false)
  | .i8x4 => some (8, 4, false)
  | .n8x4 => some (8, 4, true)
  | _ => none

/-- Element i of a word of elements of w bits. -/
def elemOf (v : Word) (w i : Nat) (unsigned : Bool) : Int :=
  if unsigned then ((v.extractLsb' (w * i) w).toNat : Int) else (v.extractLsb' (w * i) w).toInt

/-- A packed result: each element in its own range, the conditions of all (R89). -/
def packedOut (x : Dev) (t : Tag) (f : Nat → Bool → Nat → Int) : LaneOut :=
  match packedShape t with
  | some (w, n, u) =>
    let e := fun i => narrowed x w u (f w u i)
    outR x.d ((List.range n).map fun i => (e i).1 * 2 ^ (w * i)).sum t (((List.range n).map fun i => (e i).2).foldl (· ||| ·) 0)
  | none => {}

/-- Sources that an instruction of the scalar and packed classes takes: scalars, or packed ones of one tag. -/
def intSources (x : Dev) (l : LaneCtx) (os : List Operand) : Prop :=
  l.tags x os Tag.isScalar ∨ (∃ t, (packedShape t).isSome ∧ l.tags x os (· = t))

/-- The result of such an instruction for sources a and b. -/
def intOut2 (f : Int → Int → Int) (x : Dev) (l : LaneCtx) : LaneOut :=
  let a := l.src x.a
  let b := l.src x.b
  if (packedShape a.tag).isSome then packedOut x a.tag fun w u i => f (elemOf a.val w i u) (elemOf b.val w i u)
  else scalarOut x a.tag (f (numOf a) (numOf b))

def intOut1 (f : Int → Int) (x : Dev) (l : LaneCtx) : LaneOut :=
  let a := l.src x.a
  if (packedShape a.tag).isSome then packedOut x a.tag fun w u i => f (elemOf a.val w i u)
  else scalarOut x a.tag (f (numOf a))

/-- The 64-bit integer of a pair, signed or not. -/
def wideNum (signed : Bool) (n : Nat) : Int := if signed then (BitVec.ofNat 64 n).toInt else (n : Int)

/-- The halves of a wide source carry one tag of I32, N32, RAW and FX (R96, R103). -/
def LaneCtx.wideTags (l : LaneCtx) (o : Operand) : Prop :=
  (l.src (o.plus 1)).tag = (l.src o).tag ∧ ((l.src o).tag = .i32 ∨ (l.src o).tag = .n32 ∨ (l.src o).tag = .raw ∨ (l.src o).tag = .fx)

/-- Such a source as an integer: signed for I32 and FX. -/
def LaneCtx.wideOf (l : LaneCtx) (o : Operand) : Int := wideNum ((l.src o).tag = .i32 ∨ (l.src o).tag = .fx) (l.srcWN o)

/-- COND of a comparison (R96). -/
def ordered (n : Nat) (a b : Int) : Bool :=
  [decide (a = b), decide (a ≠ b), decide (a < b), decide (a ≤ b), decide (b < a), decide (b ≤ a)].getD n false

/-- BOP of a comparison (R96). -/
def joined (x : Dev) (t p : Bool) : Bool := [t, t && p, t || p, t ^^ p].getD (fld x.m 10 9) false

/-- A function of three words by its table: the words whose bit positions the table picks, or-ed. -/
def minterms (lut : Nat) (a b c : Word) : Word :=
  (List.range 8).foldl (fun v j =>
    if bit lut j then v ||| ((if bit j 0 then a else ~~~a) &&& (if bit j 1 then b else ~~~b) &&& (if bit j 2 then c else ~~~c)) else v) 0

/-- A byte of PRMT by its control (R101). -/
def permuted (bytes s : Nat) : Nat :=
  let b := bytes / 256 ^ (s % 8) % 256
  let y := if bit s 4 then 0 else if bit s 5 then (if 128 ≤ b then 255 else 0) else b
  if bit s 3 then y ^^^ 255 else y

/-! ## Floating point (05 R121) -/

/-- Format, width and count of the elements of a tag of the floating class. -/
def floatShape (t : Tag) : Option (Fmt × Nat × Nat) :=
  match t with
  | .f32 => some (fmtF32, 32, 1)
  | .bf16x2 => some (fmtBF16, 16, 2)
  | .f16x2 => some (fmtF16, 16, 2)
  | _ => none

/-- Element i of w bits of a source, as a code. -/
def LaneCtx.code (l : LaneCtx) (w : Nat) (o : Operand) (i : Nat) : Nat := (l.src o).val.toNat / 2 ^ (w * i) % 2 ^ w
/-- The value of an element after FTZ (02 R43). -/
def LaneCtx.elem (l : LaneCtx) (x : Dev) (f : Fmt) (w : Nat) (o : Operand) (i : Nat) : FVal := f.value (f.flush (Dev.ftz x) (l.code w o i))
/-- The same where FTZ leaves the formats below 16 bits alone (05 R130, R134). -/
def LaneCtx.dotElem (l : LaneCtx) (x : Dev) (f : Fmt) (w : Nat) (o : Operand) (i : Nat) : FVal :=
  f.value (f.flush (Dev.ftz x && decide (16 ≤ f.width)) (l.code w o i))
/-- A word of n elements of w bits with its tag, and the conditions of all. -/
def elemsOut (x : Dev) (t : Tag) (w n : Nat) (e : Nat → Nat × Flags) : LaneOut :=
  outR x.d ((List.range n).map fun i => (e i).1 * 2 ^ (w * i)).sum t (((List.range n).map fun i => (e i).2).foldl (· ||| ·) 0)

/-- u comes before v, with −0 before +0. -/
def below (u v : FVal) : Bool := cmpVal u v == .lt || (cmpVal u v == .eq && u.sign)

/-- The lesser (greater) of two codes after FTZ: −0 below +0, the other operand of one NaN, NV for a signalling NaN (R125). -/
def lesser (f : Fmt) (greater : Bool) (a b : Nat) : Nat × Flags :=
  let u := f.value a
  let v := f.value b
  (if u.isNan && v.isNan then f.nanCode else if u.isNan then b else if v.isNan then a
   else if below u v != greater then a else b,
   if u.isSnan || v.isSnan then fNV else 0)

/-- The bit of an element's class (R127). -/
def classBit (f : Fmt) (c : Nat) : Nat :=
  match f.value c with
  | .nan true => 8
  | .nan false => 9
  | .inf true => 0
  | .inf false => 7
  | .fin s m _ =>
    if m = 0 then (if s then 3 else 4) else if f.isSubnormal c then (if s then 2 else 5) else (if s then 1 else 6)

/-- An element rounded to an integral value (R128). -/
def integral (f : Fmt) (rm : Rm) (exact : Bool) (v : FVal) : Nat × Flags :=
  match v with
  | .fin s m e =>
    if 0 ≤ e ∨ m = 0 then roundVal f .rne false v
    else ((roundVal f .rne false (.fin s (roundInt rm s m e).1.natAbs 0)).1, if exact && (roundInt rm s m e).2 then fNX else 0)
  | v => roundVal f .rne false v

/-- Tags of A and B that a dot product takes (R130). -/
def dotShape (a b : Tag) : Bool :=
  [(.bf16x2, .bf16x2), (.f16x2, .f16x2), (.e3m2x5, .e3m2x5), (.e2m1x8, .e2m1x8), (.e4m3x4, .e4m3x4), (.e5m2x4, .e5m2x4),
    (.e4m3x4, .e5m2x4), (.e5m2x4, .e4m3x4)].contains (a, b)

/-- A scalar source of a conversion as a value. -/
def LaneCtx.scalarElem (l : LaneCtx) (x : Dev) (o : Operand) : FVal :=
  if (l.src o).tag = .f32 then l.elem x fmtF32 32 o 0 else intVal (numOf (l.src o)) 0

/-- The result tag of PT, and the tags that PACK converts (R133). -/
def packTag (pt : Nat) : Tag := [.bf16x2, .f16x2, .e4m3x4, .e5m2x4, .e3m2x5, .e2m1x8, .i8x4, .n8x4].getD pt .raw
def packable (t : Tag) : Prop := t = .f32 ∨ Tag.isScalar t

/-- One scalar converted by PACK. -/
def LaneCtx.packed (l : LaneCtx) (x : Dev) (t : Tag) (o : Operand) : Nat × Flags :=
  match elemsOf t with
  | some (f, _, _) => narrowVal f (Dev.rm x) (!bit x.m 3) (Dev.ftz x) (l.scalarElem x o)
  | none =>
    let lo : Int := if t = .i8x4 then -128 else 0
    let hi : Int := if t = .i8x4 then 127 else 255
    if (l.src o).tag = .f32 then
      let r := toIntRange (Dev.rm x) lo hi (l.elem x fmtF32 32 o 0)
      ((r.1 % 2 ^ 8).toNat, r.2)
    else
      let y := numOf (l.src o)
      if bit x.m 3 then ((y % 2 ^ 8).toNat, 0)
      else
        let z := max lo (min y hi)
        ((z % 2 ^ 8).toNat, if z = y then 0 else fSAT)

/-! ## Waits and exceptions -/

/-- The state with the threads of some lanes of a cohort changed, the other lanes of the cohort moved on, and nothing else changed. -/
def State.lanesTo (s : State) (c : Cohort) (v : Wave) (len : Nat) (p : Nat → Bool) (f : Thread → Thread) : State :=
  let v' := { v with threads := v.threads.mapIdx fun i t => if p i then f t else if c.lanes.contains i then t.skip len else t }
  { s with waves := s.waves.map fun u => if u.ref == c.wave then v' else u }

/-- The state with active lanes of a cohort waiting in their instruction, and the idle lanes moved on. -/
def State.waitingAll (s : State) (c : Cohort) (v : Wave) (x : Dev) (act : List LaneCtx) (wt : Wait) : State :=
  s.lanesTo c v (lenBytes x.len) (fun i => act.any fun l => l.lane == i) fun t =>
    { t with status := .waiting wt (t.pc + BitVec.ofNat 60 (lenBytes x.len)), watch := none, turns := 0, retry := true, again := false
             inst := none, redo := none }

/-- The same with one active lane. -/
def State.waiting (s : State) (c : Cohort) (v : Wave) (x : Dev) (l : LaneCtx) (wt : Wait) : State := s.waitingAll c v x [l] wt

/-- The state in which the one active lane of a cohort is about to take its instruction's fault: its thread has not moved. -/
def State.faulting (s : State) (c : Cohort) (v : Wave) (x : Dev) (l : LaneCtx) : State :=
  s.lanesTo c v (lenBytes x.len) (· == l.lane) fun t => { t with turns := 0, again := false }

/-- A thread that goes on after a wait: at the WATCH that the wait is to raise, where there is one (18 R399). -/
def Thread.goesOn (t : Thread) (next : BitVec 60) : Thread :=
  { t with status := (match t.watch with | some f => .pending f | none => .run), pc := next, turns := 0, retry := false, inst := none
           redo := none, watch := none }

/-- The wave of a thread is the only one under its name. -/
def Alone (s : State) (r : ThreadRef) : Prop := ∀ v ∈ s.waves, v.ref = r.wave → s.wave? r.wave = some v

/-- A destination of a lane written in its wave. -/
def Wave.putDest (w : Wave) (lane : Nat) (o : Operand) (r : Reg) : Wave :=
  match o with
  | .s n => { w with sregs := w.sregs.set n.val r }
  | o => w.updThread lane fun t => t.write o r

/-- The strand that a wave's block runs. -/
def State.strandOf (s : State) (w : Wave) : Option (Nat × Nat) := (s.block? w.block).bind (·.strand)

/-- The 64 bytes of a trap frame (17 R370). -/
def frameBits (w : Wave) (t : Thread) (f : FInfo) : Nat :=
  let r := fun i => t.regs.getD i Reg.zero
  (if 2 ≤ w.allot then (r 0).val.toNat + (r 1).val.toNat * 2 ^ 32 + ((r 0).tag.code + 16 * (r 1).tag.code) * 2 ^ 64 else 0)
    + t.preds.toNat * 2 ^ 256 + w.fstat.toNat * 2 ^ 288 + f.lanes * 2 ^ 320 + f.trapinfo.toNat * 2 ^ 352
    + (if f.access = 1 ∨ f.access = 2 ∨ f.code = 13 then f.addr else 0) * 2 ^ 384 + f.resume * 2 ^ 448

/-! ## Pairs (03 R76-R78) -/

/-- The operands with which an operation of a pair completes: those of its instruction alone. -/
def pairTakes (op : PairOp) (x : Dev) (l : LaneCtx) : Prop :=
  match op with
  | .iadd | .isub | .imin | .imax => intSources x l [x.a, x.b]
  | .iabs | .ineg => intSources x l [x.a]
  | .imul | .imulh | .iaddc | .isubb => l.tags x [x.a, x.b] Tag.isScalar
  | .imad | .isad => l.tags x [x.a, x.b, x.c] Tag.isScalar
  | .icmp => l.tags x [x.a, x.b] Tag.isScalar ∧ fld x.m 2 0 ≤ 5
  | .idp4 =>
    tchkFails x.m [(l.src x.a).tag, (l.src x.b).tag, (l.src x.c).tag] = false ∧ ((l.src x.a).tag = .i8x4 ∨ (l.src x.a).tag = .n8x4)
      ∧ ((l.src x.b).tag = .i8x4 ∨ (l.src x.b).tag = .n8x4) ∧ Tag.isScalar (l.src x.c).tag
  | .sel => (l.src x.a).tag = (l.src x.b).tag ∧ (bit x.m 1 = true → (l.src (x.a.plus 1)).tag = (l.src (x.b.plus 1)).tag)
  | .add64 | .sub64 => l.wideTags x.a ∧ l.wideTags x.b ∧ ((l.src x.a).tag = .fx ↔ (l.src x.b).tag = .fx)
  | .cmp64 => l.wideTags x.a ∧ l.wideTags x.b ∧ fld x.m 2 0 ≤ 5
  | .pmov => fld x.m 1 0 ≤ 2
  | .fadd | .fsub | .fmul | .fmin | .fmax => ∃ t, (floatShape t).isSome ∧ l.tags x [x.a, x.b] (· = t)
  | .ffma => ∃ t, (floatShape t).isSome ∧ l.tags x [x.a, x.b, x.c] (· = t)
  | .fcmp => l.tags x [x.a, x.b] (· = .f32)
  | .and | .or | .xor | .not | .andn | .lop3 | .shl | .shr | .sar | .rotl | .shf | .bfe | .bfi | .brev | .popc | .clz | .ctz | .prmt | .mov
  | .lea | .plop => True

/-- Both slots' results: the destinations of A and then those of B, the conditions of both. -/
def LaneOut.both (a b : LaneOut) : LaneOut := { regs := a.regs ++ b.regs, preds := a.preds ++ b.preds, flags := a.flags ||| b.flags }

/-! ## Cross-lane instructions (07 R162-R170) -/

/-- As LanesDo, for instructions whose lanes see all active lanes. -/
def CrossDo (i : Dev → Instr) (normal : Dev → List LaneCtx → Prop) (out : Dev → List LaneCtx → LaneCtx → LaneOut) : Prop :=
  ∀ (s : State) (c : Cohort) (w : Wave) (x : Dev), Stage s c w → normal x (c.active w x) →
    exec (i x) s = .next (s.idle.issued c w w x (out x (c.active w x)))

/-- The mask of the active lanes that meet a test. -/
def maskOf (act : List LaneCtx) (p : LaneCtx → Bool) : Nat := ((act.filter p).map fun l => 2 ^ l.lane).sum

/-- The active lane of a number. -/
def lane? (act : List LaneCtx) (i : Int) : Option LaneCtx := act.find? fun l => decide ((l.lane : Int) = i)

/-- The source lane of SHFL, in the terms of R164: `b` is B as an unsigned number. -/
def shflFrom (x : Dev) (lane b : Nat) : Int :=
  let w := 2 ^ fld x.m 4 2
  let base := lane - lane % w
  match fld x.m 1 0 with
  | 0 => ((base + b % w : Nat) : Int)
  | 1 => ((base + (lane % w + b) % w : Nat) : Int)
  | 2 => (lane : Int) + (BitVec.ofNat 32 b).toInt
  | _ => ((lane ^^^ (b % w) : Nat) : Int)

/-- Its lane, where it lies in the segment. -/
def shflLane? (x : Dev) (act : List LaneCtx) (l : LaneCtx) : Option LaneCtx :=
  let w := 2 ^ fld x.m 4 2
  let src := shflFrom x l.lane (l.src x.b).val.toNat
  if ((l.lane / w * w : Nat) : Int) ≤ src ∧ src < ((l.lane / w * w + w : Nat) : Int) then lane? act src else none

/-- The tags with which the reductions complete (R168). -/
def reducible (x : Dev) (act : List LaneCtx) : Prop :=
  (∀ l ∈ act, ∀ k ∈ act, (l.src x.a).tag = (k.src x.a).tag) ∧ fld x.m 11 9 ≤ 5
    ∧ ∀ l ∈ act, tchkFails x.m [(l.src x.a).tag] = false ∧ (fld x.m 11 9 < 3 → Tag.isScalar (l.src x.a).tag ∨ (l.src x.a).tag = .f32)

/-- A position's value: a code of F32 or a word, or an exact integer. -/
def redValue (x : Dev) (r : Reg) : Int := if fld x.m 11 9 < 3 ∧ r.tag ≠ .f32 then numOf r else (r.val.toNat : Int)

/-- The identity of the operator of OP for a tag (R168). -/
def redUnit (x : Dev) (t : Tag) : Int :=
  match fld x.m 11 9 with
  | 0 => if t = .f32 then 0x80000000 else 0
  | 1 => if t = .f32 then 0x7F800000 else if t = .n32 then 2 ^ 32 - 1 else 2 ^ 31 - 1
  | 2 => if t = .f32 then 0xFF800000 else if t = .n32 then 0 else -2 ^ 31
  | 3 => 0xFFFFFFFF
  | _ => 0

/-- The operator with the conditions of its application (R168). -/
def combined (x : Dev) (t : Tag) (a b : Int) : Int × Flags :=
  let z := Dev.ftz x
  let code := fun (r : Nat × Flags) => ((r.1 : Int), r.2)
  match fld x.m 11 9 with
  | 0 => if t = .f32 then
      code (finish fmtF32 .rne z (addVal .rne (fmtF32.value (fmtF32.flush z a.toNat)) (fmtF32.value (fmtF32.flush z b.toNat))))
    else (a + b, 0)
  | 1 => if t = .f32 then code (lesser fmtF32 false (fmtF32.flush z a.toNat) (fmtF32.flush z b.toNat)) else (min a b, 0)
  | 2 => if t = .f32 then code (lesser fmtF32 true (fmtF32.flush z a.toNat) (fmtF32.flush z b.toNat)) else (max a b, 0)
  | 3 => (((a.toNat &&& b.toNat : Nat) : Int), 0)
  | 4 => (((a.toNat ||| b.toNat : Nat) : Int), 0)
  | _ => (((a.toNat ^^^ b.toNat : Nat) : Int), 0)

/-- The value of a position: an active lane's, or the identity. -/
def redAt (x : Dev) (act : List LaneCtx) (t : Tag) (i : Nat) : Int :=
  ((lane? act i).map fun l => redValue x (l.src x.a)).getD (redUnit x t)

/-- The subtree of 2^k positions from i on, lower positions on the left, and the conditions of its applications (R169). -/
def treeAt (x : Dev) (t : Tag) (p : Nat → Int) : (k i : Nat) → Int × Flags
  | 0, i => (p i, 0)
  | k + 1, i =>
    let l := treeAt x t p k i
    let r := treeAt x t p k (i + 2 ^ k)
    ((combined x t l.1 r.1).1, l.2 ||| r.2 ||| (combined x t l.1 r.1).2)

/-- Position i after k steps of the scan tree, and whether a head lies in its reach (R169). -/
def scanAt (x : Dev) (t : Tag) (p : Nat → Int) (head : Nat → Bool) : (k i : Nat) → Int × Bool
  | 0, i => (p i, head i)
  | k + 1, i =>
    let r := scanAt x t p head k i
    if i < 2 ^ k ∨ r.2 = true then r
    else ((combined x t (scanAt x t p head k (i - 2 ^ k)).1 r.1).1, (scanAt x t p head k (i - 2 ^ k)).2)

/-- The conditions of all applications of the scan tree. -/
def scanFlags (x : Dev) (t : Tag) (p : Nat → Int) (head : Nat → Bool) : Flags :=
  (List.range 5).foldl (fun fl k =>
    (List.range 32).foldl (fun fl i =>
      if i < 2 ^ k ∨ (scanAt x t p head k i).2 = true then fl
      else fl ||| (combined x t (scanAt x t p head k (i - 2 ^ k)).1 (scanAt x t p head k i).1).2) fl) 0

/-- A result of a reduction: an exact integer written by R88, a code or a word. -/
def redOut (x : Dev) (t : Tag) (v : Int) (fl : Flags) : LaneOut :=
  if fld x.m 11 9 < 3 ∧ t ≠ .f32 then
    outR x.d (narrowed x 32 (t = .n32) v).1 t (fl ||| (narrowed x 32 (t = .n32) v).2)
  else outR x.d v.toNat t fl

/-- The tag of the active lanes. -/
def redTagOf (x : Dev) (act : List LaneCtx) : Tag := ((act.head?).map fun l => (l.src x.a).tag).getD .raw

/-- The head of a segment: lane 0, and under a segmented instruction the active lanes whose predicate C is 1. -/
def headAt (seg : Bool) (x : Dev) (act : List LaneCtx) (i : Nat) : Bool :=
  i == 0 || seg && ((lane? act i).map fun l => l.pred x.c).getD false

/-- Words read one after the other from an address, each as a plain load of one lane. -/
def WordsRead (c : Self) : (va : Nat) → List Nat → State → State → Prop
  | _, [], s, t => t = s
  | va, v :: vs, s, t => ∃ u, readVa c .load va 4 s = .ok v u ∧ WordsRead c (va + 4) vs u t

/-! ## Words of a lane's private memory (10 R244) -/

/-- Words read one after the other from an offset of a lane's private memory. -/
def PrivRead (c : Self) (w : Wave) (lane : Nat) : (o : Nat) → List Nat → State → State → Prop
  | _, [], s, t => t = s
  | o, v :: vs, s, t => ∃ u, readPriv c w lane o 4 s = .ok v u ∧ PrivRead c w lane (o + 4) vs u t

/-- Words as one number, the first lowest. -/
def wordsNat (ws : List Nat) : Nat := ws.foldr (fun w n => w + 2 ^ 32 * n) 0

/-- The registers of a thread of another allotment: those above go, new ones are zero with tag I32 (17 R384). -/
def Thread.resized (t : Thread) (n : Nat) : Thread := { t with regs := t.regs.take n ++ List.replicate (n - t.regs.length) Reg.zero }

/-! ## Memory accesses (12 R284-R292, 10 R255) -/

/-- The effective address of 12 R285. -/
def eaOf (x : Dev) (l : LaneCtx) : Nat := (((l.srcWN x.a : Int) + (l.src x.b).val.toInt + x.imm32) % 2 ^ 64).toNat

/-- The registers that a load of SIZE and TYPE gives for a value of its bytes (12 R284). -/
def loadOut (x : Dev) (t : Tag) (v : Nat) : LaneOut :=
  let n := 2 ^ fld x.m 11 9
  let y := if n < 4 ∧ t = .i32 then ((BitVec.ofNat (8 * n) v).toInt % 2 ^ 32).toNat else v
  { regs := (List.range (max 1 (n / 4))).map fun i => (x.d.plus i, ⟨BitVec.ofNat 32 (y / 2 ^ (32 * i)), t⟩) }

/-- The bytes that a store of SIZE takes from C. -/
def storeBytes (x : Dev) (l : LaneCtx) : List Byte :=
  natBytes (2 ^ fld x.m 11 9) (((List.range 4).map fun i => (l.src (if i = 0 then x.c else x.c.plus i)).val.toNat * 2 ^ (32 * i)).sum)

/-- An access inside one line of global memory whose translation is in the nearest cache and good, to a page that is not moving, in a pool
frame only if it can be reached, at a line in which no error has stood unread: 10 R255, R258, R260; 13 R317; 17 R374; 21 R457. -/
structure Mapped (s : State) (c : Self) (a : Access) (va pa leaf : Nat) : Prop where
  global : va < clusterBase
  root   : bit c.who.root 0 = true
  cached : ∃ t, s.tlbFind c.who va = some t ∧ t.leaf = leaf ∧ c.who.caches.head? = some t.at_
  grants : leafGrants a leaf = true
  write  : accWrites a = true → bit leaf 2 = true ∧ bit leaf 6 = true
  good   : leafFault s a leaf va = none
  place  : pa = leafPa leaf va
  still  : s.moves = [] ∧ s.forwards = []
  pool   : poolLost s pa = false ∧ handoverHold s pa = false
  sound  : ∀ p ∈ s.latent, p.line? ≠ some (pa / 64)

/-- Only memory and what the homes, caches and counters hold have changed: threads, blocks and tasks are as before. -/
def SameWork (s u : State) : Prop :=
  u.waves = s.waves ∧ u.blocks = s.blocks ∧ u.tasks = s.tasks ∧ u.loops = s.loops ∧ u.engines = s.engines ∧ u.mats = s.mats ∧ u.copies = s.copies

/-- Exactly the bytes from an address on have been replaced. -/
def BytesPut (m m' : Memory) (pa : Nat) (bs : List Byte) : Prop :=
  ∀ a, m'.read a = if pa ≤ a ∧ a < pa + bs.length then bs.getD (a - pa) 0 else m.read a

/-- The waiting threads that a test picks go on. -/
def State.released (s : State) (p : ThreadRef → Wait → Bool) : State :=
  s.mapThreads fun r t =>
    match t.status with
    | .waiting w next => if p r w then t.goesOn next else t
    | _ => t

/-- Waves have distinct names. -/
def State.distinct (s : State) : Prop := s.waves.Pairwise fun a b => a.ref ≠ b.ref

/-- A thread's wave is one of a block. -/
def State.inBlock (s : State) (r : ThreadRef) (blk : Nat) : Bool := (s.wave? r.wave).any fun v => v.block == blk

/-- The value that an atomic of OP and TYPE stores, and its conditions (12 R288). -/
def atomValue (op type m c : Nat) : Nat × Flags :=
  let signed := fun (n : Nat) => if type = 14 then (BitVec.ofNat 64 n).toInt else if type = 0 then (BitVec.ofNat 32 n).toInt else (n : Int)
  let halves := fun (f : Nat → Nat → Nat × Flags) =>
    let lo := f (m % 65536) (c % 65536)
    let hi := f (m / 65536 % 65536) (c / 65536 % 65536)
    (lo.1 + 65536 * hi.1, lo.2 ||| hi.2)
  let sum := fun (f : Fmt) (a b : Nat) => finish f .rne false (addVal .rne (f.value a) (f.value b))
  match op with
  | 0 =>
    if type = 2 then sum fmtF32 m c else if type = 3 then halves (sum fmtBF16)
    else if type = 14 then
      let y := signed m + signed c
      let z := max (-2 ^ 63) (min y (2 ^ 63 - 1))
      ((z % 2 ^ 64).toNat, if z = y then 0 else fSAT)
    else ((m + c) % 2 ^ 32, 0)
  | 1 => if type = 2 then lesser fmtF32 false m c else if type = 3 then halves (lesser fmtBF16 false) else (if signed m < signed c then m else c, 0)
  | 2 => if type = 2 then lesser fmtF32 true m c else if type = 3 then halves (lesser fmtBF16 true) else (if signed m < signed c then c else m, 0)
  | 3 => (m &&& c, 0)
  | 4 => (m ||| c, 0)
  | 5 => (m ^^^ c, 0)
  | _ => (c, 0)

/-- The operand of an atomic: a pair for FX (12 R287). -/
def LaneCtx.atomSrc (l : LaneCtx) (x : Dev) (o : Operand) : Nat := if fld x.m 8 5 = 14 then l.srcWN o else (l.src o).val.toNat
/-- It carries TYPE, or TYPE is RAW. -/
def LaneCtx.atomTag (l : LaneCtx) (x : Dev) (o : Operand) : Prop :=
  fld x.m 8 5 = 13 ∨ (l.src o).tag.code = fld x.m 8 5 ∧ (fld x.m 8 5 = 14 → (l.src (o.plus 1)).tag.code = 14)
/-- Old value, new value, whether it is stored, and the conditions. -/
def LaneCtx.atomStep (l : LaneCtx) (x : Dev) (m : Nat) : Nat × Bool × Flags :=
  let r := atomValue (fld x.m 11 9) (fld x.m 8 5) m (l.atomSrc x x.c)
  (r.1, fld x.m 11 9 != 7 || m == l.atomSrc x x.d, r.2)
/-- The registers of an atomic's old value. -/
def atomOut (x : Dev) (m : Nat) (fl : Flags) : LaneOut :=
  let t := (Tag.ofCode? (fld x.m 8 5)).getD .raw
  if fld x.m 8 5 = 14 then outW x.d m t fl else outR x.d m t fl

/-! ## Dispatch and the hubs' own events -/

/-- A kernel header that dispatch takes for a block of so many threads (01 R29, R31). -/
def HeaderGood (chosen h threads : Nat) : Prop :=
  let allot := (fld h 207 192 + 7) / 8 * 8
  fld h 31 0 = 0x534B4C56 ∧ verOk (fld h 47 32) chosen = true ∧ fld h 63 50 = 0 ∧ fld h 255 240 = 0 ∧ fld h 2047 352 = 0
    ∧ fld h 127 64 % 4 = 0 ∧ fld h 191 128 % 4 = 0 ∧ fld h 207 192 ≤ 256 ∧ fld h 287 256 ≤ 1572864 ∧ fld h 223 208 ≤ 4096 ∧ fld h 239 224 ≤ 2048
    ∧ (threads + 31) / 32 ≤ (if allot = 0 then 64 else min 64 (4096 / allot))

/-- What a task's wait for a fault entry of its own reads has come to: the entry is gone. -/
def State.unheld (s : State) (t : Task) : Bool := t.hdrWait.all fun e => !s.faults.any fun f => f.id == e

/-- A request of a Cuff whose agent asks again: a thread, an engine operation or a hart. -/
def HeldReq.asksAgain (q : HeldReq) : Prop := (∃ r, q.by_ = .thread r) ∨ (∃ i, q.by_ = .op i) ∨ ∃ h, q.by_ = .hart h

/-- A record of the pool: a task named by its own id. -/
def State.holds (s : State) (t : Task) : Prop := s.task? t.id = some t ∧ t.tenant < s.tenants.length

/-- Nothing but the tasks, slices and what the hubs hold has changed: no thread, block or byte of memory. -/
def SameRun (s u : State) : Prop := u.waves = s.waves ∧ u.blocks = s.blocks ∧ u.mem = s.mem ∧ u.harts = s.harts

end Sys2Proof.Machine
end

