-- ==== Sys2Proof/Certificates/Slice0/Obligations.lean ====
section
/-! DEFINITION. The statements for the provers. -/
open Sys2Proof Sys2Proof.Machine

/-! ## Integers, logic, addresses and predicates (04) -/

/-- IADD, ISUB, IMUL, IMAD, IMIN, IMAX, IABS, INEG, ISAD: exact results, written by R88 or R89. -/
def Obligations.IntArithmetic : Prop :=
  LanesDo .iadd (fun x l => intSources x l [x.a, x.b]) (intOut2 (· + ·))
  ∧ LanesDo .isub (fun x l => intSources x l [x.a, x.b]) (intOut2 (· - ·))
  ∧ LanesDo .imul (fun x l => l.tags x [x.a, x.b] Tag.isScalar)
      (fun x l => scalarOut x (l.src x.a).tag (numOf (l.src x.a) * numOf (l.src x.b)))
  ∧ LanesDo .imad (fun x l => l.tags x [x.a, x.b, x.c] Tag.isScalar)
      (fun x l => scalarOut x (l.src x.a).tag (numOf (l.src x.a) * numOf (l.src x.b) + numOf (l.src x.c)))
  ∧ LanesDo .imin (fun x l => intSources x l [x.a, x.b]) (intOut2 min)
  ∧ LanesDo .imax (fun x l => intSources x l [x.a, x.b]) (intOut2 max)
  ∧ LanesDo .iabs (fun x l => intSources x l [x.a]) (intOut1 fun a => |a|)
  ∧ LanesDo .ineg (fun x l => intSources x l [x.a]) (intOut1 fun a => -a)
  ∧ LanesDo .isad (fun x l => l.tags x [x.a, x.b, x.c] Tag.isScalar)
      (fun x l => scalarOut x (l.src x.a).tag (|numOf (l.src x.a) - numOf (l.src x.b)| + numOf (l.src x.c)))

/-- IMULH, IMADW (R92), IDIV, IREM (R93) and IDP4 (R94).
IADDC, ISUBB (R95), ICMP, CMP64 (R96) and SEL (R97).
MOV, MOVI, MOVW (R102), ADD64, SUB64 (R103), LEA (R104).
PLOP (R105) and PMOV in its three modes (R107). -/
def Obligations.ProductsComparisonsMoves : Prop :=
  (
  LanesDo .imulh (fun x l => l.tags x [x.a, x.b] Tag.isScalar)
      (fun x l => outR x.d (numOf (l.src x.a) * numOf (l.src x.b) % 2 ^ 64 / 2 ^ 32).toNat (l.src x.a).tag)
  ∧ LanesDo .imadw (fun x l => l.tags x [x.a, x.b, x.c] Tag.isScalar ∧ (l.src (x.c.plus 1)).tag = (l.src x.c).tag)
      (fun x l =>
        let t := (l.src x.c).tag
        let y := numOf (l.src x.a) * numOf (l.src x.b) + wideNum (t ≠ .n32) (l.srcWN x.c)
        outW x.d (narrowed x 64 (t = .n32) y).1 t (narrowed x 64 (t = .n32) y).2)
  ∧ LanesDo .idiv (fun x l => l.tags x [x.a, x.b] Tag.isScalar)
      (fun x l => if (l.src x.b).val = 0 then outR x.d 0xFFFFFFFF (l.src x.a).tag fDZ
        else scalarOut x (l.src x.a).tag ((numOf (l.src x.a)).tdiv (numOf (l.src x.b))))
  ∧ LanesDo .irem (fun x l => l.tags x [x.a, x.b] Tag.isScalar)
      (fun x l => if (l.src x.b).val = 0 then outR x.d (l.src x.a).val.toNat (l.src x.a).tag fDZ
        else scalarOut x (l.src x.a).tag ((numOf (l.src x.a)).tmod (numOf (l.src x.b))))
  ∧ LanesDo .idp4 (fun x l => tchkFails x.m [(l.src x.a).tag, (l.src x.b).tag, (l.src x.c).tag] = false
        ∧ ((l.src x.a).tag = .i8x4 ∨ (l.src x.a).tag = .n8x4) ∧ ((l.src x.b).tag = .i8x4 ∨ (l.src x.b).tag = .n8x4) ∧ Tag.isScalar (l.src x.c).tag)
      (fun x l => scalarOut x (l.src x.c).tag (numOf (l.src x.c)
        + ((List.range 4).map fun i => elemOf (l.src x.a).val 8 i ((l.src x.a).tag = .n8x4) * elemOf (l.src x.b).val 8 i ((l.src x.b).tag = .n8x4)).sum))
  ) ∧ (
  LanesDo .iaddc (fun x l => l.tags x [x.a, x.b] Tag.isScalar)
      (fun x l =>
        let cin := l.pred x.c ^^ bit x.m 9
        let s := (l.src x.a).val.toNat + (l.src x.b).val.toNat + b2n cin
        { regs := [(x.d, ⟨BitVec.ofNat 32 s, (l.src x.a).tag⟩)], preds := [(fld x.m 2 0, decide (2 ^ 32 ≤ s))] })
  ∧ LanesDo .isubb (fun x l => l.tags x [x.a, x.b] Tag.isScalar)
      (fun x l =>
        let cin := l.pred x.c ^^ bit x.m 9
        { regs := [(x.d, ⟨(l.src x.a).val - (l.src x.b).val - BitVec.ofNat 32 (b2n cin), (l.src x.a).tag⟩)]
          preds := [(fld x.m 2 0, decide ((l.src x.a).val.toNat < (l.src x.b).val.toNat + b2n cin))] })
  ∧ LanesDo .icmp (fun x l => l.tags x [x.a, x.b] Tag.isScalar ∧ fld x.m 2 0 ≤ 5)
      (fun x l => outP x.d (joined x (ordered (fld x.m 2 0) (numOf (l.src x.a)) (numOf (l.src x.b))) (l.pred x.c)))
  ∧ LanesDo .cmp64 (fun x l => l.wideTags x.a ∧ l.wideTags x.b ∧ fld x.m 2 0 ≤ 5)
      (fun x l => outP x.d (joined x (ordered (fld x.m 2 0) (l.wideOf x.a) (l.wideOf x.b)) (l.pred x.c)))
  ∧ LanesDo .sel (fun x l => (l.src x.a).tag = (l.src x.b).tag
        ∧ (bit x.m 1 = true → (l.src (x.a.plus 1)).tag = (l.src (x.b.plus 1)).tag))
      (fun x l =>
        let o := if (l.pred x.c ^^ bit x.m 0) = true then x.a else x.b
        { regs := (x.d, l.src o) :: (if bit x.m 1 then [(x.d.plus 1, l.src (o.plus 1))] else []) })
  ) ∧ (
  let sum64 := fun (f : Int → Int → Int) (x : Dev) (l : LaneCtx) =>
    let t := (l.src x.a).tag
    if t = .fx then
      let y := f (BitVec.ofNat 64 (l.srcWN x.a)).toInt (BitVec.ofNat 64 (l.srcWN x.b)).toInt
      let z := max (-(2 : Int) ^ 63) (min y ((2 : Int) ^ 63 - 1))
      outW x.d (z % 2 ^ 64).toNat t (if z = y then 0 else fSAT)
    else outW x.d (f (l.srcWN x.a) (l.srcWN x.b) % 2 ^ 64).toNat t
  let tags64 := fun (x : Dev) (l : LaneCtx) => l.wideTags x.a ∧ l.wideTags x.b ∧ ((l.src x.a).tag = .fx ↔ (l.src x.b).tag = .fx)
  LanesDo .mov (fun _ _ => True)
      (fun x l => { regs := (x.d, l.src x.a) :: (if bit x.m 0 then [(x.d.plus 1, l.src (x.a.plus 1))] else []) })
  ∧ (∀ t : Tag, LanesDo .movi (fun x _ => fld x.m 7 4 = t.code) (fun x _ => outR x.d (x.imm.toNat % 2 ^ 32) t))
  ∧ (∀ t : Tag, LanesDo .movw (fun x _ => fld x.m 7 4 = t.code) (fun x _ => outW x.d x.imm.toNat t))
  ∧ LanesDo .lea (fun _ _ => True)
      (fun x l =>
        let i : Int := if bit x.m 9 then (l.src x.b).val.toNat else (l.src x.b).val.toInt
        outW x.d (((l.srcWN x.a : Int) + i * 2 ^ fld x.m 2 0) % 2 ^ 64).toNat .n32)
  ∧ LanesDo .add64 tags64 (sum64 (· + ·))
  ∧ LanesDo .sub64 tags64 (sum64 (· - ·))
  ) ∧ (
  LanesDo .plop (fun _ _ => True)
      (fun x l => outP x.d (bit (fld x.m 7 0) (4 * b2n (l.pred x.c) + 2 * b2n (l.pred x.b) + b2n (l.pred x.a))))
  ∧ LanesDo .pmov (fun x _ => fld x.m 1 0 = 0) (fun x l => outP x.d (decide ((l.src x.a).val ≠ 0)))
  ∧ LanesDo .pmov (fun x _ => fld x.m 1 0 = 1) (fun x l => outR x.d (128 + l.th.preds.toNat) .n32)
  ∧ LanesDo .pmov (fun x _ => fld x.m 1 0 = 2)
      (fun x l => { preds := (List.range 7).map fun i => (i, (l.src x.a).val.getLsbD i) })
  )

/-- AND, OR, XOR, ANDN, NOT, LOP3, BREV, POPC, CLZ, CTZ (R98).
SHL, SHR, SAR, ROTL, SHF (R99), BFE, BFI (R100), PRMT (R101). -/
def Obligations.LogicAndShifts : Prop :=
  (
  let word := fun (x : Dev) (l : LaneCtx) (v : Word) => ({ regs := [(x.d, ⟨v, (l.src x.a).tag⟩)] } : LaneOut)
  LanesDo .and (fun _ _ => True) (fun x l => word x l ((l.src x.a).val &&& (l.src x.b).val))
  ∧ LanesDo .or (fun _ _ => True) (fun x l => word x l ((l.src x.a).val ||| (l.src x.b).val))
  ∧ LanesDo .xor (fun _ _ => True) (fun x l => word x l ((l.src x.a).val ^^^ (l.src x.b).val))
  ∧ LanesDo .andn (fun _ _ => True) (fun x l => word x l ((l.src x.a).val &&& ~~~(l.src x.b).val))
  ∧ LanesDo .not (fun _ _ => True) (fun x l => word x l (~~~(l.src x.a).val))
  ∧ LanesDo .lop3 (fun _ _ => True) (fun x l => word x l (minterms (fld x.m 7 0) (l.src x.a).val (l.src x.b).val (l.src x.c).val))
  ∧ LanesDo .brev (fun _ _ => True) (fun x l => word x l (l.src x.a).val.reverse)
  ∧ LanesDo .popc (fun _ _ => True)
      (fun x l => outR x.d ((List.range 32).filter fun i => (l.src x.a).val.getLsbD i).length .n32)
  ∧ LanesDo .clz (fun _ _ => True)
      (fun x l => outR x.d ((List.range 32).takeWhile fun i => !(l.src x.a).val.getLsbD (31 - i)).length .n32)
  ∧ LanesDo .ctz (fun _ _ => True)
      (fun x l => outR x.d ((List.range 32).takeWhile fun i => !(l.src x.a).val.getLsbD i).length .n32)
  ) ∧ (
  let out := fun (x : Dev) (l : LaneCtx) (v : Nat) => outR x.d v (l.src x.a).tag
  LanesDo .shl (fun _ _ => True)
      (fun x l => let n := (l.src x.b).val.toNat; out x l (if n < 32 then (l.src x.a).val.toNat * 2 ^ n % 2 ^ 32 else 0))
  ∧ LanesDo .shr (fun _ _ => True)
      (fun x l => let n := (l.src x.b).val.toNat; out x l (if n < 32 then (l.src x.a).val.toNat / 2 ^ n else 0))
  ∧ LanesDo .sar (fun _ _ => True)
      (fun x l => let n := (l.src x.b).val.toNat
        out x l (if n < 32 then ((l.src x.a).val.toInt / 2 ^ n % 2 ^ 32).toNat else if (l.src x.a).val.msb then 0xFFFFFFFF else 0))
  ∧ LanesDo .rotl (fun _ _ => True)
      (fun x l => let n := (l.src x.b).val.toNat % 32
        out x l (((l.src x.a).val <<< n) ||| ((l.src x.a).val >>> (32 - n))).toNat)
  ∧ LanesDo .shf (fun _ _ => True)
      (fun x l =>
        let h := (l.src x.b).val.toNat * 2 ^ 32 + (l.src x.a).val.toNat
        let n := min (l.src x.c).val.toNat 32
        out x l (if bit x.m 0 then h * 2 ^ n / 2 ^ 32 % 2 ^ 32 else h / 2 ^ n % 2 ^ 32))
  ∧ LanesDo .bfe (fun _ _ => True)
      (fun x l =>
        let pos := (l.src x.b).val.toNat % 256
        let len := min ((l.src x.b).val.toNat / 256 % 256) (32 - pos)
        let f := (l.src x.a).val.toNat / 2 ^ pos % 2 ^ len
        out x l (if len = 0 then 0 else if bit x.m 0 = true ∧ 2 ^ (len - 1) ≤ f then 2 ^ 32 - 2 ^ len + f else f))
  ∧ LanesDo .bfi (fun _ _ => True)
      (fun x l =>
        let pos := (l.src x.c).val.toNat % 256
        let len := min ((l.src x.c).val.toNat / 256 % 256) (32 - pos)
        let m : Word := BitVec.ofNat 32 ((2 ^ len - 1) * 2 ^ pos)
        out x l (((l.src x.a).val &&& ~~~m) ||| (((l.src x.b).val <<< pos) &&& m)).toNat)
  ∧ LanesDo .prmt (fun _ _ => True)
      (fun x l => out x l ((List.range 4).map fun i =>
        permuted ((l.src x.a).val.toNat + 2 ^ 32 * (l.src x.b).val.toNat) ((l.src x.c).val.toNat / 256 ^ i % 256) * 256 ^ i).sum)
  )

/-! ## Pairs and cross-lane instructions (03, 07) -/

/-- P128 pairs (R76-R78). -/
def Obligations.Pairs : Prop :=
  (∀ (op : PairOp) (x : Dev) (i : Instr) (s : State), (mkDev op.opcode).map (fun f => f x) = some i → exec i s = .next (runPure x (pairLane op) s))
  ∧ ∃ out : PairOp → Dev → LaneCtx → LaneOut,
    (∀ (op : PairOp) (x : Dev) (l : LaneCtx), pairTakes op x l → pairLane op x l = .done (out op x l))
    ∧ ∀ (s : State) (c : Cohort) (w : Wave) (a b : Slot) (x : Dev), Stage s c w → x.guard = ⟨false, 7⟩ → x.len = .l128 →
        (∀ l ∈ c.lanesOf w 16, ∀ t ∈ [a, b], l.th.guard t.x.guard = true → pairTakes t.op t.x l) →
        exec (.pair a b) s = .next (s.idle.issued c w w x fun l =>
          (if l.th.guard a.x.guard then out a.op a.x l else {}).both (if l.th.guard b.x.guard then out b.op b.x l else {}))

/-- SHFL (R164), VOTE (R165), ACTMASK, ELECT (R166), MATCH (R167). -/
def Obligations.Shuffles : Prop :=
  CrossDo .shfl (fun x _ => fld x.m 4 2 ≤ 5) (fun x act l =>
      { regs := [(x.d, ((shflLane? x act l).getD l).src x.a)], preds := [(fld x.m 7 5, (shflLane? x act l).isSome)] })
  ∧ CrossDo .vote (fun x _ => fld x.m 1 0 < 3) (fun x act _ =>
      let q := fun (l : LaneCtx) => l.pred x.a ^^ bit x.m 2
      outP x.d (if fld x.m 1 0 = 0 then decide (∀ l ∈ act, q l = true) else if fld x.m 1 0 = 1 then decide (∃ l ∈ act, q l = true)
        else decide (∀ l ∈ act, ∀ k ∈ act, q l = q k)))
  ∧ CrossDo .vote (fun x _ => fld x.m 1 0 = 3) (fun x act _ => outR x.d (maskOf act fun l => l.pred x.a ^^ bit x.m 2) .n32)
  ∧ CrossDo .actmask (fun _ _ => True) (fun x act _ => outR x.d (maskOf act fun _ => true) .n32)
  ∧ CrossDo .elect (fun _ _ => True) (fun x act l =>
      { regs := if bit x.m 0 then (act.take 1).map fun k => (x.a, ⟨BitVec.ofNat 32 k.lane, .n32⟩) else []
        preds := [(x.d.predNo, (act.take 1).any fun k => k.lane == l.lane)] })
  ∧ CrossDo .matchLanes (fun _ _ => True) (fun x act l =>
      outR x.d (maskOf act fun k => (k.src x.a).val == (l.src x.a).val
        && (!bit x.m 0 || (k.src (x.a.plus 1)).val == (l.src (x.a.plus 1)).val)) .n32)

/-- WRED, WSCAN, SEGRED, SEGSCAN (R168, R169). -/
def Obligations.Reductions : Prop :=
  let scan := fun (seg : Bool) (x : Dev) (act : List LaneCtx) (i : Nat) =>
    (scanAt x (redTagOf x act) (redAt x act (redTagOf x act)) (headAt seg x act) 5 i).1
  let flags := fun (seg : Bool) (x : Dev) (act : List LaneCtx) => scanFlags x (redTagOf x act) (redAt x act (redTagOf x act)) (headAt seg x act)
  let scans := fun (seg : Bool) (x : Dev) (act : List LaneCtx) (l : LaneCtx) =>
    let t := redTagOf x act
    redOut x t (if bit x.m 0 then (if headAt seg x act l.lane then redUnit x t else scan seg x act (l.lane - 1)) else scan seg x act l.lane)
      (flags seg x act)
  let lanes := fun (act : List LaneCtx) => ∀ l ∈ act, l.lane < 32
  CrossDo .wred (fun x act => reducible x act ∧ lanes act) (fun x act _ =>
      let t := redTagOf x act
      let r := treeAt x t (redAt x act t) 5 0
      redOut x t r.1 r.2)
  ∧ CrossDo .wscan (fun x act => reducible x act ∧ lanes act) (scans false)
  ∧ CrossDo .segscan (fun x act => reducible x act ∧ lanes act) (scans true)
  ∧ CrossDo .segred (fun x act => reducible x act ∧ lanes act) (fun x act l =>
      let t := redTagOf x act
      let last := l.lane + ((List.range (31 - l.lane)).takeWhile fun k => !headAt true x act (l.lane + 1 + k)).length
      redOut x t (scan true x act last) (flags true x act))

/-- RAGLD (R170). -/
def Obligations.RaggedRows : Prop :=
  ∀ (s s1 : State) (c : Cohort) (w : Wave) (x : Dev) (l : LaneCtx) (rest : List LaneCtx) (lens : List Nat), Stage s c w → c.active w x = l :: rest →
    let wa := l.srcWN x.a
    let b := (l.src x.b).val.toNat
    let n := min (l.src x.c).val.toNat 64
    let upTo := fun k => (lens.take k).sum
    wa < 2 ^ 60 → wa % 4 = 0 → lens.length ≤ n → (lens.length = n ∨ b + 31 < lens.sum) → (0 < lens.length → upTo (lens.length - 1) ≤ b + 31) →
    WordsRead (s.self l.ref) wa lens s s1 → Stage s1 c w →
    let row := fun (i : Nat) => (List.range lens.length).find? fun k => decide (b + i < upTo (k + 1))
    exec (.ragld x) s = .next (s1.idle.issued c w w x fun k =>
      { regs := [(x.d, ⟨BitVec.ofNat 32 ((row k.lane).getD n), .n32⟩),
          (x.d.plus 1, ⟨BitVec.ofNat 32 ((row k.lane).elim 0xFFFFFFFF fun r => b + k.lane - upTo r), .n32⟩)]
        preds := [(fld x.m 2 0, (row k.lane).isSome && (k.lane == 0 || row (k.lane - 1) != row k.lane))] })

/-! ## Floating point and conversions (05) -/

/-- FADD, FSUB, FMUL, FFMA (R124) on every tag of the floating class.
Elements with NaN operands, and invalid operations, of FADD, FMUL and FFMA (R124; R37, R38). -/
def Obligations.FloatArithmetic : Prop :=
  (
  ∀ (t : Tag) (f : Fmt) (w n : Nat), floatShape t = some (f, w, n) →
    LanesDo .fadd (fun x l => l.tags x [x.a, x.b] (· = t))
        (fun x l => elemsOut x t w n fun i => finish f (Dev.rm x) (Dev.ftz x) (addVal (Dev.rm x) (l.elem x f w x.a i) (l.elem x f w x.b i)))
    ∧ LanesDo .fsub (fun x l => l.tags x [x.a, x.b] (· = t))
        (fun x l => elemsOut x t w n fun i =>
          finish f (Dev.rm x) (Dev.ftz x) (addVal (Dev.rm x) (l.elem x f w x.a i) (l.elem x f w x.b i).neg))
    ∧ LanesDo .fmul (fun x l => l.tags x [x.a, x.b] (· = t))
        (fun x l => elemsOut x t w n fun i => finish f (Dev.rm x) (Dev.ftz x) (mulVal (l.elem x f w x.a i) (l.elem x f w x.b i)))
    ∧ LanesDo .ffma (fun x l => l.tags x [x.a, x.b, x.c] (· = t))
        (fun x l => elemsOut x t w n fun i =>
          finish f (Dev.rm x) (Dev.ftz x) (fmaVal (Dev.rm x) (l.elem x f w x.a i) (l.elem x f w x.b i) (l.elem x f w x.c i)))
  ) ∧ (
  ∀ (f : Fmt) (rm : Rm) (ftz : Bool) (u v z : FVal), f ∈ [fmtF32, fmtBF16, fmtF16] →
    ((u.isNan || v.isNan) = true →
      finish f rm ftz (addVal rm u v) = (f.nanCode, if u.isSnan || v.isSnan then fNV else 0)
      ∧ finish f rm ftz (mulVal u v) = (f.nanCode, if u.isSnan || v.isSnan then fNV else 0))
    ∧ (∀ s, finish f rm ftz (addVal rm (.inf s) (.inf !s)) = (f.nanCode, fNV))
    ∧ (∀ s b e, finish f rm ftz (mulVal (.inf s) (.fin b 0 e)) = (f.nanCode, fNV))
    ∧ (∀ s b e, finish f rm ftz (fmaVal rm (.inf s) (.fin b 0 e) z) = (f.nanCode, fNV))
  )

/-- FMIN, FMAX (R125), FCMP (R126), FCLASS (R127).
FRINT (R128) and FSCALE (R129). -/
def Obligations.FloatOrderAndRounding : Prop :=
  (
  (∀ (t : Tag) (f : Fmt) (w n : Nat), floatShape t = some (f, w, n) →
    LanesDo .fmin (fun x l => l.tags x [x.a, x.b] (· = t))
        (fun x l => elemsOut x t w n fun i => lesser f false (f.flush (Dev.ftz x) (l.code w x.a i)) (f.flush (Dev.ftz x) (l.code w x.b i)))
    ∧ LanesDo .fmax (fun x l => l.tags x [x.a, x.b] (· = t))
        (fun x l => elemsOut x t w n fun i => lesser f true (f.flush (Dev.ftz x) (l.code w x.a i)) (f.flush (Dev.ftz x) (l.code w x.b i)))
    ∧ LanesDo .fclass (fun x l => l.tags x [x.a] (· = t))
        (fun x l => outR x.d ((List.range n).map fun i => 2 ^ classBit f (l.code w x.a i) * 2 ^ (16 * i)).sum .n32))
  ∧ LanesDo .fcmp (fun x l => l.tags x [x.a, x.b] (· = .f32))
      (fun x l =>
        let u := l.elem x fmtF32 32 x.a 0
        let v := l.elem x fmtF32 32 x.b 0
        let o := !(u.isNan || v.isNan)
        let k := cmpVal u v
        outP x.d ([o && k == .eq, !o || k != .eq, o && k == .lt, o && k != .gt, o && k == .gt, o && k != .lt, !o, o].getD (fld x.m 11 9) false)
          (if u.isSnan || v.isSnan then fNV else 0))
  ) ∧ (
  ∀ (t : Tag) (f : Fmt) (w n : Nat), floatShape t = some (f, w, n) →
    LanesDo .frint (fun x l => l.tags x [x.a] (· = t))
        (fun x l => elemsOut x t w n fun i => integral f (Dev.rm x) (bit x.m 9) (l.elem x f w x.a i))
    ∧ LanesDo .fscale (fun x l => (l.src x.a).tag = t ∧ Tag.isScalar (l.src x.b).tag)
        (fun x l => elemsOut x t w n fun i =>
          match l.elem x f w x.a i with
          | .fin s m e => roundVal f (Dev.rm x) (Dev.ftz x) (.fin s m (e + numOf (l.src x.b)))
          | v => roundVal f .rne false v)
  )

/-- FDOT and FDOTA (R130).
The example of R130: one rounding against three. -/
def Obligations.DotProducts : Prop :=
  (
  ∀ (ta tb : Tag) (fa fb : Fmt) (w n v m : Nat), dotShape ta tb = true → elemsOf ta = some (fa, w, n) → elemsOf tb = some (fb, v, m) →
    LanesDo .fdot (fun x l => (l.src x.a).tag = ta ∧ (l.src x.b).tag = tb)
        (fun x l =>
          let r := dotResult (Dev.ftz x) ((List.range n).map fun i => (l.dotElem x fa w x.a i, l.dotElem x fb w x.b i)) []
          outR x.d r.1 .f32 r.2)
    ∧ LanesDo .fdota (fun x l => (l.src x.a).tag = ta ∧ (l.src x.b).tag = tb ∧ (l.src x.c).tag = .f32)
        (fun x l =>
          let r := dotResult (Dev.ftz x) ((List.range n).map fun i => (l.dotElem x fa w x.a i, l.dotElem x fb w x.b i)) [l.elem x fmtF32 32 x.c 0]
          outR x.d r.1 .f32 r.2)
  ) ∧ (
  let v := fun c => fmtE4M3.value c
  dotResult false ((List.range 4).map fun i => (v (fld 0x00303038 (8 * i + 7) (8 * i)), v 0x38)) [fmtF32.value 0x4B800000] = (0x4B800001, 0)
  ∧ finish fmtF32 .rne false (fmaVal .rne (v 0x38) (v 0x38) (fmtF32.value 0x4B800000)) = (0x4B800000, fNX)
  )

/-- FDIV, FSQRT, FRCP, FRSQ, FEXP2, FLOG2, FSIN, FCOS, FTANH (R131).
CVT, target by target (R132). -/
def Obligations.FunctionsAndConversions : Prop :=
  (
  let one := fun (i : Dev → Instr) (f : Dev → Nat → Nat × Flags) =>
    LanesDo i (fun x l => l.tags x [x.a] (· = .f32)) fun x l =>
      outR x.d (f x (l.src x.a).val.toNat).1 .f32 (f x (l.src x.a).val.toNat).2
  one .frcp (fun x => frcpCode (Dev.ftz x)) ∧ one .frsq (fun x => frsqCode (Dev.ftz x))
  ∧ one .fsqrt (fun x => sqrtCode fmtF32 (Dev.rm x) (Dev.ftz x)) ∧ one .fexp2 (fun x => fexp2Code (Dev.ftz x))
  ∧ one .flog2 (fun x => flog2Code (Dev.ftz x)) ∧ one .fsin (fun x => ftrigCode false (Dev.ftz x))
  ∧ one .fcos (fun x => ftrigCode true (Dev.ftz x)) ∧ one .ftanh (fun x => ftanhCode (Dev.ftz x))
  ∧ LanesDo .fdiv (fun x l => l.tags x [x.a, x.b] (· = .f32)) (fun x l =>
      let r := divCode fmtF32 (Dev.rm x) (Dev.ftz x) (l.src x.a).val.toNat (l.src x.b).val.toNat
      outR x.d r.1 .f32 r.2)
  ) ∧ (
  let tgt := fun (n : Nat) (x : Dev) (l : LaneCtx) (p : Tag → Prop) => fld x.m 11 9 = n ∧ l.tags x [x.a] p
  let scalar := fun t : Tag => t = .f32 ∨ Tag.isScalar t
  let ints := fun (lo hi : Int) (t : Tag) (x : Dev) (l : LaneCtx) =>
    if (l.src x.a).tag = .f32 then
      let r := toIntRange (Dev.rm x) lo hi (l.elem x fmtF32 32 x.a 0)
      outR x.d (r.1 % 2 ^ 32).toNat t r.2
    else if bit x.m 3 then outR x.d (l.src x.a).val.toNat t
    else
      let y := numOf (l.src x.a)
      let z := max lo (min y hi)
      outR x.d (z % 2 ^ 32).toNat t (if z = y then 0 else fSAT)
  LanesDo .cvt (fun x l => tgt 0 x l scalar)
      (fun x l => let r := roundVal fmtF32 (Dev.rm x) (Dev.ftz x) (l.scalarElem x x.a); outR x.d r.1 .f32 r.2)
  ∧ LanesDo .cvt (fun x l => tgt 1 x l scalar) (ints (-2 ^ 31) (2 ^ 31 - 1) .i32)
  ∧ LanesDo .cvt (fun x l => tgt 2 x l scalar) (ints 0 (2 ^ 32 - 1) .n32)
  ∧ LanesDo .cvt (fun x l => fld x.m 11 9 = 3 ∧ scalar (l.src x.a).tag ∧ Tag.isScalar (l.src x.b).tag)
      (fun x l => let r := toFx (min (numOf (l.src x.b)).toNat 62) (l.scalarElem x x.a); outW x.d (r.1 % 2 ^ 64).toNat .fx r.2)
  ∧ LanesDo .cvt (fun x l => fld x.m 11 9 = 4 ∧ (l.src x.a).tag = .fx ∧ (l.src (x.a.plus 1)).tag = .fx ∧ Tag.isScalar (l.src x.b).tag)
      (fun x l =>
        let r := roundVal fmtF32 .rne (Dev.ftz x)
          (intVal (BitVec.ofNat 64 (l.srcWN x.a)).toInt (-((min (numOf (l.src x.b)).toNat 62 : Nat) : Int)))
        outR x.d r.1 .f32 r.2)
  ∧ LanesDo .cvt (fun x l => tgt 5 x l (· = .i16x2)) (fun x l => outR x.d (l.src x.a).val.toNat .i16x2)
  ∧ (∀ (t : Tag) (f : Fmt), floatShape t = some (f, 16, 2) →
      LanesDo .cvt (fun x l => tgt 5 x l (· = t)) fun x l => elemsOut x .i16x2 16 2 fun i =>
        let r := toIntRange (Dev.rm x) (-32768) 32767 (l.elem x f 16 x.a i)
        ((r.1 % 2 ^ 16).toNat, r.2))
  ∧ (∀ (t u : Tag) (f g : Fmt) (k : Nat), (k = 6 ∧ t = .f16x2 ∧ f = fmtF16 ∨ k = 7 ∧ t = .bf16x2 ∧ f = fmtBF16) →
      floatShape u = some (g, 16, 2) →
      LanesDo .cvt (fun x l => tgt k x l (· = u)) (fun x l => elemsOut x t 16 2 fun i =>
        narrowVal f (Dev.rm x) (!bit x.m 3) (Dev.ftz x) (l.elem x g 16 x.a i))
      ∧ LanesDo .cvt (fun x l => tgt k x l (· = .i16x2)) (fun x l => elemsOut x t 16 2 fun i =>
        narrowVal f (Dev.rm x) (!bit x.m 3) (Dev.ftz x) (intVal (elemOf (l.src x.a).val 16 i false) 0)))
  )

/-- PACK (R133), UNPK (R134), DQNT (R137), SCLX (R138), TAGRD and RETAG (R139). -/
def Obligations.PackAndUnpack : Prop :=
  (∀ (t : Tag) (w n : Nat), (∃ f, elemsOf t = some (f, w, n) ∧ t ≠ .f32) ∨ packedShape t = some (w, n, true) ∧ t = .n8x4
        ∨ packedShape t = some (w, n, false) ∧ t = .i8x4 →
      LanesDo .pack (fun x l => packTag (fld x.m 11 9) = t ∧ packable (l.src x.a).tag ∧ packable (l.src x.b).tag
          ∧ (2 ≤ fld x.m 11 9 → (l.src x.c).tag = t ∨ x.c = .k .zero))
        (fun x l => elemsOut x t w n fun i =>
          if i = 0 then l.packed x t x.a else if i = 1 then l.packed x t x.b else (l.code w x.c (i - 2), 0)))
  ∧ (∀ (t : Tag) (f : Fmt) (w n : Nat), elemsOf t = some (f, w, n) → t ≠ .f32 →
      LanesDo .unpk (fun x l => l.tags x [x.a] (· = t) ∧ fld x.m 11 9 < n)
        (fun x l => let r := roundVal fmtF32 .rne false (l.dotElem x f w x.a (fld x.m 11 9)); outR x.d r.1 .f32 r.2))
  ∧ (∀ (t : Tag) (w n : Nat) (u : Bool), packedShape t = some (w, n, u) →
      LanesDo .unpk (fun x l => l.tags x [x.a] (· = t) ∧ fld x.m 11 9 < n)
        (fun x l => outR x.d (elemOf (l.src x.a).val w (fld x.m 11 9) u % 2 ^ 32).toNat (if u then .n32 else .i32)))
  ∧ (∀ (t : Tag) (f : Fmt) (w n : Nat), elemsOf t = some (f, w, n) → w < 16 →
      LanesDo .dqnt (fun x l => (l.src x.a).tag = t ∧ (l.src x.b).tag = .sc10x3 ∧ fld x.m 11 9 < n)
        (fun x l =>
          let e := f.value (l.code w x.a (fld x.m 11 9))
          let r := roundVal fmtF32 (Dev.rm x) (Dev.ftz x) (scaleBySc ((l.src x.b).val.toNat % 1024) e)
          outR x.d r.1 .f32 (r.2 ||| if e.isSnan then fNV else 0)))
  ∧ LanesDo .sclx (fun x l => fld x.m 11 9 = 0 ∧ (l.src x.a).tag = .f32)
      (fun x l => let r := scOf (l.elem x fmtF32 32 x.a 0); outR x.d r.1 .sc10x3 r.2)
  ∧ LanesDo .sclx (fun x l => 1 ≤ fld x.m 11 9 ∧ fld x.m 11 9 ≤ 3 ∧ (l.src x.a).tag = .sc10x3)
      (fun x l =>
        let r := roundVal fmtF32 .rne (Dev.ftz x) (scaleBySc (l.code 10 x.a (fld x.m 11 9 - 1)) (.fin false 1 0))
        outR x.d r.1 .f32 r.2)
  ∧ LanesDo .sclx (fun x l => 4 ≤ fld x.m 11 9 ∧ fld x.m 11 9 ≤ 6 ∧ (l.src x.a).tag = .f32 ∧ (l.src x.b).tag = .sc10x3)
      (fun x l =>
        let r := scOf (l.elem x fmtF32 32 x.a 0)
        let i := fld x.m 11 9 - 4
        outR x.d (setFld ((l.src x.b).val.toNat % 2 ^ 30) (10 * i + 9) (10 * i) r.1) .sc10x3 r.2)
  ∧ LanesDo .tagrd (fun x l => tchkFails x.m [(l.src x.a).tag] = false) (fun x l => outR x.d (l.src x.a).tag.code .n32)
  ∧ (∀ t : Tag, LanesDo .retag (fun x l => (l.src x.b).val.toNat % 16 = t.code) fun x l => { regs := [(x.d, ⟨(l.src x.a).val, t⟩)] })

/-- QNT in each of its four formats (R135, R136). -/
def Obligations.Quantisation : Prop :=
  ∀ (s : State) (c : Cohort) (w : Wave) (x : Dev), Stage s c w → (∀ l ∈ c.active w x, l.tags x [x.a] (· = .f32)) → fld x.m 11 9 ≤ 3 →
    let q := qntFormat (fld x.m 11 9)
    let val := fun i => match (c.active w x).find? fun l => l.lane == i with | some l => l.elem x fmtF32 32 x.a 0 | none => .fin false 0 0
    let scale := blockScale q.2.1 (amaxOf ((List.range 32).map val))
    let code := fun v => quantise q.1 (!bit x.m 3) (Dev.ftz x) scale v
    let image := ((List.range 32).map fun i => (code (val i)).1 * 2 ^ (q.1.width * i)).sum
    exec (.qnt x) s = .next (s.idle.issued c w w x fun l =>
      { regs := [(x.d, if l.lane < q.2.2.1 then ⟨BitVec.ofNat 32 (image / 2 ^ (32 * l.lane)), q.2.2.2⟩ else ⟨0, .raw⟩),
                 (x.d.plus 1, ⟨BitVec.ofNat 32 scale, .sc10x3⟩)]
        flags := (code (l.elem x fmtF32 32 x.a 0)).2 })

/-! ## Control, traps and waits (04, 17) -/

/-- NOP, YIELD, ISYNC, BRA, CALL (R111), BRX, CALLX, RET (R112).
EXIT (R113, R114), with a single live thread the end of its wave and block. -/
def Obligations.ControlAndExit : Prop :=
  (
  let goes := fun (l : LaneCtx) (i : Int) => l.th.pc + BitVec.ofInt 60 i
  let link := fun (x : Dev) (l : LaneCtx) => (outW x.d (l.th.pc.toNat + l.len) .n32).regs
  let signed := fun (x : Dev) (l : LaneCtx) => (BitVec.ofNat 64 (l.srcWN x.a)).toInt
  let absolute := fun (x : Dev) (l : LaneCtx) => l.srcWN x.a < 2 ^ 60 ∧ l.srcWN x.a % 4 = 0
  LanesDo .nop (fun _ _ => True) (fun _ _ => {})
  ∧ LanesDo .yield (fun _ _ => True) (fun _ _ => {})
  ∧ LanesDo .isync (fun _ _ => True) (fun _ _ => {})
  ∧ LanesDo .bra (fun x l => (goes l x.imm32).toNat % 4 = 0) (fun x l => { pc := some (goes l x.imm32) })
  ∧ LanesDo .call (fun x l => (goes l x.imm32).toNat % 4 = 0) (fun x l => { regs := link x l, pc := some (goes l x.imm32) })
  ∧ LanesDo .brx (fun x l => bit x.m 0 = true ∧ (goes l (signed x l)).toNat % 4 = 0) (fun x l => { pc := some (goes l (signed x l)) })
  ∧ LanesDo .brx (fun x l => bit x.m 0 = false ∧ absolute x l) (fun x l => { pc := some (BitVec.ofNat 60 (l.srcWN x.a)) })
  ∧ LanesDo .callx (fun x l => bit x.m 0 = true ∧ (goes l (signed x l)).toNat % 4 = 0)
      (fun x l => { regs := link x l, pc := some (goes l (signed x l)) })
  ∧ LanesDo .callx (fun x l => bit x.m 0 = false ∧ absolute x l) (fun x l => { regs := link x l, pc := some (BitVec.ofNat 60 (l.srcWN x.a)) })
  ∧ LanesDo .ret absolute (fun x l => { pc := some (BitVec.ofNat 60 (l.srcWN x.a)) })
  ) ∧ (
  ∀ (s : State) (c : Cohort) (w : Wave) (x : Dev), Stage s c w →
    exec (.exit x) s = .next (State.forEach (c.active w x) (fun l t => t.exitThread l.ref) (s.idle.issued c w w x fun _ => { exits := true }))
    ∧ ∀ l, c.active w x = [l] → (∀ v ∈ s.waves, v.block = w.block → v = w) → (∀ i t, w.threads[i]? = some t → i ≠ l.lane → t.status = .exited) →
        c.lanes = [l.lane] → l.lane < w.threads.length → (∀ o ∈ s.mats, o.by_.block ≠ some w.block) →
        ∃ t, exec (.exit x) s = .next t ∧ t.wave? c.wave = none ∧ t.block? w.block = none ∧ t.mem = s.mem
  )

/-- TRAP and BKPT (R116): the entry into the handler (R370), or the task's abort (R371), after the record of a BKPT (18 R397). -/
def Obligations.TrapsEnterTheHandler : Prop :=
  ∀ (s : State) (c : Cohort) (w : Wave) (x : Dev) (l : LaneCtx) (i : Dev → Instr) (code : Nat), OneLane s c w x l → s.strandOf w = none →
    (i = .trap ∧ code = 11 ∨ i = .bkpt ∧ code = 12) →
    let f : FInfo := { code, operand := x.m % 256, after := true, pc := l.th.pc.toNat, resume := l.nextPc.toNat, lanes := 0 }
    let s0 := s.idle.faulting c w x l
    let s1 := if code = 12 ∧ bit (s.tenant (s.tenantOfWave w)).vis.toNat 2 = true
      then s0.visWrite l.ref { type := 3, pc := l.th.pc.toNat, code := x.m % 256 } else s0
    ∀ v, s0.wave? c.wave = some v → Ready s1 c v →
    (bit (s1.tenant (s.tenantOfWave w)).trap.toNat 0 = true → l.th.trapinfo = 0 → w.frame.isSome → 64 ≤ w.privBytes →
      ∀ s2 u, writeFrameTo (s1.self l.ref) v l.lane (frameBits v l.th f) s1 = .ok () s2 → Ready s2 c u →
        exec (i x) s = .next (s2.updThread l.ref fun t =>
          { t with status := .run, trapinfo := BitVec.ofNat 32 (code * 2 ^ 24 + 3 * 2 ^ 8 + x.m % 256), turns := 0, retry := false
                   again := false, inst := none, redo := none
                   pc := BitVec.ofNat 60 ((s2.tenant (s.tenantOfWave w)).trap.toNat % 2 ^ 60 / 4 * 4) }))
    ∧ ((bit (s1.tenant (s.tenantOfWave w)).trap.toNat 0 = false ∨ l.th.trapinfo ≠ 0) → ∀ b, s.block? w.block = some b →
        exec (i x) s = .next (s1.markAbort b.task { status := 3, fault := code, faultPc := l.th.pc.toNat, faultAddr := 0 }))

/-- NAP (R116) and NAP_EXPIRY. That the limit sets no flag is the model's choice (log entry 85).
WAITW (R117), TWAIT (R182), WAITW_POLL and WAITW_TIMEOUT. -/
def Obligations.Waits : Prop :=
  (
  LanesDo .nap (fun x l => Tag.isScalar (l.src x.a).tag ∧ numOf (l.src x.a) ≤ 0) (fun _ _ => {})
  ∧ (∀ (s : State) (c : Cohort) (w : Wave) (x : Dev) (l : LaneCtx), OneLane s c w x l → Tag.isScalar (l.src x.a).tag → 0 < numOf (l.src x.a) →
      exec (.nap x) s = .next (s.idle.waiting c w x l (.nap (s.clock + (min (numOf (l.src x.a)) 1048575).toNat))))
  ∧ ∀ (s : State) (r : ThreadRef) (t : Thread) (wake : Nat) (next : BitVec 60), s.thread? r = some t → t.status = .waiting (.nap wake) next →
      wake ≤ s.clock → Alone s r →
      exec (.napExpiry r) s = .next (s.updThread r fun _ => t.goesOn next)
  ) ∧ (
  let level := fun (c : Self) (n : Nat) => ({ c with who := { c.who with level := n } } : Self)
  (∀ (s : State) (c : Cohort) (w : Wave) (x : Dev) (l : LaneCtx) (i : Dev → Instr) (n cond limit lv : Nat) (b : Word), OneLane s c w x l →
    (i = .waitw ∧ l.srcWN x.a % 4 = 0 ∧ n = 4 ∧ cond = fld x.m 10 9 ∧ cond ≤ 2 ∧ b = (l.src x.b).val ∧ limit = l.srcN x.c
        ∧ lv = acquireLevel (Dev.sem x) (Dev.scope x)
      ∨ i = .twait ∧ l.srcWN x.a % 64 = 0 ∧ n = 1 ∧ cond = 3 ∧ b = 0 ∧ limit = l.srcN x.b ∧ lv = 2) →
    l.srcWN x.a < 2 ^ 60 → ∀ (v : Nat) (s1 : State), readVa (level (s.idle.self l.ref) lv) .load (l.srcWN x.a) n s.idle = .ok v s1 →
    Ready s1 c w →
    let t := s.tenantOfWave w
    let met := [decide (v = b.toNat), decide (v ≠ b.toNat), decide (b.toNat ≤ v), decide (v ≠ 0)].getD cond false
    (met = true → exec (i x) s = .next (s1.issued c w w x fun _ => outR x.d (if cond = 3 then v else 1) .n32))
    ∧ (met = false → limit ≤ s1.clockOf t - s.clockOf t → exec (i x) s = .next (s1.issued c w w x fun _ => outR x.d 0 .n32))
    ∧ (met = false → s1.clockOf t - s.clockOf t < limit →
        exec (i x) s = .next (s1.waiting c w x l (.waitw (l.srcWN x.a) cond b (s.clockOf t) limit lv x.d))))
  ∧ ∀ (s : State) (r : ThreadRef) (c : Cohort) (w : Wave) (t : Thread) (ea cond t0 limit lv : Nat) (b : Word) (d : Operand) (next : BitVec 60)
      (v : Nat) (s1 : State),
    r.wave = c.wave → s.wave? r.wave = some w → s.thread? r = some t → t.status = .waiting (.waitw ea cond b t0 limit lv d) next → cond ≤ 3 →
    readVa (level (s.self r) lv) .load ea (if cond = 3 then 1 else 4) s = .ok v s1 → Ready s1 c w →
    let met := [decide (v = b.toNat), decide (v ≠ b.toNat), decide (b.toNat ≤ v), decide (v ≠ 0)].getD cond false
    let late := decide (limit ≤ s.clockOf (s.tenantOfWave w) - t0)
    let ends := fun (n : Nat) => (s1.writeDest r d ⟨BitVec.ofNat 32 n, .n32⟩).updThread r fun t => t.goesOn next
    s1.clockOf (s.tenantOfWave w) = s.clockOf (s.tenantOfWave w) →
    (met = true → exec (.waitwPoll r) s = .next (ends (if cond = 3 then v else 1)))
    ∧ (met = false → late = true → exec (.waitwPoll r) s = .next (ends 0) ∧ exec (.waitwTimeout r) s = .next (ends 0))
    ∧ (met = false → late = false → exec (.waitwPoll r) s = .next s1)
  )

/-- SAFEPT (R119, R387; 17 R377).
SAFEPT_OVERRUN (R387). -/
def Obligations.SafePoints : Prop :=
  (
  ∀ (s : State) (c : Cohort) (w : Wave) (x : Dev) (b : Block), Stage s c w → s.block? w.block = some b →
    let s1 := s.idle.issued c w w x fun _ => {}
    (c.active w x = [] → exec (.safept x) s = .next s1)
    ∧ (c.active w x ≠ [] →
        let s2 := s1.perfCoreEvent (s.tenantOfWave w) 5 1
        exec (.safept x) s = .next (if b.safeDist = 0 then s2
          else (s2.updWave c.wave fun v => { v with safeCnt := 0 }).updBlock b.id fun b => { b with restarts := 0 }))
  ) ∧ (
  ∀ (s : State) (c : Cohort) (w : Wave) (x : Dev) (l : LaneCtx) (b : Block), OneLane s c w x l → x.guard = ⟨false, 7⟩ → c.lanes = [l.lane] →
    s.block? w.block = some b → s.overrun c w = true → s.strandOf w = none →
    ∃ t, exec (.safeptOverrun c.wave) s = .next t
      ∧ (∀ k, t.task? k = (s.task? k).map fun y => if k = b.task then
          { y with ending := some (y.ending.getD { status := 3, fault := 14, faultPc := l.th.pc.toNat, faultAddr := 0 }), phase := .ending, aborting := true } else y)
      ∧ t.mem = s.mem ∧ t.blocks = s.blocks
  )

/-! ## System instructions (17) -/

/-- SRD and SWR (R380; 01 R24), PERF and CLK (R383). -/
def Obligations.SpecialRegisters : Prop :=
  ∀ (s : State) (c : Cohort) (w : Wave) (x : Dev) (b : Block) (k : Task), Stage s c w → s.block? w.block = some b → s.task? b.task = some k →
    let core := w.ref.core
    let tenant := s.tenant k.tenant
    let lim := s.limits (.die (Fin.ofNat 8 (core / 32)))
    let sel := fun (i : Nat) => decide (1 ≤ tenant.perfSels.getD i 0 ∧ tenant.perfSels.getD i 0 ≤ 7)
    (x.m < 15 → exec (.srd x) s = .next (s.idle.issued c w w x fun l =>
      if x.m = 12 then outW x.d (s.clockOf k.tenant) .n32
      else outR x.d ([l.lane, w.ref.slot, b.blockId, core % 32 / 4, core / 32, core % 32 / 4, core / 32 / 2, k.taskNum, k.graphId, l.th.ltid,
        b.strand.elim 0 fun p => 2 ^ 31 + p.2, k.tenant, 0, w.fstat.toNat, l.th.trapinfo.toNat].getD x.m 0) .n32))
    ∧ (∀ f : Word, (∀ i < 32, f.getLsbD i = (w.fstat.getLsbD i
          && !([0, 1, 2, 3, 4, 6, 7, 8].contains i && (c.active w x).any fun l => (l.src x.a).val.getLsbD i))) →
        exec (.swr x) s = .next (s.idle.issued c { w with fstat := f } w x fun _ => {}))
    ∧ exec (.perf x) s = .next (s.idle.issued c w w x fun l =>
        let n := (l.src x.a).val.toNat
        outW x.d (if bit x.m 0 then (if n ≤ 63 ∧ sel (16 + n) then (tenant.perfHub.getD (core / 32 / 2) []).getD n 0 else 0xFFFFFFFFFFFFFFF0)
          else if n ≤ 15 ∧ sel n then tenant.perfCore.getD n 0 else 0xFFFFFFFFFFFFFFF0) .n32)
    ∧ exec (.clk x) s = .next (s.idle.issued c w w x fun _ =>
        outR x.d (min (lim.thermal.getD 2500) (min (lim.power.getD 2500) 2500) + b2n lim.thermal.isSome * 65536 + b2n lim.power.isSome * 131072) .n32)

/-- TRET (R381). -/
def Obligations.HandlersReturn : Prop :=
  ∀ (s s1 : State) (c : Cohort) (w : Wave) (x : Dev) (l : LaneCtx) (ws : List Nat), OneLane s c w x l → l.th.trapinfo ≠ 0 → ws.length = 16 →
    PrivRead (s.idle.self l.ref) w l.lane 0 ws s.idle s1 → Ready s1 c w →
    let f := wordsNat ws
    let pc := fld f 511 448
    (pc < 2 ^ 60 → pc % 4 = 0 → ∃ (t0 t1 : Tag) (n : Nat),
      (∀ t, Tag.ofCode? (fld f 67 64) = some t → t0 = t) ∧ (∀ t, Tag.ofCode? (fld f 71 68) = some t → t1 = t)
      ∧ (fld f 67 64 < 15 → fld f 71 68 < 15 → n = 0)
      ∧ exec (.tret x) s = .next (({ s1 with free := s1.free + n } : State).issued c w w x fun _ =>
          { regs := if 2 ≤ w.allot then [(.v 0, ⟨BitVec.ofNat 32 (fld f 31 0), t0⟩), (.v 1, ⟨BitVec.ofNat 32 (fld f 63 32), t1⟩)] else []
            preds := (List.range 7).map fun i => (i, bit f (256 + i))
            pc := some (BitVec.ofNat 60 pc), leaves := true }))
    ∧ (¬ (pc < 2 ^ 60 ∧ pc % 4 = 0) → ∀ b, s1.block? w.block = some b →
        exec (.tret x) s = .next ((s1.markAbort b.task
          { status := 3, fault := if pc < 2 ^ 60 then 5 else 7, faultPc := l.th.pc.toNat, faultAddr := 0 }).issued c w w x fun l =>
            { pc := some l.th.pc }))

/-- HLT (R382) and DBGMK (R385). -/
def Obligations.HaltAndMarker : Prop :=
  ∀ (s : State) (c : Cohort) (w : Wave) (x : Dev) (l : LaneCtx) (b : Block), OneLane s c w x l → s.block? w.block = some b →
    (b.strand = none → exec (.hlt x) s = .next ((s.idle.markAbort b.task
      { status := 3, fault := 0x100 + x.m % 256, faultPc := l.th.pc.toNat, faultAddr := 0 }).issued c w w x fun l => { pc := some l.th.pc }))
    ∧ (bit (s.tenant (s.tenantOfWave w)).vis.toNat 3 = false → exec (.dbgmk x) s = .next (s.idle.issued c w w x fun _ => {}))
    ∧ (bit (s.tenant (s.tenantOfWave w)).vis.toNat 3 = true →
        let s1 := s.idle.visWrite l.ref { type := 2, pc := l.th.pc.toNat, aux := (l.src x.a).val.toNat, id := x.m }
        Ready s1 c w → exec (.dbgmk x) s = .next (s1.issued c w w x fun _ => {}))

/-- REGSHR and REGGRW (R384) and REGGRW_GRANT. -/
def Obligations.RegisterSpace : Prop :=
  let up := fun (r : Reg) => 8 * (((numOf r).toNat + 7) / 8)
  (∀ (s : State) (c : Cohort) (w : Wave) (x : Dev) (l : LaneCtx) (rest : List LaneCtx), Stage s c w → c.active w x = l :: rest →
    Tag.isScalar (l.src x.a).tag →
    let n := up (l.src x.a)
    (exec (.regshr x) s = .next (s.idle.issued c
      (if n < w.allot then { w with allot := n, threads := w.threads.map fun t => t.resized n } else w) w x fun _ => {}))
    ∧ (numOf (l.src x.a) ≤ 256 → n ≤ w.allot → exec (.reggrw x) s = .next (s.idle.issued c w w x fun _ => {}))
    ∧ (numOf (l.src x.a) ≤ 256 → w.allot < n →
        exec (.reggrw x) s = .next ((s.idle.updCore w.ref.core fun k => { k with reggrw := k.reggrw ++ [l.ref] }).waitingAll c w x (l :: rest) (.reggrw n))))
  ∧ ∀ (s : State) (core n : Nat) (r : ThreadRef) (rest : List ThreadRef) (w : Wave) (t : Thread) (next : BitVec 60), core < 256 →
      s.cores.length = 256 → (s.core core).reggrw = r :: rest → s.wave? r.wave = some w → w.threads[r.lane]? = some t →
      t.status = .waiting (.reggrw n) next → (s.tenant (s.tenantOfWave w)).phase ≠ .saving →
      128 * (n - w.allot) + ((s.waves.filter fun v => v.ref.core == core).map fun v => 128 * v.allot).sum ≤ 524288 →
      ∃ u, exec (.reggrwGrant core) s = .next u
        ∧ u.wave? r.wave = some { w with
            allot := max w.allot n
            threads := w.threads.map fun t =>
              let t' := if w.allot < n then t.resized n else t
              if t.status = .waiting (.reggrw n) next then t'.goesOn next else t' }
        ∧ r ∉ (u.core core).reggrw ∧ u.mem = s.mem ∧ (∀ v ∈ u.waves, v.ref ≠ r.wave → v ∈ s.waves)

/-- MLDS, MSTRM, MDRN, MPASS, ACCLD, ACCST (R207), MZRO (R211), ACCSC (R212), ATTN and ACCMRG (15 R356).
MSYNC (R213) and MRST (R214). -/
def Obligations.MatrixOperations : Prop :=
  (
  ∀ (s : State) (c : Cohort) (w : Wave) (x : Dev) (l : LaneCtx) (b : Block) (k : Task), OneLane s c w x l → s.strandOf w = none →
    s.block? w.block = some b → s.task? b.task = some k → w.ref.core < 256 → b.nextTicket < 2 ^ 32 →
    (s.mats.filter fun o => o.by_.core == w.ref.core).length < 16 →
    let ticket := if b.nextTicket = 2 ^ 32 - 1 then 1 else b.nextTicket + 1
    let posts := fun (i : Dev → Instr) (kind : MatKind) (off pb : Nat) =>
      ∃ u o, exec (i x) s = .next u ∧ u.mats = s.mats ++ [o] ∧ u.mem = s.mem
        ∧ u.waves = (s.idle.issued c w w x fun _ => outR x.d ticket .n32).waves
        ∧ u.block? w.block = some { b with nextTicket := ticket }
        ∧ o.kind = kind ∧ o.ticket = ticket ∧ o.engine = w.ref.core / 4 ∧ o.off = off ∧ o.pb = pb ∧ o.phase = .waiting ∧ o.rowsDone = 0
        ∧ o.sem = fld x.m 4 3 ∧ o.scope = fld x.m 2 0 ∧ o.by_.block = some b.id ∧ o.by_.task = b.task ∧ o.by_.thread = some l.ref
        ∧ o.snapA = (kind.tids pb).1.map (s.snapshot k.tenant b.task) ∧ o.snapB = (kind.tids pb).2.map (s.snapshot k.tenant b.task)
        ∧ o.code = (if o.fmtBad then 2 else if o.rangeBad b.accRows.length b.scratchLen then 3 else if o.fieldBad b.scratchLen then 4 else 0)
        ∧ (∀ v ∈ u.tasks, v.id = b.task → ∃ v' ∈ s.tasks, v = { v' with pending := bump v'.pending w.ref.core (· + 1) })
    let off := (l.src x.a).val.toNat
    (∀ p ∈ [(Instr.mlds, MatKind.mlds), (.mstrm, .mstrm), (.mdrn, .mdrn), (.mpass, .mpass), (.accld, .accld), (.accst, .accst), (.attn, .attn),
        (.accmrg, .accmrg)], off % 64 = 0 → off + 64 ≤ b.scratchLen → b.granulesBad off 64 = false →
      posts p.1 p.2 off (b.scratch.readNat off 64))
    ∧ posts .mzro .mzro 0 ((l.src x.a).val.toNat + (l.src x.b).val.toNat * 2 ^ 32 + b2n (bit x.m 9) * 2 ^ 64)
    ∧ ((l.src x.c).tag = .f32 →
        posts .accsc .accsc 0 ((l.src x.a).val.toNat + (l.src x.b).val.toNat * 2 ^ 32 + (l.src x.c).val.toNat * 2 ^ 64))
  ) ∧ (
  ∀ (s : State) (c : Cohort) (w : Wave) (x : Dev) (l : LaneCtx) (b : Block), OneLane s c w x l → s.block? w.block = some b →
    let t := (l.src x.a).val.toNat
    let open_ := s.mats.any fun o => o.by_.block == some b.id && covered t b.nextTicket o.ticket
    (open_ = false → exec (.msync x) s = .next (s.idle.issued c w w x fun _ => outR x.d (msyncCode b t b.nextTicket) .n32))
    ∧ (open_ = true → exec (.msync x) s = .next (s.idle.waiting c w x l (.msync (t + 2 ^ 32 * b.nextTicket) x.d)))
    ∧ (bit x.m 0 = true → exec (.mrst x) s = .next ((s.idle.updBlock w.block fun b => { b with rstpc := 1 }).issued c w w x fun _ => {}))
    ∧ (bit x.m 0 = false → l.srcWN x.a < 2 ^ 60 → l.srcWN x.a % 4 = 0 →
        exec (.mrst x) s = .next ((s.idle.updBlock w.block fun b => { b with rstpc := l.srcWN x.a }).issued c w w x fun _ => {}))
  )

/-! ## Loads, stores, atomics, sync words, barriers (12, 10, 07) -/

/-- LD, LDS, LDP (R284, R285).
ST, STS, STP (R285). -/
def Obligations.LoadsAndStores : Prop :=
  (
  ∀ (s s1 : State) (c : Cohort) (w : Wave) (x : Dev) (l : LaneCtx) (t : Tag) (v : Nat), OneLane s c w x l → Tag.ofCode? (fld x.m 8 5) = some t →
    let n := 2 ^ fld x.m 11 9
    let ea := eaOf x l
    let self := (s.idle.self l.ref).acquire (fld x.m 4 3) (fld x.m 2 0)
    fld x.m 11 9 ≤ 4 → ea % n = 0 → Ready s1 c w →
    (ea < 2 ^ 60 → readVa self .load ea n s.idle = .ok v s1 → exec (.ld x) s = .next (s1.issued c w w x fun _ => loadOut x t v))
    ∧ (∀ b, s.block? w.block = some b → ea + n ≤ b.scratchLen → b.granulesBad ea n = false →
        exec (.lds x) s = .next (s.idle.issued c w w x fun _ => loadOut x t (b.scratch.readNat ea n)))
    ∧ (ea + n ≤ w.privBytes → readPriv self w l.lane ea n s.idle = .ok v s1 →
        exec (.ldp x) s = .next (s1.issued c w w x fun _ => loadOut x t v))
  ) ∧ (
  ∀ (s s1 : State) (c : Cohort) (w : Wave) (x : Dev) (l : LaneCtx), OneLane s c w x l →
    let n := 2 ^ fld x.m 11 9
    let ea := eaOf x l
    let bs := storeBytes x l
    fld x.m 11 9 ≤ 4 → ea % n = 0 → Ready s1 c w →
    (ea < 2 ^ 60 → writeVa (s.idle.self l.ref) ea bs (fld x.m 4 3) (fld x.m 2 0) s.idle = .ok () s1 →
        exec (.st x) s = .next (s1.issued c w w x fun _ => {}))
    ∧ (∀ b, s.block? w.block = some b → ea + n ≤ b.scratchLen →
        exec (.sts x) s = .next ((s.idle.updBlock w.block fun b => { b with scratch := b.scratch.writeBytes ea bs }).issued c w w x fun _ => {}))
    ∧ (ea + n ≤ w.privBytes → writePriv (s.idle.self l.ref) w l.lane ea bs s.idle = .ok () s1 →
        exec (.stp x) s = .next (s1.issued c w w x fun _ => {}))
  )

/-- LD and ST of global memory, with their frame (R284-R286; 10 R255). -/
def Obligations.GlobalAccesses : Prop :=
  ∀ (s : State) (c : Cohort) (w : Wave) (x : Dev) (l : LaneCtx) (pa leaf : Nat), OneLane s c w x l → MemoryInv s →
    s.strandOf w = none →
    let n := 2 ^ fld x.m 11 9
    let ea := eaOf x l
    fld x.m 11 9 ≤ 4 → ea % n = 0 →
    (∀ t, Tag.ofCode? (fld x.m 8 5) = some t → Mapped s (s.idle.self l.ref) .load ea pa leaf → s.poisoned pa n = false →
      ∃ u, exec (.ld x) s = .next u ∧ u.mem = s.mem
        ∧ SameWork (s.idle.issued c w w x fun _ => loadOut x t (leNat ((List.range n).map fun i => s.mem.read (pa + i)))) u)
    ∧ (Mapped s (s.idle.self l.ref) .store ea pa leaf → bit (s.tenant (s.tenantOfWave w)).dirty.toNat 0 = false →
      ∃ u, exec (.st x) s = .next u ∧ BytesPut s.mem u.mem pa (storeBytes x l) ∧ SameWork (s.idle.issued c w w x fun _ => {}) u)

/-- new(m, c) of R288.
ATOM, ATOMS, RED (R287, R289). -/
def Obligations.Atomics : Prop :=
  (
  ∀ (op type m c : Nat), op ≤ 7 → (type ∈ [0, 1, 2, 3, 14] ∨ type = 13 ∧ 3 ≤ op) → m < 2 ^ (8 * atomBytes type) → c < 2 ^ (8 * atomBytes type) →
    (op ≤ 2 ∨ 6 ≤ op ∨ type ∈ [0, 1, 13, 14]) → atomNew op type m c = atomValue op type m c
  ) ∧ (
  ∀ (s : State) (c : Cohort) (w : Wave) (x : Dev) (l : LaneCtx), OneLane s c w x l → MemoryInv s → s.strandOf w = none →
    let n := if fld x.m 8 5 = 14 then 8 else 4
    let ea := eaOf x l
    ea % n = 0 → l.atomTag x x.c → (fld x.m 11 9 = 7 → l.atomTag x x.d) → (fld x.m 8 5 ∈ [0, 1, 2, 3, 14] ∨ fld x.m 8 5 = 13 ∧ 3 ≤ fld x.m 11 9) →
    (fld x.m 11 9 ≤ 2 ∨ 6 ≤ fld x.m 11 9 ∨ fld x.m 8 5 ∈ [0, 1, 13, 14]) →
    (∀ (i : Dev → Instr) (pa leaf : Nat), (i = .atom ∨ i = .red ∧ fld x.m 11 9 ≤ 5) → Mapped s (s.idle.self l.ref) .atomic ea pa leaf →
      s.poisoned pa n = false → bit (s.tenant (s.tenantOfWave w)).dirty.toNat 0 = false →
      let m := s.mem.readNat pa n
      let r := l.atomStep x m
      ∃ u, exec (i x) s = .next u ∧ BytesPut s.mem u.mem pa (if r.2.1 then natBytes n r.1 else [])
        ∧ SameWork (s.idle.issued c w w x fun _ => if i x = .atom x then atomOut x m r.2.2 else { flags := r.2.2 }) u)
    ∧ ∀ b, s.block? w.block = some b → ea + n ≤ b.scratchLen → b.granulesBad ea n = false →
      let m := b.scratch.readNat ea n
      let r := l.atomStep x m
      exec (.atoms x) s = .next ((if r.2.1 then s.idle.updBlock w.block fun b => { b with scratch := b.scratch.writeBytes ea (natBytes n r.1) }
        else s.idle).issued c w w x fun _ => atomOut x m r.2.2)
  )

/-- FENCE (R290), PREF and CCTL (R291). -/
def Obligations.FencesAndHints : Prop :=
  ∀ (s : State) (c : Cohort) (w : Wave) (x : Dev) (l : LaneCtx), OneLane s c w x l →
    let done := fun (s1 : State) => s1.issued c w w x fun _ => {}
    (s.strandOf w = none → exec (.fence x) s = .next (done s.idle))
    ∧ (∀ i : Dev → Instr, i = .pref ∨ i = .cctl →
        (∃ u, exec (i x) s = .next u ∧ u.waves = (done s.idle).waves ∧ u.blocks = s.blocks)
        ∧ (clusterBase ≤ eaOf x l → exec (i x) s = .next (done s.idle))
        ∧ (∀ pa leaf, Mapped s (s.idle.self l.ref) .prefetch (eaOf x l) pa leaf → ∃ u, exec (i x) s = .next u ∧ u.mem = s.mem))
    ∧ ∀ pa leaf, Mapped s (s.idle.self l.ref) .prefetch (eaOf x l) pa leaf →
        (fld x.m 11 9 = 0 → exec (.cctl x) s = .next (done { s.idle with
          l1 := s.l1.filter fun p => !(p.1 == w.ref.core && p.2 == pa / 64)
          locks := s.locks.filter fun k => !(k.core == some w.ref.core && k.line == pa / 64) }))
        ∧ (fld x.m 11 9 = 2 → exec (.cctl x) s = .next (done { s.idle with
            locks := s.locks.filter fun k =>
              !(k.line == pa / 64 && k.die == w.ref.core / 32 && (k.core == none || k.core == some w.ref.core)) }))
        ∧ (fld x.m 11 9 = 3 → exec (.cctl x) s = .next (done { s.idle with
            l1 := s.l1.filter fun p => p.1 != w.ref.core
            locks := s.locks.filter fun k => k.core != some w.ref.core }))
        ∧ (fld x.m 11 9 = 1 → w.ref.core < 256 → ∃ u, exec (.cctl x) s = .next u ∧ (∀ p ∈ u.l1, p ∈ s.l1)
            ∧ ∀ e, u.dirEntry? (pa / 64) = some e → e.dies.getLsbD (w.ref.core / 32) = false)

/-- SWARM, SWADD, SWWAIT, SWTEST (R292; 10 R263).
BINIT, BARV, BWAIT, BARW, BTEST (R172, R173). -/
def Obligations.BarriersAndSyncWords : Prop :=
  (
  ∀ (s : State) (c : Cohort) (w : Wave) (x : Dev) (l : LaneCtx) (b : Block), OneLane s c w x l → s.block? w.block = some b → s.distinct →
    let o := (l.srcWN x.a + 16 * fld x.m 11 5) % 2 ^ 64
    let g := (l.src x.b).val.toNat
    let old := b.scratch.readNat o 16
    let target := fld old 31 0
    let count := fld old 63 32
    let gen := fld old 95 64
    let passed := fun (gen g : Nat) => decide ((gen + 2 ^ 32 - g) % 2 ^ 32 ∈ Set.Icc 1 (2 ^ 31))
    o % 16 = 0 → o + 16 ≤ b.scratchLen →
    (∀ (i : Dev → Instr) (target' count' : Nat) (armed ovf : Bool),
      (i = .swarm ∧ target' = min (target + g) (2 ^ 32 - 1) ∧ count' = count ∧ armed = true ∧ ovf = decide (2 ^ 32 ≤ target + g)
        ∨ i = .swadd ∧ target' = target ∧ count' = min (count + g) (2 ^ 32 - 1) ∧ armed = bit old 96 ∧ ovf = decide (2 ^ 32 ≤ count + g)) →
      let ends := armed && decide (target' ≤ count')
      let gen' := if ends then (gen + 1) % 2 ^ 32 else gen
      let new := (if ends then 0 else target') + (if ends then count' - target' else count') * 2 ^ 32 + gen' * 2 ^ 64
        + b2n (armed && !ends) * 2 ^ 96 + b2n (bit old 97 || ovf) * 2 ^ 97 + fld old 127 98 * 2 ^ 98
      let s1 := (s.idle.updBlock w.block fun b => { b with scratch := b.scratch.writeBytes o (natBytes 16 new) }).released fun r wt =>
        match wt with | .sync o' g' => o' == o && s.inBlock r w.block && passed gen' g'.toNat | _ => false
      ∀ v, s1.wave? c.wave = some v → exec (i x) s = .next (s1.issued c v w x fun _ => {}))
    ∧ exec (.swtest x) s = .next (s.idle.issued c w w x fun _ => outP x.d (passed gen g))
    ∧ (passed gen g = true → exec (.swwait x) s = .next (s.idle.issued c w w x fun _ => {}))
    ∧ (passed gen g = false → exec (.swwait x) s = .next (s.idle.waiting c w x l (.sync o (l.src x.b).val)))
  ) ∧ (
  ∀ (s : State) (c : Cohort) (w : Wave) (x : Dev) (l : LaneCtx) (rest : List LaneCtx) (b : Block) (k : Barrier), Stage s c w → s.distinct →
    c.active w x = l :: rest → s.block? w.block = some b →
    let i := if bit x.m 11 then (l.src x.b).val.toNat else fld x.m 10 0
    b.barriers[i]? = some k →
    let rule := fun (k : Barrier) => if k.expected ≤ k.arrived then { k with phase := k.phase + 1, arrived := k.arrived - k.expected } else k
    let put := fun (k' : Barrier) (free : Nat) =>
      (({ s.idle with free := s.free + free } : State).updBlock w.block fun b => { b with barriers := b.barriers.set i k' }).released fun r wt =>
        match wt with | .barrier j tok _ => j == i && tok != k'.phase && s.inBlock r w.block | _ => false
    let live := ((s.waves.filter fun v => v.block == w.block).map fun v => (v.threads.filter fun t => t.status != .exited).length).sum
    let cnt := (l.src x.a).val.toNat
    let init := if cnt = 0 then { phase := k.phase + 1, arrived := 0, expected := live, init := false }
      else rule { k with expected := min cnt 2048, init := true }
    (∀ v, (put init 0).wave? c.wave = some v → exec (.binit x) s = .next ((put init 0).issued c v w x fun _ => {}))
    ∧ exec (.btest x) s = .next (s.idle.issued c w w x fun l => outP x.d (decide (k.phase ≠ (l.src x.a).val)))
    ∧ ((∀ l ∈ c.active w x, k.phase ≠ (l.src x.a).val) → exec (.bwait x) s = .next (s.idle.issued c w w x fun _ => {}))
    ∧ ((∀ l ∈ c.active w x, k.phase = (l.src x.a).val) →
        exec (.bwait x) s = .next (s.idle.waitingAll c w x (c.active w x) (.barrier i k.phase false)))
    ∧ ∃ a m, (k.arrived + rest.length + 1 < 4096 → a = k.arrived + rest.length + 1 ∧ m = 0) ∧ a < 4096 ∧ m ≤ 1
        ∧ let k' := rule { k with arrived := a }
          ∀ v, (put k' m).wave? c.wave = some v →
            exec (.barv x) s = .next ((put k' m).issued c v w x fun _ => outR x.d k.phase.toNat .n32)
            ∧ (k.expected ≤ a → exec (.barw x) s = .next ((put k' m).issued c v w x fun _ => {}))
            ∧ (a < k.expected → exec (.barw x) s = .next ((put k' m).waitingAll c v x (c.active w x) (.barrier i k.phase true)))
  )

/-! ## Placement and append cursors (12) -/

/-- PIN and UNPIN (R293, R294).
MQRY (R296).
MMOVE and MHINT (R295). That a target is configured where its place has a frame state table is the model's choice (log entry 86). -/
def Obligations.PlacementInstructions : Prop :=
  (
  ∀ (s : State) (c : Cohort) (w : Wave) (x : Dev) (l : LaneCtx), OneLane s c w x l → s.strandOf w = none →
    let va := l.srcWN x.a
    let len := (l.src x.b).val.toNat
    let self := s.idle.self l.ref
    let code := fun (s1 : State) (n : Nat) => s1.issued c w w x fun _ => outR x.d n .n32
    (len = 0 → exec (.pin x) s = .next (code s.idle 0) ∧ exec (.unpin x) s = .next (code s.idle 0))
    ∧ ∀ (pa leaf : Nat) (g : Leaf), Mapped s self .load va pa leaf → lookLeaf s self.who.root .load va = .ok g → 0 < len →
        va + len ≤ g.page + pageBytes g.size → spaceOf (g.ppn * 4096) < 2 →
        let p := s.pin g.ppn
        let full := p.device = 65535 ∨ p.cls = 0 ∧ 262144 ≤ (s.hub (homeOf (g.ppn * 4096)).hub).pins.length
        (¬ full → exec (.pin x) s = .next (code (s.idle.setPin { p with device := p.device + 1 }) 0))
        ∧ (full → exec (.pin x) s = .next (code s.idle 1))
        ∧ (p.device ≠ 0 → exec (.unpin x) s = .next (code (s.idle.setPin { p with device := p.device - 1 }) 0))
        ∧ (p.device = 0 → exec (.unpin x) s = .next (code s.idle 2))
  ) ∧ (
  ∀ (s : State) (c : Cohort) (w : Wave) (x : Dev) (l : LaneCtx), OneLane s c w x l → l.srcWN x.a < 2 ^ 60 →
    let va := l.srcWN x.a
    let root := w.root.toNat
    let answer := fun (s1 : State) (v : Nat) => exec (.mqry x) s = .next (s1.issued c w w x fun _ => outW x.d v .n32)
    let source := fun (g : Leaf) (a : Nat) =>
      (∃ m ∈ s.moves, ∃ d, s.moves.find? (fun m => m.phase == .installed && m.dest.any fun d => covers d m.size (leafPa g.pte va / 4096)) = some m
        ∧ m.dest = some d ∧ a = leafPa g.pte va + m.src * 4096 - d * 4096)
      ∨ (∀ m ∈ s.moves, ¬ (m.phase = .installed ∧ ∃ d, m.dest = some d ∧ covers d m.size (leafPa g.pte va / 4096))) ∧ a = leafPa g.pte va
    ((clusterBase ≤ va ∨ bit root 0 = false ∨ (∀ g, walkRoot s root va ≠ .leaf g)
        ∨ ∃ g a, walkRoot s root va = .leaf g ∧ source g a ∧ paLegal a = false) → answer s.idle 0)
    ∧ ∀ g a, va < clusterBase → bit root 0 = true → walkRoot s root va = .leaf g → source g a → paLegal a = true →
        let ppn := if a = leafPa g.pte va then g.ppn else a / 4096
        let tier := tierOf a
        let count := ((s.frame? (a / 4096)).map fun f => if f.oasid = fld root 12 4 then f.raw - f.base else 0).getD 0
        let word := fun (pins cls : Nat) => count * 2 ^ 40 + cls * 2 ^ 34 + g.size * 2 ^ 32 + pins * 2 ^ 16 + fld g.pte 59 58 * 2 ^ 14
          + fld g.pte 61 60 * 2 ^ 12 + b2n (bit g.pte 62) * 2 ^ 11 + b2n (bit g.pte 63) * 2 ^ 10
          + (if tier = 0 then (homeOf a).place else 0) * 2 ^ 7 + (if tier = 2 then 0 else (homeOf a).hub) * 2 ^ 5 + tier * 2 ^ 3 + 1
        if homeHere s (ppn * 4096) then
          let p := s.pin ppn
          answer s.idle (word (min (p.device + p.host + p.driver) 65535)
            (b2n (decide (p.device ≠ 0)) + 2 * b2n (decide (p.host ≠ 0)) + 4 * b2n (decide (p.driver ≠ 0))))
        else ∃ pins cls, pins < 65536 ∧ cls < 8 ∧ answer { s.idle with free := s.free + 1 } (word pins cls)
  ) ∧ (
  ∀ (s : State) (c : Cohort) (w : Wave) (x : Dev) (l : LaneCtx) (pa leaf : Nat) (g : Leaf), OneLane s c w x l → s.strandOf w = none →
    let va := l.srcWN x.a
    let len := (l.src x.b).val.toNat
    let t := (l.src x.c).val.toNat
    let tier := t % 4
    let self := s.idle.self l.ref
    let own := w.ref.core / 32 / 2
    let home := homeOf (g.ppn * 4096)
    let there := fun (stk hub : Bool) => tierOf (g.ppn * 4096) = tier ∧ (hub = true → home.hub = t / 8 % 4) ∧ (stk = true → home.place = t / 64 % 8)
    let req := fun (tier : Nat) (hub stk : Bool) =>
      (⟨tier, if hub then some (t / 8 % 4) else none, if stk then some (t / 64 % 8) else none, some own⟩ : MoveReq)
    let on := fun (q : MoveReq) =>
      let bits := fun (k : Nat) => bit ((s.hub (q.hub.getD own)).fst.getD k 0).toNat 0
      (if q.tier = 0 then (match q.stack with | some k => bits k | none => (List.range 8).any bits) else bits (q.tier + 7)) = true
    let queued := fun (s1 : State) (q : MoveReq) =>
      { s1 with nextId := s.nextId + 1
                moves := s.moves ++ [newMove s.nextId home.hub g.ppn g.size q.tier (q.hub.getD own) q.stack false none (s.tenantOfWave w)] }
    let code := fun (s1 : State) (n : Nat) => s1.issued c w w x fun _ => outR x.d n .n32
    let tagged := g.group.foldl (fun s1 a => s1.putPte (s.tenantOfWave w) a (setFld (s1.peek a 8) 61 60 tier)) s.idle
    0 < len →
    ((tier = 3 ∨ bit t 5 = true ∧ (tier ≠ 0 ∨ bit t 2 = false) ∨ bit t 2 = true ∧ 1 < tier) → exec (.mmove x) s = .next (code s.idle 3))
    ∧ (Mapped s self .load va pa leaf → lookLeaf s self.who.root .load va = .ok g → va + len ≤ g.page + pageBytes g.size →
        spaceOf (g.ppn * 4096) < 2 →
        let q := req tier (bit t 2) (bit t 5)
        let h := req (tier - 1) false false
        (¬ (tier = 3 ∨ bit t 5 = true ∧ (tier ≠ 0 ∨ bit t 2 = false) ∨ bit t 2 = true ∧ 1 < tier) →
          (there (bit t 5) (bit t 2) → (bit t 2 = true → on q) → exec (.mmove x) s = .next (code s.idle 0))
          ∧ (¬ there (bit t 5) (bit t 2) → (s.pin g.ppn).cls = 0 → s.sharedPage g = false →
              (¬ on q → exec (.mmove x) s = .next (code s.idle 3))
              ∧ (on q → s.freeFrames q (q.hub.getD own) g.size = 0 → exec (.mmove x) s = .next (code s.idle 4))
              ∧ (on q → 0 < s.freeFrames q (q.hub.getD own) g.size →
                  (bit x.m 0 = false → exec (.mmove x) s = .next (code (queued s.idle q) 0))
                  ∧ (bit x.m 0 = true → exec (.mmove x) s = .next ((queued s.idle q).waiting c w x l (.moves [s.nextId] x.d))))))
        ∧ (tier = 0 → exec (.mhint x) s = .next (code tagged 0))
        ∧ (tier ≠ 0 → tierOf (g.ppn * 4096) = tier - 1 → exec (.mhint x) s = .next (code tagged 0))
        ∧ (tier ≠ 0 → tierOf (g.ppn * 4096) ≠ tier - 1 → (s.pin g.ppn).cls = 0 → s.sharedPage g = false → on h → 0 < s.freeFrames h own g.size →
            exec (.mhint x) s = .next (code { tagged with nextId := (queued s.idle h).nextId, moves := (queued s.idle h).moves } 0)))
  )

/-- CURQ (R304).
QAPP (R302).
CUROPEN (R301) and CURADV (R303). -/
def Obligations.Cursors : Prop :=
  (
  ∀ (s s1 : State) (c : Cohort) (w : Wave) (x : Dev) (l : LaneCtx) (r : Nat), OneLane s c w x l → s.strandOf w = none →
    let self := s.idle.self l.ref
    let va := l.srcWN x.a
    let sel := fld x.m 11 9
    let k := (l.src x.b).val.toNat
    let spp := 2 ^ (12 - fld r 163 160)
    let slots := fld r 143 128 * spp
    let ev := fld r 63 0 + 64 * (k / spp)
    let code := fun (u : State) (n : Nat) => exec (.curq x) s = .next (u.issued c w w x fun _ => outR x.d n .n32)
    va % 32 = 0 → curRead self va 32 s.idle = .ok r s1 → Ready s1 c w →
    (sel ≤ 2 → code s1 ([fld r 95 64, fld r 127 96, fld r 159 144].getD sel 0))
    ∧ (slots ≤ k → (sel = 3 ∨ sel = 5 → code s1 0) ∧ (sel = 4 → exec (.curq x) s = .next (s1.waiting c w x l (.curq va k x.d))))
    ∧ ∀ e s2, k < slots → curRead self ev 64 s1 = .ok e s2 → Ready s2 c w →
        let ready := bit e 64 && bit e (128 + k % spp)
        (sel = 3 → code s2 (b2n ready))
        ∧ (sel = 4 → ready = true → code s2 1)
        ∧ (sel = 4 → ready = false → exec (.curq x) s = .next (s2.waiting c w x l (.curq va k x.d)))
        ∧ ∀ d s3, sel = 5 → curRead self (fld e 63 0 / 64 * 64) 64 s2 = .ok d s3 → Ready s3 c w → code s3 (b2n (bit d (64 + k % spp)))
  ) ∧ (
  ∀ (s s1 : State) (c : Cohort) (w : Wave) (x : Dev) (l : LaneCtx) (r : Nat), OneLane s c w x l → s.strandOf w = none →
    let self := s.idle.self l.ref
    let va := l.srcWN x.a
    let k : Cursor := ⟨va, r, none⟩
    let t := fld r 127 96
    let e := (l.src x.c).val.toNat
    let spp := 2 ^ (12 - fld r 163 160)
    let code := fun (u : State) (n : Nat) => exec (.qapp x) s = .next (u.issued c w w x fun _ => outR x.d n .n32)
    va % 32 = 0 → (l.src x.b).tag = .f32 → curRead self va 32 s.idle = .ok r s1 → Ready s1 c w →
    (bit r 169 = false → code s1 1)
    ∧ (bit r 169 = true → fld r 143 128 * spp ≤ t → code s1 3)
    ∧ (bit r 169 = true → t < fld r 143 128 * spp → 2 ^ fld r 163 160 ≤ e → code s1 2)
    ∧ (bit r 169 = true → t < fld r 143 128 * spp → e < 2 ^ fld r 163 160 → ∀ s2, Ready s2 c w →
        (openPage self k (t / spp) false s1 = .ok none s2 → code s2 5)
        ∧ ∀ p, openPage self k (t / spp) false s1 = .ok (some p) s2 →
          let h := e * (fld r 168 164 + 1) / 2 ^ fld r 163 160
          let scale := fld p.entry (192 + 10 * h + 9) (192 + 10 * h)
          let v := fmtF32.value (l.src x.b).val.toNat
          let at_ := fld p.desc 63 0 + t % spp * 2 ^ fld r 163 160 + e
          let clipped := setFld p.desc (64 + t % spp) (64 + t % spp) 1
          (∀ y fl s3, appendByte scale v = some (y, fl) → fl ≠ fCLIP → curWrites self (p.writes k ++ [(at_, natBytes 1 y)]) s2 = .ok () s3 →
            Ready s3 c w → exec (.qapp x) s = .next (s3.issued c w w x fun _ => outR x.d 0 .n32 fl))
          ∧ ∀ s3, appendByte scale v = none → bit x.m 0 = false →
            curWrites self ((if p.fresh then [] else [(fld p.entry 63 0 + 8, natBytes 8 (fld clipped 127 64))])
              ++ ({ p with desc := clipped } : OpenPage).writes k ++ [(at_, natBytes 1 (if v.sign then 0xFE else 0x7E))]) s2 = .ok () s3 →
            Ready s3 c w → exec (.qapp x) s = .next (s3.issued c w w x fun _ => outR x.d 0 .n32 fCLIP))
  ) ∧ (
  ∀ (s s1 : State) (c : Cohort) (w : Wave) (x : Dev) (l : LaneCtx) (r : Nat), OneLane s c w x l → s.strandOf w = none →
    let self := s.idle.self l.ref
    let va := l.srcWN x.a
    let code := fun (i : Dev → Instr) (u : State) (n : Nat) => exec (i x) s = .next (u.issued c w w x fun _ => outR x.d n .n32)
    va % 32 = 0 → curRead self va 32 s.idle = .ok r s1 → Ready s1 c w →
    (let k : Cursor := ⟨va, r, none⟩
     let t := fld r 127 96
     let n := (l.src x.b).val.toNat
     let spp := 2 ^ (12 - fld r 163 160)
     (bit r 169 = false → code .curadv s1 1)
     ∧ (bit r 169 = true → n = 0 → code .curadv s1 0)
     ∧ (bit r 169 = true → n ≠ 0 → fld r 143 128 * spp < t + n → code .curadv s1 3)
     ∧ (bit r 169 = true → n ≠ 0 → t + n ≤ fld r 143 128 * spp → ∀ s2,
         let qs := (List.range ((t + n - 1) / spp + 1 - t / spp)).map (t / spp + ·)
         (closePages self k t n qs s1 = .ok none s2 → Ready s2 c w → code .curadv s2 5)
         ∧ ∀ ws s3, closePages self k t n qs s1 = .ok (some ws) s2 →
             curWrites self (ws ++ [(va, natBytes 32 (setFld (setFld (setFld r 127 96 (t + n)) 159 144
               (min ((t + n) / spp) (fld r 143 128 - 1))) 95 64 (t + n)))]) s2 = .ok () s3 →
             ∀ v, (s3.releaseCurq (s.tenantOfWave w) va).wave? c.wave = some v → Ready (s3.releaseCurq (s.tenantOfWave w) va) c v →
             exec (.curadv x) s = .next ((s3.releaseCurq (s.tenantOfWave w) va).issued c v w x fun _ => outR x.d 0 .n32)))
    ∧ ((fld r 255 170 ≠ 0 ∨ fld r 143 128 = 0 ∨ fld r 63 0 % 64 ≠ 0) → code .curopen s1 4)
    ∧ (¬ (fld r 255 170 ≠ 0 ∨ fld r 143 128 = 0 ∨ fld r 63 0 % 64 ≠ 0) → ∀ e d s2 s3, curRead self (fld r 63 0) 64 s1 = .ok e s2 →
        readDesc self (fld e 63 0) s2 = .ok d s3 →
        let r' := setFld (setFld r 163 160 (fld d 131 128)) 168 164 (fld d 136 132)
        let k : Cursor := ⟨va, r', none⟩
        let spp := 2 ^ (12 - fld r' 163 160)
        let commit := fld r 95 64
        let p := commit / spp
        let np := fld r 143 128
        (np * spp < commit → Ready s3 c w → code .curopen s3 4)
        ∧ (commit < np * spp → ∀ s4, openPage self k p true s3 = .ok none s4 → Ready s4 c w → code .curopen s4 5)
        ∧ (commit ≤ np * spp → ∀ ws olds s4 s5 s6,
            (p < np → ∃ o, openPage self k p true s3 = .ok (some o) s4 ∧ ws = o.writes k) → (np ≤ p → s4 = s3 ∧ ws = []) →
            ((List.range (np - (p + 1))).mapM fun j => do
              let e ← curRead self (fld r 63 0 + 64 * (p + 1 + j) + 8) 8
              pure (fld r 63 0 + 64 * (p + 1 + j) + 8, natBytes 8 (setFld e 0 0 0)) : Op (List (Nat × List Byte))) s4 = .ok olds s5 →
            curWrites self (olds ++ ws ++ [(va, natBytes 32 (setFld (setFld (setFld r' 127 96 commit) 159 144 (min p (np - 1))) 169 169 1))]) s5
              = .ok () s6 →
            let u := if bit r 169 then s6.discardCurq (s.tenantOfWave w) va fun n => decide (commit ≤ n) && decide (n < np * spp) else s6
            ∀ v, u.wave? c.wave = some v → Ready u c v → exec (.curopen x) s = .next (u.issued c v w x fun _ => outR x.d 0 .n32)))
  )

/-! ## Tasks, loops, tensor IDs (06, 07, 09, 15) -/

/-- TSPAWN (R178; 06 R149-R153) and GLOOP (R237; 09 R218). That a misaligned record is read where it stands is the model's choice (log
entry 76). -/
def Obligations.Submission : Prop :=
  ∀ (s s1 : State) (c : Cohort) (w : Wave) (x : Dev) (l : LaneCtx) (r : Nat) (i : Dev → Instr) (loopKind : Bool), OneLane s c w x l →
    s.strandOf w = none → w.ref.core < 256 → (i = .tspawn ∧ loopKind = false ∨ i = .gloop ∧ loopKind = true) →
    let va := l.srcWN x.a
    let self := s.idle.self l.ref
    let tn := s.tenantOfWave w
    let chosen := (s.tenant tn).verTask
    let code := fun (u : State) (n : Nat) => exec (i x) s = .next (u.issued c w w x fun _ => outR x.d n .n32)
    (readRecord self va 128 s.idle = .ok r s1 → Ready s1 c w →
      let own := recordCodes chosen r false ++ (if va % 128 ≠ 0 then [4] else []) ++ if (fld r 19 16 == 4) != loopKind then [3] else []
      let loops := loopKind = true ∧ fld r 19 16 = 4
      (1 ∈ own → code s1 1)
      ∧ (2 ∈ own → 1 ∉ own → ¬ loops → code s1 2)
      ∧ ∀ (ops succs oc : List Nat) (s2 s3 : State) (lp : Option (Nat × List RecCopy × RecCopy)) (lc : List Nat),
        1 ∉ own → (2 ∈ own → loops) → readExtras self r s1 = .ok (ops, succs, oc) s2 → Ready s3 c w →
        (¬ loops ∧ s3 = s2 ∧ lp = none ∧ lc = []
          ∨ loops ∧ ∃ lr b g, readLoop self chosen (fld r 127 64) s2 = .ok (lr, b, g, lc) s3 ∧ lp = some (lr, b, g)) →
        (∀ n, n ∈ own ++ oc ++ lc → (∀ m ∈ own ++ oc ++ lc, n ≤ m) → code s3 n)
        ∧ (own ++ oc ++ lc = [] →
          let slice := s3.sliceFor tn r (w.ref.core / 32 / 2)
          let used := (s3.tasks.filter fun t => t.slice == slice && t.strand.isNone && t.guessOf.isNone).length
          (65536 ≤ used → code s3 5)
          ∧ (used < 65536 → (s3.liveTask? tn va).isSome = true → code s3 6)
          ∧ (used < 65536 → s3.liveTask? tn va = none →
              let early := (s3.tenant tn).early.countP (· == va)
              let after := (s3.tasks.filter fun t => t.tenant == tn && t.graphId == fld r 575 544 && t.strand.isNone && t.guessOf.isNone
                && opsConflict t.ops ops).map (·.id)
              let count := fld r 223 208 + after.length - early
              ∃ u t, exec (i x) s = .next u ∧ u.tasks = s3.tasks ++ [t] ∧ u.mem = s3.mem ∧ u.blocks = s3.blocks
                ∧ u.waves = (s3.issued c w w x fun _ => outR x.d 0 .n32).waves
                ∧ t.tenant = tn ∧ t.addr = va ∧ t.record = r ∧ t.ops = ops ∧ t.succs = succs ∧ t.slice = slice ∧ t.count = count ∧ t.waitsOn = after
                ∧ t.evWait = bit r 31 ∧ t.phase = (if count = 0 ∧ bit r 31 = false then .ready else .waiting) ∧ t.ending = none ∧ t.started = 0
                ∧ (u.tenant tn).early.countP (· == va) = 0
                ∧ u.loops = s3.loops ++ (lp.toList.map fun p => newLoop t.id tn p.1 p.2.1 p.2.2)
                ∧ u.liveTask? tn va = some t)))

/-- TDEP (R179), TFIRE (R180), TCNCL (R181), TEVT (R183). -/
def Obligations.TaskSignals : Prop :=
  ∀ (s : State) (c : Cohort) (w : Wave) (x : Dev) (l : LaneCtx), OneLane s c w x l → s.strandOf w = none →
    let a := l.srcWN x.a
    let b := l.srcWN x.b
    let tn := s.tenantOfWave w
    let bad := fun (v : Nat) => v % 128 ≠ 0 ∨ 2 ^ 60 ≤ v
    let code := fun (i : Dev → Instr) (u : State) (n : Nat) => exec (i x) s = .next (u.issued c w w x fun _ => outR x.d n .n32)
    ((bad a ∨ bad b) → code .tdep s.idle 4)
    ∧ (bad a → code .tfire s.idle 4 ∧ code .tcncl s.idle 4)
    ∧ (¬ bad a → ¬ bad b →
        ((s.liveTask? tn a = none ∨ s.liveTask? tn b = none) → code .tdep s.idle 7)
        ∧ ∀ t v, s.liveTask? tn a = some t → s.liveTask? tn b = some v →
          (v.phase ≠ .waiting → code .tdep s.idle 8)
          ∧ (v.phase = .waiting → 64 ≤ t.added.length → code .tdep s.idle 9)
          ∧ (v.phase = .waiting → t.added.length < 64 →
              code .tdep ((s.idle.updTask t.id fun t => { t with added := t.added ++ [b] }).updTask v.id fun t => { t with count := t.count + 1 }) 0))
    ∧ (¬ bad a → s.liveTask? tn a = none → (s.tenant tn).early.length < 16384 →
        code .tfire (s.idle.updTenant tn fun t => { t with early := a :: t.early }) 11)
    ∧ (¬ bad a → ∀ t, s.liveTask? tn a = some t →
        code .tfire (s.idle.updTask t.id fun t => { t with
          count := t.count - 1
          phase := if t.phase = .waiting ∧ t.count - 1 = 0 ∧ t.evWait = false then .ready else t.phase
          readyAt := if t.phase = .waiting ∧ t.count - 1 = 0 ∧ t.evWait = false then s.clock else t.readyAt }) 0)
    ∧ (¬ bad a → s.liveTask? tn a = none → code .tcncl s.idle 7)
    ∧ (¬ bad a → ∀ t, s.liveTask? tn a = some t → s.tasks.Pairwise (fun p q => p.id ≠ q.id) → t.ending = none →
        (t.phase = .waiting ∨ t.phase = .ready →
          code .tcncl (s.idle.updTask t.id fun t => { t with ending := some ⟨4, 0, 0, 0⟩, phase := .ending }) 0)
        ∧ (t.phase = .running → t.kind = 0 → (∀ b ∈ s.blocks, b.task ≠ t.id) → (∀ r ∈ (s.tenant tn).rest, r.block.task ≠ t.id) →
            t.blocks ≤ t.nextBlk → code .tcncl s.idle 10))
    ∧ ∀ k, s.taskOfWave w = some k →
        let u := s.idle.postEvent tn 3 b k.graphId k.taskNum ((l.src x.a).val.toNat % 65536)
        Ready u c w → exec (.tevt x) s = .next (u.issued c w w x fun _ => {})

/-- GCARRY, GGUESS (R238), GCMP (R239), GSTAT (R240). -/
def Obligations.CarriesAndGuesses : Prop :=
  ∀ (s : State) (c : Cohort) (w : Wave) (x : Dev) (l : LaneCtx) (b : Block), OneLane s c w x l → s.block? w.block = some b →
    let word := fld x.m 3 0
    let code := fun (i : Dev → Instr) (u : State) (n : Nat) => exec (i x) s = .next (u.issued c w w x fun _ => outR x.d n .n32)
    let pick := fun (lp : Loop) (ws : List Reg) =>
      if (l.src x.a).val.toNat < lp.ncarry then ws.getD (l.src x.a).val.toNat ⟨0, .n32⟩ else ⟨0, .n32⟩
    let stat := fun (lp : Loop) (k : Nat) (own : List Reg) =>
      let verdicts := ((List.range lp.width).map fun j => ((lp.strands[j]?).map fun y => y.verdict.code).getD 0 * 8 ^ j).sum
      let states := ((List.range lp.width).map fun j => lp.stateCode j * 8 ^ j).sum
      exec (.gstat x) s = .next (s.idle.issued c w w x fun _ => { regs := [(x.d,
        ([lp.iter + k, lp.width, verdicts, states].map (fun n => (⟨BitVec.ofNat 32 n, .n32⟩ : Reg)) ++ own
          ++ [pick lp lp.carry, ⟨BitVec.ofNat 32 lp.rounds, .n32⟩]).getD word Reg.zero)] })
    (b.strand = none → code .gcarry s.idle 1 ∧ code .gcmp s.idle 8)
    ∧ (b.guessOf = none → code .gguess s.idle 1)
    ∧ (b.strand = none → b.guessOf = none → code .gstat s.idle 0)
    ∧ (∀ L k lp st, b.strand = some (L, k) → s.loop? L = some lp → lp.strands[k]? = some st →
        (st.sealed = true → code .gcarry s.idle 2)
        ∧ (st.sealed = false → bit x.m 5 = false → lp.ncarry ≤ word → code .gcarry s.idle 3)
        ∧ (st.sealed = false → (bit x.m 5 = true ∨ word < lp.ncarry) →
            code .gcarry (s.idle.updStrand L k fun y => { y with
              prod := if bit x.m 5 then y.prod else y.prod.set word (l.src x.a), exit := y.exit || bit x.m 4 }) 0)
        ∧ (st.sealed = true → st.verdict ≠ .none → code .gcmp s.idle st.verdict.code)
        ∧ (st.sealed = true → st.verdict = .none → exec (.gcmp x) s = .next (s.idle.waiting c w x l (.gcmp x.d)))
        ∧ (st.sealed = false → ∀ v b1 lp1 st1, let s1 := s.idle.sealProduced L k
            s1.wave? c.wave = some v → Ready s1 c v → s1.block? w.block = some b1 → b1.strand = some (L, k) →
            s1.loop? L = some lp1 → lp1.strands[k]? = some st1 →
            (st1.verdict ≠ .none → exec (.gcmp x) s = .next (s1.issued c v w x fun _ => outR x.d st1.verdict.code .n32))
            ∧ (st1.verdict = .none → exec (.gcmp x) s = .next (s1.waiting c v x l (.gcmp x.d))))
        ∧ (word ≤ 7 → stat lp k [pick lp st.input, pick lp st.prod]))
    ∧ ∀ L lp, b.guessOf = some L → s.loop? L = some lp →
        let k := fld x.m 6 4
        let u := s.idle.updStrand L k fun y => { y with input := y.input.set word (l.src x.a) }
        (b.strand = none → word ≤ 7 → stat lp 0 [⟨0, .n32⟩, ⟨0, .n32⟩])
        ∧ ((lp.width ≤ k ∨ lp.ncarry ≤ word) → code .gguess s.idle 3)
        ∧ ∀ st, k < lp.width → word < lp.ncarry → lp.strands[k]? = some st →
          (st.sealedIn = true → code .gguess s.idle 2)
          ∧ (st.sealedIn = false → bit x.m 7 = false → code .gguess u 0)
          ∧ (st.sealedIn = false → bit x.m 7 = true →
              exec (.gguess x) s = .next ((u.issued c w w x fun _ => outR x.d 0 .n32).sealGuess L k))

/-- TIDSET, TIDCLR (R335) and TIDRD (R336). That a misaligned record is read where it stands is the model's choice (log entry 76). -/
def Obligations.TensorIds : Prop :=
  ∀ (s : State) (c : Cohort) (w : Wave) (x : Dev) (l : LaneCtx) (k : Task), OneLane s c w x l → s.strandOf w = none → s.taskOfWave w = some k →
    let t := s.tenant k.tenant
    let on := bit t.tid.toNat 0
    let tid := (l.src x.a).val.toNat
    let wb := l.srcWN x.b
    let self := s.idle.self l.ref
    let e := t.tensor tid
    let code := fun (i : Dev → Instr) (u : State) (n : Nat) => exec (i x) s = .next (u.issued c w w x fun _ => outR x.d n .n32)
    let installs := fun (i : Dev → Instr) (s1 : State) (rec_ : Option Nat) =>
      k.tenant < s1.tenants.length → (s1.freeTensorSlot k.tenant e = none → code i s1 12)
      ∧ ∀ j, s1.freeTensorSlot k.tenant e = some j →
        let n := if e.lastGen = 0x7FFFFFFE then 0 else e.lastGen + 1
        ∃ u, exec (i x) s = .next u ∧ u.waves = (s1.issued c w w x fun _ => outR x.d 0 .n32).waves
          ∧ u.mem = (match rec_ with
              | some r => s1.mem.writeBytes (fld t.tid.toNat 55 19 * 2 ^ 19 + 512 * tid + 64 * j) (natBytes 64 r) | none => s1.mem)
          ∧ (u.tenant k.tenant).tensor tid = { e with
              slots := e.slots.set j (some ⟨n, rec_.isSome, rec_.getD 0⟩), current := some j, lastGen := n }
          ∧ (∀ y ∈ u.tasks, y.id = k.id → y.strand = none → y.guessOf = none → boundSlot y.bound tid = j)
          ∧ ∀ tid', tid' ≠ tid → (u.tenant k.tenant).tensor tid' = (s1.tenant k.tenant).tensor tid'
    (on = false → code .tidset s.idle 14 ∧ code .tidclr s.idle 14 ∧ code .tidrd s.idle 0x7FFFFFFF)
    ∧ (on = true → 1024 ≤ tid → code .tidset s.idle 13 ∧ code .tidclr s.idle 13 ∧ code .tidrd s.idle 0x7FFFFFFF)
    ∧ (on = true → tid < 1024 →
        installs .tidclr s.idle none
        ∧ (∀ r s1, readRecord self wb 64 s.idle = .ok r s1 → Ready s1 c w → s1.tenant k.tenant = t → s1.taskOfWave w = some k →
            let n := if tensorCode t.verTensor r = 0 ∧ wb % 64 ≠ 0 then 4 else tensorCode t.verTensor r
            (n ≠ 0 → code .tidset s1 n) ∧ (n = 0 → installs .tidset s1 (some r)))
        ∧ (wb % 64 = 0 →
            let g := (e.slots.getD (boundSlot k.bound tid) none).getD ⟨0, false, 0⟩
            let part := fun (j : Nat) => natBytes 16 ((if g.valid then g.record else 0) / 2 ^ (128 * j))
            ∀ s1 s2 s3 s4, writeGlobal self wb (part 0) 0 0 s.idle = .ok () s1 → writeGlobal self (wb + 16) (part 1) 0 0 s1 = .ok () s2 →
              writeGlobal self (wb + 32) (part 2) 0 0 s2 = .ok () s3 → writeGlobal self (wb + 48) (part 3) 0 0 s3 = .ok () s4 → Ready s4 c w →
              code .tidrd s4 (b2n g.valid * 2 ^ 31 + g.gen)))

/-! ## Postings to the engines (15, 08) -/

/-- CPYB (R338) and CPYL (R347).
CSEAL, CWAIT (R348) and CQRY (R348, R349). -/
def Obligations.Copies : Prop :=
  (
  ∀ (s : State) (c : Cohort) (w : Wave) (x : Dev) (l : LaneCtx) (b : Block) (k : Task), OneLane s c w x l → s.strandOf w = none →
    s.block? w.block = some b → s.task? b.task = some k →
    let xm := x.xmod.toNat
    let e := l.srcWN x.e
    let wa := l.srcWN x.a
    let wb := l.srcWN x.b
    let mode := fld xm 1 0
    let hub := w.ref.core / 32 / 2
    let syncOk := fun (on : Bool) (o : Nat) => on = true → o % 16 = 0 ∧ o + 16 ≤ b.scratchLen
    let full := l.th.openSize = 256
    let t := if full then l.th.seal else l.th
    let posts := fun (i : Dev → Instr) (kind : CopyKind) (sw : Option Nat) (out : LaneOut) =>
      ∃ u cp, exec (i x) s = .next u ∧ u.copies = s.copies ++ [cp] ∧ u.mem = s.mem ∧ u.blocks = s.blocks
        ∧ cp.kind = kind ∧ cp.sw = sw ∧ cp.hub = hub ∧ cp.batch = some t.batch ∧ cp.started = false ∧ cp.code = 0 ∧ cp.inTask = false
        ∧ cp.by_ = { tenant := k.tenant, task := b.task, block := some b.id, thread := some l.ref, core := w.ref.core, die := w.ref.core / 32
                     root := w.root.toNat, strand := none, pc := l.th.pc.toNat }
        ∧ cp.sem = fld x.m 4 3 ∧ cp.scope = fld x.m 2 0
        ∧ u.thread? l.ref = some (({ t with openLeft := t.openLeft + 1, openSize := t.openSize + 1 } : Thread).complete out (lenBytes x.len))
        ∧ (∀ v ∈ u.tasks, v.id = b.task → ∃ v' ∈ s.tasks, v = { v' with pending := bump v'.pending w.ref.core (· + 1) })
    w.ref.core < 256 → (s.copies.filter fun y => y.hub == hub).length < 4096 → (full → l.th.openLeft ≠ 0 → l.th.unfinished < 16) →
    (e < 2 ^ 60 → e % (if mode = 1 then 8 else if mode = 2 then 4096 else 16) = 0 → syncOk (bit xm 4) (l.src x.f).val.toNat →
      let tid := (l.src x.a).val.toNat
      posts .cpyb (.box (some (s.snapshot k.tenant b.task tid)) tid (l.srcQN x.b % 2 ^ 120) (l.srcQN x.c % 2 ^ 120) e (l.src x.g).val.toNat
        (if mode = 3 then (l.src x.h).val.toNat else 0) mode (bit xm 2) (bit xm 3))
        (if bit xm 4 then some (l.src x.f).val.toNat else none) (outR x.d t.batch .n32))
    ∧ ((∀ a ∈ [wa, wb], a < 2 ^ 60 ∧ a % 16 = 0 ∧ (clusterBase ≤ a → (s.window? (some b.id) w.ref.core a 16).isSome)) →
      syncOk (bit x.m 9) (l.src x.c).val.toNat →
      posts .cpyl (.lane wa wb) (if bit x.m 9 then some (l.src x.c).val.toNat else none) {})
  ) ∧ (
  ∀ (s : State) (c : Cohort) (w : Wave) (x : Dev) (l : LaneCtx), OneLane s c w x l →
    let t := l.th
    let unfinished := (t.sealed.filter fun b => b.left != 0).length
    let n := (max 0 (min (numOf (l.src x.a)) 16)).toNat
    let sealed := t.sealed ++ [⟨t.batch, t.openLeft⟩]
    let front := sealed.takeWhile fun b => b.left == 0
    let t' : Thread := { t with
      sealed := sealed.drop front.length, doneUpTo := (front.getLast?.map Batch.num).getD t.doneUpTo, lastSeal := t.batch
      batch := if t.batch = 2 ^ 32 - 1 then 1 else t.batch + 1, openLeft := 0, openSize := 0 }
    (t.batch < 2 ^ 32 → (t.openLeft = 0 ∨ unfinished < 16) →
      exec (.cseal x) s = .next ((s.idle.updThread l.ref fun _ => t').issued c (w.updThread l.lane fun _ => t') w x fun _ => outR x.d t.batch .n32))
    ∧ (Tag.isScalar (l.src x.a).tag → unfinished ≤ n → exec (.cwait x) s = .next (s.idle.issued c w w x fun _ => {}))
    ∧ (Tag.isScalar (l.src x.a).tag → n < unfinished → exec (.cwait x) s = .next (s.idle.waiting c w x l (.cwait n)))
    ∧ (fld x.m 2 0 ≤ 3 → exec (.cqry x) s = .next (s.idle.issued c w w x fun _ =>
        outR x.d ([t.openSize, unfinished, t.lastSeal, t.doneUpTo].getD (fld x.m 2 0) 0) .n32))
    ∧ (fld x.m 2 0 = 4 → exec (.cqry x) s = .next ((s.idle.updThread l.ref fun t => { t with copyErr := 0 }).issued c
        (w.updThread l.lane fun t => { t with copyErr := 0 }) w x fun _ => outR x.d t.copyErr .n32))
  )

/-- NMCMD (R352). That a misaligned record is read where it stands is the model's choice (log entry 76). -/
def Obligations.NearMemoryPosting : Prop :=
  ∀ (s s1 : State) (c : Cohort) (w : Wave) (x : Dev) (l : LaneCtx) (b : Block) (r : Nat), OneLane s c w x l → s.strandOf w = none →
    let self := s.idle.self l.ref
    let wa := l.srcWN x.a
    (readRecord self wa 64 s.idle = .ok r s1 → Ready s1 c w → s1.block? w.block = some b →
        let own := nmCode (s1.tenant self.who.tenant).verTask r false
        let code := if own = 0 ∧ wa % 64 ≠ 0 then 4 else own
        (code ≠ 0 → exec (.nmcmd x) s = .next (s1.issued c w w x fun _ => outR x.d code .n32))
        ∧ (code = 0 → ∃ u m, exec (.nmcmd x) s = .next u ∧ u.nms = s1.nms ++ [m] ∧ u.mem = s1.mem ∧ u.blocks = s1.blocks
            ∧ u.waves = (s1.issued c w w x fun _ => outR x.d 0 .n32).waves ∧ m.record = r ∧ m.started = false ∧ m.inTask = false ∧ m.next = 0
            ∧ m.by_.task = b.task ∧ m.by_.thread = some l.ref
            ∧ (∀ v ∈ u.tasks, v.id = b.task → ∃ v' ∈ s1.tasks, v = { v' with pending := bump v'.pending w.ref.core (· + 1) })))

/-- HSUBMIT, HWAIT, HPIN, HUNPIN, HMHINT, HMQRY (R418, R419) and the write of htenant (R417).
Register accesses (R416), CSR reads (R417), fences, AMOs, LR and SC (R282) of a hart that names physical addresses (the model's choice of
log entry 88; the list of AMOs is presumed, log entry 80). -/
def Obligations.HostInstructions : Prop :=
  (
  (∀ (s : State) (i : HostOp) (n : Nat), s.curHart = some n → n < s.harts.length →
    let s0 : State := { s with curHart := none }
    let h := s.hart n
    let reg := fun (r : Fin 32) => if r = 0 then 0 else (h.x.getD r.val 0).toNat
    let tn := h.htenant.toNat % 64
    let who := s0.hartWho n false
    let self := s0.hartSelf n
    let on := h.htenant.toNat / 2 ^ 63 % 2 = 1 ∧ bit (s.tenant tn).ctl.toNat 0 = true ∧ bit (s.tenant tn).ctl.toNat 2 = false
    let answer := fun (op : HostOp → Instr) (s1 : State) (v : Nat) => exec (op i) s = .next (s1.updHart n fun h => { h with
      x := if i.rd = 0 then h.x else h.x.set i.rd.val (BitVec.ofNat 64 v), pc := h.pc + 4
      wait := none, redo := none, held := none })
    let all : List (HostOp → Instr) := [.hsubmit, .hwait, .hpin, .hunpin, .hmhint, .hmqry]
    (¬ on → ∀ op ∈ all, exec (op i) s = .next (s0.updHart n fun h => { h with
      exc := some .illegalInstruction, wait := none, redo := none, held := none }))
    ∧ (on →
        (∀ v s1, (s.tenant tn).phase ≠ .saving → submit self .host (reg i.rs1) s0 = .ok v s1 → answer .hsubmit s1 v)
        ∧ (∀ v s1, pinRange who .host true (reg i.rs1) (reg i.rs2) s0 = .ok v s1 → answer .hpin s1 v)
        ∧ (∀ v s1, pinRange who .host false (reg i.rs1) (reg i.rs2) s0 = .ok v s1 → answer .hunpin s1 v)
        ∧ (∀ v ids s1, moveRange who (if i.taff.val = 0 then none else some ⟨i.taff.val - 1, none, none, none⟩) (some i.taff.val) true
            h.redo (fun r u => u.updHart n fun h => { h with redo := some r }) (reg i.rs1) (reg i.rs2) s0 = .ok (v, ids) s1 → answer .hmhint s1 v)
        ∧ (∀ f s1, f.code = 8 →
            (pinRange who .host true (reg i.rs1) (reg i.rs2) s0 = .error (.fault f) s1 → answer .hpin s1 (5 + 2 ^ 32 * f.detail))
            ∧ (pinRange who .host false (reg i.rs1) (reg i.rs2) s0 = .error (.fault f) s1 → answer .hunpin s1 (5 + 2 ^ 32 * f.detail)))
        ∧ (∀ v s1, mqryWord who (reg i.rs1) s0 = .ok v s1 → answer .hmqry s1 v)
        ∧ (reg i.rs1 % 64 = 0 → ∀ v s1, readVa self self.who.load (reg i.rs1) 1 s0 = .ok v s1 → s1.clock = s.clock →
            let now := s.clock * 32 / 25
            let late := decide (reg i.rs2 ≤ now - (h.wait.map fun p => p.2.1).getD now)
            (v ≠ 0 → answer .hwait s1 v) ∧ (v = 0 → late = true → answer .hwait s1 0)
            ∧ (v = 0 → late = false → exec (.hwait i) s = .next (s1.updHart n fun h => { h with
                wait := some (reg i.rs1, (h.wait.map fun p => p.2.1).getD now, reg i.rs2), held := none })))))
  ∧ ∀ (s : State) (n csr : Nat) (v : Dword),
    ((csr = 0xCC0 ∨ csr = 0x5C0 ∧ (s.hart n).mode = .u) →
      exec (.htenantWrite n csr v) s = .next (s.updHart n fun h => { h with
        exc := some .illegalInstruction, wait := none, redo := none, held := none }))
    ∧ (csr = 0x5C0 → (s.hart n).mode ≠ .u →
        exec (.htenantWrite n csr v) s = .next (s.updHart n fun h => { h with
          htenant := BitVec.ofNat 64 (v.toNat % 64 + v.toNat / 2 ^ 63 % 2 * 2 ^ 63) }))
  ) ∧ (
  ∀ (s : State) (n : Nat), n < 64 → s.harts.length = 64 → s.inReset = false → (s.hart n).exc = none →
    let h := s.hart n
    let put := fun (t : State) (rd : Fin 32) (x : Nat) => t.updHart n fun h => { h with x := if rd = 0 then h.x else h.x.set rd.val (BitVec.ofNat 64 x) }
    let plan := fun (op : HartOp) (va : Nat) => s.plan (.hartAccess n op va)
    let does := fun (op : HartOp) (va : Nat) (t : State) => plan op va = .done (t.updHart n fun h => { h with held := none })
    let fails := fun (op : HartOp) (va : Nat) (e : HExc) =>
      plan op va = .done (s.updHart n fun h => { h with exc := some e, wait := none, redo := none, held := none })
    (∀ (rd : Fin 32) (sg : Bool) (k va : Nat) (v : Dword), h.translates = false → spaceOf va = 3 → va < 2 ^ 56 →
      let granted := (h.mode = .m ∨ h.mode = .s ∧ Config.pmpGrants va = true) ∧ va % 8 = 0
      let htask := va - tenantReg 0 0
      (granted → does (.store 8 v) va (s.writeRegister va v))
      ∧ (granted → ¬ (tenantReg 0 0 ≤ va ∧ htask < 0x40000 ∧ htask % 0x1000 = 0xA8) →
          does (.load rd 8 sg) va (put s rd (s.readRegister va).toNat))
      ∧ (¬ granted ∨ k ≠ 8 → fails (.load rd k sg) va (.accessFault va) ∧ fails (.store k v) va (.accessFault va)))
    ∧ (∀ (rd : Fin 32) (va : Nat) (p q : BitVec 2),
        (h.mode ≠ .u → does (.csrRead rd 0x5C0) va (put s rd h.htenant.toNat)) ∧ does (.csrRead rd 0xCC0) va (put s rd h.htenant.toNat)
        ∧ (h.mode = .u → fails (.csrRead rd 0x5C0) va .illegalInstruction) ∧ does (.fence p q) va s)
    ∧ ∀ (rd : Fin 32) (k va : Nat) (v : Dword) (aq rl : Bool), h.translates = false → k = 4 ∨ k = 8 → va < 2 ^ 56 → paLegal va = true →
        MemoryInv s → s.moves = [] → s.forwards = [] → s.latent = [] → poolLost s va = false → handoverHold s va = false →
        s.poisoned va k = false → bit (s.tenant (h.htenant.toNat % 64)).dirty.toNat 0 = false →
        let old := leNat ((List.range k).map fun i => s.mem.read (va + i))
        let value := ((BitVec.ofNat (8 * k) old).toInt % 2 ^ 64).toNat
        let reg := fun (t : State) (x : Nat) => (t.hart n).x = if rd = 0 then h.x else h.x.set rd.val (BitVec.ofNat 64 x)
        (va % k ≠ 0 → fails (.lr rd k aq rl) va .loadMisaligned ∧ fails (.sc rd k v aq rl) va .storeMisaligned
          ∧ ∀ op, fails (.amo op rd k v aq rl) va .storeMisaligned)
        ∧ (va % k = 0 →
          (∀ op, ∃ t, plan (.amo op rd k v aq rl) va = .done t
            ∧ BytesPut s.mem t.mem va (natBytes k (amoNew op k old (v.toNat % 2 ^ (8 * k)))) ∧ reg t value)
          ∧ (∃ t, plan (.lr rd k aq rl) va = .done t ∧ t.mem = s.mem ∧ reg t value ∧ (t.hart n).resv = some (va / 64))
          ∧ (h.resv = some (va / 64) → ∃ t, plan (.sc rd k v aq rl) va = .done t
            ∧ BytesPut s.mem t.mem va (natBytes k (v.toNat % 2 ^ (8 * k))) ∧ reg t 0 ∧ (t.hart n).resv = none)
          ∧ (h.resv ≠ some (va / 64) → ∃ t, plan (.sc rd k v aq rl) va = .done t ∧ t.mem = s.mem ∧ reg t 1 ∧ (t.hart n).resv = none))
  )

/-! ## Dispatch (01 R18, R28-R31; 06 R153-R156) -/

/-- BLOCK_DISPATCH (R155, R29-R31). -/
def Obligations.BlocksStart : Prop :=
  ∀ (s s1 : State) (core sl h : Nat) (t : Task) (x : Slice), s.pickWave core = some (t, sl, x) → s.task? t.id = some t → t.colevel = 0 →
    (t.codeVa % 256 ≠ 0 → ∃ u, exec (.blockDispatch core) s = .next u ∧ SameRun s u
      ∧ u.task? t.id = some { t with ending := some (t.ending.getD ⟨2, 0, 0, 0⟩), phase := .ending, gang := none })
    ∧ (t.codeVa % 256 = 0 → s.readHeader t = (.ok h, s1) → s1.task? t.id = some t → t.tenant < s1.tenants.length →
      let ten := s1.tenant t.tenant
      let n := (t.threadsPer + 31) / 32
      let allot := (fld h 207 192 + 7) / 8 * 8
      let room := (fld h 287 256 + 255) / 256 * 256
      (¬ HeaderGood ten.verHeader h t.threadsPer → ∃ u, exec (.blockDispatch core) s = .next u ∧ SameRun s1 u
        ∧ u.task? t.id = some { t with ending := some (t.ending.getD ⟨2, 0, 0, 0⟩), phase := .ending, gang := none })
      ∧ (HeaderGood ten.verHeader h t.threadsPer → (t.strand.isSome = true → bit h 49 = true) → s1.fits core t h = true →
        sl < s1.slices.length →
        ∃ u b ws, exec (.blockDispatch core) s = .next u ∧ u.blocks = s1.blocks ++ [b] ∧ u.waves = s1.waves ++ ws ∧ u.mem = s1.mem
          ∧ u.tenants = s1.tenants ∧ ws.length = n
          ∧ b = { id := s1.nextId, task := t.id, blockId := t.nextBlk, core := core, threads := t.threadsPer, scratchLen := room
                  safeDist := fld h 319 288, clusterWin := bit h 48, scratch := [], scratchBad := []
                  barriers := List.replicate (fld h 239 224) ⟨0, 0, t.threadsPer, false⟩
                  accRows := List.replicate (fld h 223 208) ⟨0, List.replicate 256 0⟩, nextTicket := 0, opCodes := [], cancelLo := 0
                  cancelHi := 0, saveLo := 0, saveHi := 0, slots := ws.map fun w => w.ref.slot
                  rstpc := if fld h 191 128 = 0 then 1 else (t.codeVa + fld h 191 128) % 2 ^ 60, header := t.codeVa
                  restarts := 0, restarting := 0, strand := t.strand, guessOf := t.guessOf }
          ∧ (∀ i w, ws[i]? = some w →
              w.block = b.id ∧ w.index = i ∧ w.ref.core = core ∧ w.ref.slot < 64 ∧ (∀ v ∈ s1.blocks, v.core = core → w.ref.slot ∉ v.slots) ∧ w.allot = allot
              ∧ w.sregs = ⟨BitVec.ofNat 32 t.addr, .n32⟩ :: ⟨BitVec.ofNat 32 (t.addr / 2 ^ 32), .n32⟩ :: List.replicate 62 ⟨0, .i32⟩
              ∧ w.fstat = 0 ∧ w.safeCnt = 0 ∧ w.root = ten.root ∧ w.priv = ten.priv ∧ w.privsz = ten.privsz
              ∧ (if ten.privFrames = 0 then w.frame = none
                 else ∃ f, w.frame = some f ∧ f < ten.privFrames ∧ ∀ v ∈ s1.waves, s1.tenantOfWave v = t.tenant → v.frame ≠ some f)
              ∧ w.threads.length = min 32 (t.threadsPer - 32 * i)
              ∧ ∀ k th, w.threads[k]? = some th → th.ltid = 32 * i + k ∧ th.regs = List.replicate allot ⟨0, .i32⟩ ∧ th.preds = 0
                  ∧ th.pc = BitVec.ofNat 60 (t.codeVa + fld h 127 64) ∧ th.status = .run ∧ th.trapinfo = 0 ∧ th.batch = 1 ∧ th.sealed = [])
          ∧ u.task? t.id = some { t with
              phase := .running, nextBlk := t.nextBlk + 1, started := t.started + 1
              bound := if t.phase = .running ∨ t.strand.isSome = true ∨ t.guessOf.isSome = true then t.bound else s1.currentBinding t.tenant
              begun := t.begun || t.phase != .running
              startClk := if t.phase = .running then t.startClk else s1.clockOf t.tenant }
          ∧ lookupD (u.slice sl).deficits (64 * (4 * t.kind + t.prio) + t.tenant) 0
              = lookupD x.deficits (64 * (4 * t.kind + t.prio) + t.tenant) 0 - t.cost))

/-- GANG_DISPATCH and GANG_RESERVE (R156).
HOST_TASK_DISPATCH (22 R420), NM_TASK_START (15 R352), COPY_TASK_START (15 R350). -/
def Obligations.GangsAndOtherTasksStart : Prop :=
  (
  (∀ (s s1 s2 : State) (inst h c0 sl : Nat) (t : Task) (x : Slice) (rest : List Nat), s.task? t.id = some t → t.colevel ≠ 0 →
    levelCores t.colevel inst = c0 :: rest → s.pickWave c0 = some (t, sl, x) → s.launchOf t = (.header h, s1) → s1.task? t.id = some t →
    (gangTooBig t h = true → ∃ u, exec (.gangDispatch t.id inst) s = .next u ∧ SameRun s1 u
      ∧ u.task? t.id = some { t with ending := some (t.ending.getD ⟨2, 0, 0, 0⟩), phase := .ending, gang := none })
    ∧ (gangTooBig t h = false → placeGang t.id h (c0 :: rest) t.blocks s1 = some s2 →
        ∃ u, exec (.gangDispatch t.id inst) s = .next u ∧ u.mem = s1.mem ∧ u.blocks.length = s1.blocks.length + t.blocks
          ∧ u.blocks.take s1.blocks.length = s1.blocks ∧ u.waves.take s1.waves.length = s1.waves
          ∧ (∀ i b, u.blocks[s1.blocks.length + i]? = some b → b.task = t.id ∧ b.blockId = t.nextBlk + i ∧ b.core ∈ c0 :: rest)
          ∧ ∃ t', u.task? t.id = some t' ∧ t'.nextBlk = t.nextBlk + t.blocks ∧ t'.started = t.started + t.blocks ∧ t'.gang = none))
  ∧ ∀ (s : State) (inst : Nat) (t : Task), s.task? t.id = some t → t.kind = 0 → t.colevel ≠ 0 → t.phase = .ready → t.ending = none → t.gang = none →
      65536 ≤ s.clock - t.readyAt → (∃ c ∈ (levelCores t.colevel inst).head?, t.slice ∈ s.dieSlices (dieOfCore c)) →
      (∀ c ∈ levelCores t.colevel inst, s.reserved c t.id = false) →
      ∃ u, exec (.gangReserve t.id inst) s = .next u ∧ SameRun s u ∧ u.task? t.id = some { t with gang := some inst }
  ) ∧ (
  (∀ (s : State) (sl : Nat) (t : Task) (x : Slice), s.pickKind sl 1 (fun _ => true) = some (t, x) → s.holds t → t.phase = .ready →
    ∃ u, exec (.hostTaskDispatch sl) s = .next u ∧ SameRun s u
      ∧ (u.tenant t.tenant).hostQ = (s.tenant t.tenant).hostQ ++ [t.addr]
      ∧ u.irqs = (if fld (s.tenant t.tenant).ctl.toNat 46 36 = 0 then [] else [.hostTask t.tenant (fld (s.tenant t.tenant).ctl.toNat 46 36)]) ++ s.irqs
      ∧ ∃ t', u.task? t.id = some t' ∧ t'.phase = .running ∧ t'.startClk = s.clockOf t.tenant)
  ∧ (∀ (s s1 : State) (sl r : Nat) (t : Task) (x : Slice), s.pickKind sl 2 s.unheld = some (t, x) →
      s.taskRead t 3 t.codeVa 64 = (.ok r, s1) → s1.holds t → t.phase = .ready →
      let own := nmCode (s1.tenant t.tenant).verTask r true
      let code := if own = 0 ∧ t.codeVa % 64 ≠ 0 then 4 else own
      (code = 0 → ∃ u m, exec (.nmTaskStart sl) s = .next u ∧ SameRun s1 u ∧ u.nms = s1.nms ++ [m] ∧ m.record = r ∧ m.inTask = true
        ∧ m.started = false ∧ m.by_.task = t.id ∧ m.by_.thread = none ∧ m.by_.root = (s1.tenant t.tenant).root.toNat
        ∧ ∃ t', u.task? t.id = some t' ∧ t'.phase = .running)
      ∧ (code ≠ 0 → ∃ u, exec (.nmTaskStart sl) s = .next u ∧ SameRun s1 u ∧ u.nms = s1.nms
        ∧ u.task? t.id = some { t with
            detail := 3 * 2 ^ 56 + code * 2 ^ 32, ending := some (t.ending.getD ⟨3, 0, 0, 0⟩), phase := .ending, gang := none }))
  ∧ ∀ (s s1 : State) (sl e d : Nat) (t : Task) (x : Slice),
      s.pickKind sl 3 (fun t => !s.mustWait t.strand && s.unheld t) = some (t, x) → t.strand = none →
      s.taskRead t 3 t.codeVa 64 = (.ok d, s1) → s1.holds t → t.phase = .ready →
      let mode := fld d 17 16
      let image := fld d 255 192
      let good := verOk (fld d 15 0) (s1.tenant t.tenant).verTask = true ∧ fld d 31 25 = 0 ∧ fld d 127 42 = 0 ∧ fld d 263 256 = 0
        ∧ fld d 511 504 = 0 ∧ fld d 24 22 ≠ 7 ∧ (fld d 21 20 = 0 → fld d 24 22 = 0) ∧ (mode = 1 ∨ mode = 2 → bit d 18 = false)
        ∧ (bit d 19 = true → mode = 0 ∨ mode = 2) ∧ image < 2 ^ 60 ∧ image % (if mode = 1 then 8 else if mode = 2 then 4096 else 16) = 0
      (good → ∃ u cp, exec (.copyTaskStart sl e) s = .next u ∧ SameRun s1 u ∧ u.copies = s1.copies ++ [cp] ∧ cp.hub = sl ∧ cp.inTask = true
        ∧ cp.started = false ∧ cp.batch = none ∧ cp.sw = none ∧ cp.by_.task = t.id
        ∧ (∃ snap, cp.kind = .box (some snap) (fld d 41 32) (fld d 383 264) (fld d 503 384) image (fld d 191 160)
            (if mode = 3 then fld d 159 128 else 0) mode (bit d 18) (bit d 19))
        ∧ ∃ t', u.task? t.id = some t' ∧ t'.phase = .running)
      ∧ (¬ good → ∃ u, exec (.copyTaskStart sl e) s = .next u ∧ SameRun s1 u ∧ u.copies = s1.copies
        ∧ u.task? t.id = some { t with detail := 4 * 2 ^ 32, ending := some (t.ending.getD ⟨3, 0, 0, 0⟩), phase := .ending })
  )

/-! ## The ends of tasks (06 R150-R152, R157, R158; 17 R371) -/

/-- TASK_COMPLETE (R157, R158, R150-R152) and TASK_ABORT (17 R371). -/
def Obligations.TasksEnd : Prop :=
  (∀ (s s1 : State) (t : Task) (o : DevOut), s.task? t.id = some t → t.strand = none → t.guessOf = none →
    (t.phase = .ending ∨ t.kind = 0 ∧ t.phase = .running ∧ t.blocks ≤ t.nextBlk) → (∀ b ∈ s.blocks, b.task ≠ t.id) →
    (∀ r ∈ (s.tenant t.tenant).rest, r.block.task ≠ t.id) → (t.saved = 0 ∨ t.aborting = true) → t.pending = [] →
    (t.kind = 1 → t.addr ∉ (s.tenant t.tenant).hostQ ∧ t.addr ∉ (s.tenant t.tenant).taken) →
    (t.kind = 4 → ∀ l, s.loop? t.id = some l → l.width = 0) →
    (t.kind ≠ 1 → t.kind ≠ 4 → (∀ c ∈ s.copies, c.by_.task ≠ t.id) ∧ ∀ c ∈ s.nms, c.by_.task ≠ t.id) →
    let sigs := t.succs ++ t.added
    (s.tenant t.tenant).early.length + (sigs.filter fun a => (s.liveTask? t.tenant a).isNone).length ≤ 16384 →
    let e := t.ending.getD ⟨1, 0, 0, 0⟩
    s.devStore t.tenant t.complVa (natBytes 64 (t.detail % 2 ^ 64 * 2 ^ 448 + e.faultAddr % 2 ^ 64 * 2 ^ 384 + e.faultPc % 2 ^ 64 * 2 ^ 320
      + s.clockOf t.tenant * 2 ^ 256 + t.startClk * 2 ^ 192 + t.started % 2 ^ 32 * 2 ^ 160 + fld t.record 575 544 * 2 ^ 96
      + fld t.record 543 512 * 2 ^ 64 + e.fault % 2 ^ 16 * 2 ^ 32 + e.status % 2 ^ 8)) = (o, s1) → o ≠ .wait →
    s1.tasks.Pairwise (fun a b => a.id ≠ b.id) →
    ∃ u, exec (.taskComplete t.id) s = .next u ∧ (∀ v ∈ u.tasks, v.id ≠ t.id) ∧ (∀ l ∈ u.loops, l.task ≠ t.id)
      ∧ (bit t.record 28 = false → e.status = 1 → SameRun s1 u
          ∧ (∀ a, (∀ y ∈ s1.tasks, y.id ≠ t.id → y.tenant = t.tenant → y.strand = none → y.guessOf = none → y.addr ≠ a) →
              t.tenant < s1.tenants.length → (u.tenant t.tenant).early.countP (· == a) = (s1.tenant t.tenant).early.countP (· == a) + sigs.countP (· == a)))
      ∧ ∀ x ∈ s1.tasks, bit t.record 28 = false → x.id ≠ t.id → x.phase = .waiting → x.tenant = t.tenant → x.strand = none → x.guessOf = none →
          (∀ y ∈ s1.tasks, y.id ≠ t.id → y.tenant = x.tenant → y.addr = x.addr → y.strand = none → y.guessOf = none → y = x) →
          let n := sigs.countP (· == x.addr) + if t.id ∈ x.waitsOn then 1 else 0
          let x' : Task := { x with waitsOn := x.waitsOn.filter (· != t.id) }
          (e.status = 1 → u.task? x.id = some (if n ≠ 0 ∧ x.count ≤ n ∧ x.evWait = false
            then { x' with count := 0, phase := .ready, readyAt := s1.clock } else { x' with count := x.count - n }))
          ∧ (e.status ≠ 1 → x.addr ∈ sigs → x.onFail = false → t.id ∉ x.waitsOn → x.ending = none →
              u.task? x.id = some { x with ending := some ⟨5, 0, 0, 0⟩, phase := .ending }))
  ∧ (∀ (s : State) (t : Task) (l : Nat) (lp : Loop), s.task? t.id = some t → s.mayComplete t = true → t.strand = none → t.guessOf = some l →
      l ≠ t.id → s.loop? l = some lp →
      ∃ u lp', exec (.taskComplete t.id) s = .next u ∧ (∀ v ∈ u.tasks, v.id ≠ t.id) ∧ u.loop? l = some lp'
        ∧ lp'.guessEnd = some (decide ((t.ending.getD ⟨1, 0, 0, 0⟩).status = 1))
        ∧ ((t.ending.getD ⟨1, 0, 0, 0⟩).status = 1 → ∀ x ∈ lp'.strands, x.sealedIn = true))
  ∧ ∀ (s : State) (t : Task), s.task? t.id = some t → t.aborting = true →
      ∃ u, exec (.taskAbort t.id) s = .next u ∧ u.mem = s.mem ∧ u.tasks = s.tasks
        ∧ u.waves = (s.waves.filter fun w => !(s.blocks.any fun b => b.task == t.id && b.id == w.block))
        ∧ (∀ n ∈ u.tenants, ∀ r ∈ n.rest, r.block.task ≠ t.id)

/-! ## Guess-carried loops (09 R219-R226) -/

/-- LOOP_START (R219-R221) and STRAND_START (R220, R222). -/
def Obligations.LoopsStart : Prop :=
  (∀ (s s1 : State) (sl b : Nat) (t : Task) (x : Slice) (lp : Loop), s.pickKind sl 4 (fun _ => true) = some (t, x) → s.loop? t.id = some lp →
    s.taskRead t 4 (fld lp.record 255 192) 128 = (.ok b, s1) → s1.holds t → t.phase = .ready → s1.loop? t.id = some lp → fld lp.record 26 22 ≤ 16 →
    let tag := fun i => fld b (512 + 4 * i + 3) (512 + 4 * i)
    let iter := fld b 671 640
    let n := min (fld lp.record 19 16) (fld lp.record 287 256 - iter)
    ∃ u t', exec (.loopStart sl) s = .next u ∧ u.task? t.id = some t'
      ∧ (let ends := fun (cause status : Nat) => ∃ z lq, SameRun s1 z ∧ z.tenants = s1.tenants
            ∧ z.loop? t.id = some lq ∧ lq.record = lp.record ∧ lq.iter = iter ∧ lq.rounds = fld b 735 704 ∧ lq.accepted = fld b 767 736
            ∧ lq.rejected = fld b 799 768
            ∧ (∀ v, writeLoopBlock t.id cause z = .ok () v → u.mem = v.mem ∧ u.loop? t.id = none ∧ t'.ending = some ⟨status, 0, 0, 0⟩
                ∧ t'.phase = .ending)
            ∧ (∀ e v, writeLoopBlock t.id cause z = .error e v → u.loops = s1.loops ∧ u.tasks = s1.tasks ∧ SameRun s1 u)
         ((∃ i < 16, tag i = 15) → ends 3 3) ∧ ((∀ i < 16, tag i ≠ 15) → fld lp.record 287 256 ≤ iter → ends 2 1))
      ∧ ((∀ i < 16, tag i ≠ 15) → iter < fld lp.record 287 256 → fld lp.record 19 16 ≠ 0 → t'.phase = .running
          ∧ (∃ lp' s0, u.loop? t.id = some lp' ∧ lp'.iter = iter ∧ lp'.rounds = fld b 735 704 ∧ lp'.accepted = fld b 767 736
            ∧ lp'.rejected = fld b 799 768 ∧ lp'.width = n ∧ lp'.strands.length = n ∧ lp'.carry.length = fld lp.record 26 22
            ∧ (∀ i r, lp'.carry[i]? = some r → r.val = BitVec.ofNat 32 (fld b (32 * i + 31) (32 * i)) ∧ (i < 16 → r.tag.code = tag i))
            ∧ lp'.strands[0]? = some s0 ∧ s0.phase = .running ∧ s0.input = lp'.carry ∧ s0.prod = lp'.carry
            ∧ (∀ k y, 0 < k → lp'.strands[k]? = some y → y.phase = .notStarted ∧ y.sealedIn = false ∧ y.verdict = .none)
            ∧ lp'.guessEnd = (if 2 ≤ n then none else some true))
          ∧ (∀ c ∈ lp.body, ∃ v ∈ u.tasks, v.addr = c.addr ∧ v.ops = c.ops ∧ v.succs = c.succs ∧ v.strand = some (t.id, 0) ∧ v.tenant = lp.tenant)
          ∧ (2 ≤ n → ∃ v ∈ u.tasks, v.addr = lp.guess.addr ∧ v.guessOf = some t.id)))
  ∧ ∀ (s : State) (l k : Nat) (lp : Loop) (t : Task) (x y : Strand), s.loop? l = some lp → s.task? l = some t → k ≠ 0 → lp.strands[k]? = some x →
      lp.strands[k - 1]? = some y → x.phase = .notStarted → x.sealedIn = true → (y.phase = .running ∨ y.phase = .completed) → lp.ending = none →
      lp.hold = false → lp.cancel = false → lp.guessEnd ≠ some false → (∀ z ∈ lp.strands.take k, z.phase ≠ .rejected) →
      ∃ u lp', exec (.strandStart l k) s = .next u ∧ SameRun s u ∧ u.loop? l = some lp'
        ∧ lp'.strands[k]? = some { x with phase := .running, prod := x.input, nextSlot := List.replicate (fld lp.record 29 27) 0 }
        ∧ (∀ j, j ≠ k → lp'.strands[j]? = lp.strands[j]?)
        ∧ ∀ c ∈ lp.body, ∃ v ∈ u.tasks, v.addr = c.addr ∧ v.ops = c.ops ∧ v.succs = c.succs ∧ v.strand = some (l, k) ∧ v.bound = lp.bound

/-- LOOP_COMMIT (R225, R226). -/
def Obligations.LoopsCommit : Prop :=
  ∀ (s s1 s2 s3 : State) (l m : Nat) (lp lp2 : Loop) (t : Task) (x : Strand), s.loop? l = some lp → lp.width ≠ 0 → lp.guessEnd.isSome = true →
    lp.hold = false →
    (∀ (k : Nat) (y : Strand), lp.strands[k]? = some y → y.phase = .completed ∨ y.phase = .rejected
      ∨ (y.phase = .notStarted ∧ (lp.neverStarts k = true ∨ lp.ending.isSome = true))) →
    lp.strands[m]? = some x → x.phase = .completed → lp.confirmed m = true →
    (∀ (k : Nat) (y : Strand), m < k → lp.strands[k]? = some y → y.phase = .completed → lp.confirmed k = false) →
    publish l m s = .ok () s1 → commitCursors lp m s1 = .ok () s2 → s2.loop? l = some lp2 →
    let iter := lp2.iter + m + 1
    let rejected := lp2.rejected + (lp2.strands.filter fun y => y.phase == .rejected && !y.byExit).length
    let grow := fun (y : Loop) => { y with
      carry := x.prod, iter := y.iter + m + 1, rounds := y.rounds + 1, accepted := y.accepted + m + 1
      rejected := y.rejected + (y.strands.filter fun z => z.phase == .rejected && !z.byExit).length }
    let done := grow lp2
    writeLoopBlock l 0 (s2.updLoop l grow) = .ok () s3 → s3.loop? l = some done → s3.task? l = some t →
    let exited := x.verdict = .exited
    let n := min (fld lp2.record 19 16) (fld lp2.record 287 256 - iter)
    ∃ u, exec (.loopCommit l) s = .next u
      ∧ (let ends := fun (cause : Nat) (e : TaskEnd) => ∀ s4, writeLoopBlock l cause s3 = .ok () s4 → s4.loop? l = some done → s4.task? l = some t →
            u.loop? l = none ∧ u.mem = s4.mem ∧ u.task? l = some { t with
              ending := some e, phase := .ending, detail := iter % 2 ^ 32 + rejected % 2 ^ 32 * 2 ^ 32 }
         (∀ e, lp2.ending = some e → ends 3 e)
          ∧ (lp2.ending = none → lp2.cancel = true → ends 4 (t.ending.getD ⟨4, 0, 0, 0⟩))
          ∧ (lp2.ending = none → lp2.cancel = false → exited → ends 1 ⟨1, 0, 0, 0⟩)
          ∧ (lp2.ending = none → lp2.cancel = false → ¬ exited → fld lp2.record 287 256 ≤ iter → ends 2 ⟨1, 0, 0, 0⟩))
      ∧ (lp2.ending = none → lp2.cancel = false → ¬ exited → iter < fld lp2.record 287 256 → fld lp2.record 19 16 ≠ 0 →
          ∃ lp' s0, u.loop? l = some lp' ∧ lp'.iter = iter ∧ lp'.rounds = lp2.rounds + 1 ∧ lp'.accepted = lp2.accepted + m + 1
            ∧ lp'.rejected = rejected ∧ lp'.carry = x.prod ∧ lp'.width = n ∧ lp'.strands.length = n
            ∧ lp'.strands[0]? = some s0 ∧ s0.phase = .running ∧ s0.input = x.prod)

/-! ## Homes, walks, moves and the hubs' commands (10, 13) -/

/-- HOME_READ, HOME_OWNERSHIP, HOME_EXECUTE, HOME_DROP, CAPACITY_DISPLACEMENT (13 R325, R326; 23 R436) and their counts (R309,
R312). -/
def Obligations.HomeRequests : Prop :=
  ∀ (s : State) (x : Holder) (line : Nat),
    let pa := line * 64
    let old := s.dirEntry? line
    let rest := fun (u : State) => u.mem = s.mem ∧ u.waves = s.waves ∧ ∀ l, l ≠ line → u.dirEntry? l = s.dirEntry? l
    let ways := s.dir.filter fun e => (homeOf (64 * e.line)).hub == (homeOf pa).hub && Config.dirSet e.line == Config.dirSet line
    let slice := fun (d : Nat) => s.dir.filter fun e => e.dies.getLsbD d && sliceOf e.line == sliceOf line
    (paLegal pa = true → s.forwards = [] → s.cuff? pa = none → poolLost s pa = false → handoverHold s pa = false → homeHere s pa = true →
      (∀ d, x = .die d → (slice d.val).length < 262144) → (ways.length < 16 ∨ old.isSome = true) →
      (∃ u e, exec (.homeRead x line) s = .next u ∧ rest u ∧ u.l1 = s.l1 ∧ u.dirEntry? line = some e
        ∧ (old = none → (∀ y, e.holds y = decide (y = x))
            ∧ (e.state, e.owner) = if sharedRo s pa then (DirState.s, none) else (DirState.e, some x))
        ∧ (∀ o, old = some o → o.holds x = true → e = o)
        ∧ (∀ o, old = some o → o.holds x = false → (∀ y, e.holds y = (o.holds y || decide (y = x)))
            ∧ (o.state = .s → e.state = .s) ∧ (o.state = .e → e.state = .s ∧ e.owner = none)
            ∧ (o.state = .m ∨ o.state = .o → e.state = .o ∧ e.owner = o.owner)))
      ∧ (sharedRo s pa = true → exec (.homeOwnership x line) s = .next s)
      ∧ (sharedRo s pa = false → ∃ u e, exec (.homeOwnership x line) s = .next u ∧ rest u ∧ u.dirEntry? line = some e ∧ e.state = .m ∧ e.owner = some x
        ∧ (∀ y, e.holds y = decide (y = x))
        ∧ u.l1 = s.l1.filter fun (c, l) => l != line || decide (∃ d, x = .die d ∧ d.val = c / 32 % 8))
      ∧ (∃ u, exec (.homeExecute x line) s = .next u ∧ rest u ∧ u.dirEntry? line = none ∧ u.l1 = s.l1.filter fun (_, l) => l != line)
      ∧ (s.moves = [] → s.hubs.length = 4 → ∀ f, s.frame? (pa / 4096) = some f → f.frozen = false →
          let g := { f with raw := min (f.raw + 1) 65535 }
          ∃ u, exec (.homeRead x line) s = .next u
            ∧ (triggerOk (s.setFrame g) g = false → u.frame? f.ppn = some g ∧ u.moves = [])
            ∧ (triggerOk (s.setFrame g) g = true → u.frame? f.ppn = some { g with frozen := true }
                ∧ ∃ m, u.moves = [m] ∧ m.src = f.ppn ∧ m.size = 0 ∧ m.phase = .queued ∧ m.auto = true)))
    ∧ (paLegal pa = true → s.forwards = [] → s.cuff? pa = none → poolLost s pa = false → handoverHold s pa = false → homeHere s pa = true →
        (∀ d, x = .die d → (slice d.val).length < 262144) → 16 ≤ ways.length → old = none →
        ∃ u v, exec (.homeRead x line) s = .next u ∧ (∃ e ∈ ways, e.line = v) ∧ u.dirEntry? v = none ∧ (u.dirEntry? line).isSome = true
          ∧ u.mem = s.mem ∧ u.waves = s.waves ∧ ∀ l, l ≠ line → l ≠ v → u.dirEntry? l = s.dirEntry? l)
    ∧ (∃ u, exec (.homeDrop x line) s = .next u ∧ rest u
        ∧ (∀ d, x = .die d → u.l1 = s.l1.filter fun (c, l) => l != line || c / 32 != d.val)
        ∧ (old = none → u.dirEntry? line = none)
        ∧ (∀ o, old = some o → o.holds x = false → u.dirEntry? line = some o)
        ∧ (∀ o, old = some o → o.holds x = true →
            ((∀ y, y ≠ x → o.holds y = false) → u.dirEntry? line = none)
            ∧ ((∃ y, y ≠ x ∧ o.holds y = true) → ∃ e, u.dirEntry? line = some e ∧ (∀ y, e.holds y = (o.holds y && !decide (y = x)))
                ∧ (o.owner = some x → e.state = .s ∧ e.owner = none) ∧ (o.owner ≠ some x → e.state = o.state ∧ e.owner = o.owner))))
    ∧ ∃ u, exec (.capacityDisplacement line) s = .next u ∧ rest u ∧ u.dirEntry? line = none
        ∧ (old.isSome = true → u.l1 = s.l1.filter fun (_, l) => l != line)

/-- PAGE_WALK (10 R256, R258), TLBINV_* (R259, R260), COW_RESOLUTION (15 R346). -/
def Obligations.TranslationEvents : Prop :=
  (∀ (s : State) (die n va : Nat) (a : Access) (l : Leaf),
    let root := (s.tenant n).root.toNat
    let e := if accWrites a = true ∧ bit l.pte 2 = true then setFld (setFld l.pte 5 5 1) 6 6 1 else setFld l.pte 5 5 1
    bit root 0 = true → s.tlbFind (s.walkWho die n) va = none → lookLeaf s root a va = .ok l → bit l.pte 62 = false →
    ∃ u t, exec (.pageWalk die n va a) s = .next u ∧ u.tlbFind (s.walkWho die n) va = some t ∧ t.leaf = e ∧ t.size = l.size ∧ u.waves = s.waves
      ∧ (e = l.pte → u.mem = s.mem)
      ∧ (e ≠ l.pte → MemoryInv s → spaceOf l.ptePa ≠ 2 → s.moves = [] → bit (s.tenant n).dirty.toNat 0 = false →
          BytesPut s.mem u.mem l.ptePa (natBytes 8 e)))
  ∧ (∀ (s : State) (hub : Nat) (v : Dword), hub < s.hubs.length → bit (s.hub hub).tlbinv.toNat 0 = false → bit v.toNat 0 = true →
      let asid := fld v.toNat 11 3
      let va := fld v.toNat 59 12 * 4096
      let drops := fun (i : Instr) (gone : TlbEntry → Bool) => ∃ u, exec i s = .next u ∧ SameRun s u
        ∧ u.tlb = (s.tlb.filter fun t => !gone t) ∧ bit (u.hub hub).tlbinv.toNat 0 = true
        ∧ ∃ z, exec (.tlbinvComplete hub) u = .next z ∧ SameRun s z ∧ z.tlb = u.tlb ∧ bit (z.hub hub).tlbinv.toNat 0 = false
      (fld v.toNat 2 1 = 0 → drops (.tlbinvPage hub v) fun t => t.asid == asid && decide (t.page ≤ va ∧ va < t.page + pageBytes t.size ∧ t.page % pageBytes t.size = 0))
      ∧ (fld v.toNat 2 1 = 1 → drops (.tlbinvAsid hub v) fun t => t.asid == asid)
      ∧ (fld v.toNat 2 1 = 2 → drops (.tlbinvAll hub v) fun _ => true))
  ∧ ∀ (s : State) (n va : Nat) (l : Leaf), lookLeaf s (s.tenant n).root.toNat .store va = .ok l →
      (bit l.pte 2 = true → exec (.cowResolution n va) s = .next s)
      ∧ (bit l.pte 2 = false → l.size = 0 → bit (s.tenant n).ddw.toNat 0 = false → MemoryInv s → spaceOf l.ptePa ≠ 2 → s.moves = [] →
          bit (s.tenant n).dirty.toNat 0 = false →
          ∃ u, exec (.cowResolution n va) s = .next u ∧ u.waves = s.waves
            ∧ BytesPut s.mem u.mem l.ptePa (natBytes 8 (setFld (setFld l.pte 2 2 1) 7 7 0))
            ∧ ∀ t ∈ u.tlb, ¬ (t.asid = fld (s.tenant n).root.toNat 12 4 ∧ t.size = 0 ∧ t.page = l.page))

/-- MOVE_START (R315), MOVE_LINE_COPY (R316), SWITCH_OVER, FORWARDING_INSTALL (R317), CUFF_ABANDON (R318), FORWARDING_RETIRE (R319). -/
def Obligations.MoveEvents : Prop :=
  (∀ (s s1 : State) (hub d : Nat) (m : Move) (f : FrameState), s.runningMoves hub < 16 →
    (s.moves.find? fun m => m.hub == hub && m.phase == .queued && m.behind.isNone) = some m → s.startableMove m = true →
    s.takeDest m.destHub m.tier m.size m.destStk = (some d, s1) → s1.move? m.id = some m → s1.frame? m.src = some f → s1.hubs.length = 4 →
    (s1.leafHolds f = true → ∃ u f', exec (.moveStart hub) s = .next u
      ∧ u.move? m.id = some { m with phase := .copying, dest := some d, copied := 0, heldCnt := 0 } ∧ u.frame? m.src = some f' ∧ f'.moving = true
      ∧ (f.size = 0 → spaceOf f.leafPa ≠ 2 → f.leafPa % 8 = 0 → MemoryInv s1 → s1.tenants.length = 64 → s1.moves = [m] → bit (u.peek f.leafPa 8) 63 = true))
    ∧ (s1.leafHolds f = false → (∀ s2, s1.releaseFrame m.destHub m.size d = some s2 → ∃ u, exec (.moveStart hub) s = .next u ∧ u.move? m.id = none)
      ∧ (s1.releaseFrame m.destHub m.size d = none → exec (.moveStart hub) s = .next s)))
  ∧ (∀ (s : State) (m : Move), s.move? m.id = some m →
      let left := fun (l : List HeldReq) => l <:+ m.held ∧ (∀ q ∈ l.head?, q.asksAgain) ∧ ((∀ q ∈ m.held, q.asksAgain) → l = m.held)
      (∀ d, m.phase = .copying → m.dest = some d → m.copied < 64 * framesOf m.size →
        let src := m.src * 4096 + 64 * m.copied
        let dst := d * 4096 + 64 * m.copied
        poolLost s src = false → poolLost s dst = false → MemoryInv s → (∀ n ∈ s.tenants, bit n.dirty.toNat 0 = false) →
        ∃ u, exec (.moveLineCopy m.id) s = .next u ∧ u.move? m.id = some { m with copied := m.copied + 1 } ∧ u.waves = s.waves
          ∧ BytesPut s.mem u.mem dst (s.mem.readBytes src 64)
          ∧ (dst / 64 ∈ u.poison ↔ src / 64 ∈ s.poison ∨ ∃ p ∈ s.latent, p.line? = some (src / 64)))
      ∧ (∀ d f, m.phase = .copying → m.held = [] → m.copied = 64 * framesOf m.size → m.retryAt ≤ s.clock → m.dest = some d →
          s.frame? m.src = some f → s.leafHolds f = true →
          (s.usedForwards m.hub < 256 → ∃ u, exec (.switchOver m.id) s = .next u ∧ u.mem = s.mem ∧ u.waves = s.waves
            ∧ u.move? m.id = some { m with phase := .cuff } ∧ (∀ i < 64 * framesOf m.size, u.dirEntry? (m.src * 64 + i) = none)
            ∧ ∀ l, (l < m.src * 64 ∨ m.src * 64 + 64 * framesOf m.size ≤ l) → u.dirEntry? l = s.dirEntry? l)
          ∧ (256 ≤ s.usedForwards m.hub → exec (.switchOver m.id) s = .next s))
      ∧ (∀ d f, m.phase = .cuff → m.held.length ≤ 64 → (∀ q ∈ m.held, s.clock - q.time < 5000) → m.dest = some d → s.frame? m.src = some f →
          s.leafHolds f = true →
          ∃ u l, exec (.forwardingInstall m.id) s = .next u ∧ u.forwards = s.forwards ++ [⟨m.id, m.src, d, m.size⟩]
            ∧ u.move? m.id = some { m with phase := .installed, held := l } ∧ left l
            ∧ (∀ t ∈ u.tlb, fld t.leaf 55 12 + framesOf t.size ≤ m.src ∨ m.src + framesOf m.size ≤ fld t.leaf 55 12)
            ∧ (f.size = 0 → spaceOf f.leafPa ≠ 2 → f.leafPa % 8 = 0 → MemoryInv s → s.tenants.length = 64 → s.moves = [m] → m.held = [] →
                covers m.src m.size (f.leafPa / 4096) = false →
                BytesPut s.mem u.mem f.leafPa (natBytes 8 (setFld (setFld (s.peek f.leafPa 8) 55 12 d) 63 63 0))))
      ∧ (m.phase = .cuff → (64 < m.held.length ∨ ∃ q ∈ m.held, 5000 ≤ s.clock - q.time) →
          ∃ u l, exec (.cuffAbandon m.id) s = .next u ∧ u.waves = s.waves ∧ left l
            ∧ u.move? m.id = some { m with phase := .copying, retryAt := s.clock + 4096, held := l }
            ∧ ((∀ x ∈ s.moves, ∀ q ∈ x.held, q.asksAgain) → u.mem = s.mem))
      ∧ (∀ s1 f, m.phase = .installed → m.held = [] → s.releaseFrame m.hub m.size m.src = some s1 → s1.frame? m.src = some f → s1.hubs.length = 4 →
          ∃ u, exec (.forwardingRetire m.id) s = .next u ∧ u.move? m.id = none ∧ (∀ x ∈ u.forwards, x.move ≠ m.id)
            ∧ u.frame? m.src = some { f with moving := false, frozen := true }))

/-- HANDLER_ENTRY (R365, R370), FAULT_RECORD_WRITE (R366), FLTRES_* (R367), FSTQ_* (13 R308). -/
def Obligations.FaultEvents : Prop :=
  (∀ (s : State) (r : ThreadRef) (w : Wave) (t : Thread) (f : FInfo) (b : Block) (k : Task), s.wave? r.wave = some w → s.thread? r = some t →
    s.block? w.block = some b → s.task? b.task = some k → k.aborting = false → t.stopped = false → t.status = .pending f → w.parked = false →
    f.replay = false → s.speculative b.strand = false → f.code ≠ 12 → f.code ≠ 13 → f.code ≠ cSAFEPT_OVERRUN →
    let ten := s.tenant k.tenant
    let enters := bit ten.trap.toNat 0 = true ∧ t.trapinfo = 0 ∧ w.frame.isSome = true ∧ 64 ≤ w.privBytes
    (enters → ∀ s2, writeFrameTo (s.self r) w r.lane (frameBits w t f) s = .ok () s2 →
      exec (.handlerEntry r) s = .next (s2.updThread r fun t =>
        { t with status := .run, trapinfo := f.trapinfo, turns := 0, retry := false, again := false, inst := none, redo := none
                 pc := BitVec.ofNat 60 ((s2.tenant k.tenant).trap.toNat % 2 ^ 60 / 4 * 4) }))
    ∧ (¬ enters → exec (.handlerEntry r) s = .next (s.markAbort b.task
        { status := 3, fault := f.code, faultPc := f.pc, faultAddr := if f.access = 1 ∨ f.access = 2 then f.addr else 0 })))
  ∧ (∀ (s s1 : State) (hub n i : Nat) (e : FaultEntry), n < s1.tenants.length → s1.tenants = s.tenants →
      (s.faults.find? fun e => e.hub == hub && e.tenant == n && !e.written && e.slot.isSome) = some e → e.slot = some i →
      s1.faults = s.faults → s.faults.Pairwise (fun a b => a.id ≠ b.id) →
      let ten := s.tenant n
      let fq := ten.fq.toNat
      let head := fld ten.fqhead.toNat 15 0
      let tail := fld ten.fqhead.toNat 31 16
      let size := 2 ^ max 6 (fld fq 7 4)
      bit fq 0 = true → bit ten.ctl.toNat 2 = false → (tail + 65536 - head) % 65536 ≠ size →
      s.devStore n (fld fq 59 12 * 4096 + 32 * (tail % size)) (natBytes 32 (e.page * 2 ^ 192 + e.time * 2 ^ 128 + e.info.detail * 2 ^ 96
        + s.wavesOn e.id * 2 ^ 80 + i * 2 ^ 68 + hub * 2 ^ 66 + e.access * 2 ^ 64 + e.asid * 2 ^ 55 + b2n e.engine * 2 ^ 54
        + e.info.cause % 64 * 2 ^ 48 + e.info.code * 2 ^ 32 + ten.fqSeq)) = (.done, s1) →
      ∃ u, exec (.faultRecordWrite hub n) s = .next u ∧ u.mem = s1.mem ∧ u.waves = s1.waves
        ∧ u.faults = (s1.faults.map fun x => if x.id = e.id then { x with written := true } else x)
        ∧ u.irqs = .faultRing n :: s1.irqs ∧ fld (u.tenant n).fqhead.toNat 31 16 = (tail + 1) % 65536
        ∧ fld (u.tenant n).fqhead.toNat 15 0 = head ∧ (u.tenant n).fqSeq = (ten.fqSeq + 1) % 2 ^ 32)
  ∧ (∀ (s : State) (hub : Nat) (v : Dword) (e : FaultEntry), bit (s.hub hub).fltres.toNat 31 = false → bit v.toNat 31 = true →
      (s.faults.find? fun e => e.hub == hub && e.tenant == fld v.toNat 17 12 && e.slot == some (fld v.toNat 11 0)) = some e →
      (fld v.toNat 30 29 = 0 → ∃ u, exec (.fltresReplay hub v) s = .next u ∧ (∀ x ∈ u.faults, x.id ≠ e.id) ∧ u.mem = s.mem
        ∧ ∀ r t f, s.thread? r = some t → Alone s r → t.status = .parked e.id f none → u.thread? r = some { t with status := .replay })
      ∧ (fld v.toNat 30 29 = 1 → ∃ u, exec (.fltresUnresolved hub v) s = .next u ∧ (∀ x ∈ u.faults, x.id ≠ e.id) ∧ u.mem = s.mem
        ∧ ∀ r t f, s.thread? r = some t → Alone s r → t.status = .parked e.id f none →
            u.thread? r = some { t with
              again := false, inst := none, redo := none
              status := .pending { f with cause := 63, replay := false, pc := t.pc.toNat, resume := t.pc.toNat } }))
  ∧ ∀ (s : State) (hub : Nat) (v : Dword), hub < s.hubs.length → s.hubs.length = 4 → bit (s.hub hub).fstq.toNat 45 = false → bit v.toNat 45 = true →
      let ppn := fld v.toNat 43 0
      let op := fld v.toNat 47 46
      let does := fun (i : Instr) (count : Nat) (f : Option FrameState) => ∃ u, exec i s = .next u ∧ u.waves = s.waves
        ∧ (u.hub hub).fstq = BitVec.ofNat 64 (count * 2 ^ 48 + op * 2 ^ 46 + ppn) ∧ (∀ g, f = some g → u.frame? ppn = some g)
      (∀ f, s.frame? ppn = some f → f.ppn = ppn → (homeOf (ppn * 4096)).hub = hub → paLegal (ppn * 4096) = true →
        let h := homeOf (ppn * 4096)
        let m := frameOfBits ppn (s.peek (fld ((s.hub hub).fst.getD h.place 0).toNat 55 12 * 4096 + 16 * h.frame) 16)
        (op = 0 → does (.fstqReload hub v) (fld v.toNat 63 48) (some { m with raw := f.raw, frozen := f.frozen, moving := f.moving }))
        ∧ (op = 1 → does (.fstqRead hub v) f.raw (some f))
        ∧ (op = 2 → does (.fstqWrite hub v) (fld v.toNat 63 48) (some { f with raw := fld v.toNat 63 48 })))
      ∧ (((homeOf (ppn * 4096)).hub ≠ hub ∨ paLegal (ppn * 4096) = false) →
          (op = 0 → does (.fstqReload hub v) 0 none) ∧ (op = 1 → does (.fstqRead hub v) 0 none) ∧ (op = 2 → does (.fstqWrite hub v) 0 none))

/-! ## What the engines do of themselves (08 R195-R205, 15 R339-R355) -/

/-- PLANE_LOAD_START, ARRAY_RUN_GRANT, RUN_END (R201), PLANE_LOAD_COMPLETE (R195), MATRIX_OP_COMPLETE (R205). -/
def Obligations.MatrixEvents : Prop :=
  (∀ (s : State) (e : Nat) (o : MatOp) (p : PlaneId) (pre post : List MatOp), e < s.engines.length → (s.engine e).loading = none →
    (∀ a, (s.engine e).shadow = some a → s.planeNamed e a.id = false) →
    s.arbiter (s.mats.filter fun o => o.waits e && o.park.entry.isNone) = pre ++ o :: post →
    (∀ y ∈ pre, ∀ q, y.planeId? = some q → (s.engine e).holds q = true) → o.planeId? = some p → (s.engine e).holds p = false →
    ∃ u, exec (.planeLoadStart e) s = .next u ∧ SameRun s u ∧ u.mats = s.mats
      ∧ u.engine e = { s.engine e with shadow := none, loading := some (p, o.id) })
  ∧ (∀ (s s1 : State) (e r : Nat) (o : MatOp) (p q : PlaneId) (f : ArrFmt) (pl : Plane), e < s1.engines.length → (s.engine e).loading = some (p, o.id) →
      s.mat? o.id = some o → o.plane? = some (q, r, f) → o.code = 0 → o.park = .clear → loadPlane (o.by_.self o.id) p r f s = .ok pl s1 →
      ∃ u, exec (.planeLoadComplete e) s = .next u ∧ SameRun s1 u ∧ (u.engine e).loading = none ∧ pl.id = p
        ∧ pl.cols.length = 256 ∧ ((u.engine e).shadow = some pl ∨ (u.engine e).active = some pl))
  ∧ (∀ (s s1 s2 : State) (e blk : Nat) (o : MatOp) (b : Block) (p : PlaneId) (r : Nat) (fa fb : ArrFmt) (pl : Plane) (row : List BandBlock),
      e < s.engines.length → (s.engine e).run = [] → s.promotePlane e = s → s.joiners e = [o.id] → s.mat? o.id = some o → o.kind.isPass = true → o.phase = .waiting →
      o.code = 0 → o.begun = false → s.kindBad o = false → o.rowsDone = 0 → o.rowCount = 1 → o.fmtA = some fa → o.plane? = some (p, r, fb) →
      (s.engine e).active = some pl → o.park = .clear → o.by_.block = some blk → s.block? blk = some b → pbAcc0 o.pb < b.accRows.length →
      s1 = (s.updEngine e fun g => { g with run := [o.id] }).updMat o.id (fun o => { o with begun := true, work := [] }) →
      passRow (o.by_.self o.id) o fa 0 s1 = .ok row s2 → s2.mats = s1.mats → s2.engines = s1.engines → s2.blocks = s1.blocks →
      let out := arrRow fa fb o.tauA (recTau (snapRec o.snapB)) (s.engine e).corrupt row pl.pairs
      let acc := (s.accRow o (pbAcc0 o.pb)).accumulate (fb.cls == .int8) (pbAccum o.pb) out.vals
      out.parity = none →
      ∃ u, exec (.arrayRunGrant e) s = .next u ∧ u.mem = s2.mem ∧ (u.engine e).run = [o.id]
        ∧ u.block? blk = some { b with accRows := b.accRows.set (pbAcc0 o.pb) acc.1 }
        ∧ u.mat? o.id = some { o with
            begun := true, work := [], rowsDone := 1, phase := .inRun, flags := o.flags ||| out.flags ||| acc.2 })
  ∧ (∀ (s : State) (e : Nat), e < s.engines.length → (s.engine e).run ≠ [] → s.joiners e = [] →
      (∀ o ∈ s.mats, o.id ∈ (s.engine e).run → o.phase = .inRun ∨ o.code ≠ 0) →
      ∃ u, exec (.runEnd e) s = .next u ∧ SameRun s u ∧ (u.engine e).run = []
        ∧ ∀ o ∈ s.mats, o.id ∈ (s.engine e).run → s.mat? o.id = some o → o.phase = .inRun →
            u.mat? o.id = some { o with phase := if o.kind = .attn then .waiting else .streamed })
  ∧ ∀ (s : State) (e blk : Nat) (o : MatOp) (b : Block), s.mat? o.id = some o → o.engine = e → o.park = .clear → o.by_.block = some blk →
      s.block? blk = some b → s.blockWaves blk ≠ [] →
      let pend := fun (u : State) => ∀ v ∈ u.tasks, v.id = o.by_.task → ∃ v' ∈ s.tasks, v = { v' with pending := bump v'.pending o.by_.core (· - 1) }
      (o.kind = .mzro → o.code = 0 → o.begun = false → o.rowsDone = 0 → s.rowsFree o = true →
        ∃ u b', exec (.matrixOpComplete e o.id) s = .next u ∧ u.mem = s.mem ∧ (∀ y ∈ u.mats, y.id ≠ o.id) ∧ pend u ∧ u.block? blk = some b'
          ∧ b'.scratch = b.scratch ∧ b'.accRows.length = b.accRows.length
          ∧ ∀ i row, b.accRows[i]? = some row → b'.accRows[i]? = some (if o.plainRow ≤ i ∧ i < o.plainRow + o.plainRows
              then { kind := o.plainVal, words := List.replicate 256 0 } else row))
      ∧ ((o.code ≠ 0 ∨ o.kind.isPass = true ∧ o.phase = .streamed) → o.code ≠ 1 → pbSwEn o.pb = false → b.scratch.wf = true →
        let code := if o.code ≠ 0 then o.code else 1
        ∃ u b', exec (.matrixOpComplete e o.id) s = .next u ∧ u.mem = s.mem ∧ u.mats = (s.mats.filter fun y => y.id != o.id) ∧ pend u
          ∧ u.block? blk = some b' ∧ b'.accRows = b.accRows
          ∧ (code ≠ 1 → (o.ticket, code) ∈ b'.opCodes) ∧ (code = 1 → b'.opCodes = b.opCodes)
          ∧ (if o.kind.hasBlock = true then BytesPut b.scratch b'.scratch (o.off + 60) (natBytes 4 (matStatus o code)) else b'.scratch = b.scratch))

/-- COPY_START, COPY_COMPLETE (R342, R343, R347, R348), DDW_PAGE_STEP (R345), NM_COMMAND_START (R354), NM_COMMAND_COMPLETE (R353, R355). -/
def Obligations.CopyEvents : Prop :=
  (∀ (s : State) (cp : Copy), s.copy? cp.id = some cp → cp.started = false →
    let starts := fun (cp' : Copy) => ∃ u, exec (.copyStart cp.id) s = .next u ∧ SameRun s u ∧ u.copy? cp.id = some cp'
    (∀ d a, cp.kind = .lane d a → starts { cp with started := true, bytes := 16 })
    ∧ (∀ sn tid o x im p f m d sc, cp.kind = .box sn tid o x im p f m d sc →
        ((∃ i < 5, fld x (24 * i + 23) (24 * i) = 0) → starts { cp with started := true, code := 1 })
        ∧ ((∀ i < 5, fld x (24 * i + 23) (24 * i) ≠ 0) → sn.bind (·.record) = none → starts { cp with started := true, code := 2 }))
    ∧ (∀ sn tid o x im p f rec_, cp.kind = .box (some sn) tid o x im p f 0 false false → sn.record = some rec_ → fld rec_ 380 376 ≤ 6 →
        im < clusterBase →
        let dim := fun i => fld x (24 * i + 23) (24 * i)
        let row := dim 0 * [4, 4, 4, 2, 2, 1, 1].getD (fld rec_ 380 376) 0
        (∀ i < 5, dim i ≠ 0) → p % 16 = 0 → (p ≠ 0 → row ≤ p) →
        starts { cp with started := true, bytes := dim 1 * dim 2 * dim 3 * dim 4 * row, code := 0, failVa := 0 }))
  ∧ (∀ (s : State) (cp : Copy) (dst src pd ps ld ls : Nat) (r : ThreadRef) (t : Thread) (k : Nat), s.copy? cp.id = some cp → MemoryInv s →
      cp.started = true → cp.code = 0 → cp.next = 0 → s.opBad cp.id = 0 → cp.flags = 0 → cp.park = .clear → cp.kind = .lane dst src →
      cp.bytes = 16 → cp.sw = none → cp.inTask = false → cp.by_.strand = none → cp.by_.thread = some r → cp.batch = some k → t.batch = k →
      s.thread? r = some t → (∀ w, s.wave? r.wave = some w → some w.block = cp.by_.block) → t.status = .run → src % 16 = 0 → dst % 16 = 0 →
      (∀ w ∈ s.waves, ∀ v ∈ w.threads, ∀ n next, v.status ≠ .waiting (.cwait n) next) → bit (s.tenant cp.by_.tenant).dirty.toNat 0 = false →
      Mapped s (cp.by_.self cp.id) .engineRead src ps ls → Mapped s (cp.by_.self cp.id) .engineWrite dst pd ld → s.poisoned ps 16 = false →
      ∃ u t', exec (.copyComplete cp.id) s = .next u ∧ u.blocks = s.blocks ∧ u.copies = (s.copies.filter fun y => y.id != cp.id)
        ∧ BytesPut s.mem u.mem pd ((List.range 16).map fun i => s.mem.read (ps + i))
        ∧ u.thread? r = some t' ∧ t'.openLeft = t.openLeft - 1 ∧ t'.regs = t.regs ∧ t'.status = .run ∧ t'.copyErr = t.copyErr
        ∧ ∀ v ∈ u.tasks, v.id = cp.by_.task → ∃ v' ∈ s.tasks, v = { v' with pending := bump v'.pending cp.by_.core (· - 1) })
  ∧ (∀ (s s1 : State) (cp cp1 : Copy) (g : BoxGeom) (fl : Flags), s.copy? cp.id = some cp → cp.started = true → cp.code = 0 →
      cp.park = .clear → cp.paged = true → cp.geom? = some g → cp.page < g.pages → ddwPage (cp.by_.self cp.id) g cp.page s = .ok fl s1 →
      s1.copy? cp.id = some cp1 → cp1.kind = cp.kind →
      ∃ u, exec (.ddwPageStep cp.id) s = .next u ∧ u.mem = s1.mem ∧ u.waves = s1.waves
        ∧ u.copy? cp.id = some { cp1 with page := cp1.page + 1, flags := cp1.flags ||| fl })
  ∧ (∀ (s s1 : State) (m : NmCmd) (ps : List (Nat × Nat)), s.nm? m.id = some m → m.started = false → m.park = .clear →
      nmPages (m.by_.self m.id) m.record s = .ok ps s1 → s1.nm? m.id = some m →
      let same := ∀ a ∈ ps, ∀ b ∈ ps, spaceOf a.2 = 0 ∧ (homeOf a.2).hub = (homeOf b.2).hub ∧ (homeOf a.2).place = (homeOf b.2).place
      (same → ∃ u, exec (.nmCommandStart m.id) s = .next u ∧ SameRun s1 u ∧ u.nm? m.id = some { m with
          started := true, clock := s1.clockOf m.by_.tenant, reason := 0, failVa := 0, frames := ps.map fun p => p.2 / 4096, next := 0
          flags := if fld m.record 19 16 = 1 then (fadeK m.record).2 else 0 })
      ∧ (¬ same → ∃ u m', exec (.nmCommandStart m.id) s = .next u ∧ SameRun s1 u ∧ u.nm? m.id = some m' ∧ m'.started = true
          ∧ m'.reason = 1 ∧ m'.frames = [] ∧ m'.failVa ∈ ps.map Prod.fst))
  ∧ ∀ (s : State) (m : NmCmd) (t : Task) (pa leaf : Nat), s.nm? m.id = some m → MemoryInv s → m.started = true → m.inTask = true → m.next = 0 →
      m.reason = 0 → m.poisons = 0 → m.failVa = 0 → m.flags = 0 → m.park = .clear → m.by_.strand = none → m.by_.task = t.id → s.task? t.id = some t →
      t.ending = none → fld m.record 19 16 = 3 → 0 < fld m.record 191 160 → fld m.record 191 160 ≤ 16 → fld m.record 383 320 % 64 = 0 →
      bit (s.tenant m.by_.tenant).dirty.toNat 0 = false → Mapped s (m.by_.self m.id) .engineWrite (fld m.record 383 320) pa leaf →
      ∃ u, exec (.nmCommandComplete m.id) s = .next u ∧ u.waves = s.waves ∧ u.blocks = s.blocks ∧ (∀ y ∈ u.nms, y.id ≠ m.id)
        ∧ BytesPut s.mem u.mem pa ((List.range (fld m.record 191 160)).flatMap fun _ => natBytes 4 (fld m.record 223 192))
        ∧ ∃ t', u.task? t.id = some t' ∧ t'.phase = .ending ∧ t'.ending = some ⟨1, 0, 0, 0⟩ ∧ t'.detail = 0 ∧ t'.startClk = m.clock

/-! ## Contexts, their reset, saves and restores -/

/-- CONTEXT_CREATE (22 R421, R422), FLR, FLR_COMPLETE (R425). -/
def Obligations.ContextEvents : Prop :=
  (∀ (s : State) (n : Nat) (v : Dword), n < s.tenants.length → bit v.toNat 0 = true → bit v.toNat 2 = false →
    let t := s.tenant n
    let choice := fun (i : Nat) => [fld t.vera.toNat 15 0, fld t.vera.toNat 31 16, fld t.vera.toNat 47 32, fld t.vera.toNat 63 48,
      fld t.verb.toNat 15 0, fld t.verb.toNat 31 16].getD i 0
    let good := ∀ i < 6, (fld (s.capver.getD i 0).toNat 15 0 ≤ choice i ∧ choice i ≤ fld (s.capver.getD i 0).toNat 31 16)
      ∧ ∀ k < 8, k ≠ moduleOrd → s.peersUp.getD k false = true →
          (Config.peerVersions k i).1 ≤ choice i ∧ choice i ≤ (Config.peerVersions k i).2
    let does := fun (q : Tenant → Prop) => ∃ u, exec (.contextCreate n v) s = .next u ∧ u.waves = s.waves ∧ u.blocks = s.blocks
      ∧ (t.en = false ∧ bit t.root.toNat 0 = true ∨ SameRun s u) ∧ u.tasks = s.tasks ∧ q (u.tenant n)
      ∧ (∀ k, k ≠ n → u.tenant k = s.tenant k) ∧ (u.tenant n).root = t.root ∧ (u.tenant n).weight = fld v.toNat 35 28
      ∧ fld (u.tenant n).ctl.toNat 46 36 = fld v.toNat 46 36
    (t.flr = false → t.en = false → good → does fun x => x.en = true ∧ fld x.ctl.toNat 63 56 = 1 ∧ x.tensors = [] ∧ (∀ c ∈ x.perfCore, c = 0)
        ∧ ∀ l ∈ x.perfHub, ∀ c ∈ l, c = 0)
    ∧ (t.flr = false → t.en = false → ¬ good → does fun x => x.en = false ∧ fld x.ctl.toNat 63 56 = 2 ∧ x.tensors = t.tensors)
    ∧ (t.flr = true → does fun x => x.en = t.en ∧ fld x.ctl.toNat 63 56 = 3 ∧ x.tensors = t.tensors))
  ∧ (∀ (s : State) (n : Nat) (v : Dword), n < s.tenants.length → n < 64 → bit v.toNat 0 = false → bit v.toNat 2 = true →
      (s.tenant n).phase = .idle →
      ∃ u, exec (.flr n v) s = .next u ∧ u.mem = s.mem ∧ u.harts = s.harts ∧ (∀ k, k ≠ n → u.tenant k = s.tenant k)
        ∧ (u.tenant n).flr = true ∧ (u.tenant n).root = (s.tenant n).root ∧ (u.tenant n).en = (s.tenant n).en
        ∧ (u.tenant n).hostQ = [] ∧ (u.tenant n).taken = [] ∧ (u.tenant n).early = []
        ∧ u.tasks = (s.tasks.filter fun t => t.tenant != n) ∧ u.loops = (s.loops.filter fun l => l.tenant != n)
        ∧ u.faults = (s.faults.filter fun e => e.tenant != n)
        ∧ (∀ o ∈ u.mats, o.by_.tenant ≠ n) ∧ (∀ c ∈ u.copies, c.by_.tenant ≠ n) ∧ (∀ c ∈ u.nms, c.by_.tenant ≠ n)
        ∧ (∀ b, b ∈ u.blocks ↔ b ∈ s.blocks ∧ ∀ x ∈ s.tenantBlocks n, x.id ≠ b.id)
        ∧ ∀ w, w ∈ u.waves ↔ w ∈ s.waves ∧ ∀ x ∈ s.tenantBlocks n, x.id ≠ w.block)
  ∧ ∀ (s : State) (n : Nat), n < s.tenants.length → (s.tenant n).flr = true →
      ∃ u, exec (.flrComplete n) s = .next u ∧ SameRun s u ∧ u.tasks = s.tasks ∧ (∀ k, k ≠ n → u.tenant k = s.tenant k)
        ∧ (u.tenant n).flr = false ∧ (u.tenant n).en = false ∧ (u.tenant n).tensors = [] ∧ (u.tenant n).root = (s.tenant n).root

/-- SAVE (18 R386, R389), SAVE_BLOCK_STOP, SAVE_COMPLETE (R389), RESTORE (R396). That a context with EN = 0 takes no image is 00 R12's; its
RESULT and CLOCK during a restore are the model's choice (log entries 33 and 77). -/
def Obligations.SaveAndRestore : Prop :=
  (∀ (s : State) (n : Nat) (v : Dword), n < s.tenants.length → bit (s.tenant n).pre.toNat 0 = false → bit v.toNat 0 = true →
    let size := 128 + ((s.tenantBlocks n).map fun b => recBytes b (s.blockWaves b.id)).sum + (s.poolImage n).length + (s.tidImage n).length
      + (s.tenant n).counterImage.length
    let area := fld v.toNat 63 32 * 1024
    fld v.toNat 3 2 = 0 →
      (area < size → ∃ u, exec (.save n v) s = .next u ∧ SameRun s u ∧ u.tasks = s.tasks ∧ u.loops = s.loops ∧ (u.tenant n).phase = (s.tenant n).phase
        ∧ fld (u.tenant n).pre.toNat 15 8 = 2 ∧ bit (u.tenant n).pre.toNat 0 = false)
      ∧ (size ≤ area → (s.tenant n).flr = false → s.tenantLoops n = [] → s.distinct →
          ∃ u, exec (.save n v) s = .next u ∧ u.mem = s.mem ∧ u.blocks = s.blocks ∧ (u.tenant n).phase = .saving ∧ bit (u.tenant n).pre.toNat 0 = true
            ∧ (∀ r w t, s.wave? r.wave = some w → s.thread? r = some t → s.tenantOfWave w = n → u.thread? r = some (t.stopHere w.parked))
            ∧ ∀ r w t, s.wave? r.wave = some w → s.thread? r = some t → s.tenantOfWave w ≠ n → u.thread? r = some t))
  ∧ (∀ (s s2 : State) (b b1 : Block) (t : Task),
      let n := t.tenant
      let s1 := s.saveMats b.id
      s.block? b.id = some b → s.taskOf b = some t → (s.tenant n).phase = .saving → t.aborting = false → s.preemptable b t = true →
      b.restarting = 0 → s1.block? b.id = some b1 → b1.scratchBad = [] → s1.faults = [] → s1.drained b.id = true →
      (∀ w ∈ s1.waves, w.block = b.id → ∀ x ∈ w.threads, x.unpark = x) → n < s2.tenants.length →
      s1.imageWrite n (s1.tenant n).savePos (b1.image t.addr (s1.blockWaves b.id)) = (true, s2) →
      ∃ u, exec (.saveBlockStop b.id) s = .next u ∧ u.mem = s2.mem ∧ u.block? b.id = none ∧ u.blockWaves b.id = []
        ∧ (∀ x, x.id ≠ b.id → (x ∈ u.blocks ↔ x ∈ s2.blocks)) ∧ (u.tenant n).savePos = (s2.tenant n).savePos + recBytes b1 (s1.blockWaves b.id)
        ∧ (u.tenant n).saveCnt = (s2.tenant n).saveCnt + 1
        ∧ ∀ t2, s2.task? t.id = some t2 → u.task? t.id = some { t2 with saved := t2.saved + 1 })
  ∧ (∀ (s s1 sr s2 : State) (n : Nat) (bs : List Byte), (s.tenant n).phase = .saving → s.tenantLoops n = [] → s.tenantBlocks n = [] →
      (∀ o ∈ s.mats, o.by_.tenant ≠ n) → (∀ c ∈ s.copies, c.by_.tenant ≠ n) → (∀ c ∈ s.nms, c.by_.tenant ≠ n) →
      (∀ t ∈ s.tenantTasks n, s.mustEnd t = false) → n < s2.tenants.length →
      let t := s.tenant n
      let tidOff := t.savePos + (s.poolImage n).length
      let cntOff := tidOff + (s.tidImage n).length
      let size := cntOff + t.counterImage.length
      s.imageWrite n t.savePos (s.poolImage n ++ s.tidImage n ++ t.counterImage) = (true, s1) →
      imageRead n 128 (size - 128) s1 = .ok (some bs) sr →
      sr.imageWrite n 0 (natBytes 128 (0x43584D49 + 0x0200 * 2 ^ 32 + n * 2 ^ 48 + sr.clockOf n * 2 ^ 448 + (sr.tenantTasks n).length * 2 ^ 512
        + t.saveCnt * 2 ^ 544 + size * 2 ^ 576 + 128 * 2 ^ 640 + cntOff * 2 ^ 704 + tidOff * 2 ^ 768 + t.savePos * 2 ^ 832
        + fingerprint bs * 2 ^ 896)) = (true, s2) →
      ∃ u, exec (.saveComplete n) s = .next u ∧ u.mem = s2.mem ∧ u.waves = s2.waves ∧ u.tasks = (s2.tasks.filter fun t => t.tenant != n)
        ∧ (u.tenant n).phase = .idle ∧ fld (u.tenant n).pre.toNat 15 8 = 1 ∧ bit (u.tenant n).pre.toNat 0 = false ∧ (u.tenant n).root = (s2.tenant n).root)
  ∧ ∀ (s : State) (n : Nat) (v : Dword), n < s.tenants.length → (s.tenant n).phase = .idle → bit (s.tenant n).pre.toNat 0 = false →
      (s.tenant n).flr = false → bit v.toNat 0 = true → fld v.toNat 3 2 = 1 →
      let s0 := s.preFields n v
      let refuses := fun (z : State) (code : Nat) => ∃ u, exec (.restore n v) s = .next u ∧ SameRun z u ∧ u.tasks = s.tasks ∧ u.loops = s.loops
        ∧ fld (u.tenant n).pre.toNat 15 8 = code ∧ bit (u.tenant n).pre.toNat 0 = false
      (s.tenantTasks n ≠ [] → refuses s 6)
      ∧ (s.tenantTasks n = [] → s.tenantBlocks n = [] → ∀ h s1, imageRead n 0 128 s0 = .ok (some h) s1 → s1.tasks = s.tasks → s1.loops = s.loops →
          n < s1.tenants.length → fld (leNat h) 31 0 ≠ 0x43584D49 → refuses s1 4)
      ∧ ((s.tenant n).en = false → ∀ p s1, checkImage n s0 ≠ .ok (.ok p) s1)
      ∧ (∀ p s1 s2, checkImage n s0 = .ok (.ok p) s1 → s1.reinstate n p = some s2 → p.f 575 544 = 0 → n < s2.tenants.length →
          ∃ u, exec (.restore n v) s = .next u ∧ SameRun s1 u ∧ u.tasks = s2.tasks ∧ u.loops = s2.loops ∧ (u.tenant n).phase = .idle
            ∧ fld (u.tenant n).pre.toNat 15 8 = 1 ∧ bit (u.tenant n).pre.toNat 0 = false
            ∧ (∀ i < 80, (u.tenant n).perfSels.getD i 0 = bytesAt (p.bytes.drop (p.f 767 704)) (2 * i) 2)
            ∧ u.clockOf n = max s2.clock (p.f 511 448) % 2 ^ 64)

/-! ## The register space and the driver's events -/

/-- REGISTER_WRITE (22 R416), HTASK_TAKE, HDONE, EVQ_CONFIG_WRITE, EVQ_HEAD_WRITE (R420), PERFSEL_LOAD (18 R400), DIRTY_LOG_ENABLE (22 R427; log
entry 34: the directory keeps no tenant, so the lines of every tenant are recalled). -/
def Obligations.RegisterEvents : Prop :=
  let plain : List (Nat × Nat × (Tenant → Dword)) :=
    [(0x20, 2 ^ 60 - 2 ^ 16, (·.priv)), (0x28, 2 ^ 32 - 2 ^ 16 + (2 ^ 13 - 1), (·.privsz)), (0x30, 2 ^ 56 - 2 ^ 19 + 1, (·.tid)),
     (0x38, 2 ^ 60 - 2 ^ 7 + 1, (·.ddw)), (0x40, 2 ^ 60 - 2 ^ 12 + (2 ^ 8 - 2 ^ 4) + 1, (·.fq)), (0x48, 2 ^ 16 - 1, (·.fqhead)),
     (0x50, 2 ^ 60 - 2 ^ 2 + 1, (·.trap)), (0x58, 2 ^ 60 - 2 ^ 7, (·.save)), (0x68, 2 ^ 60 - 1, (·.vis)), (0x70, 2 ^ 32 - 1, (·.vishead))]
  (∀ (s : State) (pa : Nat) (v : Dword), (pa % 8 ≠ 0 ∨ pa / 2 ^ 54 ≠ 3 ∨ ∃ n < 64, pa = tenantReg n 0xA8 ∨ ∃ i, i < 3896 ∧ pa = tenantReg n (0xC8 + i)) →
    exec (.registerWrite pa v) s = .next s)
  ∧ (∀ (s : State) (n : Nat) (v : Dword), n < 64 → s.tenants.length = 64 →
      (∀ p ∈ plain, ∃ u, exec (.registerWrite (tenantReg n p.1) v) s = .next u ∧ SameRun s u ∧ u.tasks = s.tasks ∧ u.tlb = s.tlb
        ∧ (∀ i < 64, bit (p.2.2 (u.tenant n)).toNat i = if bit p.2.1 i then bit v.toNat i else bit (p.2.2 (s.tenant n)).toNat i)
        ∧ (∀ q ∈ plain, q.1 ≠ p.1 → q.2.2 (u.tenant n) = q.2.2 (s.tenant n)) ∧ (u.tenant n).root = (s.tenant n).root
        ∧ (u.tenant n).ctl = (s.tenant n).ctl ∧ ∀ k, k ≠ n → u.tenant k = s.tenant k)
      ∧ (∃ u, exec (.registerWrite (tenantReg n 0x18) v) s = .next u ∧ SameRun s u ∧ fld (u.tenant n).root.toNat 55 15 = fld v.toNat 55 15
        ∧ bit (u.tenant n).root.toNat 0 = bit v.toNat 0
        ∧ fld (u.tenant n).root.toNat 12 4 = if (s.tenant n).en then fld (s.tenant n).root.toNat 12 4 else fld v.toNat 12 4)
      ∧ (bit v.toNat 0 = true → exec (.registerWrite (tenantReg n 0) v) s = exec (.contextCreate n v) s)
      ∧ (bit v.toNat 2 = true → exec (.registerWrite (tenantReg n 0) v) s = exec (.flr n v) s)
      ∧ (bit v.toNat 0 = true → fld v.toNat 3 2 = 0 → exec (.registerWrite (tenantReg n 0x60) v) s = exec (.save n v) s)
      ∧ (bit v.toNat 0 = true → fld v.toNat 3 2 = 1 → (s.tenant n).phase ≠ .restoring → exec (.registerWrite (tenantReg n 0x60) v) s = exec (.restore n v) s)
      ∧ exec (.registerWrite (tenantReg n 0x98) v) s = exec (.perfselLoad n v) s
      ∧ exec (.registerWrite (tenantReg n 0xA0) v) s = exec (.evqConfigWrite n v) s
      ∧ exec (.registerWrite (tenantReg n 0xB0) v) s = exec (.hdone n v) s
      ∧ (bit v.toNat 0 = true → exec (.registerWrite (tenantReg n 0xB8) v) s = exec (.dirtyLogEnable n v) s)
      ∧ exec (.registerWrite (tenantReg n 0xC0) v) s = exec (.evqHeadWrite n v) s
      ∧ exec (.registerWrite 0x00C0000000000000 v) s = exec (.partitionChange v) s
      ∧ exec (.registerWrite 0x00C0000000000038 v) s = exec (.modAttest v) s
      ∧ exec (.registerWrite 0x00C0000000000040 v) s = exec (.modVaultrd v) s)
  ∧ (∀ (s : State) (h n : Nat) (rd : Fin 32), h < s.harts.length → n < s.tenants.length →
      ((s.hart h).mode = .u → exec (.htaskTake h rd.val n) s =
        .next (s.updHart h fun x => { x with
          exc := some (.accessFault (tenantReg n 0xA8)), wait := none, redo := none, held := none }))
      ∧ ((s.hart h).mode ≠ .u → ∃ u, exec (.htaskTake h rd.val n) s = .next u ∧ u.waves = s.waves ∧ u.mem = s.mem ∧ u.tasks = s.tasks
          ∧ (∀ a q, (s.tenant n).hostQ = a :: q → u.hart h = (s.hart h).write rd a ∧ (u.tenant n).hostQ = q
              ∧ (u.tenant n).taken = (s.tenant n).taken ++ [a])
          ∧ ((s.tenant n).hostQ = [] → u.hart h = (s.hart h).write rd 0 ∧ u.tenant n = s.tenant n)))
  ∧ (∀ (s : State) (n : Nat) (v : Dword), n < s.tenants.length →
      let a := fld v.toNat 63 7 * 128
      (a ∉ (s.tenant n).taken → exec (.hdone n v) s = .next s)
      ∧ (∀ t, a ∈ (s.tenant n).taken → s.liveTask? n a = some t → s.task? t.id = some t → t.ending = none →
          ∃ u, exec (.hdone n v) s = .next u ∧ SameRun s u ∧ a ∉ (u.tenant n).taken
            ∧ u.task? t.id = some { t with ending := some ⟨if fld v.toNat 2 0 = 1 then 1 else 3, 0, 0, 0⟩, phase := .ending, gang := none }))
  ∧ (∀ (s : State) (n : Nat) (v : Dword), n < s.tenants.length →
      let q := (s.tenant n).evq.toNat
      let head := fld (s.tenant n).evqhead.toNat 31 0
      let tail := fld (s.tenant n).evqhead.toNat 63 32
      (∃ u, exec (.evqConfigWrite n v) s = .next u ∧ SameRun s u ∧ fld (u.tenant n).evq.toNat 59 8 = fld v.toNat 59 8
        ∧ bit (u.tenant n).evq.toNat 0 = bit v.toNat 0 ∧ fld (u.tenant n).evqhead.toNat 63 32 = tail
        ∧ fld (u.tenant n).evqhead.toNat 31 0 = if bit v.toNat 0 = false ∨ fld v.toNat 59 8 ≠ fld q 59 8 then tail else head)
      ∧ ∃ u, exec (.evqHeadWrite n v) s = .next u ∧ SameRun s u ∧ (u.tenant n).evq = (s.tenant n).evq ∧ fld (u.tenant n).evqhead.toNat 63 32 = tail
        ∧ fld (u.tenant n).evqhead.toNat 31 0
            = if (tail + 2 ^ 32 - fld v.toNat 31 0) % 2 ^ 32 ≤ 2 ^ (fld q 11 8 + 6) then fld v.toNat 31 0 else head)
  ∧ (∀ (s s2 : State) (n : Nat) (v : Dword) (bs : List Byte), n < s2.tenants.length →
      let s1 := s.updTenant n fun t => { t with perfsel := (t.perfsel &&& 0xF00000000000003F#64) ||| (v &&& 0x0FFFFFFFFFFFFFC0#64) }
      areaRead n 4 (fld v.toNat 59 6 * 64) 160 s1 = .ok (some bs) s2 →
      ∃ u, exec (.perfselLoad n v) s = .next u ∧ SameRun s2 u ∧ (u.tenant n).perfsel = (s2.tenant n).perfsel
        ∧ (u.tenant n).perfCore = (s2.tenant n).perfCore ∧ ∀ i < 80, (u.tenant n).perfSels.getD i 0 = bytesAt bs (2 * i) 2)
  ∧ ∀ (s : State) (n : Nat) (v : Dword), n < s.tenants.length → bit v.toNat 0 = true →
      ∃ u, exec (.dirtyLogEnable n v) s = .next u ∧ SameRun s u ∧ fld (u.tenant n).dirty.toNat 63 21 = fld v.toNat 63 21
        ∧ bit (u.tenant n).dirty.toNat 0 = true
        ∧ (bit (s.tenant n).dirty.toNat 0 = true → u.dir = s.dir)
        ∧ (bit (s.tenant n).dirty.toNat 0 = false → (∀ e ∈ u.dir, e ∈ s.dir ∧ e.state ≠ .e ∧ e.state ≠ .m)
            ∧ ∀ e ∈ s.dir, (∀ f ∈ s.dir, f.line = e.line → f.state ≠ .e ∧ f.state ≠ .m) → e ∈ u.dir)

/-- PARTITION_CHANGE, PARTITION_CHANGE_COMPLETE (22 R424), VISOR_SAMPLE (18 R397, R398). -/
def Obligations.PartitionsAndSamples : Prop :=
  (∀ (s : State) (v : Dword),
    let req := fld v.toNat 3 2
    let cur := fld s.modPart.toNat 5 4
    let parts := fun (m : Nat) => if m = 0 then 1 else if m = 1 then 2 else 4
    let held := fun (h : Nat) => ∃ q < 4, h ∈ partitionHubs cur q ∧ ∀ p < 4, partitionHubs req p ≠ partitionHubs cur q
    (bit s.modPart.toNat 0 = true → exec (.partitionChange v) s = .next s)
    ∧ (bit s.modPart.toNat 0 = false → bit v.toNat 0 = true → req < 3 →
        ((∃ t ∈ s.tenants, t.en = true ∧ parts req ≤ t.part) → ∃ u, exec (.partitionChange v) s = .next u ∧ SameRun s u
          ∧ fld u.modPart.toNat 63 56 = 3 ∧ bit u.modPart.toNat 0 = false ∧ fld u.modPart.toNat 5 4 = cur)
        ∧ ((∀ t ∈ s.tenants, t.en = true → t.part < parts req) → s.loops = [] → s.distinct → cur < 3 →
            ∃ u, exec (.partitionChange v) s = .next u ∧ u.mem = s.mem ∧ u.blocks = s.blocks
              ∧ fld u.modPart.toNat 63 56 = 2 ∧ bit u.modPart.toNat 0 = true ∧ fld u.modPart.toNat 5 4 = cur ∧ fld u.modPart.toNat 3 2 = req
              ∧ (bit v.toNat 1 = false → u.waves = s.waves ∧ u.tenants = s.tenants)
              ∧ (bit v.toNat 1 = true → ∀ n < 64, n < s.tenants.length → bit (s.tenant n).pre.toNat 0 = false → (s.tenant n).flr = false →
                  (∃ b ∈ s.tenantBlocks n, held (hubOfDie (dieOfCore b.core))) →
                  (u.tenant n).phase = .saving ∨ fld (u.tenant n).pre.toNat 15 8 = 2))))
  ∧ (∀ (s : State), bit s.modPart.toNat 0 = true → fld s.modPart.toNat 63 56 = 2 →
      let idle := (∀ b ∈ s.blocks, s.partHeld (hubOfDie (dieOfCore b.core)) = false) ∧ ∀ t ∈ s.tasks, s.dispatchedIn t = false
      (idle → ∃ u, exec .partitionChangeComplete s = .next u ∧ SameRun s u ∧ u.tasks = s.tasks ∧ u.tenants = s.tenants
        ∧ fld u.modPart.toNat 5 4 = fld s.modPart.toNat 3 2 ∧ fld u.modPart.toNat 63 56 = 1 ∧ bit u.modPart.toNat 0 = false)
      ∧ (¬ idle → exec .partitionChangeComplete s = .next s))
  ∧ (∀ (s : State) (core : Nat), (∀ n < 64, s.sampleDue core n = false) → exec (.visorSample core) s = .next s)
  ∧ ∀ (s s2 : State) (core n i reason : Nat) (w : Wave) (t : Thread) (b : Block), n < 64 → (∀ k < 64, k ≠ n → s.sampleDue core k = false) →
      s.sampleDue core n = true → s.coreWaves core n = [w] → s.wave? w.ref = some w → w.sampled = some (i, t) → w.threads[i]? = some t → s.blockOf w = some b →
      (∀ x ∈ w.threads, ∀ e f g, x.status ≠ .parked e f g) → t.stopped = false → (s.tenant n).flr = false → n < s.tenants.length →
      (∃ x next, t.status = .waiting x next ∧ match x with
        | .barrier _ _ _ => reason = 3
        | .sync _ _ => reason = 4
        | .waitw _ _ _ _ _ _ _ => reason = 5
        | .curq _ _ _ => reason = 5
        | .nap _ => reason = 10
        | .reggrw _ => reason = 10
        | _ => False) →
      let ten := s.tenant n
      let tail := fld ten.vishead.toNat 63 32
      let head := fld ten.vishead.toNat 31 0
      let size := 2 ^ (fld ten.vis.toNat 11 8 + 6)
      let name := s.nameOf (some b.task)
      let sid := b.strandId
      let s1 := (({ s with free := s.free + 1 } : State).updCore core fun c => { c with visorAt := setKey c.visorAt n s.clock }).updTenant n fun t =>
        { t with visSeq := (t.visSeq + 1) % 2 ^ 32 }
      (tail + 2 ^ 32 - head) % 2 ^ 32 ≠ size → n < s2.tenants.length →
      s1.devWrite n (fld ten.vis.toNat 59 12 * 4096 + 64 * (tail % size)) (natBytes 64 (s.clockOf n * 2 ^ 448 + t.pc.toNat * 2 ^ 384
        + name.1 * 2 ^ 288 + name.2 * 2 ^ 256 + b.blockId * 2 ^ 224 + t.ltid * 2 ^ 192 + ten.visSeq * 2 ^ 160 + ten.visLost * 2 ^ 144
        + reason * 2 ^ 124 + 2 ^ 112 + b2n (bit sid 31) * 2 ^ 111 + fld sid 2 0 * 2 ^ 108)) = (true, s2) →
      ∃ u, exec (.visorSample core) s = .next u ∧ u.mem = s2.mem ∧ u.waves = s2.waves ∧ fld (u.tenant n).vishead.toNat 63 32 = (tail + 1) % 2 ^ 32
        ∧ fld (u.tenant n).vishead.toNat 31 0 = fld (s2.tenant n).vishead.toNat 31 0 ∧ (u.tenant n).visLost = 0

/-! ## Crown, the links, errors and limits -/

/-- CTE_UP, CIRCUIT_UP (21 R409), CTE_DOWN, CIRCUIT_DRAINED, WAVELENGTH_FAILURE (R410), FLIT_CRC_ERROR, LINK_DOWN (R407), CHANNEL_* (R412),
POOL_LINK_*, PEER_LINK_* (R414, 23 R439). RESULT in SETUP and DRAIN is the one before (log entry 31). -/
def Obligations.FabricEvents : Prop :=
  let state := fun (r : Dword) => fld r.toNat 63 62
  let result := fun (r : Dword) => fld r.toNat 59 56
  let mask := fun (r : Dword) => fld r.toNat 55 48
  let low := fun (r : Dword) => fld r.toNat 20 0
  let src := fun (r : Dword) => (fld r.toNat 9 6, fld r.toNat 5 0)
  let dst := fun (r : Dword) => (fld r.toNat 19 16, fld r.toNat 15 10)
  let ports := fun (n : Nat) => if n < 8 then 32 else if n < 12 then 48 else if n = 12 then 16 else 0
  (∀ (s : State) (n : Nat), n < s.ctes.length →
    let c := s.cte n
    let gives := fun (i : Instr) (q : Cte → Prop) => ∃ u, exec i s = .next u ∧ SameRun s u ∧ q (u.cte n) ∧ ∀ m, m ≠ n → u.cte m = s.cte m
    (∀ v, fld v.toNat 61 60 = 1 →
      let bad := ports (src v).1 ≤ (src v).2 ∨ ports (dst v).1 ≤ (dst v).2 ∨ (src v).1 = (dst v).1 ∨ mask v = 0
        ∨ ∃ i < 8, bit (mask v) i = true ∧ (bit (Config.disabledWavelengths (src v).1 (src v).2).toNat i = true
          ∨ bit (Config.disabledWavelengths (dst v).1 (dst v).2).toNat i = true)
      let tx := fun (r : Dword) (p : Nat × Nat) => p = src r ∨ bit r.toNat 20 = true ∧ p = dst r
      let rx := fun (r : Dword) (p : Nat × Nat) => p = dst r ∨ bit r.toNat 20 = true ∧ p = src r
      let conflict := ∃ m < s.ctes.length, m ≠ n ∧ state (s.cte m).reg ≠ 0 ∧ (∃ i < 8, bit (mask (s.cte m).reg) i = true ∧ bit (mask v) i = true)
        ∧ ∃ p, tx (s.cte m).reg p ∧ tx v p ∨ rx (s.cte m).reg p ∧ rx v p
      let written := fun (x : Cte) => mask x.reg = mask v ∧ low x.reg = low v
      (state c.reg ≠ 0 → gives (.cteUp n v) fun x => result x.reg = 4 ∧ state x.reg = state c.reg ∧ mask x.reg = mask c.reg ∧ low x.reg = low c.reg)
      ∧ (state c.reg = 0 → bad → gives (.cteUp n v) fun x => result x.reg = 3 ∧ state x.reg = 0 ∧ written x)
      ∧ (state c.reg = 0 → ¬ bad → conflict → gives (.cteUp n v) fun x => result x.reg = 2 ∧ state x.reg = 0 ∧ written x)
      ∧ (state c.reg = 0 → ¬ bad → ¬ conflict → gives (.cteUp n v) fun x => result x.reg = result c.reg ∧ state x.reg = 1 ∧ written x ∧ x.lost = false ∧ x.down = 0))
    ∧ (state c.reg = 1 → gives (.circuitUp n) fun x => result x.reg = 1 ∧ state x.reg = 2 ∧ mask x.reg = mask c.reg ∧ low x.reg = low c.reg ∧ x.down = c.down)
    ∧ (state c.reg ≠ 1 → exec (.circuitUp n) s = .next s)
    ∧ (∀ v, fld v.toNat 61 60 = 2 →
        (state c.reg = 2 → gives (.cteDown n v) fun x => state x.reg = 3 ∧ mask x.reg = mask c.reg ∧ low x.reg = low c.reg ∧ x.lost = c.lost)
        ∧ (state c.reg = 0 → gives (.cteDown n v) fun x => state x.reg = 0 ∧ result x.reg = 1)
        ∧ (state c.reg = 1 ∨ state c.reg = 3 → gives (.cteDown n v) fun x => state x.reg = state c.reg ∧ result x.reg = 4 ∧ low x.reg = low c.reg))
    ∧ (state c.reg = 3 → gives (.circuitDrained n) fun x => state x.reg = 0 ∧ result x.reg = (if c.lost = true then 5 else 1) ∧ x.lost = false)
    ∧ (state c.reg ≠ 3 → exec (.circuitDrained n) s = .next s)
    ∧ (∀ k < 8, state c.reg = 2 →
        ((∃ i < 8, bit (mask c.reg) i = true ∧ bit c.down.toNat i = false ∧ i ≠ k) → gives (.wavelengthFailure n k) fun x => x.reg = c.reg ∧ x.lost = c.lost)
        ∧ ((∀ i < 8, bit (mask c.reg) i = true → bit c.down.toNat i = true ∨ i = k) → gives (.wavelengthFailure n k) fun x => state x.reg = 3 ∧ x.lost = true))
    ∧ (state c.reg = 2 → gives (.linkDown (.circuit n)) fun x => state x.reg = 3 ∧ x.lost = true))
  ∧ (∀ (s : State) (l : Link), s.dies.length = 8 → s.hubs.length = 4 →
      let counts := fun (old new : Nat → Dword) (e : Nat) => ∀ i, i ≠ e → new i = old i
      let ce := fun (r q : Dword) => fld q.toNat 47 16 = min (fld r.toNat 47 16 + 1) (2 ^ 32 - 1) ∧ fld q.toNat 63 48 = fld r.toNat 63 48 ∧ fld q.toNat 15 0 = fld r.toNat 15 0
      let ue := fun (r q : Dword) => fld q.toNat 63 48 = min (fld r.toNat 63 48 + 1) 65535 ∧ fld q.toNat 15 8 = 0 ∧ bit q.toNat 0 = true
      let at_ := fun (u : State) (grow : Dword → Dword → Prop) (e : Nat) =>
        (e < 8 ∧ grow (s.die e).errstat (u.die e).errstat ∧ u.hubs = s.hubs ∧ counts (fun i => (s.die i).errstat) (fun i => (u.die i).errstat) e)
        ∨ (8 ≤ e ∧ e < 12 ∧ grow (s.hub (e - 8)).errstat (u.hub (e - 8)).errstat ∧ u.dies = s.dies
          ∧ counts (fun i => (s.hub i).errstat) (fun i => (u.hub i).errstat) (e - 8))
        ∨ (12 ≤ e ∧ u.hubs = s.hubs ∧ u.dies = s.dies)
      let ends : List Nat := match l with
        | .circuit n => (dst (s.cte n).reg).1 :: if bit (s.cte n).reg.toNat 20 then [(src (s.cte n).reg).1] else []
        | .neighbour d => [d.val, 8 + d.val / 2]
        | .fallback a b => [8 + a.val, 8 + b.val]
        | .cpuLink h => [8 + h.val, 12]
      let counting := match l with | .cpuLink h => [8 + h.val] | _ => ends
      (∃ u, exec (.flitCrcError l) s = .next u ∧ SameRun s u ∧ u.linksDown = s.linksDown ∧ u.ctes = s.ctes
        ∧ (s.carries l = true → ∃ e ∈ ends, at_ u ce e) ∧ (s.carries l = false → u.hubs = s.hubs ∧ u.dies = s.dies))
      ∧ ((∀ n, l ≠ .circuit n) →
          (s.carries l = true → ∃ u, exec (.linkDown l) s = .next u ∧ SameRun s u ∧ u.carries l = false
            ∧ (∀ x, linkName x ≠ linkName l → u.carries x = s.carries x) ∧ u.ctes = s.ctes ∧ ∃ e ∈ counting, at_ u ue e)
          ∧ (s.carries l = false → exec (.linkDown l) s = .next s)))
  ∧ (∀ (s : State) (k ch : Nat), k < s.wstat.length → ch < 40 →
      let r := (s.wstat.getD k 0).toNat
      let changed := fun (u : State) (half : Bool) => ∃ q : Dword, u.wstat[k]? = some q ∧ bit q.toNat ch = half
        ∧ fld q.toNat 63 48 = (if bit r ch = half then fld r 63 48 else min (fld r 63 48 + 1) 65535) ∧ (∀ i < 40, i ≠ ch → bit q.toNat i = bit r i)
        ∧ ∀ j, j ≠ k → u.wstat[j]? = s.wstat[j]?
      (∃ u, exec (.channelHalfWidth k ch false) s = .next u ∧ SameRun s u ∧ changed u true ∧ u.laneFlt = s.laneFlt)
      ∧ (∃ u, exec (.channelHalfWidth k ch true) s = .next u ∧ SameRun s u ∧ changed u true ∧ (k, ch) ∈ u.laneFlt
          ∧ (∀ q, u.wstat[k]? = some q → bit q.toNat 40 = true) ∧ exec (.channelFullWidth k ch) u = .next u)
      ∧ ((k, ch) ∉ s.laneFlt → ∃ u, exec (.channelFullWidth k ch) s = .next u ∧ SameRun s u ∧ changed u false ∧ u.laneFlt = s.laneFlt))
  ∧ ∀ (s : State) (h p k : Nat), h < s.hubs.length → p < (s.hub h).portsUp.length → k < s.peersUp.length →
      let port := fun (i : Instr) (up : Bool) => ∃ u, exec i s = .next u ∧ SameRun s u ∧ u.peersUp = s.peersUp
        ∧ (u.hub h).portsUp[p]? = some up ∧ ∀ h' p', ¬ (h' = h ∧ p' = p) → (u.hub h').portsUp[p']? = (s.hub h').portsUp[p']?
      let peer := fun (i : Instr) (up : Bool) => ∃ u, exec i s = .next u ∧ SameRun s u ∧ u.hubs = s.hubs
        ∧ u.peersUp[k]? = some up ∧ ∀ j, j ≠ k → u.peersUp[j]? = s.peersUp[j]?
      port (.poolLinkDown h p) false ∧ port (.poolLinkUp h p) true ∧ peer (.peerLinkDown k) false ∧ peer (.peerLinkUp k) true

/-- POWER_LIMIT*, TEMPERATURE_LIMIT* (25 R450, R451), CRITICAL_TEMPERATURE (R452), MODULE_RESET (R453), REGISTER_FILE_ERROR (17 R376), ACC_ERROR,
BLOCK_RESTART (R377). -/
def Obligations.ErrorsAndLimits : Prop :=
  (∀ (s : State) (b : PowerBlock) (mhz : Nat),
    let does := fun (i : Instr) (c : CoreClock) => ∃ u, exec i s = .next u ∧ SameRun s u ∧ u.limits b = c ∧ (∀ x, x ≠ b → u.limits x = s.limits x)
      ∧ u.tenants = s.tenants ∧ u.clock = s.clock
    does (.powerLimit b mhz) { s.limits b with power := some mhz } ∧ does (.powerLimitCleared b) { s.limits b with power := none }
      ∧ does (.temperatureLimit b mhz) { s.limits b with thermal := some mhz } ∧ does (.temperatureLimitCleared b) { s.limits b with thermal := none })
  ∧ (∀ (s : State),
      let gone := fun (u : State) => u.tasks = [] ∧ u.waves = [] ∧ u.blocks = [] ∧ u.mem = State.reset.mem ∧ u.modPart = 0
        ∧ (∀ t ∈ u.tenants, t.en = false) ∧ (∀ c ∈ u.ctes, fld c.reg.toNat 63 62 = 0) ∧ (∀ h ∈ u.hubs, h.errstat = 0) ∧ ∀ d ∈ u.dies, d.errstat = 0
      (∀ b, ∃ u, exec (.criticalTemperature b) s = .next u ∧ gone u ∧ u.inReset = true ∧ u.vault = s.vault
        ∧ exec (.pldmSensorRead .resetCause) u = .next { u with sideband := some 2 })
      ∧ (∃ u, exec (.moduleReset none) s = .next u ∧ gone u
        ∧ u.inReset = (match s.firmware with | some image => !Config.firmwareVerifies image | none => false)
        ∧ (u.inReset = true → u.vault = s.vault)
        ∧ (u.inReset = false → u.booted = s.firmware ∧ u.tenants = State.reset.tenants ∧ u.hubs = State.reset.hubs ∧ u.harts = State.reset.harts
          ∧ u.vault.map (·.index) = s.vault.map (·.index)))
      ∧ ∀ n, ∃ u, exec (.moduleReset (some n)) s = .next u ∧ gone u ∧ u.inReset = true ∧ u.vault = s.vault)
  ∧ (∀ (s : State) (w : Wave) (b : Block) (t : Task), s.wave? w.ref = some w → Alone s ⟨w.ref, 0⟩ → s.block? w.block = some b → s.task? b.task = some t →
      (∀ v ∈ s.waves, v.ref ≠ w.ref → v.block = w.block → ∃ x ∈ v.threads, x.status ≠ .exited) → w.ref.core / 32 < s.dies.length → w.ref.core < 256 →
      ∃ u, exec (.registerFileError w.ref) s = .next u ∧ u.mem = s.mem ∧ u.wave? w.ref = none
        ∧ (∀ v, v.ref ≠ w.ref → (v ∈ u.waves ↔ v ∈ s.waves))
        ∧ u.task? b.task = some { t with ending := some (t.ending.getD ⟨3, cCONTEXT_ERROR, 0, 0⟩), phase := .ending, aborting := true }
        ∧ fld (u.die (w.ref.core / 32)).errstat.toNat 63 48 = min (fld (s.die (w.ref.core / 32)).errstat.toNat 63 48 + 1) 65535
        ∧ fld (u.die (w.ref.core / 32)).errstat.toNat 15 8 = 1)
  ∧ (∀ (s : State) (b : Block), s.block? b.id = some b → b.strand = none → b.core / 32 < s.dies.length → b.core < 256 →
      ∃ u b', exec (.accError b.id) s = .next u ∧ (∀ o ∈ u.mats, o.by_.block ≠ some b.id) ∧ u.block? b.id = some b' ∧ b'.restarting = cACC_ERROR
        ∧ (∀ r ∈ b'.accRows, r = ⟨0, List.replicate 256 0⟩)
        ∧ fld (u.die (b.core / 32)).errstat.toNat 63 48 = min (fld (s.die (b.core / 32)).errstat.toNat 63 48 + 1) 65535
        ∧ fld (u.die (b.core / 32)).errstat.toNat 15 8 = 5)
  ∧ ∀ (s : State) (b : Block) (t : Task), s.block? b.id = some b → b.restarting ≠ 0 → s.task? b.task = some t →
      let flying := (∃ c ∈ s.copies, c.by_.block = some b.id) ∨ (∃ c ∈ s.nms, c.by_.block = some b.id) ∨ ∃ o ∈ s.mats, o.by_.block = some b.id
      ((b.rstpc = 1 ∨ 15 ≤ b.restarts) → exec (.blockRestart b.id) s = .next (s.updTask b.task fun t =>
        { t with ending := some (t.ending.getD ⟨3, b.restarting, 0, 0⟩), phase := .ending, aborting := true }))
      ∧ (b.rstpc ≠ 1 → b.restarts < 15 → flying → exec (.blockRestart b.id) s = .next s)
      ∧ (b.rstpc ≠ 1 → b.restarts < 15 → ¬ flying → s.distinct →
          ∃ u, exec (.blockRestart b.id) s = .next u ∧ u.mem = s.mem
            ∧ u.block? b.id = some { b with barriers := b.barriers.map fun _ => ⟨0, 0, b.threads, false⟩, restarts := b.restarts + 1, restarting := 0 }
            ∧ ∀ r w x, s.wave? r.wave = some w → s.thread? r = some x →
                (w.block ≠ b.id → u.thread? r = some x)
                ∧ (w.block = b.id → x.status = .exited → u.thread? r = some x)
                ∧ (w.block = b.id → x.status ≠ .exited → u.thread? r = some
                    { x with
                      status := .run, pc := BitVec.ofNat 60 b.rstpc, trapinfo := 0, turns := 0, retry := false
                      again := false, inst := none, redo := none, watch := none }))

/-! ## Attestation, the vault, the sideband port and the pool among modules -/

/-- MOD_ATTEST (22 R430), MOD_VAULTRD, VAULT_SHARD_RELAY (R432), PLDM_* (25 R454, 22 R431; the coding of the port's replies is the model's, log
entry 32, and so is the shard map's place in a header, log entry 87). -/
def Obligations.BootEvents : Prop :=
  let plainRam := fun (s : State) (pa n : Nat) => MemoryInv s ∧ s.moves = [] ∧ s.forwards = [] ∧ s.latent = [] ∧ s.tenants.length = 64
    ∧ ∀ i < n, paLegal (pa + i) = true ∧ spaceOf (pa + i) ≠ 2
  (∀ (s : State) (v : Dword),
    let pa := fld v.toNat 55 6 * 64
    (bit v.toNat 0 = false → ∃ u, exec (.modAttest v) s = .next u ∧ SameRun s u ∧ u.attest = BitVec.ofNat 64 pa)
    ∧ (bit v.toNat 0 = true → plainRam s pa 1312 → s.poisoned pa 64 = false →
        ∃ u sig, exec (.modAttest v) s = .next u ∧ u.waves = s.waves ∧ u.tasks = s.tasks ∧ sig.length = 512 ∧ u.attest = BitVec.ofNat 64 pa
          ∧ BytesPut s.mem u.mem pa (s.mem.readBytes pa 64
              ++ (match s.booted with | some image => sha512 image | none => natBytes 64 Config.firmwareDigest.toNat)
              ++ natBytes 64 Config.configDigest.toNat
              ++ sha512 ((List.range 64).flatMap fun i => (s.vault.filter fun v => v.index == i && !v.absent).flatMap (·.header))
              ++ natBytes 16 Config.serialNumber.toNat ++ natBytes 4 0xB0 ++ natBytes 12 0 ++ natBytes 512 Config.identityModulus.toNat ++ sig)))
  ∧ (∀ (s : State) (v : Dword), bit v.toNat 0 = true →
      let dest := fld v.toNat 55 12 * 4096
      let img := s.vault.find? fun x => x.index == fld v.toNat 11 6 && !x.absent
      let ends := fun (code : Nat) (q : State → Prop) => ∃ u, exec (.modVaultrd v) s = .next u ∧ u.waves = s.waves ∧ u.tasks = s.tasks
        ∧ u.vault = s.vault ∧ fld u.vaultrd.toNat 63 56 = code ∧ bit u.vaultrd.toNat 0 = false ∧ q u
      (img = none → ends 2 fun u => u.mem = s.mem)
      ∧ ∀ x, img = some x →
          let e := leNat ((x.header.drop (32 * moduleOrd)).take 32)
          let bs := (x.bytes.drop (fld e 31 0 * 4096)).take (fld e 63 32)
          (bit (fld e 255 192) moduleOrd = false → (∀ k < 8, k ≠ moduleOrd → bit (fld e 255 192) k = true → s.peersUp.getD k false = false) →
            ends 4 fun u => u.mem = s.mem)
          ∧ (bit (fld e 255 192) moduleOrd = true → plainRam s dest bs.length →
              ends (if fingerprint bs = fld e 191 64 then 1 else 3) fun u => BytesPut s.mem u.mem dest bs))
  ∧ (∀ (s : State) (peer n : Nat) (x : VaultImage), (s.vault.find? fun x => x.index == n && !x.absent) = some x →
      (∀ l, ErrPlace.vault x.index l ∉ s.latent) →
      let e := leNat ((x.header.drop (32 * peer)).take 32)
      let serves := peer ≠ moduleOrd ∧ bit (fld e 255 192) moduleOrd = true ∧ bit (fld e 255 192) peer = false ∧ s.peersUp.getD peer false = true
      (serves → exec (.vaultShardRelay peer n) s =
        .next { s with relays := (peer, n, (x.bytes.drop (fld e 31 0 * 4096)).take (fld e 63 32)) :: s.relays })
      ∧ (¬ serves → exec (.vaultShardRelay peer n) s = .next s))
  ∧ ∀ (s : State),
      let answers := fun (i : Instr) (x : Nat) => exec i s = .next { s with sideband := some (BitVec.ofNat 64 x) }
      answers .pldmDiscovery (2 ^ 0 + 2 ^ 2 + 2 ^ 5)
      ∧ answers (.pldmSensorRead .resetCause) s.resetWhy
      ∧ (∀ d, answers (.pldmSensorRead (.errstatDie d)) (s.die d.val).errstat.toNat)
      ∧ (∀ h, answers (.pldmSensorRead (.errstatHub h)) (s.hub h.val).errstat.toNat)
      ∧ (∀ b, let k := s.limits b
          answers (.pldmSensorRead (.clk b)) (min (k.thermal.getD Config.fullClock) (min (k.power.getD Config.fullClock) Config.fullClock)
            + (if k.thermal.isSome then 2 ^ 16 else 0) + if k.power.isSome then 2 ^ 17 else 0))
      ∧ (∀ b, ∃ x u, exec (.pldmSensorRead (.power b)) s = .next u ∧ u.sideband = some x ∧ SameRun s u ∧ u.tenants = s.tenants)
      ∧ (∀ b, ∃ x u, exec (.pldmSensorRead (.temperature b)) s = .next u ∧ u.sideband = some x ∧ SameRun s u ∧ u.tenants = s.tenants)
      ∧ ∀ image, (Config.installMode = true → exec (.pldmFirmwareUpdate image) s = .next { s with firmware := some image })
        ∧ (Config.installMode = false → exec (.pldmFirmwareUpdate image) s = .next s)

/-- POOL_ACQUIRE, POOL_SHARE (23 R441), HANDOVER_REQUEST, HANDOVER_COMPLETE (R438, R439). NOT_OWNER for a SHARE during a handover is the
model's choice (log entry 92). -/
def Obligations.PoolEvents : Prop :=
  let bad := fun (e : Nat) => fld e 31 19 ≠ 0 ∨ fld e 15 11 ≠ 0 ∨ fld e 7 2 ≠ 0 ∨ fld e 1 0 = 3
  let entryPa := fun (s : State) (f : Nat) => 2 * 2 ^ 54 + fld s.poolOwt.toNat 47 12 * 4096 + 8 * fld (f * 4096) 47 12
  let up := fun (s : State) (k : Nat) => k = moduleOrd ∨ s.peersUp.getD k false = true
  let begins := fun (s u : State) (f x : Nat) => u.waves = s.waves
    ∧ BytesPut s.mem u.mem (entryPa s f) (natBytes 8 (setFld (setFld (s.peek (entryPa s f) 8) 1 0 1) 18 16 x))
    ∧ (∃ h, u.handovers = s.handovers ++ [h] ∧ h.frame = f ∧ h.requester = x ∧ h.seq = fld (s.peek (entryPa s f) 8) 63 32)
    ∧ (∀ i < 64, u.dirEntry? (f * 64 + i) = none) ∧ ∀ l, l / 64 ≠ f → u.dirEntry? l = s.dirEntry? l
  (∀ (s : State) (v : Dword), bit s.poolOwt.toNat 0 = true → bit v.toNat 0 = true → MemoryInv s →
    let f := 2 * 2 ^ 42 + fld v.toNat 47 12
    let e := s.peek (entryPa s f) 8
    let ends := fun (i : Instr) (code : Nat) => ∃ u, exec i s = .next u ∧ SameRun s u ∧ u.handovers = s.handovers ∧ u.dir = s.dir
      ∧ fld u.poolCmd.toNat 63 56 = code ∧ bit u.poolCmd.toNat 0 = false ∧ (code = 2 → fld u.poolCmd.toNat 50 48 = (s.pin f).cls)
    let starts := fun (i : Instr) => ∃ u, exec i s = .next u ∧ begins s u f moduleOrd ∧ bit u.poolCmd.toNat 0 = true ∧ fld u.poolCmd.toNat 47 12 = fld v.toNat 47 12
    (bit s.poolCmd.toNat 0 = true → exec (.poolAcquire v) s = .next s ∧ exec (.poolShare v) s = .next s)
    ∧ (bit s.poolCmd.toNat 0 = false → fld v.toNat 3 2 = 0 →
        (bad e → ends (.poolAcquire v) 4)
        ∧ (¬ bad e → ¬ up s (fld e 10 8) → ends (.poolAcquire v) 5)
        ∧ (¬ bad e → fld e 10 8 = moduleOrd → fld e 1 0 = 0 → ends (.poolAcquire v) 1)
        ∧ (¬ bad e → fld e 10 8 = moduleOrd → fld e 1 0 = 2 → (s.pin f).cls ≠ 0 → ends (.poolAcquire v) 2)
        ∧ (¬ bad e → fld e 10 8 = moduleOrd → fld e 1 0 = 2 → (s.pin f).cls = 0 → starts (.poolAcquire v))
        ∧ (¬ bad e → fld e 10 8 ≠ moduleOrd → up s (fld e 10 8) → fld e 1 0 ≠ 1 →
            starts (.poolAcquire v) ∨ ∃ u, exec (.poolAcquire v) s = .next u ∧ SameRun s u ∧ fld u.poolCmd.toNat 63 56 = 2 ∧ bit u.poolCmd.toNat 0 = false))
    ∧ (bit s.poolCmd.toNat 0 = false → fld v.toNat 3 2 = 1 →
        (bad e → ends (.poolShare v) 4)
        ∧ (¬ bad e → (fld e 10 8 ≠ moduleOrd ∨ fld e 1 0 = 1) → ends (.poolShare v) 3)
        ∧ (¬ bad e → fld e 10 8 = moduleOrd → fld e 1 0 ≠ 1 →
            ∃ u, exec (.poolShare v) s = .next u ∧ u.waves = s.waves ∧ u.handovers = s.handovers
              ∧ BytesPut s.mem u.mem (entryPa s f) (natBytes 8 (setFld e 1 0 2))
              ∧ fld u.poolCmd.toNat 63 56 = 1 ∧ bit u.poolCmd.toNat 0 = false
              ∧ (∀ i < 64, ∀ d, u.dirEntry? (f * 64 + i) = some d → d.state = .s)
              ∧ ∀ l d, s.dirEntry? l = some d → (d.state = .s ∨ l / 64 ≠ f) → u.dirEntry? l = some d)))
  ∧ (∀ (s : State) (f x : Nat), bit s.poolOwt.toNat 0 = true → MemoryInv s → fld (f * 4096) 55 54 = 2 → x < 8 →
      let e := s.peek (entryPa s f) 8
      ¬ bad e → fld e 10 8 = moduleOrd → up s x → fld e 1 0 ≠ 1 → ¬ (fld e 1 0 = 0 ∧ x = moduleOrd) →
      ((s.pin f).cls ≠ 0 → exec (.handoverRequest f x) s = .next s)
      ∧ ((s.pin f).cls = 0 → ∃ u, exec (.handoverRequest f x) s = .next u ∧ begins s u f x ∧ u.poolCmd = s.poolCmd))
  ∧ ∀ (s : State) (h : Handover), (s.handovers.find? fun x => x.frame == h.frame) = some h → MemoryInv s → h.requester < 8 → bit s.poolOwt.toNat 0 = true →
      let new := natBytes 8 ((h.seq + 1) % 2 ^ 32 * 2 ^ 32 + h.requester * 2 ^ 8)
      let does := fun (q : State → Prop) => ∃ u, exec (.handoverComplete h.frame) s = .next u ∧ u.waves = s.waves ∧ u.dir = s.dir
        ∧ BytesPut s.mem u.mem (entryPa s h.frame) new ∧ u.handovers = (s.handovers.filter fun x => x.frame != h.frame) ∧ q u
      (h.requester ≠ moduleOrd → bit s.poolCmd.toNat 0 = false → does fun u => u.poolCmd = s.poolCmd)
      ∧ (h.requester = moduleOrd → (s.poke (entryPa s h.frame) new).frame? h.frame = none → bit s.poolCmd.toNat 0 = true → fld s.poolCmd.toNat 3 2 = 0 →
          h.frame = 2 * 2 ^ 42 + fld s.poolCmd.toNat 47 12 → does fun u => fld u.poolCmd.toNat 63 56 = 1 ∧ bit u.poolCmd.toNat 0 = false)

/-! ## The machine -/

/-- 25 R453, 22 R421, R424, 21 R408, 01 R26. The last clause is the model's choice (log entry 5). -/
def Obligations.ResetState : Prop :=
  let s := State.reset
  s.wf = true ∧ MemoryInv s ∧ s.clock = 0 ∧ s.inReset = false ∧ s.tasks = [] ∧ s.waves = [] ∧ s.blocks = [] ∧ s.loops = [] ∧ s.faults = [] ∧ s.tlb = []
    ∧ s.moves = [] ∧ s.forwards = [] ∧ s.dir = [] ∧ s.l1 = [] ∧ s.locks = [] ∧ s.latent = [] ∧ s.checks = [] ∧ s.mats = [] ∧ s.copies = [] ∧ s.nms = []
    ∧ s.modPart = 0 ∧ s.poolCmd = 0 ∧ bit s.poolOwt.toNat 0 = false
    ∧ (∀ t ∈ s.tenants, t.en = false ∧ [t.ctl, t.vera, t.verb, t.root, t.priv, t.privsz, t.tid, t.ddw, t.fq, t.fqhead, t.trap, t.save, t.pre, t.vis,
        t.vishead, t.perfsel, t.evq, t.evqhead, t.hdone, t.dirty] = List.replicate 20 0 ∧ t.watch = [0, 0, 0, 0] ∧ t.tensors = [])
    ∧ (∀ c ∈ s.ctes, c.reg = 0) ∧ (∀ d ∈ s.dies, d.errstat = 0)
    ∧ (∀ h ∈ s.hubs, h.errstat = 0 ∧ h.fst = List.replicate 10 0 ∧ h.migctl = 0 ∧ h.rings = 0 ∧ h.pins = [] ∧ h.frames = [])
    ∧ (∀ w ∈ s.wstat, w = 0) ∧ (∀ e ∈ s.engines, e.run = [] ∧ e.loading = none)
    ∧ s.capver = (List.range 6).map (fun i => BitVec.ofNat 64 (Config.versionHigh.getD i 0 * 2 ^ 16 + Config.versionLow.getD i 0))
    ∧ ∀ h ∈ s.harts, h.mode = .m ∧ h.exc = none ∧ h.held = none ∧ h.resv = none ∧ ∀ r ∈ h.x, r = 0

/-- 03 R65-R70, R76; 22 R418. -/
def Obligations.DecodeWords : Prop :=
  let v := fun (n : Fin 256) => Operand.v n
  let x := fun (d a b c : Operand) (mod : BitVec 12) =>
    (⟨⟨false, 7⟩, .l64, mod, d, a, b, c, .unused, .unused, .unused, .unused, 0, 0⟩ : Dev)
  decodeTableWord 64 0x000018080205732C = some (.fdota (x (v 5) (v 1) (v 2) (v 3) 0))
  ∧ decodeTableWord 64 0x0F80180802077154 = some (.lop3 (x (v 7) (v 1) (v 2) (v 3) 0xF8))
  ∧ decodeTableWord 96 (0x40 * 2 ^ 64 + 0x4400052200027501) = some (.ld ({ (x (v 2) (.s 0) (.k .zero) .unused 0x440) with len := .l96, imm := 0x40 } : Dev))
  ∧ decodeTableWord 64 0x005000000000760C = some (.barw (x .unused .unused .unused .unused 5))
  ∧ decodeTableWord 64 0x0000000000007A08 = some (.tret (x .unused .unused .unused .unused 0))
  ∧ decodeTableWord 32 (0b0000000 * 2 ^ 25 + 6 * 2 ^ 20 + 5 * 2 ^ 15 + 1 * 2 ^ 12 + 10 * 2 ^ 7 + 0b0001011) = some (.hwait ⟨10, 5, 6, 0⟩)
  ∧ decodeTableWord 64 (0x000018080205732C + 4 * 0x3FF - 4 * 0xCB) = none
  ∧ decodeTableWord 64 (0x0000000000007A08 + 2 ^ 16) = none
  ∧ decode 8 (natBytes 16 (0x40 * 2 ^ 64 + 0x4400052200027501)) = .error .illegalOp

/-- 03 R65-R70, R76, R77; 22 R418: no bit of an encoding is dropped. -/
def Obligations.EncodeDecode : Prop :=
  ∀ (i : Instr) (bits : BitVec 128) (n room : Nat) (rest : List Byte), i.wf = true → encode i = some (bits, n) →
    (n ≠ 4 → n ≤ room → decode room (natBytes n bits.toNat ++ rest) = .ok (i, n)) ∧ (n = 4 → decodeHost (bits.setWidth 32) = .ext i)

/-- Addresses strictly rising and nothing listed that an unlisted address reads as (00 R3; the form is the model's). -/
def Obligations.StepKeepsMemory : Prop :=
  ∀ s t, MemoryInv s → step s = .next t → MemoryInv t

/-- 01 R20, R21, 03 R66, R73, 18 R387, 22 R415. What happens when is free (00 R6), and so is how long something may be passed over (06 R161;
log entry 13). -/
def Obligations.StepRunsDecoded : Prop :=
  (∀ (s : State) (p : Input) (rest : List Input), (s.inReset = true ∨ s.overdueMoves = []) → s.agenda = p :: rest → p.due ≤ s.clock →
    s.waits p.act = false → s.nextAct = (some p.act, { s with agenda := rest }))
  ∧ (∀ (s : State), (∀ p rest, s.agenda = p :: rest → s.clock < p.due) →
      (∀ a, s.enabled = [a] → s.nextAct = (some a, { s with ages := [] }))
      ∧ (s.enabled = [] → step s = .next (({ s with ages := [] } : State).pass true))
      ∧ (2 ≤ s.enabled.length → (∃ a ∈ s.enabled, s.nextAct.1 = some a)
          ∧ ((∃ a ∈ s.enabled, Config.patience < s.age a) → ∃ a ∈ s.enabled, s.nextAct.1 = some a ∧ ∀ b ∈ s.enabled, s.age b ≤ s.age a)))
  ∧ (∀ (s : State), s.inReset = false → s.overdueMoves ≠ [] → ∃ m ∈ s.overdueMoves, s.nextAct.1 = some (.event (.cuffAbandon m.id)))
  ∧ (∀ (s s0 s1 : State) (core quad : Nat) (w : Wave) (c : Cohort) (bytes : List Byte), s.nextAct = (some (.issue core quad), s0) → s0.inReset = false →
      s0.turnOf core quad = some (w, c) → fetchBytes ⟨c.wave, c.lanes.headD 0⟩ c.pc.toNat s0 = .ok bytes s1 →
      let room := 32 - c.pc.toNat % 32
      (∀ i n, decode room bytes = .ok (i, n) → allotFault w.allot i = none →
        ((s0.overrun c w = false ∨ passesSafept i w c = true) →
          step s = afterExec (exec i { s1.takeTurn w c (c.counted w) with cur := some c }))
        ∧ (s0.overrun c w = true → passesSafept i w c = false →
            step s = afterExec (exec (.safeptOverrun w.ref) { s1.takeTurn w c false with cur := some c })))
      ∧ ∀ f, decode room bytes = .error f →
          step s = .next (((s1.takeTurn w c (c.counted w)).allLanes c (.fault (decodeFInfo f room bytes))).pass false))
  ∧ (∀ (s s0 s1 : State) (n x : Nat) (i : Instr), s.nextAct = (some (.hart n), s0) → s0.inReset = false → n < 64 → (s0.hart n).exc = none →
      (∀ op va, (s0.hart n).held ≠ some (.access op va)) →
      ((s0.hart n).mode = .m ∨ (s0.hart n).satpMode = 0 ∨ (s0.hart n).satpMode = 14) → hartWord n s0 = .ok (some x) s1 →
      decodeHost (BitVec.ofNat 32 x) = .ext i → step s = afterExec (exec i { s1 with curHart := some n }))
  ∧ (∀ (s s0 : State) (i : Instr), s.nextAct = (some (.event i), s0) → s0.inReset = false → step s = afterExec (exec i s0))
  ∧ ∀ t, afterExec (.next t) = .next (t.pass false)
end

