-- ==== Sys2Proof/Laws/Lanes.lean ====
section
/-! SUPPORT. What running an instruction over its cohort comes to when every active lane completes. -/
namespace Sys2Proof.Machine

/-! ## Lists of lanes -/

/-- A thread changed by a list of lane changes is the thread changed by the entry of its lane, where lanes differ. -/
theorem foldl_updThread {α : Type} (k : α → Nat) (f : α → Thread → Thread) (l : List α) (hl : l.Pairwise fun a b => k a ≠ k b) (w : Wave) :
    l.foldl (fun w a => w.updThread (k a) (f a)) w
      = { w with threads := w.threads.mapIdx fun i t => match l.find? fun a => k a == i with | some a => f a t | none => t } := by
  induction l generalizing w with
  | nil =>
    cases w
    simp
    apply List.ext_getElem <;> simp
  | cons a l ih =>
    rw [List.foldl_cons, ih (List.pairwise_cons.1 hl).2]
    simp only [Wave.updThread]
    congr 1
    apply List.ext_getElem
    · simp
    · intro i h1 h2
      simp only [List.getElem_mapIdx, List.getElem_modify, List.find?_cons]
      by_cases hk : k a = i
      · have : l.find? (fun b => k b == i) = none := by
          rw [List.find?_eq_none]
          intro b hb
          have := (List.pairwise_cons.1 hl).1 b hb
          simp; omega
        simp [hk, this]
      · have hb : (k a == i) = false := by simp [hk]
        simp only [hk, if_false, hb]

/-- The fields that changes of threads keep. -/
theorem foldl_updThread_sregs {α : Type} (k : α → Nat) (f : α → Thread → Thread) (l : List α) (w : Wave) :
    (l.foldl (fun w a => w.updThread (k a) (f a)) w).sregs = w.sregs := by
  induction l generalizing w with
  | nil => rfl
  | cons a l ih => rw [List.foldl_cons, ih]; rfl

theorem foldl_updThread_fstat {α : Type} (k : α → Nat) (f : α → Thread → Thread) (l : List α) (w : Wave) :
    (l.foldl (fun w a => w.updThread (k a) (f a)) w).fstat = w.fstat := by
  induction l generalizing w with
  | nil => rfl
  | cons a l ih => rw [List.foldl_cons, ih]; rfl

theorem lanesOf_lane (c : Cohort) (w : Wave) (len : Nat) (hx : ∀ i ∈ c.lanes, i < w.threads.length) :
    (c.lanesOf w len).map LaneCtx.lane = c.lanes := by
  unfold Cohort.lanesOf
  obtain ⟨r, ls, p⟩ := c
  simp only at hx ⊢
  induction ls with
  | nil => rfl
  | cons i ls ih =>
    have h := hx i (by simp)
    simp only [List.filterMap_cons, List.getElem?_eq_getElem h, Option.map_some]
    simp [ih fun j hj => hx j (by simp [hj])]

theorem lanesOf_wave (c : Cohort) (w : Wave) (len : Nat) : ∀ l ∈ c.lanesOf w len, l.wave = w := by
  intro l hl
  simp only [Cohort.lanesOf, List.mem_filterMap] at hl
  obtain ⟨i, _, h⟩ := hl
  cases hw : w.threads[i]? <;> simp [hw] at h
  simp [← h]

/-! ## Watches and stops -/

theorem watchHit_none {s : State} {c : Cohort} {w : Wave} (h : Ready s c w) (lane kind va n : Nat) :
    s.watchHit ⟨c.wave, lane⟩ kind va n = none := by
  unfold State.watchHit
  rw [h.wave]
  cases s.thread? ⟨c.wave, lane⟩ with
  | none => rfl
  | some t =>
    dsimp only
    split
    · rfl
    · simp only [List.findSome?_eq_none_iff, List.mem_range]
      intro i _
      have hz : bit (((s.tenant (s.tenantOfWave w)).watch.map (·.toNat)).getD i 0) 60 = false := by
        by_cases hi : i < (s.tenant (s.tenantOfWave w)).watch.length
        · have : ((s.tenant (s.tenantOfWave w)).watch.map (·.toNat)).getD i 0 = ((s.tenant (s.tenantOfWave w)).watch[i]).toNat := by
            simp [List.getD, List.getElem?_eq_getElem hi]
          rw [this]
          exact h.watch _ (List.getElem_mem hi)
        · have : ((s.tenant (s.tenantOfWave w)).watch.map (·.toNat)).getD i 0 = 0 := by
            simp only [List.getD, List.getElem?_map]
            rw [List.getElem?_eq_none (by omega)]
            rfl
          rw [this]; rfl
      simp only [hz, Bool.false_and]
      rfl

theorem Ready.ref {s : State} {c : Cohort} {w : Wave} (h : Ready s c w) : w.ref = c.wave := by
  have := List.find?_some h.wave
  simpa using this

theorem find_map_ref {l : List Wave} {r : WaveRef} {w : Wave} (h : (l.find? fun u => u.ref == r) = some w) (f : Wave → Wave)
    (hf : (f w).ref = w.ref) : ((l.map fun u => if u.ref == r then f u else u).find? fun u => u.ref == r) = some (f w) := by
  induction l with
  | nil => cases h
  | cons a l ih =>
    rw [List.find?_cons] at h
    by_cases ha : a.ref = r
    · simp only [ha, beq_self_eq_true] at h
      cases h
      simp [ha, hf]
    · have hb : (a.ref == r) = false := by simp [ha]
      simp only [hb] at h
      simp only [List.map_cons, hb, List.find?_cons]
      simpa [hb] using ih h

theorem wave?_updWave {s : State} {r : WaveRef} {w : Wave} (h : s.wave? r = some w) (f : Wave → Wave) (hf : (f w).ref = w.ref) :
    (s.updWave r f).wave? r = some (f w) :=
  find_map_ref h f hf

theorem stopThreads_ready {s : State} {c : Cohort} {w : Wave} (h : Ready s c w) : s.stopThreads c.wave = s := by
  unfold State.stopThreads
  rw [h.wave]
  have := h.phase
  simp [this]

/-- A wave replaced by one of the same block under the same name is still ready. -/
theorem Ready.updWave {s : State} {c : Cohort} {w : Wave} (h : Ready s c w) (f : Wave → Wave) (hr : (f w).ref = w.ref)
    (hb : (f w).block = w.block) : Ready (s.updWave c.wave f) c (f w) := by
  have ht : (s.updWave c.wave f).tenantOfWave (f w) = s.tenantOfWave w := by
    unfold State.tenantOfWave State.taskOfWave
    rw [hb]
    rfl
  refine ⟨wave?_updWave h.wave f hr, ?_, ?_, ?_⟩
  · intro v hv hvr
    simp only [State.updWave, List.mem_map] at hv
    obtain ⟨u, hu, rfl⟩ := hv
    by_cases hx : u.ref = c.wave
    · have := h.only u hu hx
      simp [this, h.ref]
    · simp [hx] at hvr
  · rw [ht]; exact h.watch
  · rw [ht]; exact h.phase

theorem updWave_only {s : State} {c : Cohort} {w : Wave} (h : Ready s c w) (f : Wave → Wave) :
    s.updWave c.wave f = { s with waves := s.waves.map fun u => if u.ref == c.wave then f w else u } := by
  unfold State.updWave
  congr 1
  apply List.map_congr_left
  intro u hu
  by_cases hx : u.ref = c.wave
  · simp [h.only u hu hx]
  · simp [hx]

/-! ## Every active lane completes -/

/-- Setting a list of numbered registers one after another. -/
theorem foldl_set (e : List (Fin 64 × Reg)) (m : List Reg) :
    e.foldl (fun l (p : Fin 64 × Reg) => l.set p.1.val p.2) m
      = m.mapIdx fun n r => ((e.reverse.find? fun p => p.1.val == n).map (·.2)).getD r := by
  induction e generalizing m with
  | nil => apply List.ext_getElem <;> simp
  | cons p e ih =>
    rw [List.foldl_cons, ih]
    apply List.ext_getElem
    · simp
    · intro i h1 h2
      simp only [List.getElem_mapIdx, List.getElem_set, List.reverse_cons, List.find?_append, List.find?_singleton]
      cases e.reverse.find? fun p => p.1.val == i with
      | some q => simp
      | none => by_cases hp : p.1.val = i <;> simp [hp]

theorem uniform_eq (o : LaneOut) (n : Nat) :
    o.uniform n = (((LaneRes.done o).uniform.reverse.find? fun p => p.1.val == n).map (·.2)) := by
  unfold LaneOut.uniform LaneRes.uniform
  simp only
  rw [← List.filterMap_reverse]
  induction o.regs.reverse with
  | nil => rfl
  | cons p l ih =>
    obtain ⟨d, v⟩ := p
    cases d with
    | s m => by_cases hm : m.val = n <;> simp [hm, ih]
    | _ => simpa [List.find?_cons] using ih

theorem uniformWrites_aux (act : List LaneCtx) (out : LaneCtx → LaneOut) (acc : List (Fin 64 × Reg)) (m : List Reg) :
    ((act.map fun a => (a, LaneRes.done (out a))).foldl
        (fun l p => l ++ p.2.uniform.filter fun q => !l.any fun x => x.1 == q.1) acc).foldl
          (fun l (p : Fin 64 × Reg) => l.set p.1.val p.2) m
      = (acc.foldl (fun l (p : Fin 64 × Reg) => l.set p.1.val p.2) m).mapIdx fun n r =>
          if acc.any fun x => x.1.val == n then r else (act.findSome? fun a => (out a).uniform n).getD r := by
  induction act generalizing acc with
  | nil => apply List.ext_getElem <;> simp
  | cons a act ih =>
    rw [List.map_cons, List.foldl_cons, ih, List.foldl_append, foldl_set _ (acc.foldl _ m)]
    apply List.ext_getElem
    · simp
    · intro i h1 h2
      simp only [List.getElem_mapIdx, List.any_append, List.findSome?_cons]
      by_cases hacc : (acc.any fun x => x.1.val == i) = true
      · have hnone : (((LaneRes.done (out a)).uniform.filter fun q => !acc.any fun x => x.1 == q.1).reverse.find? fun p => p.1.val == i) = none := by
          rw [List.find?_eq_none]
          intro q hq
          simp only [List.mem_reverse, List.mem_filter] at hq
          intro hqi
          have hqi : q.1.val = i := by simpa using hqi
          obtain ⟨x, hx, hxi⟩ := List.any_eq_true.1 hacc
          have hxi : x.1.val = i := by simpa using hxi
          have : (acc.any fun x => x.1 == q.1) = true := List.any_eq_true.2 ⟨x, hx, by simp [Fin.ext_iff, hxi, hqi]⟩
          simp [this] at hq
        simp [hacc, hnone]
      · have hf : ∀ p ∈ (LaneRes.done (out a)).uniform, p.1.val = i → (acc.any fun x => x.1 == p.1) = false := by
          intro p _ hpi
          rw [Bool.eq_false_iff]
          intro h
          apply hacc
          obtain ⟨x, hx, hxp⟩ := List.any_eq_true.1 h
          have : x.1 = p.1 := by simpa using hxp
          exact List.any_eq_true.2 ⟨x, hx, by simp [this, hpi]⟩
        have hfind : (((LaneRes.done (out a)).uniform.filter fun q => !acc.any fun x => x.1 == q.1).reverse.find? fun p => p.1.val == i)
            = ((LaneRes.done (out a)).uniform.reverse.find? fun p => p.1.val == i) := by
          rw [← List.filter_reverse, List.find?_filter]
          apply List.find?_congr
          intro p hp
          by_cases hpi : p.1.val = i
          · simp [hpi, hf p (by simpa using hp) hpi]
          · simp [hpi]
        rw [hfind, uniform_eq]
        simp only [Bool.not_eq_true] at hacc
        rw [hacc]
        cases hx : ((LaneRes.done (out a)).uniform.reverse.find? fun p => p.1.val == i) with
        | some q =>
          have hq := List.find?_some hx
          have hm : q ∈ (LaneRes.done (out a)).uniform := by simpa using List.mem_of_find?_eq_some hx
          have hany : (((LaneRes.done (out a)).uniform.filter fun q => !acc.any fun x => x.1 == q.1).any fun x => x.1.val == i) = true := by
            have hqi : q.1.val = i := by simpa using hq
            exact List.any_eq_true.2 ⟨q, List.mem_filter.2 ⟨hm, by simp [hf q hm hqi]⟩, hq⟩
          simp [hany]
        | none =>
          have hany : (((LaneRes.done (out a)).uniform.filter fun q => !acc.any fun x => x.1 == q.1).any fun x => x.1.val == i) = false := by
            rw [Bool.eq_false_iff]
            intro h
            obtain ⟨x, hx', hxi⟩ := List.any_eq_true.1 h
            have := List.find?_eq_none.1 hx x (by simpa using (List.mem_filter.1 hx').1)
            exact this hxi
          simp [hany]

/-- What the lanes of a cohort that all complete give the uniform registers. -/
theorem uniformWrites_done (act : List LaneCtx) (out : LaneCtx → LaneOut) (m : List Reg) (hne : act ≠ []) :
    (uniformWrites (act.map fun a => (a, .done (out a)))).foldl (fun l (p : Fin 64 × Reg) => l.set p.1.val p.2) m
      = m.mapIdx fun n r => (act.findSome? fun a => (out a).uniform n).getD r := by
  cases act with
  | nil => exact absurd rfl hne
  | cons a act =>
    have h := uniformWrites_aux (a :: act) out [] m
    simpa [uniformWrites, LaneRes.completes] using h

theorem filter_not {α : Type} (p : α → Bool) (l : List α) : l.filter (fun a => !p a) ++ [] = l.filter fun a => !p a := by simp

theorem find_active (c : Cohort) (w : Wave) (x : Dev) (i : Nat) :
    (c.active w x).find? (fun l => l.lane == i) = none →
      (((c.lanesOf w (lenBytes x.len)).filter fun l => !l.th.guard x.guard).find? fun l => l.lane == i)
        = (c.lanesOf w (lenBytes x.len)).find? fun l => l.lane == i := by
  intro h
  rw [List.find?_filter]
  apply List.find?_congr
  intro l hl
  by_cases hi : l.lane = i
  · have := List.find?_eq_none.1 h l
    unfold Cohort.active at this
    rw [List.mem_filter] at this
    by_cases hg : l.th.guard x.guard = true
    · exact absurd (by simpa using hi) (this ⟨hl, hg⟩)
    · simp [hi, hg]
  · simp [hi]

/-- The lanes of a cohort as listed are distinct. -/
theorem lanesOf_distinct {c : Cohort} {w : Wave} (len : Nat) (ha : c.lanes.Pairwise (· < ·)) (hx : ∀ i ∈ c.lanes, i < w.threads.length) :
    (c.lanesOf w len).Pairwise fun a b => a.lane ≠ b.lane := by
  have h := lanesOf_lane c w len hx
  have : ((c.lanesOf w len).map LaneCtx.lane).Pairwise (· ≠ ·) := by
    rw [h]
    exact ha.imp fun h => Nat.ne_of_lt h
  exact List.pairwise_map.1 this

@[simp] theorem firstWatch_none (f : Option FInfo) : firstWatch f none = f := by cases f <;> rfl

@[simp] theorem LaneRes.withAfter_none (r : LaneRes) : r.withAfter none = r := by cases r <;> simp [LaneRes.withAfter]

theorem lanesOf_thread {c : Cohort} {w : Wave} {len : Nat} {l : LaneCtx} (hl : l ∈ c.lanesOf w len) :
    l.lane ∈ c.lanes ∧ w.threads[l.lane]? = some l.th := by
  simp only [Cohort.lanesOf, List.mem_filterMap] at hl
  obtain ⟨i, hi, h⟩ := hl
  cases hw : w.threads[i]? with
  | none => simp [hw] at h
  | some t =>
    simp [hw] at h
    subst h
    exact ⟨hi, hw⟩

/-- Lanes that begin their instruction are one group. -/
theorem instGroups_fresh {rs : List (LaneCtx × LaneRes)} (h : ∀ p ∈ rs, p.1.th.inst = none) : instGroups rs = [(none, rs)] := by
  unfold instGroups
  have : (rs.all fun p => p.1.th.inst.isNone) = true := by
    rw [List.all_eq_true]
    intro p hp
    simp [h p hp]
  simp [this]

/-- The wave after its lanes have completed, in closed form. -/
theorem settle_done {v w : Wave} {c : Cohort} {x : Dev} {out : LaneCtx → LaneOut} (ha : c.lanes.Pairwise (· < ·))
    (hx : ∀ i ∈ c.lanes, i < w.threads.length) (hv : ∀ l ∈ c.active w x, l.th.inst = none) (id : Nat) :
    v.settle (lenBytes x.len) id (((c.lanesOf w (lenBytes x.len)).filter fun l => !l.th.guard x.guard).map (·.lane))
        ((c.active w x).map fun l => (l, LaneRes.done (out l)))
      = v.after c (c.active w x) (lenBytes x.len) out := by
  set act := c.active w x with hact
  set idle := (c.lanesOf w (lenBytes x.len)).filter fun l => !l.th.guard x.guard with hidle
  set rs := act.map fun l => (l, LaneRes.done (out l)) with hrs
  have hd := lanesOf_distinct (lenBytes x.len) ha hx
  have hda : act.Pairwise fun a b => a.lane ≠ b.lane := hd.filter _
  have hdi : idle.Pairwise fun a b => a.lane ≠ b.lane := hd.filter _
  have hdr : rs.Pairwise fun a b => a.1.lane ≠ b.1.lane := by
    rw [hrs]; exact List.pairwise_map.2 hda
  have hdl : (idle.map (·.lane)).Pairwise fun a b => a ≠ b := List.pairwise_map.2 hdi
  have hgs : instGroups rs = [(none, rs)] := by
    apply instGroups_fresh
    intro p hp
    rw [hrs] at hp
    obtain ⟨l, hl, rfl⟩ := List.mem_map.1 hp
    exact hv l hl
  have hout : (rs.any fun p => p.2.outstanding) = false := by
    rw [hrs, List.any_map, Bool.eq_false_iff]
    intro h
    obtain ⟨l, -, hl⟩ := List.any_eq_true.1 h
    exact Bool.false_ne_true hl
  have huni : groupWrites (none, rs) = if act = [] then [] else uniformWrites rs := by
    cases h : act with
    | nil => simp [hrs, h, groupWrites, groupWriter]
    | cons a as => simp [hrs, h, groupWrites, groupWriter, LaneRes.completes]
  have hfst : rs.foldl (fun f p => raiseFlags f p.2.flags) v.fstat = act.foldl (fun f l => raiseFlags f (out l).flags) v.fstat := by
    rw [hrs, List.foldl_map]
    rfl
  unfold Wave.settle
  simp only [hgs, List.foldl_cons, List.foldl_nil, List.flatMap_cons, List.flatMap_nil, List.append_nil, List.any_cons, List.any_nil,
    Bool.or_false]
  unfold instWave
  simp only [hout, Option.isNone_none, Bool.true_and, Bool.not_false, if_true]
  have hfold := foldl_updThread (fun p : LaneCtx × LaneRes => p.1.lane)
    (fun p => settleLane (groupWriter (none, rs) == some p.1.lane) (lenBytes x.len) p.2) rs hdr v
  have hfold2 := fun u : Wave => foldl_updThread (fun i : Nat => i) (fun _ t => t.skip (lenBytes x.len)) (idle.map (·.lane)) hdl u
  unfold Wave.after
  rw [show (rs.foldl (fun w (p : LaneCtx × LaneRes) =>
        w.updThread p.1.lane (settleLane (groupWriter (none, rs) == some p.1.lane) (lenBytes x.len) p.2)) v) = _ from hfold]
  rw [hfold2]
  simp only [hfst]
  have hth : (List.mapIdx (fun i t => match (idle.map (·.lane)).find? fun a => a == i with
        | some _ => t.skip (lenBytes x.len)
        | none => t)
      (List.mapIdx (fun i t => match rs.find? fun a => a.1.lane == i with
        | some a => settleLane (groupWriter (none, rs) == some a.1.lane) (lenBytes x.len) a.2 t
        | none => t) v.threads))
      = v.threads.mapIdx fun i t => match act.find? fun l => l.lane == i with
        | some l => t.complete (out l) (lenBytes x.len)
        | none => if c.lanes.contains i then t.skip (lenBytes x.len) else t := by
    apply List.ext_getElem
    · simp
    · intro i h1 h2
      simp only [List.getElem_mapIdx]
      have hr : (rs.find? fun a => a.1.lane == i) = (act.find? fun l => l.lane == i).map fun l => (l, LaneRes.done (out l)) := by
        rw [hrs, List.find?_map]
        rfl
      have hi : ((idle.map (·.lane)).find? fun a => a == i) = (idle.find? fun l => l.lane == i).map (·.lane) := by
        rw [List.find?_map]
        rfl
      rw [hr, hi]
      cases ha' : act.find? fun l => l.lane == i with
      | some l =>
        have hl := List.find?_some ha'
        have hm := List.mem_of_find?_eq_some ha'
        have : (idle.find? fun l => l.lane == i) = none := by
          rw [List.find?_eq_none]
          intro b hb hbi
          have hbm := List.mem_filter.1 hb
          have hlm := List.mem_filter.1 hm
          have hne : b ≠ l := by
            intro h
            rw [h] at hbm
            simp [hlm.2] at hbm
          have hbl : b.lane = l.lane := by
            have h1 : b.lane = i := by simpa using hbi
            have h2 : l.lane = i := by simpa using hl
            omega
          have hinj : ∀ (L : List LaneCtx), L.Pairwise (fun a b => a.lane ≠ b.lane) → b ∈ L → l ∈ L → b = l := by
            intro L hL hb hl
            induction L with
            | nil => cases hb
            | cons a as ih =>
              obtain ⟨h1, h2⟩ := List.pairwise_cons.1 hL
              rcases List.mem_cons.1 hb with rfl | hb'
              · rcases List.mem_cons.1 hl with h | hl'
                · exact h.symm
                · exact absurd hbl (h1 _ hl')
              · rcases List.mem_cons.1 hl with rfl | hl'
                · exact absurd hbl.symm (h1 _ hb')
                · exact ih h2 hb' hl'
          exact hne (hinj _ hd hbm.1 hlm.1)
        simp [this, settleLane]
      | none =>
        have hfi := find_active c w x i (by rw [← hact]; exact ha')
        rw [← hidle] at hfi
        rw [hfi]
        by_cases hc : i ∈ c.lanes
        · have hex : ∃ l ∈ c.lanesOf w (lenBytes x.len), l.lane = i := by
            rw [← lanesOf_lane c w (lenBytes x.len) hx] at hc
            simpa using hc
          obtain ⟨l, hl, hli⟩ := hex
          have : ((c.lanesOf w (lenBytes x.len)).find? fun l => l.lane == i).isSome := by
            rw [List.find?_isSome]
            exact ⟨l, hl, by simpa using hli⟩
          obtain ⟨y, hy⟩ := Option.isSome_iff_exists.1 this
          simp [hy, hc]
        · have : ((c.lanesOf w (lenBytes x.len)).find? fun l => l.lane == i) = none := by
            rw [List.find?_eq_none]
            intro l hl hli
            apply hc
            rw [← lanesOf_lane c w (lenBytes x.len) hx]
            exact List.mem_map.2 ⟨l, hl, by simpa using hli⟩
          simp [this, hc]
  have hsr : ((groupWrites (none, rs)).foldl (fun l (p : Fin 64 × Reg) => l.set p.1.val p.2) v.sregs)
      = v.sregs.mapIdx fun n r => (act.findSome? fun l => (out l).uniform n).getD r := by
    rw [huni]
    by_cases h : act = []
    · rw [if_pos h, h]
      apply List.ext_getElem <;> simp
    · rw [if_neg h, hrs]
      exact uniformWrites_done act out v.sregs h
  simp only [Wave.mk.injEq, true_and]
  refine ⟨hsr, Eq.trans ?_ hth⟩
  apply List.ext_getElem
  · simp
  · intro i h1 h2
    simp only [List.getElem_mapIdx]
    cases (idle.map (·.lane)).find? fun a => a == i <;> cases rs.find? fun (a : LaneCtx × LaneRes) => a.1.lane == i <;> rfl

/-- THE LAW OF THE LANES: where every active lane completes, without a fault after it and without an exit, the wave is what `Wave.after` says
and nothing but what the lanes themselves did is changed. -/
theorem runLanes_done {s s1 : State} {c : Cohort} {w v : Wave} {x : Dev} {f : LaneCtx → State → LaneRes × State} {out : LaneCtx → LaneOut}
    (hs : Stage s c w) (hr : Ready s1 c v)
    (hf : foldLanes f (c.active w x) s.idle = ((c.active w x).map fun l => (l, .done (out l)), s1))
    (hp : ∀ l ∈ c.active w x, (out l).after = none ∧ (out l).exits = false) :
    runLanes x.guard (lenBytes x.len) f s = s1.issued c v w x out := by
  have hact : (c.lanesOf w (lenBytes x.len)).filter (fun c => c.th.guard x.guard) = c.active w x := rfl
  unfold runLanes runActing
  rw [hs.cur]
  have hw : s.wave? c.wave = some w := hs.ready.wave
  simp only [hw, hact]
  rw [show ({ s with cur := none } : State) = s.idle from rfl, hf]
  simp only
  have href : w.ref = c.wave := hs.ready.ref
  have hctx : ∀ l ∈ c.lanesOf w (lenBytes x.len), l.ref = ⟨c.wave, l.lane⟩ := by
    intro l hl
    unfold LaneCtx.ref
    rw [lanesOf_wave _ _ _ l hl, href]
  have hmem : ∀ l ∈ c.active w x, l ∈ c.lanesOf w (lenBytes x.len) := fun l hl => (List.mem_filter.1 hl).1
  have hwatch : ∀ l ∈ c.lanesOf w (lenBytes x.len), s1.fetchWatch l = none := by
    intro l hl
    unfold State.fetchWatch
    rw [hctx l hl]
    exact watchHit_none hr _ _ _ _
  set idle := (c.lanesOf w (lenBytes x.len)).filter fun l => !l.th.guard x.guard with hidle
  unfold finishLanes fetchWatches
  have h1 : ((c.active w x).map fun l => (l, LaneRes.done (out l))).map
      (fun (p : LaneCtx × LaneRes) => (p.1, p.2.withAfter (s1.fetchWatch p.1))) = (c.active w x).map fun l => (l, LaneRes.done (out l)) := by
    rw [List.map_map]
    apply List.map_congr_left
    intro l hl
    simp [hwatch l (hmem l hl)]
  have h2 : ∀ m, ((c.active w x).map fun l => (l, LaneRes.done (out l))).map (fun (p : LaneCtx × LaneRes) => (p.1, p.2.placeWait p.1 m))
      = (c.active w x).map fun l => (l, LaneRes.done (out l)) := by
    intro m
    rw [List.map_map]
    rfl
  have h5 : (((c.active w x).map fun l => (l, LaneRes.done (out l))).any fun p => p.2.outstanding) = false := by
    rw [List.any_map, Bool.eq_false_iff]
    intro h
    obtain ⟨l, -, hl⟩ := List.any_eq_true.1 h
    exact Bool.false_ne_true hl
  have hfresh : ∀ l ∈ c.active w x, l.th.inst = none := by
    intro l hl
    obtain ⟨h1, h2⟩ := lanesOf_thread (hmem l hl)
    exact hs.fresh _ h1 _ h2
  simp only [h1, h2, h5, Bool.false_eq_true, if_false]
  have h3 : laneFaults ((c.active w x).map fun l => (l, LaneRes.done (out l))) = [] := by
    unfold laneFaults
    rw [List.filterMap_map, List.filterMap_eq_nil_iff]
    intro l hl
    simp [LaneRes.fault?, (hp l hl).1]
  have h4 : exitLanes ((c.active w x).map fun l => (l, LaneRes.done (out l))) = [] := by
    unfold exitLanes
    rw [List.filterMap_map, List.filterMap_eq_nil_iff]
    intro l hl
    simp [(hp l hl).2]
  simp only [h3, h4, State.forEach, List.foldl_nil]
  rw [updWave_only hr, settle_done hs.asc hs.exist hfresh 0]
  have hr2 : Ready (s1.issued c v w x out) c (v.after c (c.active w x) (lenBytes x.len) out) := by
    have := hr.updWave (fun _ => v.after c (c.active w x) (lenBytes x.len) out) rfl rfl
    rw [updWave_only hr] at this
    exact this
  exact stopThreads_ready hr2

theorem foldLanes_pure (g : LaneCtx → LaneRes) (out : LaneCtx → LaneOut) (act : List LaneCtx) (s : State)
    (h : ∀ l ∈ act, g l = .done (out l)) :
    foldLanes (fun c s => (g c, s)) act s = (act.map fun l => (l, .done (out l)), s) := by
  induction act with
  | nil => rfl
  | cons a as ih =>
    simp only [foldLanes, ih fun l hl => h l (by simp [hl]), h a (by simp), List.map_cons]

/-- An instruction that changes nothing but its lanes' registers, where every active lane completes. -/
theorem runLanes_pure {s : State} {c : Cohort} {w : Wave} {x : Dev} {g : LaneCtx → LaneRes} {out : LaneCtx → LaneOut} (hs : Stage s c w)
    (hg : ∀ l ∈ c.active w x, g l = .done (out l)) (hp : ∀ l ∈ c.active w x, (out l).after = none ∧ (out l).exits = false) :
    runLanes x.guard (lenBytes x.len) (fun c s => (g c, s)) s = s.idle.issued c w w x out :=
  runLanes_done hs hs.ready (foldLanes_pure g out _ _ hg) hp

theorem runPure_done {s : State} {c : Cohort} {w : Wave} {x : Dev} {f : Dev → LaneCtx → LaneRes} {out : LaneCtx → LaneOut}
    (hs : Stage s c w) (hf : ∀ l ∈ c.active w x, f x l = .done (out l))
    (hp : ∀ l ∈ c.active w x, (out l).after = none ∧ (out l).exits = false) : runPure x f s = s.idle.issued c w w x out :=
  runLanes_pure hs hf hp

/-- One active lane that acts on the state and completes. -/
theorem runLanes_one {s s1 : State} {c : Cohort} {w v : Wave} {x : Dev} {l : LaneCtx} {f : LaneCtx → State → LaneRes × State} {o : LaneOut}
    (hs : OneLane s c w x l) (hf : f l s.idle = (.done o, s1)) (hr : Ready s1 c v) (ha : o.after = none)
    (he : o.exits = false) : runLanes x.guard (lenBytes x.len) f s = s1.issued c v w x fun _ => o := by
  apply runLanes_done hs.toStage hr
  · rw [hs.act]
    simp [foldLanes, hf]
  · intro _ _
    exact ⟨ha, he⟩

theorem runOp_one {s s1 : State} {c : Cohort} {w v : Wave} {x : Dev} {l : LaneCtx} {f : LaneCtx → Op LaneRes} {o : LaneOut}
    (hs : OneLane s c w x l) (hf : f l s.idle = .ok (.done o) s1) (hr : Ready s1 c v) (ha : o.after = none)
    (he : o.exits = false) : runOp x f s = s1.issued c v w x fun _ => o :=
  runLanes_one hs (by simp [laneOp, hf]) hr ha he

theorem activeLanes_stage {s : State} {c : Cohort} {w : Wave} {x : Dev} (hs : Stage s c w) :
    activeLanes x.guard (lenBytes x.len) s = c.active w x := by
  unfold activeLanes
  have hw : s.wave? c.wave = some w := hs.ready.wave
  rw [hs.cur]
  simp [hw, Cohort.active]

/-- An instruction that acts once for its cohort and completes in every active lane. -/
theorem runCohort_done {s s1 : State} {c : Cohort} {w v : Wave} {x : Dev} {m : List LaneCtx → Op (LaneCtx → LaneRes)} {f : LaneCtx → LaneRes}
    {out : LaneCtx → LaneOut} (hs : Stage s c w) (hne : c.active w x ≠ []) (hm : m (c.active w x) s = .ok f s1) (hs1 : Stage s1 c v)
    (hf : ∀ l ∈ c.active v x, f l = .done (out l)) (hp : ∀ l ∈ c.active v x, (out l).after = none ∧ (out l).exits = false) :
    runCohort x m s = s1.idle.issued c v v x out := by
  unfold runCohort
  simp only [activeLanes_stage hs]
  have : (c.active w x).isEmpty = false := by simpa using hne
  simp only [this, hm, Bool.false_eq_true, if_false]
  exact runLanes_pure hs1 hf hp

theorem runCross_done {s : State} {c : Cohort} {w : Wave} {x : Dev} {f : List LaneCtx → LaneCtx → LaneRes}
    {out : LaneCtx → LaneOut} (hs : Stage s c w) (hf : ∀ l ∈ c.active w x, f (c.active w x) l = .done (out l))
    (hp : ∀ l ∈ c.active w x, (out l).after = none ∧ (out l).exits = false) :
    runCohort x (fun act => pure (f act)) s = s.idle.issued c w w x out := by
  by_cases hne : c.active w x = []
  · unfold runCohort
    simp only [activeLanes_stage hs, hne]
    apply runLanes_done hs hs.ready
    · simp [hne, foldLanes]
    · simp [hne]
  · exact runCohort_done hs hne rfl hs hf hp

end Sys2Proof.Machine
end

