-- ==== Sys2Proof/Laws/State.lean ====
section
/-! SUPPORT. What each update of the state leaves in each field: one lemma per field per update, so that no proof unfolds a record update. -/
namespace Sys2Proof.Machine
variable (s : State)

/-! ## updTenant -/

@[simp] theorem State.updTenant_clock (n : Nat) (f : Tenant → Tenant) : (s.updTenant n f).clock = s.clock := rfl
@[simp] theorem State.updTenant_free (n : Nat) (f : Tenant → Tenant) : (s.updTenant n f).free = s.free := rfl
@[simp] theorem State.updTenant_nextId (n : Nat) (f : Tenant → Tenant) : (s.updTenant n f).nextId = s.nextId := rfl
@[simp] theorem State.updTenant_agenda (n : Nat) (f : Tenant → Tenant) : (s.updTenant n f).agenda = s.agenda := rfl
@[simp] theorem State.updTenant_ages (n : Nat) (f : Tenant → Tenant) : (s.updTenant n f).ages = s.ages := rfl
@[simp] theorem State.updTenant_cur (n : Nat) (f : Tenant → Tenant) : (s.updTenant n f).cur = s.cur := rfl
@[simp] theorem State.updTenant_curHart (n : Nat) (f : Tenant → Tenant) : (s.updTenant n f).curHart = s.curHart := rfl
@[simp] theorem State.updTenant_inReset (n : Nat) (f : Tenant → Tenant) : (s.updTenant n f).inReset = s.inReset := rfl
@[simp] theorem State.updTenant_resetWhy (n : Nat) (f : Tenant → Tenant) : (s.updTenant n f).resetWhy = s.resetWhy := rfl
@[simp] theorem State.updTenant_mem (n : Nat) (f : Tenant → Tenant) : (s.updTenant n f).mem = s.mem := rfl
@[simp] theorem State.updTenant_poison (n : Nat) (f : Tenant → Tenant) : (s.updTenant n f).poison = s.poison := rfl
@[simp] theorem State.updTenant_tenants (n : Nat) (f : Tenant → Tenant) : (s.updTenant n f).tenants = s.tenants.modify n f := rfl
@[simp] theorem State.updTenant_hubs (n : Nat) (f : Tenant → Tenant) : (s.updTenant n f).hubs = s.hubs := rfl
@[simp] theorem State.updTenant_dies (n : Nat) (f : Tenant → Tenant) : (s.updTenant n f).dies = s.dies := rfl
@[simp] theorem State.updTenant_cores (n : Nat) (f : Tenant → Tenant) : (s.updTenant n f).cores = s.cores := rfl
@[simp] theorem State.updTenant_clocks (n : Nat) (f : Tenant → Tenant) : (s.updTenant n f).clocks = s.clocks := rfl
@[simp] theorem State.updTenant_harts (n : Nat) (f : Tenant → Tenant) : (s.updTenant n f).harts = s.harts := rfl
@[simp] theorem State.updTenant_tasks (n : Nat) (f : Tenant → Tenant) : (s.updTenant n f).tasks = s.tasks := rfl
@[simp] theorem State.updTenant_slices (n : Nat) (f : Tenant → Tenant) : (s.updTenant n f).slices = s.slices := rfl
@[simp] theorem State.updTenant_blocks (n : Nat) (f : Tenant → Tenant) : (s.updTenant n f).blocks = s.blocks := rfl
@[simp] theorem State.updTenant_waves (n : Nat) (f : Tenant → Tenant) : (s.updTenant n f).waves = s.waves := rfl
@[simp] theorem State.updTenant_loops (n : Nat) (f : Tenant → Tenant) : (s.updTenant n f).loops = s.loops := rfl
@[simp] theorem State.updTenant_faults (n : Nat) (f : Tenant → Tenant) : (s.updTenant n f).faults = s.faults := rfl
@[simp] theorem State.updTenant_tlb (n : Nat) (f : Tenant → Tenant) : (s.updTenant n f).tlb = s.tlb := rfl
@[simp] theorem State.updTenant_dir (n : Nat) (f : Tenant → Tenant) : (s.updTenant n f).dir = s.dir := rfl
@[simp] theorem State.updTenant_l1 (n : Nat) (f : Tenant → Tenant) : (s.updTenant n f).l1 = s.l1 := rfl
@[simp] theorem State.updTenant_locks (n : Nat) (f : Tenant → Tenant) : (s.updTenant n f).locks = s.locks := rfl
@[simp] theorem State.updTenant_latent (n : Nat) (f : Tenant → Tenant) : (s.updTenant n f).latent = s.latent := rfl
@[simp] theorem State.updTenant_moves (n : Nat) (f : Tenant → Tenant) : (s.updTenant n f).moves = s.moves := rfl
@[simp] theorem State.updTenant_forwards (n : Nat) (f : Tenant → Tenant) : (s.updTenant n f).forwards = s.forwards := rfl
@[simp] theorem State.updTenant_handovers (n : Nat) (f : Tenant → Tenant) : (s.updTenant n f).handovers = s.handovers := rfl
@[simp] theorem State.updTenant_modPart (n : Nat) (f : Tenant → Tenant) : (s.updTenant n f).modPart = s.modPart := rfl
@[simp] theorem State.updTenant_attest (n : Nat) (f : Tenant → Tenant) : (s.updTenant n f).attest = s.attest := rfl
@[simp] theorem State.updTenant_vaultrd (n : Nat) (f : Tenant → Tenant) : (s.updTenant n f).vaultrd = s.vaultrd := rfl
@[simp] theorem State.updTenant_poolOwt (n : Nat) (f : Tenant → Tenant) : (s.updTenant n f).poolOwt = s.poolOwt := rfl
@[simp] theorem State.updTenant_poolCmd (n : Nat) (f : Tenant → Tenant) : (s.updTenant n f).poolCmd = s.poolCmd := rfl
@[simp] theorem State.updTenant_engines (n : Nat) (f : Tenant → Tenant) : (s.updTenant n f).engines = s.engines := rfl
@[simp] theorem State.updTenant_mats (n : Nat) (f : Tenant → Tenant) : (s.updTenant n f).mats = s.mats := rfl
@[simp] theorem State.updTenant_copies (n : Nat) (f : Tenant → Tenant) : (s.updTenant n f).copies = s.copies := rfl
@[simp] theorem State.updTenant_nms (n : Nat) (f : Tenant → Tenant) : (s.updTenant n f).nms = s.nms := rfl
@[simp] theorem State.updTenant_touched (n : Nat) (f : Tenant → Tenant) : (s.updTenant n f).touched = s.touched := rfl
@[simp] theorem State.updTenant_ctes (n : Nat) (f : Tenant → Tenant) : (s.updTenant n f).ctes = s.ctes := rfl
@[simp] theorem State.updTenant_wstat (n : Nat) (f : Tenant → Tenant) : (s.updTenant n f).wstat = s.wstat := rfl
@[simp] theorem State.updTenant_laneFlt (n : Nat) (f : Tenant → Tenant) : (s.updTenant n f).laneFlt = s.laneFlt := rfl
@[simp] theorem State.updTenant_linksDown (n : Nat) (f : Tenant → Tenant) : (s.updTenant n f).linksDown = s.linksDown := rfl
@[simp] theorem State.updTenant_peersUp (n : Nat) (f : Tenant → Tenant) : (s.updTenant n f).peersUp = s.peersUp := rfl
@[simp] theorem State.updTenant_vault (n : Nat) (f : Tenant → Tenant) : (s.updTenant n f).vault = s.vault := rfl
@[simp] theorem State.updTenant_firmware (n : Nat) (f : Tenant → Tenant) : (s.updTenant n f).firmware = s.firmware := rfl
@[simp] theorem State.updTenant_booted (n : Nat) (f : Tenant → Tenant) : (s.updTenant n f).booted = s.booted := rfl
@[simp] theorem State.updTenant_relays (n : Nat) (f : Tenant → Tenant) : (s.updTenant n f).relays = s.relays := rfl
@[simp] theorem State.updTenant_sideband (n : Nat) (f : Tenant → Tenant) : (s.updTenant n f).sideband = s.sideband := rfl
@[simp] theorem State.updTenant_irqs (n : Nat) (f : Tenant → Tenant) : (s.updTenant n f).irqs = s.irqs := rfl
@[simp] theorem State.updTenant_checks (n : Nat) (f : Tenant → Tenant) : (s.updTenant n f).checks = s.checks := rfl
@[simp] theorem State.updTenant_capver (n : Nat) (f : Tenant → Tenant) : (s.updTenant n f).capver = s.capver := rfl
@[simp] theorem State.updTenant_badPages (n : Nat) (f : Tenant → Tenant) : (s.updTenant n f).badPages = s.badPages := rfl

/-! ## updHub -/

@[simp] theorem State.updHub_clock (n : Nat) (f : Hub → Hub) : (s.updHub n f).clock = s.clock := rfl
@[simp] theorem State.updHub_free (n : Nat) (f : Hub → Hub) : (s.updHub n f).free = s.free := rfl
@[simp] theorem State.updHub_nextId (n : Nat) (f : Hub → Hub) : (s.updHub n f).nextId = s.nextId := rfl
@[simp] theorem State.updHub_agenda (n : Nat) (f : Hub → Hub) : (s.updHub n f).agenda = s.agenda := rfl
@[simp] theorem State.updHub_ages (n : Nat) (f : Hub → Hub) : (s.updHub n f).ages = s.ages := rfl
@[simp] theorem State.updHub_cur (n : Nat) (f : Hub → Hub) : (s.updHub n f).cur = s.cur := rfl
@[simp] theorem State.updHub_curHart (n : Nat) (f : Hub → Hub) : (s.updHub n f).curHart = s.curHart := rfl
@[simp] theorem State.updHub_inReset (n : Nat) (f : Hub → Hub) : (s.updHub n f).inReset = s.inReset := rfl
@[simp] theorem State.updHub_resetWhy (n : Nat) (f : Hub → Hub) : (s.updHub n f).resetWhy = s.resetWhy := rfl
@[simp] theorem State.updHub_mem (n : Nat) (f : Hub → Hub) : (s.updHub n f).mem = s.mem := rfl
@[simp] theorem State.updHub_poison (n : Nat) (f : Hub → Hub) : (s.updHub n f).poison = s.poison := rfl
@[simp] theorem State.updHub_tenants (n : Nat) (f : Hub → Hub) : (s.updHub n f).tenants = s.tenants := rfl
@[simp] theorem State.updHub_hubs (n : Nat) (f : Hub → Hub) : (s.updHub n f).hubs = s.hubs.modify n f := rfl
@[simp] theorem State.updHub_dies (n : Nat) (f : Hub → Hub) : (s.updHub n f).dies = s.dies := rfl
@[simp] theorem State.updHub_cores (n : Nat) (f : Hub → Hub) : (s.updHub n f).cores = s.cores := rfl
@[simp] theorem State.updHub_clocks (n : Nat) (f : Hub → Hub) : (s.updHub n f).clocks = s.clocks := rfl
@[simp] theorem State.updHub_harts (n : Nat) (f : Hub → Hub) : (s.updHub n f).harts = s.harts := rfl
@[simp] theorem State.updHub_tasks (n : Nat) (f : Hub → Hub) : (s.updHub n f).tasks = s.tasks := rfl
@[simp] theorem State.updHub_slices (n : Nat) (f : Hub → Hub) : (s.updHub n f).slices = s.slices := rfl
@[simp] theorem State.updHub_blocks (n : Nat) (f : Hub → Hub) : (s.updHub n f).blocks = s.blocks := rfl
@[simp] theorem State.updHub_waves (n : Nat) (f : Hub → Hub) : (s.updHub n f).waves = s.waves := rfl
@[simp] theorem State.updHub_loops (n : Nat) (f : Hub → Hub) : (s.updHub n f).loops = s.loops := rfl
@[simp] theorem State.updHub_faults (n : Nat) (f : Hub → Hub) : (s.updHub n f).faults = s.faults := rfl
@[simp] theorem State.updHub_tlb (n : Nat) (f : Hub → Hub) : (s.updHub n f).tlb = s.tlb := rfl
@[simp] theorem State.updHub_dir (n : Nat) (f : Hub → Hub) : (s.updHub n f).dir = s.dir := rfl
@[simp] theorem State.updHub_l1 (n : Nat) (f : Hub → Hub) : (s.updHub n f).l1 = s.l1 := rfl
@[simp] theorem State.updHub_locks (n : Nat) (f : Hub → Hub) : (s.updHub n f).locks = s.locks := rfl
@[simp] theorem State.updHub_latent (n : Nat) (f : Hub → Hub) : (s.updHub n f).latent = s.latent := rfl
@[simp] theorem State.updHub_moves (n : Nat) (f : Hub → Hub) : (s.updHub n f).moves = s.moves := rfl
@[simp] theorem State.updHub_forwards (n : Nat) (f : Hub → Hub) : (s.updHub n f).forwards = s.forwards := rfl
@[simp] theorem State.updHub_handovers (n : Nat) (f : Hub → Hub) : (s.updHub n f).handovers = s.handovers := rfl
@[simp] theorem State.updHub_modPart (n : Nat) (f : Hub → Hub) : (s.updHub n f).modPart = s.modPart := rfl
@[simp] theorem State.updHub_attest (n : Nat) (f : Hub → Hub) : (s.updHub n f).attest = s.attest := rfl
@[simp] theorem State.updHub_vaultrd (n : Nat) (f : Hub → Hub) : (s.updHub n f).vaultrd = s.vaultrd := rfl
@[simp] theorem State.updHub_poolOwt (n : Nat) (f : Hub → Hub) : (s.updHub n f).poolOwt = s.poolOwt := rfl
@[simp] theorem State.updHub_poolCmd (n : Nat) (f : Hub → Hub) : (s.updHub n f).poolCmd = s.poolCmd := rfl
@[simp] theorem State.updHub_engines (n : Nat) (f : Hub → Hub) : (s.updHub n f).engines = s.engines := rfl
@[simp] theorem State.updHub_mats (n : Nat) (f : Hub → Hub) : (s.updHub n f).mats = s.mats := rfl
@[simp] theorem State.updHub_copies (n : Nat) (f : Hub → Hub) : (s.updHub n f).copies = s.copies := rfl
@[simp] theorem State.updHub_nms (n : Nat) (f : Hub → Hub) : (s.updHub n f).nms = s.nms := rfl
@[simp] theorem State.updHub_touched (n : Nat) (f : Hub → Hub) : (s.updHub n f).touched = s.touched := rfl
@[simp] theorem State.updHub_ctes (n : Nat) (f : Hub → Hub) : (s.updHub n f).ctes = s.ctes := rfl
@[simp] theorem State.updHub_wstat (n : Nat) (f : Hub → Hub) : (s.updHub n f).wstat = s.wstat := rfl
@[simp] theorem State.updHub_laneFlt (n : Nat) (f : Hub → Hub) : (s.updHub n f).laneFlt = s.laneFlt := rfl
@[simp] theorem State.updHub_linksDown (n : Nat) (f : Hub → Hub) : (s.updHub n f).linksDown = s.linksDown := rfl
@[simp] theorem State.updHub_peersUp (n : Nat) (f : Hub → Hub) : (s.updHub n f).peersUp = s.peersUp := rfl
@[simp] theorem State.updHub_vault (n : Nat) (f : Hub → Hub) : (s.updHub n f).vault = s.vault := rfl
@[simp] theorem State.updHub_firmware (n : Nat) (f : Hub → Hub) : (s.updHub n f).firmware = s.firmware := rfl
@[simp] theorem State.updHub_booted (n : Nat) (f : Hub → Hub) : (s.updHub n f).booted = s.booted := rfl
@[simp] theorem State.updHub_relays (n : Nat) (f : Hub → Hub) : (s.updHub n f).relays = s.relays := rfl
@[simp] theorem State.updHub_sideband (n : Nat) (f : Hub → Hub) : (s.updHub n f).sideband = s.sideband := rfl
@[simp] theorem State.updHub_irqs (n : Nat) (f : Hub → Hub) : (s.updHub n f).irqs = s.irqs := rfl
@[simp] theorem State.updHub_checks (n : Nat) (f : Hub → Hub) : (s.updHub n f).checks = s.checks := rfl
@[simp] theorem State.updHub_capver (n : Nat) (f : Hub → Hub) : (s.updHub n f).capver = s.capver := rfl
@[simp] theorem State.updHub_badPages (n : Nat) (f : Hub → Hub) : (s.updHub n f).badPages = s.badPages := rfl

/-! ## updDie -/

@[simp] theorem State.updDie_clock (n : Nat) (f : Die → Die) : (s.updDie n f).clock = s.clock := rfl
@[simp] theorem State.updDie_free (n : Nat) (f : Die → Die) : (s.updDie n f).free = s.free := rfl
@[simp] theorem State.updDie_nextId (n : Nat) (f : Die → Die) : (s.updDie n f).nextId = s.nextId := rfl
@[simp] theorem State.updDie_agenda (n : Nat) (f : Die → Die) : (s.updDie n f).agenda = s.agenda := rfl
@[simp] theorem State.updDie_ages (n : Nat) (f : Die → Die) : (s.updDie n f).ages = s.ages := rfl
@[simp] theorem State.updDie_cur (n : Nat) (f : Die → Die) : (s.updDie n f).cur = s.cur := rfl
@[simp] theorem State.updDie_curHart (n : Nat) (f : Die → Die) : (s.updDie n f).curHart = s.curHart := rfl
@[simp] theorem State.updDie_inReset (n : Nat) (f : Die → Die) : (s.updDie n f).inReset = s.inReset := rfl
@[simp] theorem State.updDie_resetWhy (n : Nat) (f : Die → Die) : (s.updDie n f).resetWhy = s.resetWhy := rfl
@[simp] theorem State.updDie_mem (n : Nat) (f : Die → Die) : (s.updDie n f).mem = s.mem := rfl
@[simp] theorem State.updDie_poison (n : Nat) (f : Die → Die) : (s.updDie n f).poison = s.poison := rfl
@[simp] theorem State.updDie_tenants (n : Nat) (f : Die → Die) : (s.updDie n f).tenants = s.tenants := rfl
@[simp] theorem State.updDie_hubs (n : Nat) (f : Die → Die) : (s.updDie n f).hubs = s.hubs := rfl
@[simp] theorem State.updDie_dies (n : Nat) (f : Die → Die) : (s.updDie n f).dies = s.dies.modify n f := rfl
@[simp] theorem State.updDie_cores (n : Nat) (f : Die → Die) : (s.updDie n f).cores = s.cores := rfl
@[simp] theorem State.updDie_clocks (n : Nat) (f : Die → Die) : (s.updDie n f).clocks = s.clocks := rfl
@[simp] theorem State.updDie_harts (n : Nat) (f : Die → Die) : (s.updDie n f).harts = s.harts := rfl
@[simp] theorem State.updDie_tasks (n : Nat) (f : Die → Die) : (s.updDie n f).tasks = s.tasks := rfl
@[simp] theorem State.updDie_slices (n : Nat) (f : Die → Die) : (s.updDie n f).slices = s.slices := rfl
@[simp] theorem State.updDie_blocks (n : Nat) (f : Die → Die) : (s.updDie n f).blocks = s.blocks := rfl
@[simp] theorem State.updDie_waves (n : Nat) (f : Die → Die) : (s.updDie n f).waves = s.waves := rfl
@[simp] theorem State.updDie_loops (n : Nat) (f : Die → Die) : (s.updDie n f).loops = s.loops := rfl
@[simp] theorem State.updDie_faults (n : Nat) (f : Die → Die) : (s.updDie n f).faults = s.faults := rfl
@[simp] theorem State.updDie_tlb (n : Nat) (f : Die → Die) : (s.updDie n f).tlb = s.tlb := rfl
@[simp] theorem State.updDie_dir (n : Nat) (f : Die → Die) : (s.updDie n f).dir = s.dir := rfl
@[simp] theorem State.updDie_l1 (n : Nat) (f : Die → Die) : (s.updDie n f).l1 = s.l1 := rfl
@[simp] theorem State.updDie_locks (n : Nat) (f : Die → Die) : (s.updDie n f).locks = s.locks := rfl
@[simp] theorem State.updDie_latent (n : Nat) (f : Die → Die) : (s.updDie n f).latent = s.latent := rfl
@[simp] theorem State.updDie_moves (n : Nat) (f : Die → Die) : (s.updDie n f).moves = s.moves := rfl
@[simp] theorem State.updDie_forwards (n : Nat) (f : Die → Die) : (s.updDie n f).forwards = s.forwards := rfl
@[simp] theorem State.updDie_handovers (n : Nat) (f : Die → Die) : (s.updDie n f).handovers = s.handovers := rfl
@[simp] theorem State.updDie_modPart (n : Nat) (f : Die → Die) : (s.updDie n f).modPart = s.modPart := rfl
@[simp] theorem State.updDie_attest (n : Nat) (f : Die → Die) : (s.updDie n f).attest = s.attest := rfl
@[simp] theorem State.updDie_vaultrd (n : Nat) (f : Die → Die) : (s.updDie n f).vaultrd = s.vaultrd := rfl
@[simp] theorem State.updDie_poolOwt (n : Nat) (f : Die → Die) : (s.updDie n f).poolOwt = s.poolOwt := rfl
@[simp] theorem State.updDie_poolCmd (n : Nat) (f : Die → Die) : (s.updDie n f).poolCmd = s.poolCmd := rfl
@[simp] theorem State.updDie_engines (n : Nat) (f : Die → Die) : (s.updDie n f).engines = s.engines := rfl
@[simp] theorem State.updDie_mats (n : Nat) (f : Die → Die) : (s.updDie n f).mats = s.mats := rfl
@[simp] theorem State.updDie_copies (n : Nat) (f : Die → Die) : (s.updDie n f).copies = s.copies := rfl
@[simp] theorem State.updDie_nms (n : Nat) (f : Die → Die) : (s.updDie n f).nms = s.nms := rfl
@[simp] theorem State.updDie_touched (n : Nat) (f : Die → Die) : (s.updDie n f).touched = s.touched := rfl
@[simp] theorem State.updDie_ctes (n : Nat) (f : Die → Die) : (s.updDie n f).ctes = s.ctes := rfl
@[simp] theorem State.updDie_wstat (n : Nat) (f : Die → Die) : (s.updDie n f).wstat = s.wstat := rfl
@[simp] theorem State.updDie_laneFlt (n : Nat) (f : Die → Die) : (s.updDie n f).laneFlt = s.laneFlt := rfl
@[simp] theorem State.updDie_linksDown (n : Nat) (f : Die → Die) : (s.updDie n f).linksDown = s.linksDown := rfl
@[simp] theorem State.updDie_peersUp (n : Nat) (f : Die → Die) : (s.updDie n f).peersUp = s.peersUp := rfl
@[simp] theorem State.updDie_vault (n : Nat) (f : Die → Die) : (s.updDie n f).vault = s.vault := rfl
@[simp] theorem State.updDie_firmware (n : Nat) (f : Die → Die) : (s.updDie n f).firmware = s.firmware := rfl
@[simp] theorem State.updDie_booted (n : Nat) (f : Die → Die) : (s.updDie n f).booted = s.booted := rfl
@[simp] theorem State.updDie_relays (n : Nat) (f : Die → Die) : (s.updDie n f).relays = s.relays := rfl
@[simp] theorem State.updDie_sideband (n : Nat) (f : Die → Die) : (s.updDie n f).sideband = s.sideband := rfl
@[simp] theorem State.updDie_irqs (n : Nat) (f : Die → Die) : (s.updDie n f).irqs = s.irqs := rfl
@[simp] theorem State.updDie_checks (n : Nat) (f : Die → Die) : (s.updDie n f).checks = s.checks := rfl
@[simp] theorem State.updDie_capver (n : Nat) (f : Die → Die) : (s.updDie n f).capver = s.capver := rfl
@[simp] theorem State.updDie_badPages (n : Nat) (f : Die → Die) : (s.updDie n f).badPages = s.badPages := rfl

/-! ## updCore -/

@[simp] theorem State.updCore_clock (n : Nat) (f : Core → Core) : (s.updCore n f).clock = s.clock := rfl
@[simp] theorem State.updCore_free (n : Nat) (f : Core → Core) : (s.updCore n f).free = s.free := rfl
@[simp] theorem State.updCore_nextId (n : Nat) (f : Core → Core) : (s.updCore n f).nextId = s.nextId := rfl
@[simp] theorem State.updCore_agenda (n : Nat) (f : Core → Core) : (s.updCore n f).agenda = s.agenda := rfl
@[simp] theorem State.updCore_ages (n : Nat) (f : Core → Core) : (s.updCore n f).ages = s.ages := rfl
@[simp] theorem State.updCore_cur (n : Nat) (f : Core → Core) : (s.updCore n f).cur = s.cur := rfl
@[simp] theorem State.updCore_curHart (n : Nat) (f : Core → Core) : (s.updCore n f).curHart = s.curHart := rfl
@[simp] theorem State.updCore_inReset (n : Nat) (f : Core → Core) : (s.updCore n f).inReset = s.inReset := rfl
@[simp] theorem State.updCore_resetWhy (n : Nat) (f : Core → Core) : (s.updCore n f).resetWhy = s.resetWhy := rfl
@[simp] theorem State.updCore_mem (n : Nat) (f : Core → Core) : (s.updCore n f).mem = s.mem := rfl
@[simp] theorem State.updCore_poison (n : Nat) (f : Core → Core) : (s.updCore n f).poison = s.poison := rfl
@[simp] theorem State.updCore_tenants (n : Nat) (f : Core → Core) : (s.updCore n f).tenants = s.tenants := rfl
@[simp] theorem State.updCore_hubs (n : Nat) (f : Core → Core) : (s.updCore n f).hubs = s.hubs := rfl
@[simp] theorem State.updCore_dies (n : Nat) (f : Core → Core) : (s.updCore n f).dies = s.dies := rfl
@[simp] theorem State.updCore_cores (n : Nat) (f : Core → Core) : (s.updCore n f).cores = s.cores.modify n f := rfl
@[simp] theorem State.updCore_clocks (n : Nat) (f : Core → Core) : (s.updCore n f).clocks = s.clocks := rfl
@[simp] theorem State.updCore_harts (n : Nat) (f : Core → Core) : (s.updCore n f).harts = s.harts := rfl
@[simp] theorem State.updCore_tasks (n : Nat) (f : Core → Core) : (s.updCore n f).tasks = s.tasks := rfl
@[simp] theorem State.updCore_slices (n : Nat) (f : Core → Core) : (s.updCore n f).slices = s.slices := rfl
@[simp] theorem State.updCore_blocks (n : Nat) (f : Core → Core) : (s.updCore n f).blocks = s.blocks := rfl
@[simp] theorem State.updCore_waves (n : Nat) (f : Core → Core) : (s.updCore n f).waves = s.waves := rfl
@[simp] theorem State.updCore_loops (n : Nat) (f : Core → Core) : (s.updCore n f).loops = s.loops := rfl
@[simp] theorem State.updCore_faults (n : Nat) (f : Core → Core) : (s.updCore n f).faults = s.faults := rfl
@[simp] theorem State.updCore_tlb (n : Nat) (f : Core → Core) : (s.updCore n f).tlb = s.tlb := rfl
@[simp] theorem State.updCore_dir (n : Nat) (f : Core → Core) : (s.updCore n f).dir = s.dir := rfl
@[simp] theorem State.updCore_l1 (n : Nat) (f : Core → Core) : (s.updCore n f).l1 = s.l1 := rfl
@[simp] theorem State.updCore_locks (n : Nat) (f : Core → Core) : (s.updCore n f).locks = s.locks := rfl
@[simp] theorem State.updCore_latent (n : Nat) (f : Core → Core) : (s.updCore n f).latent = s.latent := rfl
@[simp] theorem State.updCore_moves (n : Nat) (f : Core → Core) : (s.updCore n f).moves = s.moves := rfl
@[simp] theorem State.updCore_forwards (n : Nat) (f : Core → Core) : (s.updCore n f).forwards = s.forwards := rfl
@[simp] theorem State.updCore_handovers (n : Nat) (f : Core → Core) : (s.updCore n f).handovers = s.handovers := rfl
@[simp] theorem State.updCore_modPart (n : Nat) (f : Core → Core) : (s.updCore n f).modPart = s.modPart := rfl
@[simp] theorem State.updCore_attest (n : Nat) (f : Core → Core) : (s.updCore n f).attest = s.attest := rfl
@[simp] theorem State.updCore_vaultrd (n : Nat) (f : Core → Core) : (s.updCore n f).vaultrd = s.vaultrd := rfl
@[simp] theorem State.updCore_poolOwt (n : Nat) (f : Core → Core) : (s.updCore n f).poolOwt = s.poolOwt := rfl
@[simp] theorem State.updCore_poolCmd (n : Nat) (f : Core → Core) : (s.updCore n f).poolCmd = s.poolCmd := rfl
@[simp] theorem State.updCore_engines (n : Nat) (f : Core → Core) : (s.updCore n f).engines = s.engines := rfl
@[simp] theorem State.updCore_mats (n : Nat) (f : Core → Core) : (s.updCore n f).mats = s.mats := rfl
@[simp] theorem State.updCore_copies (n : Nat) (f : Core → Core) : (s.updCore n f).copies = s.copies := rfl
@[simp] theorem State.updCore_nms (n : Nat) (f : Core → Core) : (s.updCore n f).nms = s.nms := rfl
@[simp] theorem State.updCore_touched (n : Nat) (f : Core → Core) : (s.updCore n f).touched = s.touched := rfl
@[simp] theorem State.updCore_ctes (n : Nat) (f : Core → Core) : (s.updCore n f).ctes = s.ctes := rfl
@[simp] theorem State.updCore_wstat (n : Nat) (f : Core → Core) : (s.updCore n f).wstat = s.wstat := rfl
@[simp] theorem State.updCore_laneFlt (n : Nat) (f : Core → Core) : (s.updCore n f).laneFlt = s.laneFlt := rfl
@[simp] theorem State.updCore_linksDown (n : Nat) (f : Core → Core) : (s.updCore n f).linksDown = s.linksDown := rfl
@[simp] theorem State.updCore_peersUp (n : Nat) (f : Core → Core) : (s.updCore n f).peersUp = s.peersUp := rfl
@[simp] theorem State.updCore_vault (n : Nat) (f : Core → Core) : (s.updCore n f).vault = s.vault := rfl
@[simp] theorem State.updCore_firmware (n : Nat) (f : Core → Core) : (s.updCore n f).firmware = s.firmware := rfl
@[simp] theorem State.updCore_booted (n : Nat) (f : Core → Core) : (s.updCore n f).booted = s.booted := rfl
@[simp] theorem State.updCore_relays (n : Nat) (f : Core → Core) : (s.updCore n f).relays = s.relays := rfl
@[simp] theorem State.updCore_sideband (n : Nat) (f : Core → Core) : (s.updCore n f).sideband = s.sideband := rfl
@[simp] theorem State.updCore_irqs (n : Nat) (f : Core → Core) : (s.updCore n f).irqs = s.irqs := rfl
@[simp] theorem State.updCore_checks (n : Nat) (f : Core → Core) : (s.updCore n f).checks = s.checks := rfl
@[simp] theorem State.updCore_capver (n : Nat) (f : Core → Core) : (s.updCore n f).capver = s.capver := rfl
@[simp] theorem State.updCore_badPages (n : Nat) (f : Core → Core) : (s.updCore n f).badPages = s.badPages := rfl

/-! ## updHart -/

@[simp] theorem State.updHart_clock (n : Nat) (f : Hart → Hart) : (s.updHart n f).clock = s.clock := rfl
@[simp] theorem State.updHart_free (n : Nat) (f : Hart → Hart) : (s.updHart n f).free = s.free := rfl
@[simp] theorem State.updHart_nextId (n : Nat) (f : Hart → Hart) : (s.updHart n f).nextId = s.nextId := rfl
@[simp] theorem State.updHart_agenda (n : Nat) (f : Hart → Hart) : (s.updHart n f).agenda = s.agenda := rfl
@[simp] theorem State.updHart_ages (n : Nat) (f : Hart → Hart) : (s.updHart n f).ages = s.ages := rfl
@[simp] theorem State.updHart_cur (n : Nat) (f : Hart → Hart) : (s.updHart n f).cur = s.cur := rfl
@[simp] theorem State.updHart_curHart (n : Nat) (f : Hart → Hart) : (s.updHart n f).curHart = s.curHart := rfl
@[simp] theorem State.updHart_inReset (n : Nat) (f : Hart → Hart) : (s.updHart n f).inReset = s.inReset := rfl
@[simp] theorem State.updHart_resetWhy (n : Nat) (f : Hart → Hart) : (s.updHart n f).resetWhy = s.resetWhy := rfl
@[simp] theorem State.updHart_mem (n : Nat) (f : Hart → Hart) : (s.updHart n f).mem = s.mem := rfl
@[simp] theorem State.updHart_poison (n : Nat) (f : Hart → Hart) : (s.updHart n f).poison = s.poison := rfl
@[simp] theorem State.updHart_tenants (n : Nat) (f : Hart → Hart) : (s.updHart n f).tenants = s.tenants := rfl
@[simp] theorem State.updHart_hubs (n : Nat) (f : Hart → Hart) : (s.updHart n f).hubs = s.hubs := rfl
@[simp] theorem State.updHart_dies (n : Nat) (f : Hart → Hart) : (s.updHart n f).dies = s.dies := rfl
@[simp] theorem State.updHart_cores (n : Nat) (f : Hart → Hart) : (s.updHart n f).cores = s.cores := rfl
@[simp] theorem State.updHart_clocks (n : Nat) (f : Hart → Hart) : (s.updHart n f).clocks = s.clocks := rfl
@[simp] theorem State.updHart_harts (n : Nat) (f : Hart → Hart) : (s.updHart n f).harts = s.harts.modify n f := rfl
@[simp] theorem State.updHart_tasks (n : Nat) (f : Hart → Hart) : (s.updHart n f).tasks = s.tasks := rfl
@[simp] theorem State.updHart_slices (n : Nat) (f : Hart → Hart) : (s.updHart n f).slices = s.slices := rfl
@[simp] theorem State.updHart_blocks (n : Nat) (f : Hart → Hart) : (s.updHart n f).blocks = s.blocks := rfl
@[simp] theorem State.updHart_waves (n : Nat) (f : Hart → Hart) : (s.updHart n f).waves = s.waves := rfl
@[simp] theorem State.updHart_loops (n : Nat) (f : Hart → Hart) : (s.updHart n f).loops = s.loops := rfl
@[simp] theorem State.updHart_faults (n : Nat) (f : Hart → Hart) : (s.updHart n f).faults = s.faults := rfl
@[simp] theorem State.updHart_tlb (n : Nat) (f : Hart → Hart) : (s.updHart n f).tlb = s.tlb := rfl
@[simp] theorem State.updHart_dir (n : Nat) (f : Hart → Hart) : (s.updHart n f).dir = s.dir := rfl
@[simp] theorem State.updHart_l1 (n : Nat) (f : Hart → Hart) : (s.updHart n f).l1 = s.l1 := rfl
@[simp] theorem State.updHart_locks (n : Nat) (f : Hart → Hart) : (s.updHart n f).locks = s.locks := rfl
@[simp] theorem State.updHart_latent (n : Nat) (f : Hart → Hart) : (s.updHart n f).latent = s.latent := rfl
@[simp] theorem State.updHart_moves (n : Nat) (f : Hart → Hart) : (s.updHart n f).moves = s.moves := rfl
@[simp] theorem State.updHart_forwards (n : Nat) (f : Hart → Hart) : (s.updHart n f).forwards = s.forwards := rfl
@[simp] theorem State.updHart_handovers (n : Nat) (f : Hart → Hart) : (s.updHart n f).handovers = s.handovers := rfl
@[simp] theorem State.updHart_modPart (n : Nat) (f : Hart → Hart) : (s.updHart n f).modPart = s.modPart := rfl
@[simp] theorem State.updHart_attest (n : Nat) (f : Hart → Hart) : (s.updHart n f).attest = s.attest := rfl
@[simp] theorem State.updHart_vaultrd (n : Nat) (f : Hart → Hart) : (s.updHart n f).vaultrd = s.vaultrd := rfl
@[simp] theorem State.updHart_poolOwt (n : Nat) (f : Hart → Hart) : (s.updHart n f).poolOwt = s.poolOwt := rfl
@[simp] theorem State.updHart_poolCmd (n : Nat) (f : Hart → Hart) : (s.updHart n f).poolCmd = s.poolCmd := rfl
@[simp] theorem State.updHart_engines (n : Nat) (f : Hart → Hart) : (s.updHart n f).engines = s.engines := rfl
@[simp] theorem State.updHart_mats (n : Nat) (f : Hart → Hart) : (s.updHart n f).mats = s.mats := rfl
@[simp] theorem State.updHart_copies (n : Nat) (f : Hart → Hart) : (s.updHart n f).copies = s.copies := rfl
@[simp] theorem State.updHart_nms (n : Nat) (f : Hart → Hart) : (s.updHart n f).nms = s.nms := rfl
@[simp] theorem State.updHart_touched (n : Nat) (f : Hart → Hart) : (s.updHart n f).touched = s.touched := rfl
@[simp] theorem State.updHart_ctes (n : Nat) (f : Hart → Hart) : (s.updHart n f).ctes = s.ctes := rfl
@[simp] theorem State.updHart_wstat (n : Nat) (f : Hart → Hart) : (s.updHart n f).wstat = s.wstat := rfl
@[simp] theorem State.updHart_laneFlt (n : Nat) (f : Hart → Hart) : (s.updHart n f).laneFlt = s.laneFlt := rfl
@[simp] theorem State.updHart_linksDown (n : Nat) (f : Hart → Hart) : (s.updHart n f).linksDown = s.linksDown := rfl
@[simp] theorem State.updHart_peersUp (n : Nat) (f : Hart → Hart) : (s.updHart n f).peersUp = s.peersUp := rfl
@[simp] theorem State.updHart_vault (n : Nat) (f : Hart → Hart) : (s.updHart n f).vault = s.vault := rfl
@[simp] theorem State.updHart_firmware (n : Nat) (f : Hart → Hart) : (s.updHart n f).firmware = s.firmware := rfl
@[simp] theorem State.updHart_booted (n : Nat) (f : Hart → Hart) : (s.updHart n f).booted = s.booted := rfl
@[simp] theorem State.updHart_relays (n : Nat) (f : Hart → Hart) : (s.updHart n f).relays = s.relays := rfl
@[simp] theorem State.updHart_sideband (n : Nat) (f : Hart → Hart) : (s.updHart n f).sideband = s.sideband := rfl
@[simp] theorem State.updHart_irqs (n : Nat) (f : Hart → Hart) : (s.updHart n f).irqs = s.irqs := rfl
@[simp] theorem State.updHart_checks (n : Nat) (f : Hart → Hart) : (s.updHart n f).checks = s.checks := rfl
@[simp] theorem State.updHart_capver (n : Nat) (f : Hart → Hart) : (s.updHart n f).capver = s.capver := rfl
@[simp] theorem State.updHart_badPages (n : Nat) (f : Hart → Hart) : (s.updHart n f).badPages = s.badPages := rfl

/-! ## updSlice -/

@[simp] theorem State.updSlice_clock (n : Nat) (f : Slice → Slice) : (s.updSlice n f).clock = s.clock := rfl
@[simp] theorem State.updSlice_free (n : Nat) (f : Slice → Slice) : (s.updSlice n f).free = s.free := rfl
@[simp] theorem State.updSlice_nextId (n : Nat) (f : Slice → Slice) : (s.updSlice n f).nextId = s.nextId := rfl
@[simp] theorem State.updSlice_agenda (n : Nat) (f : Slice → Slice) : (s.updSlice n f).agenda = s.agenda := rfl
@[simp] theorem State.updSlice_ages (n : Nat) (f : Slice → Slice) : (s.updSlice n f).ages = s.ages := rfl
@[simp] theorem State.updSlice_cur (n : Nat) (f : Slice → Slice) : (s.updSlice n f).cur = s.cur := rfl
@[simp] theorem State.updSlice_curHart (n : Nat) (f : Slice → Slice) : (s.updSlice n f).curHart = s.curHart := rfl
@[simp] theorem State.updSlice_inReset (n : Nat) (f : Slice → Slice) : (s.updSlice n f).inReset = s.inReset := rfl
@[simp] theorem State.updSlice_resetWhy (n : Nat) (f : Slice → Slice) : (s.updSlice n f).resetWhy = s.resetWhy := rfl
@[simp] theorem State.updSlice_mem (n : Nat) (f : Slice → Slice) : (s.updSlice n f).mem = s.mem := rfl
@[simp] theorem State.updSlice_poison (n : Nat) (f : Slice → Slice) : (s.updSlice n f).poison = s.poison := rfl
@[simp] theorem State.updSlice_tenants (n : Nat) (f : Slice → Slice) : (s.updSlice n f).tenants = s.tenants := rfl
@[simp] theorem State.updSlice_hubs (n : Nat) (f : Slice → Slice) : (s.updSlice n f).hubs = s.hubs := rfl
@[simp] theorem State.updSlice_dies (n : Nat) (f : Slice → Slice) : (s.updSlice n f).dies = s.dies := rfl
@[simp] theorem State.updSlice_cores (n : Nat) (f : Slice → Slice) : (s.updSlice n f).cores = s.cores := rfl
@[simp] theorem State.updSlice_clocks (n : Nat) (f : Slice → Slice) : (s.updSlice n f).clocks = s.clocks := rfl
@[simp] theorem State.updSlice_harts (n : Nat) (f : Slice → Slice) : (s.updSlice n f).harts = s.harts := rfl
@[simp] theorem State.updSlice_tasks (n : Nat) (f : Slice → Slice) : (s.updSlice n f).tasks = s.tasks := rfl
@[simp] theorem State.updSlice_slices (n : Nat) (f : Slice → Slice) : (s.updSlice n f).slices = s.slices.modify n f := rfl
@[simp] theorem State.updSlice_blocks (n : Nat) (f : Slice → Slice) : (s.updSlice n f).blocks = s.blocks := rfl
@[simp] theorem State.updSlice_waves (n : Nat) (f : Slice → Slice) : (s.updSlice n f).waves = s.waves := rfl
@[simp] theorem State.updSlice_loops (n : Nat) (f : Slice → Slice) : (s.updSlice n f).loops = s.loops := rfl
@[simp] theorem State.updSlice_faults (n : Nat) (f : Slice → Slice) : (s.updSlice n f).faults = s.faults := rfl
@[simp] theorem State.updSlice_tlb (n : Nat) (f : Slice → Slice) : (s.updSlice n f).tlb = s.tlb := rfl
@[simp] theorem State.updSlice_dir (n : Nat) (f : Slice → Slice) : (s.updSlice n f).dir = s.dir := rfl
@[simp] theorem State.updSlice_l1 (n : Nat) (f : Slice → Slice) : (s.updSlice n f).l1 = s.l1 := rfl
@[simp] theorem State.updSlice_locks (n : Nat) (f : Slice → Slice) : (s.updSlice n f).locks = s.locks := rfl
@[simp] theorem State.updSlice_latent (n : Nat) (f : Slice → Slice) : (s.updSlice n f).latent = s.latent := rfl
@[simp] theorem State.updSlice_moves (n : Nat) (f : Slice → Slice) : (s.updSlice n f).moves = s.moves := rfl
@[simp] theorem State.updSlice_forwards (n : Nat) (f : Slice → Slice) : (s.updSlice n f).forwards = s.forwards := rfl
@[simp] theorem State.updSlice_handovers (n : Nat) (f : Slice → Slice) : (s.updSlice n f).handovers = s.handovers := rfl
@[simp] theorem State.updSlice_modPart (n : Nat) (f : Slice → Slice) : (s.updSlice n f).modPart = s.modPart := rfl
@[simp] theorem State.updSlice_attest (n : Nat) (f : Slice → Slice) : (s.updSlice n f).attest = s.attest := rfl
@[simp] theorem State.updSlice_vaultrd (n : Nat) (f : Slice → Slice) : (s.updSlice n f).vaultrd = s.vaultrd := rfl
@[simp] theorem State.updSlice_poolOwt (n : Nat) (f : Slice → Slice) : (s.updSlice n f).poolOwt = s.poolOwt := rfl
@[simp] theorem State.updSlice_poolCmd (n : Nat) (f : Slice → Slice) : (s.updSlice n f).poolCmd = s.poolCmd := rfl
@[simp] theorem State.updSlice_engines (n : Nat) (f : Slice → Slice) : (s.updSlice n f).engines = s.engines := rfl
@[simp] theorem State.updSlice_mats (n : Nat) (f : Slice → Slice) : (s.updSlice n f).mats = s.mats := rfl
@[simp] theorem State.updSlice_copies (n : Nat) (f : Slice → Slice) : (s.updSlice n f).copies = s.copies := rfl
@[simp] theorem State.updSlice_nms (n : Nat) (f : Slice → Slice) : (s.updSlice n f).nms = s.nms := rfl
@[simp] theorem State.updSlice_touched (n : Nat) (f : Slice → Slice) : (s.updSlice n f).touched = s.touched := rfl
@[simp] theorem State.updSlice_ctes (n : Nat) (f : Slice → Slice) : (s.updSlice n f).ctes = s.ctes := rfl
@[simp] theorem State.updSlice_wstat (n : Nat) (f : Slice → Slice) : (s.updSlice n f).wstat = s.wstat := rfl
@[simp] theorem State.updSlice_laneFlt (n : Nat) (f : Slice → Slice) : (s.updSlice n f).laneFlt = s.laneFlt := rfl
@[simp] theorem State.updSlice_linksDown (n : Nat) (f : Slice → Slice) : (s.updSlice n f).linksDown = s.linksDown := rfl
@[simp] theorem State.updSlice_peersUp (n : Nat) (f : Slice → Slice) : (s.updSlice n f).peersUp = s.peersUp := rfl
@[simp] theorem State.updSlice_vault (n : Nat) (f : Slice → Slice) : (s.updSlice n f).vault = s.vault := rfl
@[simp] theorem State.updSlice_firmware (n : Nat) (f : Slice → Slice) : (s.updSlice n f).firmware = s.firmware := rfl
@[simp] theorem State.updSlice_booted (n : Nat) (f : Slice → Slice) : (s.updSlice n f).booted = s.booted := rfl
@[simp] theorem State.updSlice_relays (n : Nat) (f : Slice → Slice) : (s.updSlice n f).relays = s.relays := rfl
@[simp] theorem State.updSlice_sideband (n : Nat) (f : Slice → Slice) : (s.updSlice n f).sideband = s.sideband := rfl
@[simp] theorem State.updSlice_irqs (n : Nat) (f : Slice → Slice) : (s.updSlice n f).irqs = s.irqs := rfl
@[simp] theorem State.updSlice_checks (n : Nat) (f : Slice → Slice) : (s.updSlice n f).checks = s.checks := rfl
@[simp] theorem State.updSlice_capver (n : Nat) (f : Slice → Slice) : (s.updSlice n f).capver = s.capver := rfl
@[simp] theorem State.updSlice_badPages (n : Nat) (f : Slice → Slice) : (s.updSlice n f).badPages = s.badPages := rfl

/-! ## updWave -/

@[simp] theorem State.updWave_clock (r : WaveRef) (f : Wave → Wave) : (s.updWave r f).clock = s.clock := rfl
@[simp] theorem State.updWave_free (r : WaveRef) (f : Wave → Wave) : (s.updWave r f).free = s.free := rfl
@[simp] theorem State.updWave_nextId (r : WaveRef) (f : Wave → Wave) : (s.updWave r f).nextId = s.nextId := rfl
@[simp] theorem State.updWave_agenda (r : WaveRef) (f : Wave → Wave) : (s.updWave r f).agenda = s.agenda := rfl
@[simp] theorem State.updWave_ages (r : WaveRef) (f : Wave → Wave) : (s.updWave r f).ages = s.ages := rfl
@[simp] theorem State.updWave_cur (r : WaveRef) (f : Wave → Wave) : (s.updWave r f).cur = s.cur := rfl
@[simp] theorem State.updWave_curHart (r : WaveRef) (f : Wave → Wave) : (s.updWave r f).curHart = s.curHart := rfl
@[simp] theorem State.updWave_inReset (r : WaveRef) (f : Wave → Wave) : (s.updWave r f).inReset = s.inReset := rfl
@[simp] theorem State.updWave_resetWhy (r : WaveRef) (f : Wave → Wave) : (s.updWave r f).resetWhy = s.resetWhy := rfl
@[simp] theorem State.updWave_mem (r : WaveRef) (f : Wave → Wave) : (s.updWave r f).mem = s.mem := rfl
@[simp] theorem State.updWave_poison (r : WaveRef) (f : Wave → Wave) : (s.updWave r f).poison = s.poison := rfl
@[simp] theorem State.updWave_tenants (r : WaveRef) (f : Wave → Wave) : (s.updWave r f).tenants = s.tenants := rfl
@[simp] theorem State.updWave_hubs (r : WaveRef) (f : Wave → Wave) : (s.updWave r f).hubs = s.hubs := rfl
@[simp] theorem State.updWave_dies (r : WaveRef) (f : Wave → Wave) : (s.updWave r f).dies = s.dies := rfl
@[simp] theorem State.updWave_cores (r : WaveRef) (f : Wave → Wave) : (s.updWave r f).cores = s.cores := rfl
@[simp] theorem State.updWave_clocks (r : WaveRef) (f : Wave → Wave) : (s.updWave r f).clocks = s.clocks := rfl
@[simp] theorem State.updWave_harts (r : WaveRef) (f : Wave → Wave) : (s.updWave r f).harts = s.harts := rfl
@[simp] theorem State.updWave_tasks (r : WaveRef) (f : Wave → Wave) : (s.updWave r f).tasks = s.tasks := rfl
@[simp] theorem State.updWave_slices (r : WaveRef) (f : Wave → Wave) : (s.updWave r f).slices = s.slices := rfl
@[simp] theorem State.updWave_blocks (r : WaveRef) (f : Wave → Wave) : (s.updWave r f).blocks = s.blocks := rfl
@[simp] theorem State.updWave_waves (r : WaveRef) (f : Wave → Wave) : (s.updWave r f).waves = s.waves.map fun w => if w.ref == r then f w else w := rfl
@[simp] theorem State.updWave_loops (r : WaveRef) (f : Wave → Wave) : (s.updWave r f).loops = s.loops := rfl
@[simp] theorem State.updWave_faults (r : WaveRef) (f : Wave → Wave) : (s.updWave r f).faults = s.faults := rfl
@[simp] theorem State.updWave_tlb (r : WaveRef) (f : Wave → Wave) : (s.updWave r f).tlb = s.tlb := rfl
@[simp] theorem State.updWave_dir (r : WaveRef) (f : Wave → Wave) : (s.updWave r f).dir = s.dir := rfl
@[simp] theorem State.updWave_l1 (r : WaveRef) (f : Wave → Wave) : (s.updWave r f).l1 = s.l1 := rfl
@[simp] theorem State.updWave_locks (r : WaveRef) (f : Wave → Wave) : (s.updWave r f).locks = s.locks := rfl
@[simp] theorem State.updWave_latent (r : WaveRef) (f : Wave → Wave) : (s.updWave r f).latent = s.latent := rfl
@[simp] theorem State.updWave_moves (r : WaveRef) (f : Wave → Wave) : (s.updWave r f).moves = s.moves := rfl
@[simp] theorem State.updWave_forwards (r : WaveRef) (f : Wave → Wave) : (s.updWave r f).forwards = s.forwards := rfl
@[simp] theorem State.updWave_handovers (r : WaveRef) (f : Wave → Wave) : (s.updWave r f).handovers = s.handovers := rfl
@[simp] theorem State.updWave_modPart (r : WaveRef) (f : Wave → Wave) : (s.updWave r f).modPart = s.modPart := rfl
@[simp] theorem State.updWave_attest (r : WaveRef) (f : Wave → Wave) : (s.updWave r f).attest = s.attest := rfl
@[simp] theorem State.updWave_vaultrd (r : WaveRef) (f : Wave → Wave) : (s.updWave r f).vaultrd = s.vaultrd := rfl
@[simp] theorem State.updWave_poolOwt (r : WaveRef) (f : Wave → Wave) : (s.updWave r f).poolOwt = s.poolOwt := rfl
@[simp] theorem State.updWave_poolCmd (r : WaveRef) (f : Wave → Wave) : (s.updWave r f).poolCmd = s.poolCmd := rfl
@[simp] theorem State.updWave_engines (r : WaveRef) (f : Wave → Wave) : (s.updWave r f).engines = s.engines := rfl
@[simp] theorem State.updWave_mats (r : WaveRef) (f : Wave → Wave) : (s.updWave r f).mats = s.mats := rfl
@[simp] theorem State.updWave_copies (r : WaveRef) (f : Wave → Wave) : (s.updWave r f).copies = s.copies := rfl
@[simp] theorem State.updWave_nms (r : WaveRef) (f : Wave → Wave) : (s.updWave r f).nms = s.nms := rfl
@[simp] theorem State.updWave_touched (r : WaveRef) (f : Wave → Wave) : (s.updWave r f).touched = s.touched := rfl
@[simp] theorem State.updWave_ctes (r : WaveRef) (f : Wave → Wave) : (s.updWave r f).ctes = s.ctes := rfl
@[simp] theorem State.updWave_wstat (r : WaveRef) (f : Wave → Wave) : (s.updWave r f).wstat = s.wstat := rfl
@[simp] theorem State.updWave_laneFlt (r : WaveRef) (f : Wave → Wave) : (s.updWave r f).laneFlt = s.laneFlt := rfl
@[simp] theorem State.updWave_linksDown (r : WaveRef) (f : Wave → Wave) : (s.updWave r f).linksDown = s.linksDown := rfl
@[simp] theorem State.updWave_peersUp (r : WaveRef) (f : Wave → Wave) : (s.updWave r f).peersUp = s.peersUp := rfl
@[simp] theorem State.updWave_vault (r : WaveRef) (f : Wave → Wave) : (s.updWave r f).vault = s.vault := rfl
@[simp] theorem State.updWave_firmware (r : WaveRef) (f : Wave → Wave) : (s.updWave r f).firmware = s.firmware := rfl
@[simp] theorem State.updWave_booted (r : WaveRef) (f : Wave → Wave) : (s.updWave r f).booted = s.booted := rfl
@[simp] theorem State.updWave_relays (r : WaveRef) (f : Wave → Wave) : (s.updWave r f).relays = s.relays := rfl
@[simp] theorem State.updWave_sideband (r : WaveRef) (f : Wave → Wave) : (s.updWave r f).sideband = s.sideband := rfl
@[simp] theorem State.updWave_irqs (r : WaveRef) (f : Wave → Wave) : (s.updWave r f).irqs = s.irqs := rfl
@[simp] theorem State.updWave_checks (r : WaveRef) (f : Wave → Wave) : (s.updWave r f).checks = s.checks := rfl
@[simp] theorem State.updWave_capver (r : WaveRef) (f : Wave → Wave) : (s.updWave r f).capver = s.capver := rfl
@[simp] theorem State.updWave_badPages (r : WaveRef) (f : Wave → Wave) : (s.updWave r f).badPages = s.badPages := rfl

/-! ## updThread -/

@[simp] theorem State.updThread_clock (r : ThreadRef) (f : Thread → Thread) : (s.updThread r f).clock = s.clock := rfl
@[simp] theorem State.updThread_free (r : ThreadRef) (f : Thread → Thread) : (s.updThread r f).free = s.free := rfl
@[simp] theorem State.updThread_nextId (r : ThreadRef) (f : Thread → Thread) : (s.updThread r f).nextId = s.nextId := rfl
@[simp] theorem State.updThread_agenda (r : ThreadRef) (f : Thread → Thread) : (s.updThread r f).agenda = s.agenda := rfl
@[simp] theorem State.updThread_ages (r : ThreadRef) (f : Thread → Thread) : (s.updThread r f).ages = s.ages := rfl
@[simp] theorem State.updThread_cur (r : ThreadRef) (f : Thread → Thread) : (s.updThread r f).cur = s.cur := rfl
@[simp] theorem State.updThread_curHart (r : ThreadRef) (f : Thread → Thread) : (s.updThread r f).curHart = s.curHart := rfl
@[simp] theorem State.updThread_inReset (r : ThreadRef) (f : Thread → Thread) : (s.updThread r f).inReset = s.inReset := rfl
@[simp] theorem State.updThread_resetWhy (r : ThreadRef) (f : Thread → Thread) : (s.updThread r f).resetWhy = s.resetWhy := rfl
@[simp] theorem State.updThread_mem (r : ThreadRef) (f : Thread → Thread) : (s.updThread r f).mem = s.mem := rfl
@[simp] theorem State.updThread_poison (r : ThreadRef) (f : Thread → Thread) : (s.updThread r f).poison = s.poison := rfl
@[simp] theorem State.updThread_tenants (r : ThreadRef) (f : Thread → Thread) : (s.updThread r f).tenants = s.tenants := rfl
@[simp] theorem State.updThread_hubs (r : ThreadRef) (f : Thread → Thread) : (s.updThread r f).hubs = s.hubs := rfl
@[simp] theorem State.updThread_dies (r : ThreadRef) (f : Thread → Thread) : (s.updThread r f).dies = s.dies := rfl
@[simp] theorem State.updThread_cores (r : ThreadRef) (f : Thread → Thread) : (s.updThread r f).cores = s.cores := rfl
@[simp] theorem State.updThread_clocks (r : ThreadRef) (f : Thread → Thread) : (s.updThread r f).clocks = s.clocks := rfl
@[simp] theorem State.updThread_harts (r : ThreadRef) (f : Thread → Thread) : (s.updThread r f).harts = s.harts := rfl
@[simp] theorem State.updThread_tasks (r : ThreadRef) (f : Thread → Thread) : (s.updThread r f).tasks = s.tasks := rfl
@[simp] theorem State.updThread_slices (r : ThreadRef) (f : Thread → Thread) : (s.updThread r f).slices = s.slices := rfl
@[simp] theorem State.updThread_blocks (r : ThreadRef) (f : Thread → Thread) : (s.updThread r f).blocks = s.blocks := rfl
@[simp] theorem State.updThread_waves (r : ThreadRef) (f : Thread → Thread) : (s.updThread r f).waves = s.waves.map fun w => if w.ref == r.wave then w.updThread r.lane f else w := rfl
@[simp] theorem State.updThread_loops (r : ThreadRef) (f : Thread → Thread) : (s.updThread r f).loops = s.loops := rfl
@[simp] theorem State.updThread_faults (r : ThreadRef) (f : Thread → Thread) : (s.updThread r f).faults = s.faults := rfl
@[simp] theorem State.updThread_tlb (r : ThreadRef) (f : Thread → Thread) : (s.updThread r f).tlb = s.tlb := rfl
@[simp] theorem State.updThread_dir (r : ThreadRef) (f : Thread → Thread) : (s.updThread r f).dir = s.dir := rfl
@[simp] theorem State.updThread_l1 (r : ThreadRef) (f : Thread → Thread) : (s.updThread r f).l1 = s.l1 := rfl
@[simp] theorem State.updThread_locks (r : ThreadRef) (f : Thread → Thread) : (s.updThread r f).locks = s.locks := rfl
@[simp] theorem State.updThread_latent (r : ThreadRef) (f : Thread → Thread) : (s.updThread r f).latent = s.latent := rfl
@[simp] theorem State.updThread_moves (r : ThreadRef) (f : Thread → Thread) : (s.updThread r f).moves = s.moves := rfl
@[simp] theorem State.updThread_forwards (r : ThreadRef) (f : Thread → Thread) : (s.updThread r f).forwards = s.forwards := rfl
@[simp] theorem State.updThread_handovers (r : ThreadRef) (f : Thread → Thread) : (s.updThread r f).handovers = s.handovers := rfl
@[simp] theorem State.updThread_modPart (r : ThreadRef) (f : Thread → Thread) : (s.updThread r f).modPart = s.modPart := rfl
@[simp] theorem State.updThread_attest (r : ThreadRef) (f : Thread → Thread) : (s.updThread r f).attest = s.attest := rfl
@[simp] theorem State.updThread_vaultrd (r : ThreadRef) (f : Thread → Thread) : (s.updThread r f).vaultrd = s.vaultrd := rfl
@[simp] theorem State.updThread_poolOwt (r : ThreadRef) (f : Thread → Thread) : (s.updThread r f).poolOwt = s.poolOwt := rfl
@[simp] theorem State.updThread_poolCmd (r : ThreadRef) (f : Thread → Thread) : (s.updThread r f).poolCmd = s.poolCmd := rfl
@[simp] theorem State.updThread_engines (r : ThreadRef) (f : Thread → Thread) : (s.updThread r f).engines = s.engines := rfl
@[simp] theorem State.updThread_mats (r : ThreadRef) (f : Thread → Thread) : (s.updThread r f).mats = s.mats := rfl
@[simp] theorem State.updThread_copies (r : ThreadRef) (f : Thread → Thread) : (s.updThread r f).copies = s.copies := rfl
@[simp] theorem State.updThread_nms (r : ThreadRef) (f : Thread → Thread) : (s.updThread r f).nms = s.nms := rfl
@[simp] theorem State.updThread_touched (r : ThreadRef) (f : Thread → Thread) : (s.updThread r f).touched = s.touched := rfl
@[simp] theorem State.updThread_ctes (r : ThreadRef) (f : Thread → Thread) : (s.updThread r f).ctes = s.ctes := rfl
@[simp] theorem State.updThread_wstat (r : ThreadRef) (f : Thread → Thread) : (s.updThread r f).wstat = s.wstat := rfl
@[simp] theorem State.updThread_laneFlt (r : ThreadRef) (f : Thread → Thread) : (s.updThread r f).laneFlt = s.laneFlt := rfl
@[simp] theorem State.updThread_linksDown (r : ThreadRef) (f : Thread → Thread) : (s.updThread r f).linksDown = s.linksDown := rfl
@[simp] theorem State.updThread_peersUp (r : ThreadRef) (f : Thread → Thread) : (s.updThread r f).peersUp = s.peersUp := rfl
@[simp] theorem State.updThread_vault (r : ThreadRef) (f : Thread → Thread) : (s.updThread r f).vault = s.vault := rfl
@[simp] theorem State.updThread_firmware (r : ThreadRef) (f : Thread → Thread) : (s.updThread r f).firmware = s.firmware := rfl
@[simp] theorem State.updThread_booted (r : ThreadRef) (f : Thread → Thread) : (s.updThread r f).booted = s.booted := rfl
@[simp] theorem State.updThread_relays (r : ThreadRef) (f : Thread → Thread) : (s.updThread r f).relays = s.relays := rfl
@[simp] theorem State.updThread_sideband (r : ThreadRef) (f : Thread → Thread) : (s.updThread r f).sideband = s.sideband := rfl
@[simp] theorem State.updThread_irqs (r : ThreadRef) (f : Thread → Thread) : (s.updThread r f).irqs = s.irqs := rfl
@[simp] theorem State.updThread_checks (r : ThreadRef) (f : Thread → Thread) : (s.updThread r f).checks = s.checks := rfl
@[simp] theorem State.updThread_capver (r : ThreadRef) (f : Thread → Thread) : (s.updThread r f).capver = s.capver := rfl
@[simp] theorem State.updThread_badPages (r : ThreadRef) (f : Thread → Thread) : (s.updThread r f).badPages = s.badPages := rfl

/-! ## mapThreads -/

@[simp] theorem State.mapThreads_clock (f : ThreadRef → Thread → Thread) : (s.mapThreads f).clock = s.clock := rfl
@[simp] theorem State.mapThreads_free (f : ThreadRef → Thread → Thread) : (s.mapThreads f).free = s.free := rfl
@[simp] theorem State.mapThreads_nextId (f : ThreadRef → Thread → Thread) : (s.mapThreads f).nextId = s.nextId := rfl
@[simp] theorem State.mapThreads_agenda (f : ThreadRef → Thread → Thread) : (s.mapThreads f).agenda = s.agenda := rfl
@[simp] theorem State.mapThreads_ages (f : ThreadRef → Thread → Thread) : (s.mapThreads f).ages = s.ages := rfl
@[simp] theorem State.mapThreads_cur (f : ThreadRef → Thread → Thread) : (s.mapThreads f).cur = s.cur := rfl
@[simp] theorem State.mapThreads_curHart (f : ThreadRef → Thread → Thread) : (s.mapThreads f).curHart = s.curHart := rfl
@[simp] theorem State.mapThreads_inReset (f : ThreadRef → Thread → Thread) : (s.mapThreads f).inReset = s.inReset := rfl
@[simp] theorem State.mapThreads_resetWhy (f : ThreadRef → Thread → Thread) : (s.mapThreads f).resetWhy = s.resetWhy := rfl
@[simp] theorem State.mapThreads_mem (f : ThreadRef → Thread → Thread) : (s.mapThreads f).mem = s.mem := rfl
@[simp] theorem State.mapThreads_poison (f : ThreadRef → Thread → Thread) : (s.mapThreads f).poison = s.poison := rfl
@[simp] theorem State.mapThreads_tenants (f : ThreadRef → Thread → Thread) : (s.mapThreads f).tenants = s.tenants := rfl
@[simp] theorem State.mapThreads_hubs (f : ThreadRef → Thread → Thread) : (s.mapThreads f).hubs = s.hubs := rfl
@[simp] theorem State.mapThreads_dies (f : ThreadRef → Thread → Thread) : (s.mapThreads f).dies = s.dies := rfl
@[simp] theorem State.mapThreads_cores (f : ThreadRef → Thread → Thread) : (s.mapThreads f).cores = s.cores := rfl
@[simp] theorem State.mapThreads_clocks (f : ThreadRef → Thread → Thread) : (s.mapThreads f).clocks = s.clocks := rfl
@[simp] theorem State.mapThreads_harts (f : ThreadRef → Thread → Thread) : (s.mapThreads f).harts = s.harts := rfl
@[simp] theorem State.mapThreads_tasks (f : ThreadRef → Thread → Thread) : (s.mapThreads f).tasks = s.tasks := rfl
@[simp] theorem State.mapThreads_slices (f : ThreadRef → Thread → Thread) : (s.mapThreads f).slices = s.slices := rfl
@[simp] theorem State.mapThreads_blocks (f : ThreadRef → Thread → Thread) : (s.mapThreads f).blocks = s.blocks := rfl
@[simp] theorem State.mapThreads_waves (f : ThreadRef → Thread → Thread) : (s.mapThreads f).waves = s.waves.map fun w => { w with threads := w.threads.mapIdx fun i t => f ⟨w.ref, i⟩ t } := rfl
@[simp] theorem State.mapThreads_loops (f : ThreadRef → Thread → Thread) : (s.mapThreads f).loops = s.loops := rfl
@[simp] theorem State.mapThreads_faults (f : ThreadRef → Thread → Thread) : (s.mapThreads f).faults = s.faults := rfl
@[simp] theorem State.mapThreads_tlb (f : ThreadRef → Thread → Thread) : (s.mapThreads f).tlb = s.tlb := rfl
@[simp] theorem State.mapThreads_dir (f : ThreadRef → Thread → Thread) : (s.mapThreads f).dir = s.dir := rfl
@[simp] theorem State.mapThreads_l1 (f : ThreadRef → Thread → Thread) : (s.mapThreads f).l1 = s.l1 := rfl
@[simp] theorem State.mapThreads_locks (f : ThreadRef → Thread → Thread) : (s.mapThreads f).locks = s.locks := rfl
@[simp] theorem State.mapThreads_latent (f : ThreadRef → Thread → Thread) : (s.mapThreads f).latent = s.latent := rfl
@[simp] theorem State.mapThreads_moves (f : ThreadRef → Thread → Thread) : (s.mapThreads f).moves = s.moves := rfl
@[simp] theorem State.mapThreads_forwards (f : ThreadRef → Thread → Thread) : (s.mapThreads f).forwards = s.forwards := rfl
@[simp] theorem State.mapThreads_handovers (f : ThreadRef → Thread → Thread) : (s.mapThreads f).handovers = s.handovers := rfl
@[simp] theorem State.mapThreads_modPart (f : ThreadRef → Thread → Thread) : (s.mapThreads f).modPart = s.modPart := rfl
@[simp] theorem State.mapThreads_attest (f : ThreadRef → Thread → Thread) : (s.mapThreads f).attest = s.attest := rfl
@[simp] theorem State.mapThreads_vaultrd (f : ThreadRef → Thread → Thread) : (s.mapThreads f).vaultrd = s.vaultrd := rfl
@[simp] theorem State.mapThreads_poolOwt (f : ThreadRef → Thread → Thread) : (s.mapThreads f).poolOwt = s.poolOwt := rfl
@[simp] theorem State.mapThreads_poolCmd (f : ThreadRef → Thread → Thread) : (s.mapThreads f).poolCmd = s.poolCmd := rfl
@[simp] theorem State.mapThreads_engines (f : ThreadRef → Thread → Thread) : (s.mapThreads f).engines = s.engines := rfl
@[simp] theorem State.mapThreads_mats (f : ThreadRef → Thread → Thread) : (s.mapThreads f).mats = s.mats := rfl
@[simp] theorem State.mapThreads_copies (f : ThreadRef → Thread → Thread) : (s.mapThreads f).copies = s.copies := rfl
@[simp] theorem State.mapThreads_nms (f : ThreadRef → Thread → Thread) : (s.mapThreads f).nms = s.nms := rfl
@[simp] theorem State.mapThreads_touched (f : ThreadRef → Thread → Thread) : (s.mapThreads f).touched = s.touched := rfl
@[simp] theorem State.mapThreads_ctes (f : ThreadRef → Thread → Thread) : (s.mapThreads f).ctes = s.ctes := rfl
@[simp] theorem State.mapThreads_wstat (f : ThreadRef → Thread → Thread) : (s.mapThreads f).wstat = s.wstat := rfl
@[simp] theorem State.mapThreads_laneFlt (f : ThreadRef → Thread → Thread) : (s.mapThreads f).laneFlt = s.laneFlt := rfl
@[simp] theorem State.mapThreads_linksDown (f : ThreadRef → Thread → Thread) : (s.mapThreads f).linksDown = s.linksDown := rfl
@[simp] theorem State.mapThreads_peersUp (f : ThreadRef → Thread → Thread) : (s.mapThreads f).peersUp = s.peersUp := rfl
@[simp] theorem State.mapThreads_vault (f : ThreadRef → Thread → Thread) : (s.mapThreads f).vault = s.vault := rfl
@[simp] theorem State.mapThreads_firmware (f : ThreadRef → Thread → Thread) : (s.mapThreads f).firmware = s.firmware := rfl
@[simp] theorem State.mapThreads_booted (f : ThreadRef → Thread → Thread) : (s.mapThreads f).booted = s.booted := rfl
@[simp] theorem State.mapThreads_relays (f : ThreadRef → Thread → Thread) : (s.mapThreads f).relays = s.relays := rfl
@[simp] theorem State.mapThreads_sideband (f : ThreadRef → Thread → Thread) : (s.mapThreads f).sideband = s.sideband := rfl
@[simp] theorem State.mapThreads_irqs (f : ThreadRef → Thread → Thread) : (s.mapThreads f).irqs = s.irqs := rfl
@[simp] theorem State.mapThreads_checks (f : ThreadRef → Thread → Thread) : (s.mapThreads f).checks = s.checks := rfl
@[simp] theorem State.mapThreads_capver (f : ThreadRef → Thread → Thread) : (s.mapThreads f).capver = s.capver := rfl
@[simp] theorem State.mapThreads_badPages (f : ThreadRef → Thread → Thread) : (s.mapThreads f).badPages = s.badPages := rfl

/-! ## updBlock -/

@[simp] theorem State.updBlock_clock (n : Nat) (f : Block → Block) : (s.updBlock n f).clock = s.clock := rfl
@[simp] theorem State.updBlock_free (n : Nat) (f : Block → Block) : (s.updBlock n f).free = s.free := rfl
@[simp] theorem State.updBlock_nextId (n : Nat) (f : Block → Block) : (s.updBlock n f).nextId = s.nextId := rfl
@[simp] theorem State.updBlock_agenda (n : Nat) (f : Block → Block) : (s.updBlock n f).agenda = s.agenda := rfl
@[simp] theorem State.updBlock_ages (n : Nat) (f : Block → Block) : (s.updBlock n f).ages = s.ages := rfl
@[simp] theorem State.updBlock_cur (n : Nat) (f : Block → Block) : (s.updBlock n f).cur = s.cur := rfl
@[simp] theorem State.updBlock_curHart (n : Nat) (f : Block → Block) : (s.updBlock n f).curHart = s.curHart := rfl
@[simp] theorem State.updBlock_inReset (n : Nat) (f : Block → Block) : (s.updBlock n f).inReset = s.inReset := rfl
@[simp] theorem State.updBlock_resetWhy (n : Nat) (f : Block → Block) : (s.updBlock n f).resetWhy = s.resetWhy := rfl
@[simp] theorem State.updBlock_mem (n : Nat) (f : Block → Block) : (s.updBlock n f).mem = s.mem := rfl
@[simp] theorem State.updBlock_poison (n : Nat) (f : Block → Block) : (s.updBlock n f).poison = s.poison := rfl
@[simp] theorem State.updBlock_tenants (n : Nat) (f : Block → Block) : (s.updBlock n f).tenants = s.tenants := rfl
@[simp] theorem State.updBlock_hubs (n : Nat) (f : Block → Block) : (s.updBlock n f).hubs = s.hubs := rfl
@[simp] theorem State.updBlock_dies (n : Nat) (f : Block → Block) : (s.updBlock n f).dies = s.dies := rfl
@[simp] theorem State.updBlock_cores (n : Nat) (f : Block → Block) : (s.updBlock n f).cores = s.cores := rfl
@[simp] theorem State.updBlock_clocks (n : Nat) (f : Block → Block) : (s.updBlock n f).clocks = s.clocks := rfl
@[simp] theorem State.updBlock_harts (n : Nat) (f : Block → Block) : (s.updBlock n f).harts = s.harts := rfl
@[simp] theorem State.updBlock_tasks (n : Nat) (f : Block → Block) : (s.updBlock n f).tasks = s.tasks := rfl
@[simp] theorem State.updBlock_slices (n : Nat) (f : Block → Block) : (s.updBlock n f).slices = s.slices := rfl
@[simp] theorem State.updBlock_blocks (n : Nat) (f : Block → Block) : (s.updBlock n f).blocks = s.blocks.map fun x => if x.id == n then f x else x := rfl
@[simp] theorem State.updBlock_waves (n : Nat) (f : Block → Block) : (s.updBlock n f).waves = s.waves := rfl
@[simp] theorem State.updBlock_loops (n : Nat) (f : Block → Block) : (s.updBlock n f).loops = s.loops := rfl
@[simp] theorem State.updBlock_faults (n : Nat) (f : Block → Block) : (s.updBlock n f).faults = s.faults := rfl
@[simp] theorem State.updBlock_tlb (n : Nat) (f : Block → Block) : (s.updBlock n f).tlb = s.tlb := rfl
@[simp] theorem State.updBlock_dir (n : Nat) (f : Block → Block) : (s.updBlock n f).dir = s.dir := rfl
@[simp] theorem State.updBlock_l1 (n : Nat) (f : Block → Block) : (s.updBlock n f).l1 = s.l1 := rfl
@[simp] theorem State.updBlock_locks (n : Nat) (f : Block → Block) : (s.updBlock n f).locks = s.locks := rfl
@[simp] theorem State.updBlock_latent (n : Nat) (f : Block → Block) : (s.updBlock n f).latent = s.latent := rfl
@[simp] theorem State.updBlock_moves (n : Nat) (f : Block → Block) : (s.updBlock n f).moves = s.moves := rfl
@[simp] theorem State.updBlock_forwards (n : Nat) (f : Block → Block) : (s.updBlock n f).forwards = s.forwards := rfl
@[simp] theorem State.updBlock_handovers (n : Nat) (f : Block → Block) : (s.updBlock n f).handovers = s.handovers := rfl
@[simp] theorem State.updBlock_modPart (n : Nat) (f : Block → Block) : (s.updBlock n f).modPart = s.modPart := rfl
@[simp] theorem State.updBlock_attest (n : Nat) (f : Block → Block) : (s.updBlock n f).attest = s.attest := rfl
@[simp] theorem State.updBlock_vaultrd (n : Nat) (f : Block → Block) : (s.updBlock n f).vaultrd = s.vaultrd := rfl
@[simp] theorem State.updBlock_poolOwt (n : Nat) (f : Block → Block) : (s.updBlock n f).poolOwt = s.poolOwt := rfl
@[simp] theorem State.updBlock_poolCmd (n : Nat) (f : Block → Block) : (s.updBlock n f).poolCmd = s.poolCmd := rfl
@[simp] theorem State.updBlock_engines (n : Nat) (f : Block → Block) : (s.updBlock n f).engines = s.engines := rfl
@[simp] theorem State.updBlock_mats (n : Nat) (f : Block → Block) : (s.updBlock n f).mats = s.mats := rfl
@[simp] theorem State.updBlock_copies (n : Nat) (f : Block → Block) : (s.updBlock n f).copies = s.copies := rfl
@[simp] theorem State.updBlock_nms (n : Nat) (f : Block → Block) : (s.updBlock n f).nms = s.nms := rfl
@[simp] theorem State.updBlock_touched (n : Nat) (f : Block → Block) : (s.updBlock n f).touched = s.touched := rfl
@[simp] theorem State.updBlock_ctes (n : Nat) (f : Block → Block) : (s.updBlock n f).ctes = s.ctes := rfl
@[simp] theorem State.updBlock_wstat (n : Nat) (f : Block → Block) : (s.updBlock n f).wstat = s.wstat := rfl
@[simp] theorem State.updBlock_laneFlt (n : Nat) (f : Block → Block) : (s.updBlock n f).laneFlt = s.laneFlt := rfl
@[simp] theorem State.updBlock_linksDown (n : Nat) (f : Block → Block) : (s.updBlock n f).linksDown = s.linksDown := rfl
@[simp] theorem State.updBlock_peersUp (n : Nat) (f : Block → Block) : (s.updBlock n f).peersUp = s.peersUp := rfl
@[simp] theorem State.updBlock_vault (n : Nat) (f : Block → Block) : (s.updBlock n f).vault = s.vault := rfl
@[simp] theorem State.updBlock_firmware (n : Nat) (f : Block → Block) : (s.updBlock n f).firmware = s.firmware := rfl
@[simp] theorem State.updBlock_booted (n : Nat) (f : Block → Block) : (s.updBlock n f).booted = s.booted := rfl
@[simp] theorem State.updBlock_relays (n : Nat) (f : Block → Block) : (s.updBlock n f).relays = s.relays := rfl
@[simp] theorem State.updBlock_sideband (n : Nat) (f : Block → Block) : (s.updBlock n f).sideband = s.sideband := rfl
@[simp] theorem State.updBlock_irqs (n : Nat) (f : Block → Block) : (s.updBlock n f).irqs = s.irqs := rfl
@[simp] theorem State.updBlock_checks (n : Nat) (f : Block → Block) : (s.updBlock n f).checks = s.checks := rfl
@[simp] theorem State.updBlock_capver (n : Nat) (f : Block → Block) : (s.updBlock n f).capver = s.capver := rfl
@[simp] theorem State.updBlock_badPages (n : Nat) (f : Block → Block) : (s.updBlock n f).badPages = s.badPages := rfl

/-! ## updTask -/

@[simp] theorem State.updTask_clock (n : Nat) (f : Task → Task) : (s.updTask n f).clock = s.clock := rfl
@[simp] theorem State.updTask_free (n : Nat) (f : Task → Task) : (s.updTask n f).free = s.free := rfl
@[simp] theorem State.updTask_nextId (n : Nat) (f : Task → Task) : (s.updTask n f).nextId = s.nextId := rfl
@[simp] theorem State.updTask_agenda (n : Nat) (f : Task → Task) : (s.updTask n f).agenda = s.agenda := rfl
@[simp] theorem State.updTask_ages (n : Nat) (f : Task → Task) : (s.updTask n f).ages = s.ages := rfl
@[simp] theorem State.updTask_cur (n : Nat) (f : Task → Task) : (s.updTask n f).cur = s.cur := rfl
@[simp] theorem State.updTask_curHart (n : Nat) (f : Task → Task) : (s.updTask n f).curHart = s.curHart := rfl
@[simp] theorem State.updTask_inReset (n : Nat) (f : Task → Task) : (s.updTask n f).inReset = s.inReset := rfl
@[simp] theorem State.updTask_resetWhy (n : Nat) (f : Task → Task) : (s.updTask n f).resetWhy = s.resetWhy := rfl
@[simp] theorem State.updTask_mem (n : Nat) (f : Task → Task) : (s.updTask n f).mem = s.mem := rfl
@[simp] theorem State.updTask_poison (n : Nat) (f : Task → Task) : (s.updTask n f).poison = s.poison := rfl
@[simp] theorem State.updTask_tenants (n : Nat) (f : Task → Task) : (s.updTask n f).tenants = s.tenants := rfl
@[simp] theorem State.updTask_hubs (n : Nat) (f : Task → Task) : (s.updTask n f).hubs = s.hubs := rfl
@[simp] theorem State.updTask_dies (n : Nat) (f : Task → Task) : (s.updTask n f).dies = s.dies := rfl
@[simp] theorem State.updTask_cores (n : Nat) (f : Task → Task) : (s.updTask n f).cores = s.cores := rfl
@[simp] theorem State.updTask_clocks (n : Nat) (f : Task → Task) : (s.updTask n f).clocks = s.clocks := rfl
@[simp] theorem State.updTask_harts (n : Nat) (f : Task → Task) : (s.updTask n f).harts = s.harts := rfl
@[simp] theorem State.updTask_tasks (n : Nat) (f : Task → Task) : (s.updTask n f).tasks = s.tasks.map fun x => if x.id == n then f x else x := rfl
@[simp] theorem State.updTask_slices (n : Nat) (f : Task → Task) : (s.updTask n f).slices = s.slices := rfl
@[simp] theorem State.updTask_blocks (n : Nat) (f : Task → Task) : (s.updTask n f).blocks = s.blocks := rfl
@[simp] theorem State.updTask_waves (n : Nat) (f : Task → Task) : (s.updTask n f).waves = s.waves := rfl
@[simp] theorem State.updTask_loops (n : Nat) (f : Task → Task) : (s.updTask n f).loops = s.loops := rfl
@[simp] theorem State.updTask_faults (n : Nat) (f : Task → Task) : (s.updTask n f).faults = s.faults := rfl
@[simp] theorem State.updTask_tlb (n : Nat) (f : Task → Task) : (s.updTask n f).tlb = s.tlb := rfl
@[simp] theorem State.updTask_dir (n : Nat) (f : Task → Task) : (s.updTask n f).dir = s.dir := rfl
@[simp] theorem State.updTask_l1 (n : Nat) (f : Task → Task) : (s.updTask n f).l1 = s.l1 := rfl
@[simp] theorem State.updTask_locks (n : Nat) (f : Task → Task) : (s.updTask n f).locks = s.locks := rfl
@[simp] theorem State.updTask_latent (n : Nat) (f : Task → Task) : (s.updTask n f).latent = s.latent := rfl
@[simp] theorem State.updTask_moves (n : Nat) (f : Task → Task) : (s.updTask n f).moves = s.moves := rfl
@[simp] theorem State.updTask_forwards (n : Nat) (f : Task → Task) : (s.updTask n f).forwards = s.forwards := rfl
@[simp] theorem State.updTask_handovers (n : Nat) (f : Task → Task) : (s.updTask n f).handovers = s.handovers := rfl
@[simp] theorem State.updTask_modPart (n : Nat) (f : Task → Task) : (s.updTask n f).modPart = s.modPart := rfl
@[simp] theorem State.updTask_attest (n : Nat) (f : Task → Task) : (s.updTask n f).attest = s.attest := rfl
@[simp] theorem State.updTask_vaultrd (n : Nat) (f : Task → Task) : (s.updTask n f).vaultrd = s.vaultrd := rfl
@[simp] theorem State.updTask_poolOwt (n : Nat) (f : Task → Task) : (s.updTask n f).poolOwt = s.poolOwt := rfl
@[simp] theorem State.updTask_poolCmd (n : Nat) (f : Task → Task) : (s.updTask n f).poolCmd = s.poolCmd := rfl
@[simp] theorem State.updTask_engines (n : Nat) (f : Task → Task) : (s.updTask n f).engines = s.engines := rfl
@[simp] theorem State.updTask_mats (n : Nat) (f : Task → Task) : (s.updTask n f).mats = s.mats := rfl
@[simp] theorem State.updTask_copies (n : Nat) (f : Task → Task) : (s.updTask n f).copies = s.copies := rfl
@[simp] theorem State.updTask_nms (n : Nat) (f : Task → Task) : (s.updTask n f).nms = s.nms := rfl
@[simp] theorem State.updTask_touched (n : Nat) (f : Task → Task) : (s.updTask n f).touched = s.touched := rfl
@[simp] theorem State.updTask_ctes (n : Nat) (f : Task → Task) : (s.updTask n f).ctes = s.ctes := rfl
@[simp] theorem State.updTask_wstat (n : Nat) (f : Task → Task) : (s.updTask n f).wstat = s.wstat := rfl
@[simp] theorem State.updTask_laneFlt (n : Nat) (f : Task → Task) : (s.updTask n f).laneFlt = s.laneFlt := rfl
@[simp] theorem State.updTask_linksDown (n : Nat) (f : Task → Task) : (s.updTask n f).linksDown = s.linksDown := rfl
@[simp] theorem State.updTask_peersUp (n : Nat) (f : Task → Task) : (s.updTask n f).peersUp = s.peersUp := rfl
@[simp] theorem State.updTask_vault (n : Nat) (f : Task → Task) : (s.updTask n f).vault = s.vault := rfl
@[simp] theorem State.updTask_firmware (n : Nat) (f : Task → Task) : (s.updTask n f).firmware = s.firmware := rfl
@[simp] theorem State.updTask_booted (n : Nat) (f : Task → Task) : (s.updTask n f).booted = s.booted := rfl
@[simp] theorem State.updTask_relays (n : Nat) (f : Task → Task) : (s.updTask n f).relays = s.relays := rfl
@[simp] theorem State.updTask_sideband (n : Nat) (f : Task → Task) : (s.updTask n f).sideband = s.sideband := rfl
@[simp] theorem State.updTask_irqs (n : Nat) (f : Task → Task) : (s.updTask n f).irqs = s.irqs := rfl
@[simp] theorem State.updTask_checks (n : Nat) (f : Task → Task) : (s.updTask n f).checks = s.checks := rfl
@[simp] theorem State.updTask_capver (n : Nat) (f : Task → Task) : (s.updTask n f).capver = s.capver := rfl
@[simp] theorem State.updTask_badPages (n : Nat) (f : Task → Task) : (s.updTask n f).badPages = s.badPages := rfl

/-! ## updLoop -/

@[simp] theorem State.updLoop_clock (n : Nat) (f : Loop → Loop) : (s.updLoop n f).clock = s.clock := rfl
@[simp] theorem State.updLoop_free (n : Nat) (f : Loop → Loop) : (s.updLoop n f).free = s.free := rfl
@[simp] theorem State.updLoop_nextId (n : Nat) (f : Loop → Loop) : (s.updLoop n f).nextId = s.nextId := rfl
@[simp] theorem State.updLoop_agenda (n : Nat) (f : Loop → Loop) : (s.updLoop n f).agenda = s.agenda := rfl
@[simp] theorem State.updLoop_ages (n : Nat) (f : Loop → Loop) : (s.updLoop n f).ages = s.ages := rfl
@[simp] theorem State.updLoop_cur (n : Nat) (f : Loop → Loop) : (s.updLoop n f).cur = s.cur := rfl
@[simp] theorem State.updLoop_curHart (n : Nat) (f : Loop → Loop) : (s.updLoop n f).curHart = s.curHart := rfl
@[simp] theorem State.updLoop_inReset (n : Nat) (f : Loop → Loop) : (s.updLoop n f).inReset = s.inReset := rfl
@[simp] theorem State.updLoop_resetWhy (n : Nat) (f : Loop → Loop) : (s.updLoop n f).resetWhy = s.resetWhy := rfl
@[simp] theorem State.updLoop_mem (n : Nat) (f : Loop → Loop) : (s.updLoop n f).mem = s.mem := rfl
@[simp] theorem State.updLoop_poison (n : Nat) (f : Loop → Loop) : (s.updLoop n f).poison = s.poison := rfl
@[simp] theorem State.updLoop_tenants (n : Nat) (f : Loop → Loop) : (s.updLoop n f).tenants = s.tenants := rfl
@[simp] theorem State.updLoop_hubs (n : Nat) (f : Loop → Loop) : (s.updLoop n f).hubs = s.hubs := rfl
@[simp] theorem State.updLoop_dies (n : Nat) (f : Loop → Loop) : (s.updLoop n f).dies = s.dies := rfl
@[simp] theorem State.updLoop_cores (n : Nat) (f : Loop → Loop) : (s.updLoop n f).cores = s.cores := rfl
@[simp] theorem State.updLoop_clocks (n : Nat) (f : Loop → Loop) : (s.updLoop n f).clocks = s.clocks := rfl
@[simp] theorem State.updLoop_harts (n : Nat) (f : Loop → Loop) : (s.updLoop n f).harts = s.harts := rfl
@[simp] theorem State.updLoop_tasks (n : Nat) (f : Loop → Loop) : (s.updLoop n f).tasks = s.tasks := rfl
@[simp] theorem State.updLoop_slices (n : Nat) (f : Loop → Loop) : (s.updLoop n f).slices = s.slices := rfl
@[simp] theorem State.updLoop_blocks (n : Nat) (f : Loop → Loop) : (s.updLoop n f).blocks = s.blocks := rfl
@[simp] theorem State.updLoop_waves (n : Nat) (f : Loop → Loop) : (s.updLoop n f).waves = s.waves := rfl
@[simp] theorem State.updLoop_loops (n : Nat) (f : Loop → Loop) : (s.updLoop n f).loops = s.loops.map fun x => if x.task == n then f x else x := rfl
@[simp] theorem State.updLoop_faults (n : Nat) (f : Loop → Loop) : (s.updLoop n f).faults = s.faults := rfl
@[simp] theorem State.updLoop_tlb (n : Nat) (f : Loop → Loop) : (s.updLoop n f).tlb = s.tlb := rfl
@[simp] theorem State.updLoop_dir (n : Nat) (f : Loop → Loop) : (s.updLoop n f).dir = s.dir := rfl
@[simp] theorem State.updLoop_l1 (n : Nat) (f : Loop → Loop) : (s.updLoop n f).l1 = s.l1 := rfl
@[simp] theorem State.updLoop_locks (n : Nat) (f : Loop → Loop) : (s.updLoop n f).locks = s.locks := rfl
@[simp] theorem State.updLoop_latent (n : Nat) (f : Loop → Loop) : (s.updLoop n f).latent = s.latent := rfl
@[simp] theorem State.updLoop_moves (n : Nat) (f : Loop → Loop) : (s.updLoop n f).moves = s.moves := rfl
@[simp] theorem State.updLoop_forwards (n : Nat) (f : Loop → Loop) : (s.updLoop n f).forwards = s.forwards := rfl
@[simp] theorem State.updLoop_handovers (n : Nat) (f : Loop → Loop) : (s.updLoop n f).handovers = s.handovers := rfl
@[simp] theorem State.updLoop_modPart (n : Nat) (f : Loop → Loop) : (s.updLoop n f).modPart = s.modPart := rfl
@[simp] theorem State.updLoop_attest (n : Nat) (f : Loop → Loop) : (s.updLoop n f).attest = s.attest := rfl
@[simp] theorem State.updLoop_vaultrd (n : Nat) (f : Loop → Loop) : (s.updLoop n f).vaultrd = s.vaultrd := rfl
@[simp] theorem State.updLoop_poolOwt (n : Nat) (f : Loop → Loop) : (s.updLoop n f).poolOwt = s.poolOwt := rfl
@[simp] theorem State.updLoop_poolCmd (n : Nat) (f : Loop → Loop) : (s.updLoop n f).poolCmd = s.poolCmd := rfl
@[simp] theorem State.updLoop_engines (n : Nat) (f : Loop → Loop) : (s.updLoop n f).engines = s.engines := rfl
@[simp] theorem State.updLoop_mats (n : Nat) (f : Loop → Loop) : (s.updLoop n f).mats = s.mats := rfl
@[simp] theorem State.updLoop_copies (n : Nat) (f : Loop → Loop) : (s.updLoop n f).copies = s.copies := rfl
@[simp] theorem State.updLoop_nms (n : Nat) (f : Loop → Loop) : (s.updLoop n f).nms = s.nms := rfl
@[simp] theorem State.updLoop_touched (n : Nat) (f : Loop → Loop) : (s.updLoop n f).touched = s.touched := rfl
@[simp] theorem State.updLoop_ctes (n : Nat) (f : Loop → Loop) : (s.updLoop n f).ctes = s.ctes := rfl
@[simp] theorem State.updLoop_wstat (n : Nat) (f : Loop → Loop) : (s.updLoop n f).wstat = s.wstat := rfl
@[simp] theorem State.updLoop_laneFlt (n : Nat) (f : Loop → Loop) : (s.updLoop n f).laneFlt = s.laneFlt := rfl
@[simp] theorem State.updLoop_linksDown (n : Nat) (f : Loop → Loop) : (s.updLoop n f).linksDown = s.linksDown := rfl
@[simp] theorem State.updLoop_peersUp (n : Nat) (f : Loop → Loop) : (s.updLoop n f).peersUp = s.peersUp := rfl
@[simp] theorem State.updLoop_vault (n : Nat) (f : Loop → Loop) : (s.updLoop n f).vault = s.vault := rfl
@[simp] theorem State.updLoop_firmware (n : Nat) (f : Loop → Loop) : (s.updLoop n f).firmware = s.firmware := rfl
@[simp] theorem State.updLoop_booted (n : Nat) (f : Loop → Loop) : (s.updLoop n f).booted = s.booted := rfl
@[simp] theorem State.updLoop_relays (n : Nat) (f : Loop → Loop) : (s.updLoop n f).relays = s.relays := rfl
@[simp] theorem State.updLoop_sideband (n : Nat) (f : Loop → Loop) : (s.updLoop n f).sideband = s.sideband := rfl
@[simp] theorem State.updLoop_irqs (n : Nat) (f : Loop → Loop) : (s.updLoop n f).irqs = s.irqs := rfl
@[simp] theorem State.updLoop_checks (n : Nat) (f : Loop → Loop) : (s.updLoop n f).checks = s.checks := rfl
@[simp] theorem State.updLoop_capver (n : Nat) (f : Loop → Loop) : (s.updLoop n f).capver = s.capver := rfl
@[simp] theorem State.updLoop_badPages (n : Nat) (f : Loop → Loop) : (s.updLoop n f).badPages = s.badPages := rfl

/-! ## updMove -/

@[simp] theorem State.updMove_clock (n : Nat) (f : Move → Move) : (s.updMove n f).clock = s.clock := rfl
@[simp] theorem State.updMove_free (n : Nat) (f : Move → Move) : (s.updMove n f).free = s.free := rfl
@[simp] theorem State.updMove_nextId (n : Nat) (f : Move → Move) : (s.updMove n f).nextId = s.nextId := rfl
@[simp] theorem State.updMove_agenda (n : Nat) (f : Move → Move) : (s.updMove n f).agenda = s.agenda := rfl
@[simp] theorem State.updMove_ages (n : Nat) (f : Move → Move) : (s.updMove n f).ages = s.ages := rfl
@[simp] theorem State.updMove_cur (n : Nat) (f : Move → Move) : (s.updMove n f).cur = s.cur := rfl
@[simp] theorem State.updMove_curHart (n : Nat) (f : Move → Move) : (s.updMove n f).curHart = s.curHart := rfl
@[simp] theorem State.updMove_inReset (n : Nat) (f : Move → Move) : (s.updMove n f).inReset = s.inReset := rfl
@[simp] theorem State.updMove_resetWhy (n : Nat) (f : Move → Move) : (s.updMove n f).resetWhy = s.resetWhy := rfl
@[simp] theorem State.updMove_mem (n : Nat) (f : Move → Move) : (s.updMove n f).mem = s.mem := rfl
@[simp] theorem State.updMove_poison (n : Nat) (f : Move → Move) : (s.updMove n f).poison = s.poison := rfl
@[simp] theorem State.updMove_tenants (n : Nat) (f : Move → Move) : (s.updMove n f).tenants = s.tenants := rfl
@[simp] theorem State.updMove_hubs (n : Nat) (f : Move → Move) : (s.updMove n f).hubs = s.hubs := rfl
@[simp] theorem State.updMove_dies (n : Nat) (f : Move → Move) : (s.updMove n f).dies = s.dies := rfl
@[simp] theorem State.updMove_cores (n : Nat) (f : Move → Move) : (s.updMove n f).cores = s.cores := rfl
@[simp] theorem State.updMove_clocks (n : Nat) (f : Move → Move) : (s.updMove n f).clocks = s.clocks := rfl
@[simp] theorem State.updMove_harts (n : Nat) (f : Move → Move) : (s.updMove n f).harts = s.harts := rfl
@[simp] theorem State.updMove_tasks (n : Nat) (f : Move → Move) : (s.updMove n f).tasks = s.tasks := rfl
@[simp] theorem State.updMove_slices (n : Nat) (f : Move → Move) : (s.updMove n f).slices = s.slices := rfl
@[simp] theorem State.updMove_blocks (n : Nat) (f : Move → Move) : (s.updMove n f).blocks = s.blocks := rfl
@[simp] theorem State.updMove_waves (n : Nat) (f : Move → Move) : (s.updMove n f).waves = s.waves := rfl
@[simp] theorem State.updMove_loops (n : Nat) (f : Move → Move) : (s.updMove n f).loops = s.loops := rfl
@[simp] theorem State.updMove_faults (n : Nat) (f : Move → Move) : (s.updMove n f).faults = s.faults := rfl
@[simp] theorem State.updMove_tlb (n : Nat) (f : Move → Move) : (s.updMove n f).tlb = s.tlb := rfl
@[simp] theorem State.updMove_dir (n : Nat) (f : Move → Move) : (s.updMove n f).dir = s.dir := rfl
@[simp] theorem State.updMove_l1 (n : Nat) (f : Move → Move) : (s.updMove n f).l1 = s.l1 := rfl
@[simp] theorem State.updMove_locks (n : Nat) (f : Move → Move) : (s.updMove n f).locks = s.locks := rfl
@[simp] theorem State.updMove_latent (n : Nat) (f : Move → Move) : (s.updMove n f).latent = s.latent := rfl
@[simp] theorem State.updMove_moves (n : Nat) (f : Move → Move) : (s.updMove n f).moves = s.moves.map fun x => if x.id == n then f x else x := rfl
@[simp] theorem State.updMove_forwards (n : Nat) (f : Move → Move) : (s.updMove n f).forwards = s.forwards := rfl
@[simp] theorem State.updMove_handovers (n : Nat) (f : Move → Move) : (s.updMove n f).handovers = s.handovers := rfl
@[simp] theorem State.updMove_modPart (n : Nat) (f : Move → Move) : (s.updMove n f).modPart = s.modPart := rfl
@[simp] theorem State.updMove_attest (n : Nat) (f : Move → Move) : (s.updMove n f).attest = s.attest := rfl
@[simp] theorem State.updMove_vaultrd (n : Nat) (f : Move → Move) : (s.updMove n f).vaultrd = s.vaultrd := rfl
@[simp] theorem State.updMove_poolOwt (n : Nat) (f : Move → Move) : (s.updMove n f).poolOwt = s.poolOwt := rfl
@[simp] theorem State.updMove_poolCmd (n : Nat) (f : Move → Move) : (s.updMove n f).poolCmd = s.poolCmd := rfl
@[simp] theorem State.updMove_engines (n : Nat) (f : Move → Move) : (s.updMove n f).engines = s.engines := rfl
@[simp] theorem State.updMove_mats (n : Nat) (f : Move → Move) : (s.updMove n f).mats = s.mats := rfl
@[simp] theorem State.updMove_copies (n : Nat) (f : Move → Move) : (s.updMove n f).copies = s.copies := rfl
@[simp] theorem State.updMove_nms (n : Nat) (f : Move → Move) : (s.updMove n f).nms = s.nms := rfl
@[simp] theorem State.updMove_touched (n : Nat) (f : Move → Move) : (s.updMove n f).touched = s.touched := rfl
@[simp] theorem State.updMove_ctes (n : Nat) (f : Move → Move) : (s.updMove n f).ctes = s.ctes := rfl
@[simp] theorem State.updMove_wstat (n : Nat) (f : Move → Move) : (s.updMove n f).wstat = s.wstat := rfl
@[simp] theorem State.updMove_laneFlt (n : Nat) (f : Move → Move) : (s.updMove n f).laneFlt = s.laneFlt := rfl
@[simp] theorem State.updMove_linksDown (n : Nat) (f : Move → Move) : (s.updMove n f).linksDown = s.linksDown := rfl
@[simp] theorem State.updMove_peersUp (n : Nat) (f : Move → Move) : (s.updMove n f).peersUp = s.peersUp := rfl
@[simp] theorem State.updMove_vault (n : Nat) (f : Move → Move) : (s.updMove n f).vault = s.vault := rfl
@[simp] theorem State.updMove_firmware (n : Nat) (f : Move → Move) : (s.updMove n f).firmware = s.firmware := rfl
@[simp] theorem State.updMove_booted (n : Nat) (f : Move → Move) : (s.updMove n f).booted = s.booted := rfl
@[simp] theorem State.updMove_relays (n : Nat) (f : Move → Move) : (s.updMove n f).relays = s.relays := rfl
@[simp] theorem State.updMove_sideband (n : Nat) (f : Move → Move) : (s.updMove n f).sideband = s.sideband := rfl
@[simp] theorem State.updMove_irqs (n : Nat) (f : Move → Move) : (s.updMove n f).irqs = s.irqs := rfl
@[simp] theorem State.updMove_checks (n : Nat) (f : Move → Move) : (s.updMove n f).checks = s.checks := rfl
@[simp] theorem State.updMove_capver (n : Nat) (f : Move → Move) : (s.updMove n f).capver = s.capver := rfl
@[simp] theorem State.updMove_badPages (n : Nat) (f : Move → Move) : (s.updMove n f).badPages = s.badPages := rfl

/-! ## updMat -/

@[simp] theorem State.updMat_clock (n : Nat) (f : MatOp → MatOp) : (s.updMat n f).clock = s.clock := rfl
@[simp] theorem State.updMat_free (n : Nat) (f : MatOp → MatOp) : (s.updMat n f).free = s.free := rfl
@[simp] theorem State.updMat_nextId (n : Nat) (f : MatOp → MatOp) : (s.updMat n f).nextId = s.nextId := rfl
@[simp] theorem State.updMat_agenda (n : Nat) (f : MatOp → MatOp) : (s.updMat n f).agenda = s.agenda := rfl
@[simp] theorem State.updMat_ages (n : Nat) (f : MatOp → MatOp) : (s.updMat n f).ages = s.ages := rfl
@[simp] theorem State.updMat_cur (n : Nat) (f : MatOp → MatOp) : (s.updMat n f).cur = s.cur := rfl
@[simp] theorem State.updMat_curHart (n : Nat) (f : MatOp → MatOp) : (s.updMat n f).curHart = s.curHart := rfl
@[simp] theorem State.updMat_inReset (n : Nat) (f : MatOp → MatOp) : (s.updMat n f).inReset = s.inReset := rfl
@[simp] theorem State.updMat_resetWhy (n : Nat) (f : MatOp → MatOp) : (s.updMat n f).resetWhy = s.resetWhy := rfl
@[simp] theorem State.updMat_mem (n : Nat) (f : MatOp → MatOp) : (s.updMat n f).mem = s.mem := rfl
@[simp] theorem State.updMat_poison (n : Nat) (f : MatOp → MatOp) : (s.updMat n f).poison = s.poison := rfl
@[simp] theorem State.updMat_tenants (n : Nat) (f : MatOp → MatOp) : (s.updMat n f).tenants = s.tenants := rfl
@[simp] theorem State.updMat_hubs (n : Nat) (f : MatOp → MatOp) : (s.updMat n f).hubs = s.hubs := rfl
@[simp] theorem State.updMat_dies (n : Nat) (f : MatOp → MatOp) : (s.updMat n f).dies = s.dies := rfl
@[simp] theorem State.updMat_cores (n : Nat) (f : MatOp → MatOp) : (s.updMat n f).cores = s.cores := rfl
@[simp] theorem State.updMat_clocks (n : Nat) (f : MatOp → MatOp) : (s.updMat n f).clocks = s.clocks := rfl
@[simp] theorem State.updMat_harts (n : Nat) (f : MatOp → MatOp) : (s.updMat n f).harts = s.harts := rfl
@[simp] theorem State.updMat_tasks (n : Nat) (f : MatOp → MatOp) : (s.updMat n f).tasks = s.tasks := rfl
@[simp] theorem State.updMat_slices (n : Nat) (f : MatOp → MatOp) : (s.updMat n f).slices = s.slices := rfl
@[simp] theorem State.updMat_blocks (n : Nat) (f : MatOp → MatOp) : (s.updMat n f).blocks = s.blocks := rfl
@[simp] theorem State.updMat_waves (n : Nat) (f : MatOp → MatOp) : (s.updMat n f).waves = s.waves := rfl
@[simp] theorem State.updMat_loops (n : Nat) (f : MatOp → MatOp) : (s.updMat n f).loops = s.loops := rfl
@[simp] theorem State.updMat_faults (n : Nat) (f : MatOp → MatOp) : (s.updMat n f).faults = s.faults := rfl
@[simp] theorem State.updMat_tlb (n : Nat) (f : MatOp → MatOp) : (s.updMat n f).tlb = s.tlb := rfl
@[simp] theorem State.updMat_dir (n : Nat) (f : MatOp → MatOp) : (s.updMat n f).dir = s.dir := rfl
@[simp] theorem State.updMat_l1 (n : Nat) (f : MatOp → MatOp) : (s.updMat n f).l1 = s.l1 := rfl
@[simp] theorem State.updMat_locks (n : Nat) (f : MatOp → MatOp) : (s.updMat n f).locks = s.locks := rfl
@[simp] theorem State.updMat_latent (n : Nat) (f : MatOp → MatOp) : (s.updMat n f).latent = s.latent := rfl
@[simp] theorem State.updMat_moves (n : Nat) (f : MatOp → MatOp) : (s.updMat n f).moves = s.moves := rfl
@[simp] theorem State.updMat_forwards (n : Nat) (f : MatOp → MatOp) : (s.updMat n f).forwards = s.forwards := rfl
@[simp] theorem State.updMat_handovers (n : Nat) (f : MatOp → MatOp) : (s.updMat n f).handovers = s.handovers := rfl
@[simp] theorem State.updMat_modPart (n : Nat) (f : MatOp → MatOp) : (s.updMat n f).modPart = s.modPart := rfl
@[simp] theorem State.updMat_attest (n : Nat) (f : MatOp → MatOp) : (s.updMat n f).attest = s.attest := rfl
@[simp] theorem State.updMat_vaultrd (n : Nat) (f : MatOp → MatOp) : (s.updMat n f).vaultrd = s.vaultrd := rfl
@[simp] theorem State.updMat_poolOwt (n : Nat) (f : MatOp → MatOp) : (s.updMat n f).poolOwt = s.poolOwt := rfl
@[simp] theorem State.updMat_poolCmd (n : Nat) (f : MatOp → MatOp) : (s.updMat n f).poolCmd = s.poolCmd := rfl
@[simp] theorem State.updMat_engines (n : Nat) (f : MatOp → MatOp) : (s.updMat n f).engines = s.engines := rfl
@[simp] theorem State.updMat_mats (n : Nat) (f : MatOp → MatOp) : (s.updMat n f).mats = s.mats.map fun x => if x.id == n then f x else x := rfl
@[simp] theorem State.updMat_copies (n : Nat) (f : MatOp → MatOp) : (s.updMat n f).copies = s.copies := rfl
@[simp] theorem State.updMat_nms (n : Nat) (f : MatOp → MatOp) : (s.updMat n f).nms = s.nms := rfl
@[simp] theorem State.updMat_touched (n : Nat) (f : MatOp → MatOp) : (s.updMat n f).touched = s.touched := rfl
@[simp] theorem State.updMat_ctes (n : Nat) (f : MatOp → MatOp) : (s.updMat n f).ctes = s.ctes := rfl
@[simp] theorem State.updMat_wstat (n : Nat) (f : MatOp → MatOp) : (s.updMat n f).wstat = s.wstat := rfl
@[simp] theorem State.updMat_laneFlt (n : Nat) (f : MatOp → MatOp) : (s.updMat n f).laneFlt = s.laneFlt := rfl
@[simp] theorem State.updMat_linksDown (n : Nat) (f : MatOp → MatOp) : (s.updMat n f).linksDown = s.linksDown := rfl
@[simp] theorem State.updMat_peersUp (n : Nat) (f : MatOp → MatOp) : (s.updMat n f).peersUp = s.peersUp := rfl
@[simp] theorem State.updMat_vault (n : Nat) (f : MatOp → MatOp) : (s.updMat n f).vault = s.vault := rfl
@[simp] theorem State.updMat_firmware (n : Nat) (f : MatOp → MatOp) : (s.updMat n f).firmware = s.firmware := rfl
@[simp] theorem State.updMat_booted (n : Nat) (f : MatOp → MatOp) : (s.updMat n f).booted = s.booted := rfl
@[simp] theorem State.updMat_relays (n : Nat) (f : MatOp → MatOp) : (s.updMat n f).relays = s.relays := rfl
@[simp] theorem State.updMat_sideband (n : Nat) (f : MatOp → MatOp) : (s.updMat n f).sideband = s.sideband := rfl
@[simp] theorem State.updMat_irqs (n : Nat) (f : MatOp → MatOp) : (s.updMat n f).irqs = s.irqs := rfl
@[simp] theorem State.updMat_checks (n : Nat) (f : MatOp → MatOp) : (s.updMat n f).checks = s.checks := rfl
@[simp] theorem State.updMat_capver (n : Nat) (f : MatOp → MatOp) : (s.updMat n f).capver = s.capver := rfl
@[simp] theorem State.updMat_badPages (n : Nat) (f : MatOp → MatOp) : (s.updMat n f).badPages = s.badPages := rfl

/-! ## updEngine -/

@[simp] theorem State.updEngine_clock (n : Nat) (f : Engine → Engine) : (s.updEngine n f).clock = s.clock := rfl
@[simp] theorem State.updEngine_free (n : Nat) (f : Engine → Engine) : (s.updEngine n f).free = s.free := rfl
@[simp] theorem State.updEngine_nextId (n : Nat) (f : Engine → Engine) : (s.updEngine n f).nextId = s.nextId := rfl
@[simp] theorem State.updEngine_agenda (n : Nat) (f : Engine → Engine) : (s.updEngine n f).agenda = s.agenda := rfl
@[simp] theorem State.updEngine_ages (n : Nat) (f : Engine → Engine) : (s.updEngine n f).ages = s.ages := rfl
@[simp] theorem State.updEngine_cur (n : Nat) (f : Engine → Engine) : (s.updEngine n f).cur = s.cur := rfl
@[simp] theorem State.updEngine_curHart (n : Nat) (f : Engine → Engine) : (s.updEngine n f).curHart = s.curHart := rfl
@[simp] theorem State.updEngine_inReset (n : Nat) (f : Engine → Engine) : (s.updEngine n f).inReset = s.inReset := rfl
@[simp] theorem State.updEngine_resetWhy (n : Nat) (f : Engine → Engine) : (s.updEngine n f).resetWhy = s.resetWhy := rfl
@[simp] theorem State.updEngine_mem (n : Nat) (f : Engine → Engine) : (s.updEngine n f).mem = s.mem := rfl
@[simp] theorem State.updEngine_poison (n : Nat) (f : Engine → Engine) : (s.updEngine n f).poison = s.poison := rfl
@[simp] theorem State.updEngine_tenants (n : Nat) (f : Engine → Engine) : (s.updEngine n f).tenants = s.tenants := rfl
@[simp] theorem State.updEngine_hubs (n : Nat) (f : Engine → Engine) : (s.updEngine n f).hubs = s.hubs := rfl
@[simp] theorem State.updEngine_dies (n : Nat) (f : Engine → Engine) : (s.updEngine n f).dies = s.dies := rfl
@[simp] theorem State.updEngine_cores (n : Nat) (f : Engine → Engine) : (s.updEngine n f).cores = s.cores := rfl
@[simp] theorem State.updEngine_clocks (n : Nat) (f : Engine → Engine) : (s.updEngine n f).clocks = s.clocks := rfl
@[simp] theorem State.updEngine_harts (n : Nat) (f : Engine → Engine) : (s.updEngine n f).harts = s.harts := rfl
@[simp] theorem State.updEngine_tasks (n : Nat) (f : Engine → Engine) : (s.updEngine n f).tasks = s.tasks := rfl
@[simp] theorem State.updEngine_slices (n : Nat) (f : Engine → Engine) : (s.updEngine n f).slices = s.slices := rfl
@[simp] theorem State.updEngine_blocks (n : Nat) (f : Engine → Engine) : (s.updEngine n f).blocks = s.blocks := rfl
@[simp] theorem State.updEngine_waves (n : Nat) (f : Engine → Engine) : (s.updEngine n f).waves = s.waves := rfl
@[simp] theorem State.updEngine_loops (n : Nat) (f : Engine → Engine) : (s.updEngine n f).loops = s.loops := rfl
@[simp] theorem State.updEngine_faults (n : Nat) (f : Engine → Engine) : (s.updEngine n f).faults = s.faults := rfl
@[simp] theorem State.updEngine_tlb (n : Nat) (f : Engine → Engine) : (s.updEngine n f).tlb = s.tlb := rfl
@[simp] theorem State.updEngine_dir (n : Nat) (f : Engine → Engine) : (s.updEngine n f).dir = s.dir := rfl
@[simp] theorem State.updEngine_l1 (n : Nat) (f : Engine → Engine) : (s.updEngine n f).l1 = s.l1 := rfl
@[simp] theorem State.updEngine_locks (n : Nat) (f : Engine → Engine) : (s.updEngine n f).locks = s.locks := rfl
@[simp] theorem State.updEngine_latent (n : Nat) (f : Engine → Engine) : (s.updEngine n f).latent = s.latent := rfl
@[simp] theorem State.updEngine_moves (n : Nat) (f : Engine → Engine) : (s.updEngine n f).moves = s.moves := rfl
@[simp] theorem State.updEngine_forwards (n : Nat) (f : Engine → Engine) : (s.updEngine n f).forwards = s.forwards := rfl
@[simp] theorem State.updEngine_handovers (n : Nat) (f : Engine → Engine) : (s.updEngine n f).handovers = s.handovers := rfl
@[simp] theorem State.updEngine_modPart (n : Nat) (f : Engine → Engine) : (s.updEngine n f).modPart = s.modPart := rfl
@[simp] theorem State.updEngine_attest (n : Nat) (f : Engine → Engine) : (s.updEngine n f).attest = s.attest := rfl
@[simp] theorem State.updEngine_vaultrd (n : Nat) (f : Engine → Engine) : (s.updEngine n f).vaultrd = s.vaultrd := rfl
@[simp] theorem State.updEngine_poolOwt (n : Nat) (f : Engine → Engine) : (s.updEngine n f).poolOwt = s.poolOwt := rfl
@[simp] theorem State.updEngine_poolCmd (n : Nat) (f : Engine → Engine) : (s.updEngine n f).poolCmd = s.poolCmd := rfl
@[simp] theorem State.updEngine_engines (n : Nat) (f : Engine → Engine) : (s.updEngine n f).engines = s.engines.modify n f := rfl
@[simp] theorem State.updEngine_mats (n : Nat) (f : Engine → Engine) : (s.updEngine n f).mats = s.mats := rfl
@[simp] theorem State.updEngine_copies (n : Nat) (f : Engine → Engine) : (s.updEngine n f).copies = s.copies := rfl
@[simp] theorem State.updEngine_nms (n : Nat) (f : Engine → Engine) : (s.updEngine n f).nms = s.nms := rfl
@[simp] theorem State.updEngine_touched (n : Nat) (f : Engine → Engine) : (s.updEngine n f).touched = s.touched := rfl
@[simp] theorem State.updEngine_ctes (n : Nat) (f : Engine → Engine) : (s.updEngine n f).ctes = s.ctes := rfl
@[simp] theorem State.updEngine_wstat (n : Nat) (f : Engine → Engine) : (s.updEngine n f).wstat = s.wstat := rfl
@[simp] theorem State.updEngine_laneFlt (n : Nat) (f : Engine → Engine) : (s.updEngine n f).laneFlt = s.laneFlt := rfl
@[simp] theorem State.updEngine_linksDown (n : Nat) (f : Engine → Engine) : (s.updEngine n f).linksDown = s.linksDown := rfl
@[simp] theorem State.updEngine_peersUp (n : Nat) (f : Engine → Engine) : (s.updEngine n f).peersUp = s.peersUp := rfl
@[simp] theorem State.updEngine_vault (n : Nat) (f : Engine → Engine) : (s.updEngine n f).vault = s.vault := rfl
@[simp] theorem State.updEngine_firmware (n : Nat) (f : Engine → Engine) : (s.updEngine n f).firmware = s.firmware := rfl
@[simp] theorem State.updEngine_booted (n : Nat) (f : Engine → Engine) : (s.updEngine n f).booted = s.booted := rfl
@[simp] theorem State.updEngine_relays (n : Nat) (f : Engine → Engine) : (s.updEngine n f).relays = s.relays := rfl
@[simp] theorem State.updEngine_sideband (n : Nat) (f : Engine → Engine) : (s.updEngine n f).sideband = s.sideband := rfl
@[simp] theorem State.updEngine_irqs (n : Nat) (f : Engine → Engine) : (s.updEngine n f).irqs = s.irqs := rfl
@[simp] theorem State.updEngine_checks (n : Nat) (f : Engine → Engine) : (s.updEngine n f).checks = s.checks := rfl
@[simp] theorem State.updEngine_capver (n : Nat) (f : Engine → Engine) : (s.updEngine n f).capver = s.capver := rfl
@[simp] theorem State.updEngine_badPages (n : Nat) (f : Engine → Engine) : (s.updEngine n f).badPages = s.badPages := rfl

/-! ## updCopy -/

@[simp] theorem State.updCopy_clock (n : Nat) (f : Copy → Copy) : (s.updCopy n f).clock = s.clock := rfl
@[simp] theorem State.updCopy_free (n : Nat) (f : Copy → Copy) : (s.updCopy n f).free = s.free := rfl
@[simp] theorem State.updCopy_nextId (n : Nat) (f : Copy → Copy) : (s.updCopy n f).nextId = s.nextId := rfl
@[simp] theorem State.updCopy_agenda (n : Nat) (f : Copy → Copy) : (s.updCopy n f).agenda = s.agenda := rfl
@[simp] theorem State.updCopy_ages (n : Nat) (f : Copy → Copy) : (s.updCopy n f).ages = s.ages := rfl
@[simp] theorem State.updCopy_cur (n : Nat) (f : Copy → Copy) : (s.updCopy n f).cur = s.cur := rfl
@[simp] theorem State.updCopy_curHart (n : Nat) (f : Copy → Copy) : (s.updCopy n f).curHart = s.curHart := rfl
@[simp] theorem State.updCopy_inReset (n : Nat) (f : Copy → Copy) : (s.updCopy n f).inReset = s.inReset := rfl
@[simp] theorem State.updCopy_resetWhy (n : Nat) (f : Copy → Copy) : (s.updCopy n f).resetWhy = s.resetWhy := rfl
@[simp] theorem State.updCopy_mem (n : Nat) (f : Copy → Copy) : (s.updCopy n f).mem = s.mem := rfl
@[simp] theorem State.updCopy_poison (n : Nat) (f : Copy → Copy) : (s.updCopy n f).poison = s.poison := rfl
@[simp] theorem State.updCopy_tenants (n : Nat) (f : Copy → Copy) : (s.updCopy n f).tenants = s.tenants := rfl
@[simp] theorem State.updCopy_hubs (n : Nat) (f : Copy → Copy) : (s.updCopy n f).hubs = s.hubs := rfl
@[simp] theorem State.updCopy_dies (n : Nat) (f : Copy → Copy) : (s.updCopy n f).dies = s.dies := rfl
@[simp] theorem State.updCopy_cores (n : Nat) (f : Copy → Copy) : (s.updCopy n f).cores = s.cores := rfl
@[simp] theorem State.updCopy_clocks (n : Nat) (f : Copy → Copy) : (s.updCopy n f).clocks = s.clocks := rfl
@[simp] theorem State.updCopy_harts (n : Nat) (f : Copy → Copy) : (s.updCopy n f).harts = s.harts := rfl
@[simp] theorem State.updCopy_tasks (n : Nat) (f : Copy → Copy) : (s.updCopy n f).tasks = s.tasks := rfl
@[simp] theorem State.updCopy_slices (n : Nat) (f : Copy → Copy) : (s.updCopy n f).slices = s.slices := rfl
@[simp] theorem State.updCopy_blocks (n : Nat) (f : Copy → Copy) : (s.updCopy n f).blocks = s.blocks := rfl
@[simp] theorem State.updCopy_waves (n : Nat) (f : Copy → Copy) : (s.updCopy n f).waves = s.waves := rfl
@[simp] theorem State.updCopy_loops (n : Nat) (f : Copy → Copy) : (s.updCopy n f).loops = s.loops := rfl
@[simp] theorem State.updCopy_faults (n : Nat) (f : Copy → Copy) : (s.updCopy n f).faults = s.faults := rfl
@[simp] theorem State.updCopy_tlb (n : Nat) (f : Copy → Copy) : (s.updCopy n f).tlb = s.tlb := rfl
@[simp] theorem State.updCopy_dir (n : Nat) (f : Copy → Copy) : (s.updCopy n f).dir = s.dir := rfl
@[simp] theorem State.updCopy_l1 (n : Nat) (f : Copy → Copy) : (s.updCopy n f).l1 = s.l1 := rfl
@[simp] theorem State.updCopy_locks (n : Nat) (f : Copy → Copy) : (s.updCopy n f).locks = s.locks := rfl
@[simp] theorem State.updCopy_latent (n : Nat) (f : Copy → Copy) : (s.updCopy n f).latent = s.latent := rfl
@[simp] theorem State.updCopy_moves (n : Nat) (f : Copy → Copy) : (s.updCopy n f).moves = s.moves := rfl
@[simp] theorem State.updCopy_forwards (n : Nat) (f : Copy → Copy) : (s.updCopy n f).forwards = s.forwards := rfl
@[simp] theorem State.updCopy_handovers (n : Nat) (f : Copy → Copy) : (s.updCopy n f).handovers = s.handovers := rfl
@[simp] theorem State.updCopy_modPart (n : Nat) (f : Copy → Copy) : (s.updCopy n f).modPart = s.modPart := rfl
@[simp] theorem State.updCopy_attest (n : Nat) (f : Copy → Copy) : (s.updCopy n f).attest = s.attest := rfl
@[simp] theorem State.updCopy_vaultrd (n : Nat) (f : Copy → Copy) : (s.updCopy n f).vaultrd = s.vaultrd := rfl
@[simp] theorem State.updCopy_poolOwt (n : Nat) (f : Copy → Copy) : (s.updCopy n f).poolOwt = s.poolOwt := rfl
@[simp] theorem State.updCopy_poolCmd (n : Nat) (f : Copy → Copy) : (s.updCopy n f).poolCmd = s.poolCmd := rfl
@[simp] theorem State.updCopy_engines (n : Nat) (f : Copy → Copy) : (s.updCopy n f).engines = s.engines := rfl
@[simp] theorem State.updCopy_mats (n : Nat) (f : Copy → Copy) : (s.updCopy n f).mats = s.mats := rfl
@[simp] theorem State.updCopy_copies (n : Nat) (f : Copy → Copy) : (s.updCopy n f).copies = s.copies.map fun x => if x.id == n then f x else x := rfl
@[simp] theorem State.updCopy_nms (n : Nat) (f : Copy → Copy) : (s.updCopy n f).nms = s.nms := rfl
@[simp] theorem State.updCopy_touched (n : Nat) (f : Copy → Copy) : (s.updCopy n f).touched = s.touched := rfl
@[simp] theorem State.updCopy_ctes (n : Nat) (f : Copy → Copy) : (s.updCopy n f).ctes = s.ctes := rfl
@[simp] theorem State.updCopy_wstat (n : Nat) (f : Copy → Copy) : (s.updCopy n f).wstat = s.wstat := rfl
@[simp] theorem State.updCopy_laneFlt (n : Nat) (f : Copy → Copy) : (s.updCopy n f).laneFlt = s.laneFlt := rfl
@[simp] theorem State.updCopy_linksDown (n : Nat) (f : Copy → Copy) : (s.updCopy n f).linksDown = s.linksDown := rfl
@[simp] theorem State.updCopy_peersUp (n : Nat) (f : Copy → Copy) : (s.updCopy n f).peersUp = s.peersUp := rfl
@[simp] theorem State.updCopy_vault (n : Nat) (f : Copy → Copy) : (s.updCopy n f).vault = s.vault := rfl
@[simp] theorem State.updCopy_firmware (n : Nat) (f : Copy → Copy) : (s.updCopy n f).firmware = s.firmware := rfl
@[simp] theorem State.updCopy_booted (n : Nat) (f : Copy → Copy) : (s.updCopy n f).booted = s.booted := rfl
@[simp] theorem State.updCopy_relays (n : Nat) (f : Copy → Copy) : (s.updCopy n f).relays = s.relays := rfl
@[simp] theorem State.updCopy_sideband (n : Nat) (f : Copy → Copy) : (s.updCopy n f).sideband = s.sideband := rfl
@[simp] theorem State.updCopy_irqs (n : Nat) (f : Copy → Copy) : (s.updCopy n f).irqs = s.irqs := rfl
@[simp] theorem State.updCopy_checks (n : Nat) (f : Copy → Copy) : (s.updCopy n f).checks = s.checks := rfl
@[simp] theorem State.updCopy_capver (n : Nat) (f : Copy → Copy) : (s.updCopy n f).capver = s.capver := rfl
@[simp] theorem State.updCopy_badPages (n : Nat) (f : Copy → Copy) : (s.updCopy n f).badPages = s.badPages := rfl

/-! ## updNm -/

@[simp] theorem State.updNm_clock (n : Nat) (f : NmCmd → NmCmd) : (s.updNm n f).clock = s.clock := rfl
@[simp] theorem State.updNm_free (n : Nat) (f : NmCmd → NmCmd) : (s.updNm n f).free = s.free := rfl
@[simp] theorem State.updNm_nextId (n : Nat) (f : NmCmd → NmCmd) : (s.updNm n f).nextId = s.nextId := rfl
@[simp] theorem State.updNm_agenda (n : Nat) (f : NmCmd → NmCmd) : (s.updNm n f).agenda = s.agenda := rfl
@[simp] theorem State.updNm_ages (n : Nat) (f : NmCmd → NmCmd) : (s.updNm n f).ages = s.ages := rfl
@[simp] theorem State.updNm_cur (n : Nat) (f : NmCmd → NmCmd) : (s.updNm n f).cur = s.cur := rfl
@[simp] theorem State.updNm_curHart (n : Nat) (f : NmCmd → NmCmd) : (s.updNm n f).curHart = s.curHart := rfl
@[simp] theorem State.updNm_inReset (n : Nat) (f : NmCmd → NmCmd) : (s.updNm n f).inReset = s.inReset := rfl
@[simp] theorem State.updNm_resetWhy (n : Nat) (f : NmCmd → NmCmd) : (s.updNm n f).resetWhy = s.resetWhy := rfl
@[simp] theorem State.updNm_mem (n : Nat) (f : NmCmd → NmCmd) : (s.updNm n f).mem = s.mem := rfl
@[simp] theorem State.updNm_poison (n : Nat) (f : NmCmd → NmCmd) : (s.updNm n f).poison = s.poison := rfl
@[simp] theorem State.updNm_tenants (n : Nat) (f : NmCmd → NmCmd) : (s.updNm n f).tenants = s.tenants := rfl
@[simp] theorem State.updNm_hubs (n : Nat) (f : NmCmd → NmCmd) : (s.updNm n f).hubs = s.hubs := rfl
@[simp] theorem State.updNm_dies (n : Nat) (f : NmCmd → NmCmd) : (s.updNm n f).dies = s.dies := rfl
@[simp] theorem State.updNm_cores (n : Nat) (f : NmCmd → NmCmd) : (s.updNm n f).cores = s.cores := rfl
@[simp] theorem State.updNm_clocks (n : Nat) (f : NmCmd → NmCmd) : (s.updNm n f).clocks = s.clocks := rfl
@[simp] theorem State.updNm_harts (n : Nat) (f : NmCmd → NmCmd) : (s.updNm n f).harts = s.harts := rfl
@[simp] theorem State.updNm_tasks (n : Nat) (f : NmCmd → NmCmd) : (s.updNm n f).tasks = s.tasks := rfl
@[simp] theorem State.updNm_slices (n : Nat) (f : NmCmd → NmCmd) : (s.updNm n f).slices = s.slices := rfl
@[simp] theorem State.updNm_blocks (n : Nat) (f : NmCmd → NmCmd) : (s.updNm n f).blocks = s.blocks := rfl
@[simp] theorem State.updNm_waves (n : Nat) (f : NmCmd → NmCmd) : (s.updNm n f).waves = s.waves := rfl
@[simp] theorem State.updNm_loops (n : Nat) (f : NmCmd → NmCmd) : (s.updNm n f).loops = s.loops := rfl
@[simp] theorem State.updNm_faults (n : Nat) (f : NmCmd → NmCmd) : (s.updNm n f).faults = s.faults := rfl
@[simp] theorem State.updNm_tlb (n : Nat) (f : NmCmd → NmCmd) : (s.updNm n f).tlb = s.tlb := rfl
@[simp] theorem State.updNm_dir (n : Nat) (f : NmCmd → NmCmd) : (s.updNm n f).dir = s.dir := rfl
@[simp] theorem State.updNm_l1 (n : Nat) (f : NmCmd → NmCmd) : (s.updNm n f).l1 = s.l1 := rfl
@[simp] theorem State.updNm_locks (n : Nat) (f : NmCmd → NmCmd) : (s.updNm n f).locks = s.locks := rfl
@[simp] theorem State.updNm_latent (n : Nat) (f : NmCmd → NmCmd) : (s.updNm n f).latent = s.latent := rfl
@[simp] theorem State.updNm_moves (n : Nat) (f : NmCmd → NmCmd) : (s.updNm n f).moves = s.moves := rfl
@[simp] theorem State.updNm_forwards (n : Nat) (f : NmCmd → NmCmd) : (s.updNm n f).forwards = s.forwards := rfl
@[simp] theorem State.updNm_handovers (n : Nat) (f : NmCmd → NmCmd) : (s.updNm n f).handovers = s.handovers := rfl
@[simp] theorem State.updNm_modPart (n : Nat) (f : NmCmd → NmCmd) : (s.updNm n f).modPart = s.modPart := rfl
@[simp] theorem State.updNm_attest (n : Nat) (f : NmCmd → NmCmd) : (s.updNm n f).attest = s.attest := rfl
@[simp] theorem State.updNm_vaultrd (n : Nat) (f : NmCmd → NmCmd) : (s.updNm n f).vaultrd = s.vaultrd := rfl
@[simp] theorem State.updNm_poolOwt (n : Nat) (f : NmCmd → NmCmd) : (s.updNm n f).poolOwt = s.poolOwt := rfl
@[simp] theorem State.updNm_poolCmd (n : Nat) (f : NmCmd → NmCmd) : (s.updNm n f).poolCmd = s.poolCmd := rfl
@[simp] theorem State.updNm_engines (n : Nat) (f : NmCmd → NmCmd) : (s.updNm n f).engines = s.engines := rfl
@[simp] theorem State.updNm_mats (n : Nat) (f : NmCmd → NmCmd) : (s.updNm n f).mats = s.mats := rfl
@[simp] theorem State.updNm_copies (n : Nat) (f : NmCmd → NmCmd) : (s.updNm n f).copies = s.copies := rfl
@[simp] theorem State.updNm_nms (n : Nat) (f : NmCmd → NmCmd) : (s.updNm n f).nms = s.nms.map fun x => if x.id == n then f x else x := rfl
@[simp] theorem State.updNm_touched (n : Nat) (f : NmCmd → NmCmd) : (s.updNm n f).touched = s.touched := rfl
@[simp] theorem State.updNm_ctes (n : Nat) (f : NmCmd → NmCmd) : (s.updNm n f).ctes = s.ctes := rfl
@[simp] theorem State.updNm_wstat (n : Nat) (f : NmCmd → NmCmd) : (s.updNm n f).wstat = s.wstat := rfl
@[simp] theorem State.updNm_laneFlt (n : Nat) (f : NmCmd → NmCmd) : (s.updNm n f).laneFlt = s.laneFlt := rfl
@[simp] theorem State.updNm_linksDown (n : Nat) (f : NmCmd → NmCmd) : (s.updNm n f).linksDown = s.linksDown := rfl
@[simp] theorem State.updNm_peersUp (n : Nat) (f : NmCmd → NmCmd) : (s.updNm n f).peersUp = s.peersUp := rfl
@[simp] theorem State.updNm_vault (n : Nat) (f : NmCmd → NmCmd) : (s.updNm n f).vault = s.vault := rfl
@[simp] theorem State.updNm_firmware (n : Nat) (f : NmCmd → NmCmd) : (s.updNm n f).firmware = s.firmware := rfl
@[simp] theorem State.updNm_booted (n : Nat) (f : NmCmd → NmCmd) : (s.updNm n f).booted = s.booted := rfl
@[simp] theorem State.updNm_relays (n : Nat) (f : NmCmd → NmCmd) : (s.updNm n f).relays = s.relays := rfl
@[simp] theorem State.updNm_sideband (n : Nat) (f : NmCmd → NmCmd) : (s.updNm n f).sideband = s.sideband := rfl
@[simp] theorem State.updNm_irqs (n : Nat) (f : NmCmd → NmCmd) : (s.updNm n f).irqs = s.irqs := rfl
@[simp] theorem State.updNm_checks (n : Nat) (f : NmCmd → NmCmd) : (s.updNm n f).checks = s.checks := rfl
@[simp] theorem State.updNm_capver (n : Nat) (f : NmCmd → NmCmd) : (s.updNm n f).capver = s.capver := rfl
@[simp] theorem State.updNm_badPages (n : Nat) (f : NmCmd → NmCmd) : (s.updNm n f).badPages = s.badPages := rfl

/-! ## updCte -/

@[simp] theorem State.updCte_clock (n : Nat) (f : Cte → Cte) : (s.updCte n f).clock = s.clock := rfl
@[simp] theorem State.updCte_free (n : Nat) (f : Cte → Cte) : (s.updCte n f).free = s.free := rfl
@[simp] theorem State.updCte_nextId (n : Nat) (f : Cte → Cte) : (s.updCte n f).nextId = s.nextId := rfl
@[simp] theorem State.updCte_agenda (n : Nat) (f : Cte → Cte) : (s.updCte n f).agenda = s.agenda := rfl
@[simp] theorem State.updCte_ages (n : Nat) (f : Cte → Cte) : (s.updCte n f).ages = s.ages := rfl
@[simp] theorem State.updCte_cur (n : Nat) (f : Cte → Cte) : (s.updCte n f).cur = s.cur := rfl
@[simp] theorem State.updCte_curHart (n : Nat) (f : Cte → Cte) : (s.updCte n f).curHart = s.curHart := rfl
@[simp] theorem State.updCte_inReset (n : Nat) (f : Cte → Cte) : (s.updCte n f).inReset = s.inReset := rfl
@[simp] theorem State.updCte_resetWhy (n : Nat) (f : Cte → Cte) : (s.updCte n f).resetWhy = s.resetWhy := rfl
@[simp] theorem State.updCte_mem (n : Nat) (f : Cte → Cte) : (s.updCte n f).mem = s.mem := rfl
@[simp] theorem State.updCte_poison (n : Nat) (f : Cte → Cte) : (s.updCte n f).poison = s.poison := rfl
@[simp] theorem State.updCte_tenants (n : Nat) (f : Cte → Cte) : (s.updCte n f).tenants = s.tenants := rfl
@[simp] theorem State.updCte_hubs (n : Nat) (f : Cte → Cte) : (s.updCte n f).hubs = s.hubs := rfl
@[simp] theorem State.updCte_dies (n : Nat) (f : Cte → Cte) : (s.updCte n f).dies = s.dies := rfl
@[simp] theorem State.updCte_cores (n : Nat) (f : Cte → Cte) : (s.updCte n f).cores = s.cores := rfl
@[simp] theorem State.updCte_clocks (n : Nat) (f : Cte → Cte) : (s.updCte n f).clocks = s.clocks := rfl
@[simp] theorem State.updCte_harts (n : Nat) (f : Cte → Cte) : (s.updCte n f).harts = s.harts := rfl
@[simp] theorem State.updCte_tasks (n : Nat) (f : Cte → Cte) : (s.updCte n f).tasks = s.tasks := rfl
@[simp] theorem State.updCte_slices (n : Nat) (f : Cte → Cte) : (s.updCte n f).slices = s.slices := rfl
@[simp] theorem State.updCte_blocks (n : Nat) (f : Cte → Cte) : (s.updCte n f).blocks = s.blocks := rfl
@[simp] theorem State.updCte_waves (n : Nat) (f : Cte → Cte) : (s.updCte n f).waves = s.waves := rfl
@[simp] theorem State.updCte_loops (n : Nat) (f : Cte → Cte) : (s.updCte n f).loops = s.loops := rfl
@[simp] theorem State.updCte_faults (n : Nat) (f : Cte → Cte) : (s.updCte n f).faults = s.faults := rfl
@[simp] theorem State.updCte_tlb (n : Nat) (f : Cte → Cte) : (s.updCte n f).tlb = s.tlb := rfl
@[simp] theorem State.updCte_dir (n : Nat) (f : Cte → Cte) : (s.updCte n f).dir = s.dir := rfl
@[simp] theorem State.updCte_l1 (n : Nat) (f : Cte → Cte) : (s.updCte n f).l1 = s.l1 := rfl
@[simp] theorem State.updCte_locks (n : Nat) (f : Cte → Cte) : (s.updCte n f).locks = s.locks := rfl
@[simp] theorem State.updCte_latent (n : Nat) (f : Cte → Cte) : (s.updCte n f).latent = s.latent := rfl
@[simp] theorem State.updCte_moves (n : Nat) (f : Cte → Cte) : (s.updCte n f).moves = s.moves := rfl
@[simp] theorem State.updCte_forwards (n : Nat) (f : Cte → Cte) : (s.updCte n f).forwards = s.forwards := rfl
@[simp] theorem State.updCte_handovers (n : Nat) (f : Cte → Cte) : (s.updCte n f).handovers = s.handovers := rfl
@[simp] theorem State.updCte_modPart (n : Nat) (f : Cte → Cte) : (s.updCte n f).modPart = s.modPart := rfl
@[simp] theorem State.updCte_attest (n : Nat) (f : Cte → Cte) : (s.updCte n f).attest = s.attest := rfl
@[simp] theorem State.updCte_vaultrd (n : Nat) (f : Cte → Cte) : (s.updCte n f).vaultrd = s.vaultrd := rfl
@[simp] theorem State.updCte_poolOwt (n : Nat) (f : Cte → Cte) : (s.updCte n f).poolOwt = s.poolOwt := rfl
@[simp] theorem State.updCte_poolCmd (n : Nat) (f : Cte → Cte) : (s.updCte n f).poolCmd = s.poolCmd := rfl
@[simp] theorem State.updCte_engines (n : Nat) (f : Cte → Cte) : (s.updCte n f).engines = s.engines := rfl
@[simp] theorem State.updCte_mats (n : Nat) (f : Cte → Cte) : (s.updCte n f).mats = s.mats := rfl
@[simp] theorem State.updCte_copies (n : Nat) (f : Cte → Cte) : (s.updCte n f).copies = s.copies := rfl
@[simp] theorem State.updCte_nms (n : Nat) (f : Cte → Cte) : (s.updCte n f).nms = s.nms := rfl
@[simp] theorem State.updCte_touched (n : Nat) (f : Cte → Cte) : (s.updCte n f).touched = s.touched := rfl
@[simp] theorem State.updCte_ctes (n : Nat) (f : Cte → Cte) : (s.updCte n f).ctes = s.ctes.modify n f := rfl
@[simp] theorem State.updCte_wstat (n : Nat) (f : Cte → Cte) : (s.updCte n f).wstat = s.wstat := rfl
@[simp] theorem State.updCte_laneFlt (n : Nat) (f : Cte → Cte) : (s.updCte n f).laneFlt = s.laneFlt := rfl
@[simp] theorem State.updCte_linksDown (n : Nat) (f : Cte → Cte) : (s.updCte n f).linksDown = s.linksDown := rfl
@[simp] theorem State.updCte_peersUp (n : Nat) (f : Cte → Cte) : (s.updCte n f).peersUp = s.peersUp := rfl
@[simp] theorem State.updCte_vault (n : Nat) (f : Cte → Cte) : (s.updCte n f).vault = s.vault := rfl
@[simp] theorem State.updCte_firmware (n : Nat) (f : Cte → Cte) : (s.updCte n f).firmware = s.firmware := rfl
@[simp] theorem State.updCte_booted (n : Nat) (f : Cte → Cte) : (s.updCte n f).booted = s.booted := rfl
@[simp] theorem State.updCte_relays (n : Nat) (f : Cte → Cte) : (s.updCte n f).relays = s.relays := rfl
@[simp] theorem State.updCte_sideband (n : Nat) (f : Cte → Cte) : (s.updCte n f).sideband = s.sideband := rfl
@[simp] theorem State.updCte_irqs (n : Nat) (f : Cte → Cte) : (s.updCte n f).irqs = s.irqs := rfl
@[simp] theorem State.updCte_checks (n : Nat) (f : Cte → Cte) : (s.updCte n f).checks = s.checks := rfl
@[simp] theorem State.updCte_capver (n : Nat) (f : Cte → Cte) : (s.updCte n f).capver = s.capver := rfl
@[simp] theorem State.updCte_badPages (n : Nat) (f : Cte → Cte) : (s.updCte n f).badPages = s.badPages := rfl

/-! ## poke -/

@[simp] theorem State.poke_clock (pa : Nat) (bs : List Byte) : (s.poke pa bs).clock = s.clock := rfl
@[simp] theorem State.poke_free (pa : Nat) (bs : List Byte) : (s.poke pa bs).free = s.free := rfl
@[simp] theorem State.poke_nextId (pa : Nat) (bs : List Byte) : (s.poke pa bs).nextId = s.nextId := rfl
@[simp] theorem State.poke_agenda (pa : Nat) (bs : List Byte) : (s.poke pa bs).agenda = s.agenda := rfl
@[simp] theorem State.poke_ages (pa : Nat) (bs : List Byte) : (s.poke pa bs).ages = s.ages := rfl
@[simp] theorem State.poke_cur (pa : Nat) (bs : List Byte) : (s.poke pa bs).cur = s.cur := rfl
@[simp] theorem State.poke_curHart (pa : Nat) (bs : List Byte) : (s.poke pa bs).curHart = s.curHart := rfl
@[simp] theorem State.poke_inReset (pa : Nat) (bs : List Byte) : (s.poke pa bs).inReset = s.inReset := rfl
@[simp] theorem State.poke_resetWhy (pa : Nat) (bs : List Byte) : (s.poke pa bs).resetWhy = s.resetWhy := rfl
@[simp] theorem State.poke_mem (pa : Nat) (bs : List Byte) : (s.poke pa bs).mem = s.mem.writeBytes pa bs := rfl
@[simp] theorem State.poke_poison (pa : Nat) (bs : List Byte) : (s.poke pa bs).poison = s.poison := rfl
@[simp] theorem State.poke_tenants (pa : Nat) (bs : List Byte) : (s.poke pa bs).tenants = s.tenants := rfl
@[simp] theorem State.poke_hubs (pa : Nat) (bs : List Byte) : (s.poke pa bs).hubs = s.hubs := rfl
@[simp] theorem State.poke_dies (pa : Nat) (bs : List Byte) : (s.poke pa bs).dies = s.dies := rfl
@[simp] theorem State.poke_cores (pa : Nat) (bs : List Byte) : (s.poke pa bs).cores = s.cores := rfl
@[simp] theorem State.poke_clocks (pa : Nat) (bs : List Byte) : (s.poke pa bs).clocks = s.clocks := rfl
@[simp] theorem State.poke_harts (pa : Nat) (bs : List Byte) : (s.poke pa bs).harts = s.harts := rfl
@[simp] theorem State.poke_tasks (pa : Nat) (bs : List Byte) : (s.poke pa bs).tasks = s.tasks := rfl
@[simp] theorem State.poke_slices (pa : Nat) (bs : List Byte) : (s.poke pa bs).slices = s.slices := rfl
@[simp] theorem State.poke_blocks (pa : Nat) (bs : List Byte) : (s.poke pa bs).blocks = s.blocks := rfl
@[simp] theorem State.poke_waves (pa : Nat) (bs : List Byte) : (s.poke pa bs).waves = s.waves := rfl
@[simp] theorem State.poke_loops (pa : Nat) (bs : List Byte) : (s.poke pa bs).loops = s.loops := rfl
@[simp] theorem State.poke_faults (pa : Nat) (bs : List Byte) : (s.poke pa bs).faults = s.faults := rfl
@[simp] theorem State.poke_tlb (pa : Nat) (bs : List Byte) : (s.poke pa bs).tlb = s.tlb := rfl
@[simp] theorem State.poke_dir (pa : Nat) (bs : List Byte) : (s.poke pa bs).dir = s.dir := rfl
@[simp] theorem State.poke_l1 (pa : Nat) (bs : List Byte) : (s.poke pa bs).l1 = s.l1 := rfl
@[simp] theorem State.poke_locks (pa : Nat) (bs : List Byte) : (s.poke pa bs).locks = s.locks := rfl
@[simp] theorem State.poke_latent (pa : Nat) (bs : List Byte) : (s.poke pa bs).latent = s.latent := rfl
@[simp] theorem State.poke_moves (pa : Nat) (bs : List Byte) : (s.poke pa bs).moves = s.moves := rfl
@[simp] theorem State.poke_forwards (pa : Nat) (bs : List Byte) : (s.poke pa bs).forwards = s.forwards := rfl
@[simp] theorem State.poke_handovers (pa : Nat) (bs : List Byte) : (s.poke pa bs).handovers = s.handovers := rfl
@[simp] theorem State.poke_modPart (pa : Nat) (bs : List Byte) : (s.poke pa bs).modPart = s.modPart := rfl
@[simp] theorem State.poke_attest (pa : Nat) (bs : List Byte) : (s.poke pa bs).attest = s.attest := rfl
@[simp] theorem State.poke_vaultrd (pa : Nat) (bs : List Byte) : (s.poke pa bs).vaultrd = s.vaultrd := rfl
@[simp] theorem State.poke_poolOwt (pa : Nat) (bs : List Byte) : (s.poke pa bs).poolOwt = s.poolOwt := rfl
@[simp] theorem State.poke_poolCmd (pa : Nat) (bs : List Byte) : (s.poke pa bs).poolCmd = s.poolCmd := rfl
@[simp] theorem State.poke_engines (pa : Nat) (bs : List Byte) : (s.poke pa bs).engines = s.engines := rfl
@[simp] theorem State.poke_mats (pa : Nat) (bs : List Byte) : (s.poke pa bs).mats = s.mats := rfl
@[simp] theorem State.poke_copies (pa : Nat) (bs : List Byte) : (s.poke pa bs).copies = s.copies := rfl
@[simp] theorem State.poke_nms (pa : Nat) (bs : List Byte) : (s.poke pa bs).nms = s.nms := rfl
@[simp] theorem State.poke_touched (pa : Nat) (bs : List Byte) : (s.poke pa bs).touched = s.touched := rfl
@[simp] theorem State.poke_ctes (pa : Nat) (bs : List Byte) : (s.poke pa bs).ctes = s.ctes := rfl
@[simp] theorem State.poke_wstat (pa : Nat) (bs : List Byte) : (s.poke pa bs).wstat = s.wstat := rfl
@[simp] theorem State.poke_laneFlt (pa : Nat) (bs : List Byte) : (s.poke pa bs).laneFlt = s.laneFlt := rfl
@[simp] theorem State.poke_linksDown (pa : Nat) (bs : List Byte) : (s.poke pa bs).linksDown = s.linksDown := rfl
@[simp] theorem State.poke_peersUp (pa : Nat) (bs : List Byte) : (s.poke pa bs).peersUp = s.peersUp := rfl
@[simp] theorem State.poke_vault (pa : Nat) (bs : List Byte) : (s.poke pa bs).vault = s.vault := rfl
@[simp] theorem State.poke_firmware (pa : Nat) (bs : List Byte) : (s.poke pa bs).firmware = s.firmware := rfl
@[simp] theorem State.poke_booted (pa : Nat) (bs : List Byte) : (s.poke pa bs).booted = s.booted := rfl
@[simp] theorem State.poke_relays (pa : Nat) (bs : List Byte) : (s.poke pa bs).relays = s.relays := rfl
@[simp] theorem State.poke_sideband (pa : Nat) (bs : List Byte) : (s.poke pa bs).sideband = s.sideband := rfl
@[simp] theorem State.poke_irqs (pa : Nat) (bs : List Byte) : (s.poke pa bs).irqs = s.irqs := rfl
@[simp] theorem State.poke_checks (pa : Nat) (bs : List Byte) : (s.poke pa bs).checks = s.checks := rfl
@[simp] theorem State.poke_capver (pa : Nat) (bs : List Byte) : (s.poke pa bs).capver = s.capver := rfl
@[simp] theorem State.poke_badPages (pa : Nat) (bs : List Byte) : (s.poke pa bs).badPages = s.badPages := rfl

/-! ## setPoison -/

@[simp] theorem State.setPoison_clock (l : Nat) (b : Bool) : (s.setPoison l b).clock = s.clock := rfl
@[simp] theorem State.setPoison_free (l : Nat) (b : Bool) : (s.setPoison l b).free = s.free := rfl
@[simp] theorem State.setPoison_nextId (l : Nat) (b : Bool) : (s.setPoison l b).nextId = s.nextId := rfl
@[simp] theorem State.setPoison_agenda (l : Nat) (b : Bool) : (s.setPoison l b).agenda = s.agenda := rfl
@[simp] theorem State.setPoison_ages (l : Nat) (b : Bool) : (s.setPoison l b).ages = s.ages := rfl
@[simp] theorem State.setPoison_cur (l : Nat) (b : Bool) : (s.setPoison l b).cur = s.cur := rfl
@[simp] theorem State.setPoison_curHart (l : Nat) (b : Bool) : (s.setPoison l b).curHart = s.curHart := rfl
@[simp] theorem State.setPoison_inReset (l : Nat) (b : Bool) : (s.setPoison l b).inReset = s.inReset := rfl
@[simp] theorem State.setPoison_resetWhy (l : Nat) (b : Bool) : (s.setPoison l b).resetWhy = s.resetWhy := rfl
@[simp] theorem State.setPoison_mem (l : Nat) (b : Bool) : (s.setPoison l b).mem = s.mem := rfl
@[simp] theorem State.setPoison_poison (l : Nat) (b : Bool) : (s.setPoison l b).poison = if b then (if s.poison.contains l then s.poison else l :: s.poison) else s.poison.filter (· != l) := rfl
@[simp] theorem State.setPoison_tenants (l : Nat) (b : Bool) : (s.setPoison l b).tenants = s.tenants := rfl
@[simp] theorem State.setPoison_hubs (l : Nat) (b : Bool) : (s.setPoison l b).hubs = s.hubs := rfl
@[simp] theorem State.setPoison_dies (l : Nat) (b : Bool) : (s.setPoison l b).dies = s.dies := rfl
@[simp] theorem State.setPoison_cores (l : Nat) (b : Bool) : (s.setPoison l b).cores = s.cores := rfl
@[simp] theorem State.setPoison_clocks (l : Nat) (b : Bool) : (s.setPoison l b).clocks = s.clocks := rfl
@[simp] theorem State.setPoison_harts (l : Nat) (b : Bool) : (s.setPoison l b).harts = s.harts := rfl
@[simp] theorem State.setPoison_tasks (l : Nat) (b : Bool) : (s.setPoison l b).tasks = s.tasks := rfl
@[simp] theorem State.setPoison_slices (l : Nat) (b : Bool) : (s.setPoison l b).slices = s.slices := rfl
@[simp] theorem State.setPoison_blocks (l : Nat) (b : Bool) : (s.setPoison l b).blocks = s.blocks := rfl
@[simp] theorem State.setPoison_waves (l : Nat) (b : Bool) : (s.setPoison l b).waves = s.waves := rfl
@[simp] theorem State.setPoison_loops (l : Nat) (b : Bool) : (s.setPoison l b).loops = s.loops := rfl
@[simp] theorem State.setPoison_faults (l : Nat) (b : Bool) : (s.setPoison l b).faults = s.faults := rfl
@[simp] theorem State.setPoison_tlb (l : Nat) (b : Bool) : (s.setPoison l b).tlb = s.tlb := rfl
@[simp] theorem State.setPoison_dir (l : Nat) (b : Bool) : (s.setPoison l b).dir = s.dir := rfl
@[simp] theorem State.setPoison_l1 (l : Nat) (b : Bool) : (s.setPoison l b).l1 = s.l1 := rfl
@[simp] theorem State.setPoison_locks (l : Nat) (b : Bool) : (s.setPoison l b).locks = s.locks := rfl
@[simp] theorem State.setPoison_moves (l : Nat) (b : Bool) : (s.setPoison l b).moves = s.moves := rfl
@[simp] theorem State.setPoison_forwards (l : Nat) (b : Bool) : (s.setPoison l b).forwards = s.forwards := rfl
@[simp] theorem State.setPoison_handovers (l : Nat) (b : Bool) : (s.setPoison l b).handovers = s.handovers := rfl
@[simp] theorem State.setPoison_modPart (l : Nat) (b : Bool) : (s.setPoison l b).modPart = s.modPart := rfl
@[simp] theorem State.setPoison_attest (l : Nat) (b : Bool) : (s.setPoison l b).attest = s.attest := rfl
@[simp] theorem State.setPoison_vaultrd (l : Nat) (b : Bool) : (s.setPoison l b).vaultrd = s.vaultrd := rfl
@[simp] theorem State.setPoison_poolOwt (l : Nat) (b : Bool) : (s.setPoison l b).poolOwt = s.poolOwt := rfl
@[simp] theorem State.setPoison_poolCmd (l : Nat) (b : Bool) : (s.setPoison l b).poolCmd = s.poolCmd := rfl
@[simp] theorem State.setPoison_engines (l : Nat) (b : Bool) : (s.setPoison l b).engines = s.engines := rfl
@[simp] theorem State.setPoison_mats (l : Nat) (b : Bool) : (s.setPoison l b).mats = s.mats := rfl
@[simp] theorem State.setPoison_copies (l : Nat) (b : Bool) : (s.setPoison l b).copies = s.copies := rfl
@[simp] theorem State.setPoison_nms (l : Nat) (b : Bool) : (s.setPoison l b).nms = s.nms := rfl
@[simp] theorem State.setPoison_touched (l : Nat) (b : Bool) : (s.setPoison l b).touched = s.touched := rfl
@[simp] theorem State.setPoison_ctes (l : Nat) (b : Bool) : (s.setPoison l b).ctes = s.ctes := rfl
@[simp] theorem State.setPoison_wstat (l : Nat) (b : Bool) : (s.setPoison l b).wstat = s.wstat := rfl
@[simp] theorem State.setPoison_laneFlt (l : Nat) (b : Bool) : (s.setPoison l b).laneFlt = s.laneFlt := rfl
@[simp] theorem State.setPoison_linksDown (l : Nat) (b : Bool) : (s.setPoison l b).linksDown = s.linksDown := rfl
@[simp] theorem State.setPoison_peersUp (l : Nat) (b : Bool) : (s.setPoison l b).peersUp = s.peersUp := rfl
@[simp] theorem State.setPoison_vault (l : Nat) (b : Bool) : (s.setPoison l b).vault = s.vault := rfl
@[simp] theorem State.setPoison_firmware (l : Nat) (b : Bool) : (s.setPoison l b).firmware = s.firmware := rfl
@[simp] theorem State.setPoison_booted (l : Nat) (b : Bool) : (s.setPoison l b).booted = s.booted := rfl
@[simp] theorem State.setPoison_relays (l : Nat) (b : Bool) : (s.setPoison l b).relays = s.relays := rfl
@[simp] theorem State.setPoison_sideband (l : Nat) (b : Bool) : (s.setPoison l b).sideband = s.sideband := rfl
@[simp] theorem State.setPoison_irqs (l : Nat) (b : Bool) : (s.setPoison l b).irqs = s.irqs := rfl
@[simp] theorem State.setPoison_checks (l : Nat) (b : Bool) : (s.setPoison l b).checks = s.checks := rfl
@[simp] theorem State.setPoison_capver (l : Nat) (b : Bool) : (s.setPoison l b).capver = s.capver := rfl
@[simp] theorem State.setPoison_badPages (l : Nat) (b : Bool) : (s.setPoison l b).badPages = s.badPages := rfl

/-! ## setDir -/

@[simp] theorem State.setDir_clock (l : Nat) (e : Option DirEntry) : (s.setDir l e).clock = s.clock := rfl
@[simp] theorem State.setDir_free (l : Nat) (e : Option DirEntry) : (s.setDir l e).free = s.free := rfl
@[simp] theorem State.setDir_nextId (l : Nat) (e : Option DirEntry) : (s.setDir l e).nextId = s.nextId := rfl
@[simp] theorem State.setDir_agenda (l : Nat) (e : Option DirEntry) : (s.setDir l e).agenda = s.agenda := rfl
@[simp] theorem State.setDir_ages (l : Nat) (e : Option DirEntry) : (s.setDir l e).ages = s.ages := rfl
@[simp] theorem State.setDir_cur (l : Nat) (e : Option DirEntry) : (s.setDir l e).cur = s.cur := rfl
@[simp] theorem State.setDir_curHart (l : Nat) (e : Option DirEntry) : (s.setDir l e).curHart = s.curHart := rfl
@[simp] theorem State.setDir_inReset (l : Nat) (e : Option DirEntry) : (s.setDir l e).inReset = s.inReset := rfl
@[simp] theorem State.setDir_resetWhy (l : Nat) (e : Option DirEntry) : (s.setDir l e).resetWhy = s.resetWhy := rfl
@[simp] theorem State.setDir_mem (l : Nat) (e : Option DirEntry) : (s.setDir l e).mem = s.mem := rfl
@[simp] theorem State.setDir_poison (l : Nat) (e : Option DirEntry) : (s.setDir l e).poison = s.poison := rfl
@[simp] theorem State.setDir_tenants (l : Nat) (e : Option DirEntry) : (s.setDir l e).tenants = s.tenants := rfl
@[simp] theorem State.setDir_hubs (l : Nat) (e : Option DirEntry) : (s.setDir l e).hubs = s.hubs := rfl
@[simp] theorem State.setDir_dies (l : Nat) (e : Option DirEntry) : (s.setDir l e).dies = s.dies := rfl
@[simp] theorem State.setDir_cores (l : Nat) (e : Option DirEntry) : (s.setDir l e).cores = s.cores := rfl
@[simp] theorem State.setDir_clocks (l : Nat) (e : Option DirEntry) : (s.setDir l e).clocks = s.clocks := rfl
@[simp] theorem State.setDir_harts (l : Nat) (e : Option DirEntry) : (s.setDir l e).harts = s.harts := rfl
@[simp] theorem State.setDir_tasks (l : Nat) (e : Option DirEntry) : (s.setDir l e).tasks = s.tasks := rfl
@[simp] theorem State.setDir_slices (l : Nat) (e : Option DirEntry) : (s.setDir l e).slices = s.slices := rfl
@[simp] theorem State.setDir_blocks (l : Nat) (e : Option DirEntry) : (s.setDir l e).blocks = s.blocks := rfl
@[simp] theorem State.setDir_waves (l : Nat) (e : Option DirEntry) : (s.setDir l e).waves = s.waves := rfl
@[simp] theorem State.setDir_loops (l : Nat) (e : Option DirEntry) : (s.setDir l e).loops = s.loops := rfl
@[simp] theorem State.setDir_faults (l : Nat) (e : Option DirEntry) : (s.setDir l e).faults = s.faults := rfl
@[simp] theorem State.setDir_tlb (l : Nat) (e : Option DirEntry) : (s.setDir l e).tlb = s.tlb := rfl
@[simp] theorem State.setDir_l1 (l : Nat) (e : Option DirEntry) : (s.setDir l e).l1 = s.l1 := rfl
@[simp] theorem State.setDir_latent (l : Nat) (e : Option DirEntry) : (s.setDir l e).latent = s.latent := rfl
@[simp] theorem State.setDir_moves (l : Nat) (e : Option DirEntry) : (s.setDir l e).moves = s.moves := rfl
@[simp] theorem State.setDir_forwards (l : Nat) (e : Option DirEntry) : (s.setDir l e).forwards = s.forwards := rfl
@[simp] theorem State.setDir_handovers (l : Nat) (e : Option DirEntry) : (s.setDir l e).handovers = s.handovers := rfl
@[simp] theorem State.setDir_modPart (l : Nat) (e : Option DirEntry) : (s.setDir l e).modPart = s.modPart := rfl
@[simp] theorem State.setDir_attest (l : Nat) (e : Option DirEntry) : (s.setDir l e).attest = s.attest := rfl
@[simp] theorem State.setDir_vaultrd (l : Nat) (e : Option DirEntry) : (s.setDir l e).vaultrd = s.vaultrd := rfl
@[simp] theorem State.setDir_poolOwt (l : Nat) (e : Option DirEntry) : (s.setDir l e).poolOwt = s.poolOwt := rfl
@[simp] theorem State.setDir_poolCmd (l : Nat) (e : Option DirEntry) : (s.setDir l e).poolCmd = s.poolCmd := rfl
@[simp] theorem State.setDir_engines (l : Nat) (e : Option DirEntry) : (s.setDir l e).engines = s.engines := rfl
@[simp] theorem State.setDir_mats (l : Nat) (e : Option DirEntry) : (s.setDir l e).mats = s.mats := rfl
@[simp] theorem State.setDir_copies (l : Nat) (e : Option DirEntry) : (s.setDir l e).copies = s.copies := rfl
@[simp] theorem State.setDir_nms (l : Nat) (e : Option DirEntry) : (s.setDir l e).nms = s.nms := rfl
@[simp] theorem State.setDir_touched (l : Nat) (e : Option DirEntry) : (s.setDir l e).touched = s.touched := rfl
@[simp] theorem State.setDir_ctes (l : Nat) (e : Option DirEntry) : (s.setDir l e).ctes = s.ctes := rfl
@[simp] theorem State.setDir_wstat (l : Nat) (e : Option DirEntry) : (s.setDir l e).wstat = s.wstat := rfl
@[simp] theorem State.setDir_laneFlt (l : Nat) (e : Option DirEntry) : (s.setDir l e).laneFlt = s.laneFlt := rfl
@[simp] theorem State.setDir_linksDown (l : Nat) (e : Option DirEntry) : (s.setDir l e).linksDown = s.linksDown := rfl
@[simp] theorem State.setDir_peersUp (l : Nat) (e : Option DirEntry) : (s.setDir l e).peersUp = s.peersUp := rfl
@[simp] theorem State.setDir_vault (l : Nat) (e : Option DirEntry) : (s.setDir l e).vault = s.vault := rfl
@[simp] theorem State.setDir_firmware (l : Nat) (e : Option DirEntry) : (s.setDir l e).firmware = s.firmware := rfl
@[simp] theorem State.setDir_booted (l : Nat) (e : Option DirEntry) : (s.setDir l e).booted = s.booted := rfl
@[simp] theorem State.setDir_relays (l : Nat) (e : Option DirEntry) : (s.setDir l e).relays = s.relays := rfl
@[simp] theorem State.setDir_sideband (l : Nat) (e : Option DirEntry) : (s.setDir l e).sideband = s.sideband := rfl
@[simp] theorem State.setDir_irqs (l : Nat) (e : Option DirEntry) : (s.setDir l e).irqs = s.irqs := rfl
@[simp] theorem State.setDir_checks (l : Nat) (e : Option DirEntry) : (s.setDir l e).checks = s.checks := rfl
@[simp] theorem State.setDir_capver (l : Nat) (e : Option DirEntry) : (s.setDir l e).capver = s.capver := rfl
@[simp] theorem State.setDir_badPages (l : Nat) (e : Option DirEntry) : (s.setDir l e).badPages = s.badPages := rfl

/-! ## unL1 -/

@[simp] theorem State.unL1_clock (g : (core line : Nat) → Bool) : (s.unL1 g).clock = s.clock := rfl
@[simp] theorem State.unL1_free (g : (core line : Nat) → Bool) : (s.unL1 g).free = s.free := rfl
@[simp] theorem State.unL1_nextId (g : (core line : Nat) → Bool) : (s.unL1 g).nextId = s.nextId := rfl
@[simp] theorem State.unL1_agenda (g : (core line : Nat) → Bool) : (s.unL1 g).agenda = s.agenda := rfl
@[simp] theorem State.unL1_ages (g : (core line : Nat) → Bool) : (s.unL1 g).ages = s.ages := rfl
@[simp] theorem State.unL1_cur (g : (core line : Nat) → Bool) : (s.unL1 g).cur = s.cur := rfl
@[simp] theorem State.unL1_curHart (g : (core line : Nat) → Bool) : (s.unL1 g).curHart = s.curHart := rfl
@[simp] theorem State.unL1_inReset (g : (core line : Nat) → Bool) : (s.unL1 g).inReset = s.inReset := rfl
@[simp] theorem State.unL1_resetWhy (g : (core line : Nat) → Bool) : (s.unL1 g).resetWhy = s.resetWhy := rfl
@[simp] theorem State.unL1_mem (g : (core line : Nat) → Bool) : (s.unL1 g).mem = s.mem := rfl
@[simp] theorem State.unL1_poison (g : (core line : Nat) → Bool) : (s.unL1 g).poison = s.poison := rfl
@[simp] theorem State.unL1_tenants (g : (core line : Nat) → Bool) : (s.unL1 g).tenants = s.tenants := rfl
@[simp] theorem State.unL1_hubs (g : (core line : Nat) → Bool) : (s.unL1 g).hubs = s.hubs := rfl
@[simp] theorem State.unL1_dies (g : (core line : Nat) → Bool) : (s.unL1 g).dies = s.dies := rfl
@[simp] theorem State.unL1_cores (g : (core line : Nat) → Bool) : (s.unL1 g).cores = s.cores := rfl
@[simp] theorem State.unL1_clocks (g : (core line : Nat) → Bool) : (s.unL1 g).clocks = s.clocks := rfl
@[simp] theorem State.unL1_harts (g : (core line : Nat) → Bool) : (s.unL1 g).harts = s.harts := rfl
@[simp] theorem State.unL1_tasks (g : (core line : Nat) → Bool) : (s.unL1 g).tasks = s.tasks := rfl
@[simp] theorem State.unL1_slices (g : (core line : Nat) → Bool) : (s.unL1 g).slices = s.slices := rfl
@[simp] theorem State.unL1_blocks (g : (core line : Nat) → Bool) : (s.unL1 g).blocks = s.blocks := rfl
@[simp] theorem State.unL1_waves (g : (core line : Nat) → Bool) : (s.unL1 g).waves = s.waves := rfl
@[simp] theorem State.unL1_loops (g : (core line : Nat) → Bool) : (s.unL1 g).loops = s.loops := rfl
@[simp] theorem State.unL1_faults (g : (core line : Nat) → Bool) : (s.unL1 g).faults = s.faults := rfl
@[simp] theorem State.unL1_tlb (g : (core line : Nat) → Bool) : (s.unL1 g).tlb = s.tlb := rfl
@[simp] theorem State.unL1_dir (g : (core line : Nat) → Bool) : (s.unL1 g).dir = s.dir := rfl
@[simp] theorem State.unL1_latent (g : (core line : Nat) → Bool) : (s.unL1 g).latent = s.latent := rfl
@[simp] theorem State.unL1_moves (g : (core line : Nat) → Bool) : (s.unL1 g).moves = s.moves := rfl
@[simp] theorem State.unL1_forwards (g : (core line : Nat) → Bool) : (s.unL1 g).forwards = s.forwards := rfl
@[simp] theorem State.unL1_handovers (g : (core line : Nat) → Bool) : (s.unL1 g).handovers = s.handovers := rfl
@[simp] theorem State.unL1_modPart (g : (core line : Nat) → Bool) : (s.unL1 g).modPart = s.modPart := rfl
@[simp] theorem State.unL1_attest (g : (core line : Nat) → Bool) : (s.unL1 g).attest = s.attest := rfl
@[simp] theorem State.unL1_vaultrd (g : (core line : Nat) → Bool) : (s.unL1 g).vaultrd = s.vaultrd := rfl
@[simp] theorem State.unL1_poolOwt (g : (core line : Nat) → Bool) : (s.unL1 g).poolOwt = s.poolOwt := rfl
@[simp] theorem State.unL1_poolCmd (g : (core line : Nat) → Bool) : (s.unL1 g).poolCmd = s.poolCmd := rfl
@[simp] theorem State.unL1_engines (g : (core line : Nat) → Bool) : (s.unL1 g).engines = s.engines := rfl
@[simp] theorem State.unL1_mats (g : (core line : Nat) → Bool) : (s.unL1 g).mats = s.mats := rfl
@[simp] theorem State.unL1_copies (g : (core line : Nat) → Bool) : (s.unL1 g).copies = s.copies := rfl
@[simp] theorem State.unL1_nms (g : (core line : Nat) → Bool) : (s.unL1 g).nms = s.nms := rfl
@[simp] theorem State.unL1_touched (g : (core line : Nat) → Bool) : (s.unL1 g).touched = s.touched := rfl
@[simp] theorem State.unL1_ctes (g : (core line : Nat) → Bool) : (s.unL1 g).ctes = s.ctes := rfl
@[simp] theorem State.unL1_wstat (g : (core line : Nat) → Bool) : (s.unL1 g).wstat = s.wstat := rfl
@[simp] theorem State.unL1_laneFlt (g : (core line : Nat) → Bool) : (s.unL1 g).laneFlt = s.laneFlt := rfl
@[simp] theorem State.unL1_linksDown (g : (core line : Nat) → Bool) : (s.unL1 g).linksDown = s.linksDown := rfl
@[simp] theorem State.unL1_peersUp (g : (core line : Nat) → Bool) : (s.unL1 g).peersUp = s.peersUp := rfl
@[simp] theorem State.unL1_vault (g : (core line : Nat) → Bool) : (s.unL1 g).vault = s.vault := rfl
@[simp] theorem State.unL1_firmware (g : (core line : Nat) → Bool) : (s.unL1 g).firmware = s.firmware := rfl
@[simp] theorem State.unL1_booted (g : (core line : Nat) → Bool) : (s.unL1 g).booted = s.booted := rfl
@[simp] theorem State.unL1_relays (g : (core line : Nat) → Bool) : (s.unL1 g).relays = s.relays := rfl
@[simp] theorem State.unL1_sideband (g : (core line : Nat) → Bool) : (s.unL1 g).sideband = s.sideband := rfl
@[simp] theorem State.unL1_irqs (g : (core line : Nat) → Bool) : (s.unL1 g).irqs = s.irqs := rfl
@[simp] theorem State.unL1_checks (g : (core line : Nat) → Bool) : (s.unL1 g).checks = s.checks := rfl
@[simp] theorem State.unL1_capver (g : (core line : Nat) → Bool) : (s.unL1 g).capver = s.capver := rfl
@[simp] theorem State.unL1_badPages (g : (core line : Nat) → Bool) : (s.unL1 g).badPages = s.badPages := rfl

/-! ## dropTlb -/

@[simp] theorem State.dropTlb_clock (g : TlbEntry → Bool) : (s.dropTlb g).clock = s.clock := rfl
@[simp] theorem State.dropTlb_free (g : TlbEntry → Bool) : (s.dropTlb g).free = s.free := rfl
@[simp] theorem State.dropTlb_nextId (g : TlbEntry → Bool) : (s.dropTlb g).nextId = s.nextId := rfl
@[simp] theorem State.dropTlb_agenda (g : TlbEntry → Bool) : (s.dropTlb g).agenda = s.agenda := rfl
@[simp] theorem State.dropTlb_ages (g : TlbEntry → Bool) : (s.dropTlb g).ages = s.ages := rfl
@[simp] theorem State.dropTlb_cur (g : TlbEntry → Bool) : (s.dropTlb g).cur = s.cur := rfl
@[simp] theorem State.dropTlb_curHart (g : TlbEntry → Bool) : (s.dropTlb g).curHart = s.curHart := rfl
@[simp] theorem State.dropTlb_inReset (g : TlbEntry → Bool) : (s.dropTlb g).inReset = s.inReset := rfl
@[simp] theorem State.dropTlb_resetWhy (g : TlbEntry → Bool) : (s.dropTlb g).resetWhy = s.resetWhy := rfl
@[simp] theorem State.dropTlb_mem (g : TlbEntry → Bool) : (s.dropTlb g).mem = s.mem := rfl
@[simp] theorem State.dropTlb_poison (g : TlbEntry → Bool) : (s.dropTlb g).poison = s.poison := rfl
@[simp] theorem State.dropTlb_tenants (g : TlbEntry → Bool) : (s.dropTlb g).tenants = s.tenants := rfl
@[simp] theorem State.dropTlb_hubs (g : TlbEntry → Bool) : (s.dropTlb g).hubs = s.hubs := rfl
@[simp] theorem State.dropTlb_dies (g : TlbEntry → Bool) : (s.dropTlb g).dies = s.dies := rfl
@[simp] theorem State.dropTlb_cores (g : TlbEntry → Bool) : (s.dropTlb g).cores = s.cores := rfl
@[simp] theorem State.dropTlb_clocks (g : TlbEntry → Bool) : (s.dropTlb g).clocks = s.clocks := rfl
@[simp] theorem State.dropTlb_harts (g : TlbEntry → Bool) : (s.dropTlb g).harts = s.harts := rfl
@[simp] theorem State.dropTlb_tasks (g : TlbEntry → Bool) : (s.dropTlb g).tasks = s.tasks := rfl
@[simp] theorem State.dropTlb_slices (g : TlbEntry → Bool) : (s.dropTlb g).slices = s.slices := rfl
@[simp] theorem State.dropTlb_blocks (g : TlbEntry → Bool) : (s.dropTlb g).blocks = s.blocks := rfl
@[simp] theorem State.dropTlb_waves (g : TlbEntry → Bool) : (s.dropTlb g).waves = s.waves := rfl
@[simp] theorem State.dropTlb_loops (g : TlbEntry → Bool) : (s.dropTlb g).loops = s.loops := rfl
@[simp] theorem State.dropTlb_faults (g : TlbEntry → Bool) : (s.dropTlb g).faults = s.faults := rfl
@[simp] theorem State.dropTlb_tlb (g : TlbEntry → Bool) : (s.dropTlb g).tlb = s.tlb.filter fun t => !g t := rfl
@[simp] theorem State.dropTlb_dir (g : TlbEntry → Bool) : (s.dropTlb g).dir = s.dir := rfl
@[simp] theorem State.dropTlb_l1 (g : TlbEntry → Bool) : (s.dropTlb g).l1 = s.l1 := rfl
@[simp] theorem State.dropTlb_latent (g : TlbEntry → Bool) : (s.dropTlb g).latent = s.latent := rfl
@[simp] theorem State.dropTlb_moves (g : TlbEntry → Bool) : (s.dropTlb g).moves = s.moves := rfl
@[simp] theorem State.dropTlb_forwards (g : TlbEntry → Bool) : (s.dropTlb g).forwards = s.forwards := rfl
@[simp] theorem State.dropTlb_handovers (g : TlbEntry → Bool) : (s.dropTlb g).handovers = s.handovers := rfl
@[simp] theorem State.dropTlb_modPart (g : TlbEntry → Bool) : (s.dropTlb g).modPart = s.modPart := rfl
@[simp] theorem State.dropTlb_attest (g : TlbEntry → Bool) : (s.dropTlb g).attest = s.attest := rfl
@[simp] theorem State.dropTlb_vaultrd (g : TlbEntry → Bool) : (s.dropTlb g).vaultrd = s.vaultrd := rfl
@[simp] theorem State.dropTlb_poolOwt (g : TlbEntry → Bool) : (s.dropTlb g).poolOwt = s.poolOwt := rfl
@[simp] theorem State.dropTlb_poolCmd (g : TlbEntry → Bool) : (s.dropTlb g).poolCmd = s.poolCmd := rfl
@[simp] theorem State.dropTlb_engines (g : TlbEntry → Bool) : (s.dropTlb g).engines = s.engines := rfl
@[simp] theorem State.dropTlb_mats (g : TlbEntry → Bool) : (s.dropTlb g).mats = s.mats := rfl
@[simp] theorem State.dropTlb_copies (g : TlbEntry → Bool) : (s.dropTlb g).copies = s.copies := rfl
@[simp] theorem State.dropTlb_nms (g : TlbEntry → Bool) : (s.dropTlb g).nms = s.nms := rfl
@[simp] theorem State.dropTlb_touched (g : TlbEntry → Bool) : (s.dropTlb g).touched = s.touched := rfl
@[simp] theorem State.dropTlb_ctes (g : TlbEntry → Bool) : (s.dropTlb g).ctes = s.ctes := rfl
@[simp] theorem State.dropTlb_wstat (g : TlbEntry → Bool) : (s.dropTlb g).wstat = s.wstat := rfl
@[simp] theorem State.dropTlb_laneFlt (g : TlbEntry → Bool) : (s.dropTlb g).laneFlt = s.laneFlt := rfl
@[simp] theorem State.dropTlb_linksDown (g : TlbEntry → Bool) : (s.dropTlb g).linksDown = s.linksDown := rfl
@[simp] theorem State.dropTlb_peersUp (g : TlbEntry → Bool) : (s.dropTlb g).peersUp = s.peersUp := rfl
@[simp] theorem State.dropTlb_vault (g : TlbEntry → Bool) : (s.dropTlb g).vault = s.vault := rfl
@[simp] theorem State.dropTlb_firmware (g : TlbEntry → Bool) : (s.dropTlb g).firmware = s.firmware := rfl
@[simp] theorem State.dropTlb_booted (g : TlbEntry → Bool) : (s.dropTlb g).booted = s.booted := rfl
@[simp] theorem State.dropTlb_relays (g : TlbEntry → Bool) : (s.dropTlb g).relays = s.relays := rfl
@[simp] theorem State.dropTlb_sideband (g : TlbEntry → Bool) : (s.dropTlb g).sideband = s.sideband := rfl
@[simp] theorem State.dropTlb_irqs (g : TlbEntry → Bool) : (s.dropTlb g).irqs = s.irqs := rfl
@[simp] theorem State.dropTlb_checks (g : TlbEntry → Bool) : (s.dropTlb g).checks = s.checks := rfl
@[simp] theorem State.dropTlb_capver (g : TlbEntry → Bool) : (s.dropTlb g).capver = s.capver := rfl
@[simp] theorem State.dropTlb_badPages (g : TlbEntry → Bool) : (s.dropTlb g).badPages = s.badPages := rfl

/-! ## idle -/

@[simp] theorem State.idle_clock : (s.idle).clock = s.clock := rfl
@[simp] theorem State.idle_free : (s.idle).free = s.free := rfl
@[simp] theorem State.idle_nextId : (s.idle).nextId = s.nextId := rfl
@[simp] theorem State.idle_agenda : (s.idle).agenda = s.agenda := rfl
@[simp] theorem State.idle_ages : (s.idle).ages = s.ages := rfl
@[simp] theorem State.idle_cur : (s.idle).cur = none := rfl
@[simp] theorem State.idle_curHart : (s.idle).curHart = s.curHart := rfl
@[simp] theorem State.idle_inReset : (s.idle).inReset = s.inReset := rfl
@[simp] theorem State.idle_resetWhy : (s.idle).resetWhy = s.resetWhy := rfl
@[simp] theorem State.idle_mem : (s.idle).mem = s.mem := rfl
@[simp] theorem State.idle_poison : (s.idle).poison = s.poison := rfl
@[simp] theorem State.idle_tenants : (s.idle).tenants = s.tenants := rfl
@[simp] theorem State.idle_hubs : (s.idle).hubs = s.hubs := rfl
@[simp] theorem State.idle_dies : (s.idle).dies = s.dies := rfl
@[simp] theorem State.idle_cores : (s.idle).cores = s.cores := rfl
@[simp] theorem State.idle_clocks : (s.idle).clocks = s.clocks := rfl
@[simp] theorem State.idle_harts : (s.idle).harts = s.harts := rfl
@[simp] theorem State.idle_tasks : (s.idle).tasks = s.tasks := rfl
@[simp] theorem State.idle_slices : (s.idle).slices = s.slices := rfl
@[simp] theorem State.idle_blocks : (s.idle).blocks = s.blocks := rfl
@[simp] theorem State.idle_waves : (s.idle).waves = s.waves := rfl
@[simp] theorem State.idle_loops : (s.idle).loops = s.loops := rfl
@[simp] theorem State.idle_faults : (s.idle).faults = s.faults := rfl
@[simp] theorem State.idle_tlb : (s.idle).tlb = s.tlb := rfl
@[simp] theorem State.idle_dir : (s.idle).dir = s.dir := rfl
@[simp] theorem State.idle_l1 : (s.idle).l1 = s.l1 := rfl
@[simp] theorem State.idle_locks : (s.idle).locks = s.locks := rfl
@[simp] theorem State.idle_latent : (s.idle).latent = s.latent := rfl
@[simp] theorem State.idle_moves : (s.idle).moves = s.moves := rfl
@[simp] theorem State.idle_forwards : (s.idle).forwards = s.forwards := rfl
@[simp] theorem State.idle_handovers : (s.idle).handovers = s.handovers := rfl
@[simp] theorem State.idle_modPart : (s.idle).modPart = s.modPart := rfl
@[simp] theorem State.idle_attest : (s.idle).attest = s.attest := rfl
@[simp] theorem State.idle_vaultrd : (s.idle).vaultrd = s.vaultrd := rfl
@[simp] theorem State.idle_poolOwt : (s.idle).poolOwt = s.poolOwt := rfl
@[simp] theorem State.idle_poolCmd : (s.idle).poolCmd = s.poolCmd := rfl
@[simp] theorem State.idle_engines : (s.idle).engines = s.engines := rfl
@[simp] theorem State.idle_mats : (s.idle).mats = s.mats := rfl
@[simp] theorem State.idle_copies : (s.idle).copies = s.copies := rfl
@[simp] theorem State.idle_nms : (s.idle).nms = s.nms := rfl
@[simp] theorem State.idle_touched : (s.idle).touched = s.touched := rfl
@[simp] theorem State.idle_ctes : (s.idle).ctes = s.ctes := rfl
@[simp] theorem State.idle_wstat : (s.idle).wstat = s.wstat := rfl
@[simp] theorem State.idle_laneFlt : (s.idle).laneFlt = s.laneFlt := rfl
@[simp] theorem State.idle_linksDown : (s.idle).linksDown = s.linksDown := rfl
@[simp] theorem State.idle_peersUp : (s.idle).peersUp = s.peersUp := rfl
@[simp] theorem State.idle_vault : (s.idle).vault = s.vault := rfl
@[simp] theorem State.idle_firmware : (s.idle).firmware = s.firmware := rfl
@[simp] theorem State.idle_booted : (s.idle).booted = s.booted := rfl
@[simp] theorem State.idle_relays : (s.idle).relays = s.relays := rfl
@[simp] theorem State.idle_sideband : (s.idle).sideband = s.sideband := rfl
@[simp] theorem State.idle_irqs : (s.idle).irqs = s.irqs := rfl
@[simp] theorem State.idle_checks : (s.idle).checks = s.checks := rfl
@[simp] theorem State.idle_capver : (s.idle).capver = s.capver := rfl
@[simp] theorem State.idle_badPages : (s.idle).badPages = s.badPages := rfl

/-! ## drawBit -/

@[simp] theorem State.drawBit_clock : (s.drawBit.2).clock = s.clock := rfl
@[simp] theorem State.drawBit_free : (s.drawBit.2).free = s.free + 1 := rfl
@[simp] theorem State.drawBit_nextId : (s.drawBit.2).nextId = s.nextId := rfl
@[simp] theorem State.drawBit_agenda : (s.drawBit.2).agenda = s.agenda := rfl
@[simp] theorem State.drawBit_ages : (s.drawBit.2).ages = s.ages := rfl
@[simp] theorem State.drawBit_cur : (s.drawBit.2).cur = s.cur := rfl
@[simp] theorem State.drawBit_curHart : (s.drawBit.2).curHart = s.curHart := rfl
@[simp] theorem State.drawBit_inReset : (s.drawBit.2).inReset = s.inReset := rfl
@[simp] theorem State.drawBit_resetWhy : (s.drawBit.2).resetWhy = s.resetWhy := rfl
@[simp] theorem State.drawBit_mem : (s.drawBit.2).mem = s.mem := rfl
@[simp] theorem State.drawBit_poison : (s.drawBit.2).poison = s.poison := rfl
@[simp] theorem State.drawBit_tenants : (s.drawBit.2).tenants = s.tenants := rfl
@[simp] theorem State.drawBit_hubs : (s.drawBit.2).hubs = s.hubs := rfl
@[simp] theorem State.drawBit_dies : (s.drawBit.2).dies = s.dies := rfl
@[simp] theorem State.drawBit_cores : (s.drawBit.2).cores = s.cores := rfl
@[simp] theorem State.drawBit_clocks : (s.drawBit.2).clocks = s.clocks := rfl
@[simp] theorem State.drawBit_harts : (s.drawBit.2).harts = s.harts := rfl
@[simp] theorem State.drawBit_tasks : (s.drawBit.2).tasks = s.tasks := rfl
@[simp] theorem State.drawBit_slices : (s.drawBit.2).slices = s.slices := rfl
@[simp] theorem State.drawBit_blocks : (s.drawBit.2).blocks = s.blocks := rfl
@[simp] theorem State.drawBit_waves : (s.drawBit.2).waves = s.waves := rfl
@[simp] theorem State.drawBit_loops : (s.drawBit.2).loops = s.loops := rfl
@[simp] theorem State.drawBit_faults : (s.drawBit.2).faults = s.faults := rfl
@[simp] theorem State.drawBit_tlb : (s.drawBit.2).tlb = s.tlb := rfl
@[simp] theorem State.drawBit_dir : (s.drawBit.2).dir = s.dir := rfl
@[simp] theorem State.drawBit_l1 : (s.drawBit.2).l1 = s.l1 := rfl
@[simp] theorem State.drawBit_locks : (s.drawBit.2).locks = s.locks := rfl
@[simp] theorem State.drawBit_latent : (s.drawBit.2).latent = s.latent := rfl
@[simp] theorem State.drawBit_moves : (s.drawBit.2).moves = s.moves := rfl
@[simp] theorem State.drawBit_forwards : (s.drawBit.2).forwards = s.forwards := rfl
@[simp] theorem State.drawBit_handovers : (s.drawBit.2).handovers = s.handovers := rfl
@[simp] theorem State.drawBit_modPart : (s.drawBit.2).modPart = s.modPart := rfl
@[simp] theorem State.drawBit_attest : (s.drawBit.2).attest = s.attest := rfl
@[simp] theorem State.drawBit_vaultrd : (s.drawBit.2).vaultrd = s.vaultrd := rfl
@[simp] theorem State.drawBit_poolOwt : (s.drawBit.2).poolOwt = s.poolOwt := rfl
@[simp] theorem State.drawBit_poolCmd : (s.drawBit.2).poolCmd = s.poolCmd := rfl
@[simp] theorem State.drawBit_engines : (s.drawBit.2).engines = s.engines := rfl
@[simp] theorem State.drawBit_mats : (s.drawBit.2).mats = s.mats := rfl
@[simp] theorem State.drawBit_copies : (s.drawBit.2).copies = s.copies := rfl
@[simp] theorem State.drawBit_nms : (s.drawBit.2).nms = s.nms := rfl
@[simp] theorem State.drawBit_touched : (s.drawBit.2).touched = s.touched := rfl
@[simp] theorem State.drawBit_ctes : (s.drawBit.2).ctes = s.ctes := rfl
@[simp] theorem State.drawBit_wstat : (s.drawBit.2).wstat = s.wstat := rfl
@[simp] theorem State.drawBit_laneFlt : (s.drawBit.2).laneFlt = s.laneFlt := rfl
@[simp] theorem State.drawBit_linksDown : (s.drawBit.2).linksDown = s.linksDown := rfl
@[simp] theorem State.drawBit_peersUp : (s.drawBit.2).peersUp = s.peersUp := rfl
@[simp] theorem State.drawBit_vault : (s.drawBit.2).vault = s.vault := rfl
@[simp] theorem State.drawBit_firmware : (s.drawBit.2).firmware = s.firmware := rfl
@[simp] theorem State.drawBit_booted : (s.drawBit.2).booted = s.booted := rfl
@[simp] theorem State.drawBit_relays : (s.drawBit.2).relays = s.relays := rfl
@[simp] theorem State.drawBit_sideband : (s.drawBit.2).sideband = s.sideband := rfl
@[simp] theorem State.drawBit_irqs : (s.drawBit.2).irqs = s.irqs := rfl
@[simp] theorem State.drawBit_checks : (s.drawBit.2).checks = s.checks := rfl
@[simp] theorem State.drawBit_capver : (s.drawBit.2).capver = s.capver := rfl
@[simp] theorem State.drawBit_badPages : (s.drawBit.2).badPages = s.badPages := rfl

/-! ## drawWord -/

@[simp] theorem State.drawWord_clock : (s.drawWord.2).clock = s.clock := rfl
@[simp] theorem State.drawWord_free : (s.drawWord.2).free = s.free + 1 := rfl
@[simp] theorem State.drawWord_nextId : (s.drawWord.2).nextId = s.nextId := rfl
@[simp] theorem State.drawWord_agenda : (s.drawWord.2).agenda = s.agenda := rfl
@[simp] theorem State.drawWord_ages : (s.drawWord.2).ages = s.ages := rfl
@[simp] theorem State.drawWord_cur : (s.drawWord.2).cur = s.cur := rfl
@[simp] theorem State.drawWord_curHart : (s.drawWord.2).curHart = s.curHart := rfl
@[simp] theorem State.drawWord_inReset : (s.drawWord.2).inReset = s.inReset := rfl
@[simp] theorem State.drawWord_resetWhy : (s.drawWord.2).resetWhy = s.resetWhy := rfl
@[simp] theorem State.drawWord_mem : (s.drawWord.2).mem = s.mem := rfl
@[simp] theorem State.drawWord_poison : (s.drawWord.2).poison = s.poison := rfl
@[simp] theorem State.drawWord_tenants : (s.drawWord.2).tenants = s.tenants := rfl
@[simp] theorem State.drawWord_hubs : (s.drawWord.2).hubs = s.hubs := rfl
@[simp] theorem State.drawWord_dies : (s.drawWord.2).dies = s.dies := rfl
@[simp] theorem State.drawWord_cores : (s.drawWord.2).cores = s.cores := rfl
@[simp] theorem State.drawWord_clocks : (s.drawWord.2).clocks = s.clocks := rfl
@[simp] theorem State.drawWord_harts : (s.drawWord.2).harts = s.harts := rfl
@[simp] theorem State.drawWord_tasks : (s.drawWord.2).tasks = s.tasks := rfl
@[simp] theorem State.drawWord_slices : (s.drawWord.2).slices = s.slices := rfl
@[simp] theorem State.drawWord_blocks : (s.drawWord.2).blocks = s.blocks := rfl
@[simp] theorem State.drawWord_waves : (s.drawWord.2).waves = s.waves := rfl
@[simp] theorem State.drawWord_loops : (s.drawWord.2).loops = s.loops := rfl
@[simp] theorem State.drawWord_faults : (s.drawWord.2).faults = s.faults := rfl
@[simp] theorem State.drawWord_tlb : (s.drawWord.2).tlb = s.tlb := rfl
@[simp] theorem State.drawWord_dir : (s.drawWord.2).dir = s.dir := rfl
@[simp] theorem State.drawWord_l1 : (s.drawWord.2).l1 = s.l1 := rfl
@[simp] theorem State.drawWord_locks : (s.drawWord.2).locks = s.locks := rfl
@[simp] theorem State.drawWord_latent : (s.drawWord.2).latent = s.latent := rfl
@[simp] theorem State.drawWord_moves : (s.drawWord.2).moves = s.moves := rfl
@[simp] theorem State.drawWord_forwards : (s.drawWord.2).forwards = s.forwards := rfl
@[simp] theorem State.drawWord_handovers : (s.drawWord.2).handovers = s.handovers := rfl
@[simp] theorem State.drawWord_modPart : (s.drawWord.2).modPart = s.modPart := rfl
@[simp] theorem State.drawWord_attest : (s.drawWord.2).attest = s.attest := rfl
@[simp] theorem State.drawWord_vaultrd : (s.drawWord.2).vaultrd = s.vaultrd := rfl
@[simp] theorem State.drawWord_poolOwt : (s.drawWord.2).poolOwt = s.poolOwt := rfl
@[simp] theorem State.drawWord_poolCmd : (s.drawWord.2).poolCmd = s.poolCmd := rfl
@[simp] theorem State.drawWord_engines : (s.drawWord.2).engines = s.engines := rfl
@[simp] theorem State.drawWord_mats : (s.drawWord.2).mats = s.mats := rfl
@[simp] theorem State.drawWord_copies : (s.drawWord.2).copies = s.copies := rfl
@[simp] theorem State.drawWord_nms : (s.drawWord.2).nms = s.nms := rfl
@[simp] theorem State.drawWord_touched : (s.drawWord.2).touched = s.touched := rfl
@[simp] theorem State.drawWord_ctes : (s.drawWord.2).ctes = s.ctes := rfl
@[simp] theorem State.drawWord_wstat : (s.drawWord.2).wstat = s.wstat := rfl
@[simp] theorem State.drawWord_laneFlt : (s.drawWord.2).laneFlt = s.laneFlt := rfl
@[simp] theorem State.drawWord_linksDown : (s.drawWord.2).linksDown = s.linksDown := rfl
@[simp] theorem State.drawWord_peersUp : (s.drawWord.2).peersUp = s.peersUp := rfl
@[simp] theorem State.drawWord_vault : (s.drawWord.2).vault = s.vault := rfl
@[simp] theorem State.drawWord_firmware : (s.drawWord.2).firmware = s.firmware := rfl
@[simp] theorem State.drawWord_booted : (s.drawWord.2).booted = s.booted := rfl
@[simp] theorem State.drawWord_relays : (s.drawWord.2).relays = s.relays := rfl
@[simp] theorem State.drawWord_sideband : (s.drawWord.2).sideband = s.sideband := rfl
@[simp] theorem State.drawWord_irqs : (s.drawWord.2).irqs = s.irqs := rfl
@[simp] theorem State.drawWord_checks : (s.drawWord.2).checks = s.checks := rfl
@[simp] theorem State.drawWord_capver : (s.drawWord.2).capver = s.capver := rfl
@[simp] theorem State.drawWord_badPages : (s.drawWord.2).badPages = s.badPages := rfl

/-! ## newId -/

@[simp] theorem State.newId_clock : (s.newId.2).clock = s.clock := rfl
@[simp] theorem State.newId_free : (s.newId.2).free = s.free := rfl
@[simp] theorem State.newId_nextId : (s.newId.2).nextId = s.nextId + 1 := rfl
@[simp] theorem State.newId_agenda : (s.newId.2).agenda = s.agenda := rfl
@[simp] theorem State.newId_ages : (s.newId.2).ages = s.ages := rfl
@[simp] theorem State.newId_cur : (s.newId.2).cur = s.cur := rfl
@[simp] theorem State.newId_curHart : (s.newId.2).curHart = s.curHart := rfl
@[simp] theorem State.newId_inReset : (s.newId.2).inReset = s.inReset := rfl
@[simp] theorem State.newId_resetWhy : (s.newId.2).resetWhy = s.resetWhy := rfl
@[simp] theorem State.newId_mem : (s.newId.2).mem = s.mem := rfl
@[simp] theorem State.newId_poison : (s.newId.2).poison = s.poison := rfl
@[simp] theorem State.newId_tenants : (s.newId.2).tenants = s.tenants := rfl
@[simp] theorem State.newId_hubs : (s.newId.2).hubs = s.hubs := rfl
@[simp] theorem State.newId_dies : (s.newId.2).dies = s.dies := rfl
@[simp] theorem State.newId_cores : (s.newId.2).cores = s.cores := rfl
@[simp] theorem State.newId_clocks : (s.newId.2).clocks = s.clocks := rfl
@[simp] theorem State.newId_harts : (s.newId.2).harts = s.harts := rfl
@[simp] theorem State.newId_tasks : (s.newId.2).tasks = s.tasks := rfl
@[simp] theorem State.newId_slices : (s.newId.2).slices = s.slices := rfl
@[simp] theorem State.newId_blocks : (s.newId.2).blocks = s.blocks := rfl
@[simp] theorem State.newId_waves : (s.newId.2).waves = s.waves := rfl
@[simp] theorem State.newId_loops : (s.newId.2).loops = s.loops := rfl
@[simp] theorem State.newId_faults : (s.newId.2).faults = s.faults := rfl
@[simp] theorem State.newId_tlb : (s.newId.2).tlb = s.tlb := rfl
@[simp] theorem State.newId_dir : (s.newId.2).dir = s.dir := rfl
@[simp] theorem State.newId_l1 : (s.newId.2).l1 = s.l1 := rfl
@[simp] theorem State.newId_locks : (s.newId.2).locks = s.locks := rfl
@[simp] theorem State.newId_latent : (s.newId.2).latent = s.latent := rfl
@[simp] theorem State.newId_moves : (s.newId.2).moves = s.moves := rfl
@[simp] theorem State.newId_forwards : (s.newId.2).forwards = s.forwards := rfl
@[simp] theorem State.newId_handovers : (s.newId.2).handovers = s.handovers := rfl
@[simp] theorem State.newId_modPart : (s.newId.2).modPart = s.modPart := rfl
@[simp] theorem State.newId_attest : (s.newId.2).attest = s.attest := rfl
@[simp] theorem State.newId_vaultrd : (s.newId.2).vaultrd = s.vaultrd := rfl
@[simp] theorem State.newId_poolOwt : (s.newId.2).poolOwt = s.poolOwt := rfl
@[simp] theorem State.newId_poolCmd : (s.newId.2).poolCmd = s.poolCmd := rfl
@[simp] theorem State.newId_engines : (s.newId.2).engines = s.engines := rfl
@[simp] theorem State.newId_mats : (s.newId.2).mats = s.mats := rfl
@[simp] theorem State.newId_copies : (s.newId.2).copies = s.copies := rfl
@[simp] theorem State.newId_nms : (s.newId.2).nms = s.nms := rfl
@[simp] theorem State.newId_touched : (s.newId.2).touched = s.touched := rfl
@[simp] theorem State.newId_ctes : (s.newId.2).ctes = s.ctes := rfl
@[simp] theorem State.newId_wstat : (s.newId.2).wstat = s.wstat := rfl
@[simp] theorem State.newId_laneFlt : (s.newId.2).laneFlt = s.laneFlt := rfl
@[simp] theorem State.newId_linksDown : (s.newId.2).linksDown = s.linksDown := rfl
@[simp] theorem State.newId_peersUp : (s.newId.2).peersUp = s.peersUp := rfl
@[simp] theorem State.newId_vault : (s.newId.2).vault = s.vault := rfl
@[simp] theorem State.newId_firmware : (s.newId.2).firmware = s.firmware := rfl
@[simp] theorem State.newId_booted : (s.newId.2).booted = s.booted := rfl
@[simp] theorem State.newId_relays : (s.newId.2).relays = s.relays := rfl
@[simp] theorem State.newId_sideband : (s.newId.2).sideband = s.sideband := rfl
@[simp] theorem State.newId_irqs : (s.newId.2).irqs = s.irqs := rfl
@[simp] theorem State.newId_checks : (s.newId.2).checks = s.checks := rfl
@[simp] theorem State.newId_capver : (s.newId.2).capver = s.capver := rfl
@[simp] theorem State.newId_badPages : (s.newId.2).badPages = s.badPages := rfl
@[simp] theorem State.setDir_dir_some (l : Nat) (e : DirEntry) : (s.setDir l (some e)).dir = e :: s.dir.filter fun x => x.line != l := rfl
@[simp] theorem State.setDir_dir_none (l : Nat) : (s.setDir l none).dir = s.dir.filter fun x => x.line != l := rfl

end Sys2Proof.Machine
end

