-- ==== Sys2Proof/Laws/Mem.lean ====
section
/-! SUPPORT. The laws of memory: every operation keeps the canonical form, a read after a write gives what was written and leaves every
other byte alone, and canonical memories that read alike are equal. -/
namespace Sys2Proof.Machine

/-! ## The canonical form -/

theorem Memory.wfFrom_mono {lo lo' : Nat} (h : lo' ≤ lo) {m : Memory} (hm : m.wfFrom lo = true) : m.wfFrom lo' = true := by
  cases m with
  | nil => rfl
  | cons p rest =>
    simp only [Memory.wfFrom, Bool.and_eq_true, decide_eq_true_eq] at hm ⊢
    exact ⟨⟨by omega, hm.1.2⟩, hm.2⟩

/-- A write at or above the bound keeps the form. -/
theorem Memory.wfFrom_write {lo a : Nat} (h : lo ≤ a) (v : Byte) {m : Memory} (hm : m.wfFrom lo = true) : (m.write a v).wfFrom lo = true := by
  induction m generalizing lo with
  | nil =>
    simp only [Memory.write]
    split
    · rfl
    · rename_i hv
      simp [Memory.wfFrom, h, bne, hv]
  | cons p rest ih =>
    obtain ⟨k, b⟩ := p
    simp only [Memory.wfFrom, Bool.and_eq_true, decide_eq_true_eq] at hm
    obtain ⟨⟨hk, hb⟩, hr⟩ := hm
    simp only [Memory.write]
    split
    · split
      · simp [Memory.wfFrom, hk, hb, hr]
      · rename_i hv
        simp only [Memory.wfFrom, Bool.and_eq_true, decide_eq_true_eq]
        exact ⟨⟨h, by simp [bne, hv]⟩, ⟨by omega, hb⟩, hr⟩
    · split
      · rename_i he
        simp only [beq_iff_eq] at he
        split
        · exact Memory.wfFrom_mono (by omega) hr
        · rename_i hv
          simp only [Memory.wfFrom, Bool.and_eq_true, decide_eq_true_eq]
          exact ⟨⟨h, by simp [bne, hv]⟩, he ▸ hr⟩
      · rename_i hlt hne
        simp only [beq_iff_eq] at hne
        simp only [Memory.wfFrom, Bool.and_eq_true, decide_eq_true_eq]
        exact ⟨⟨hk, hb⟩, ih (by omega) hr⟩

/-- Writing one byte keeps memory canonical. -/
theorem Memory.wf_write {m : Memory} (a : Nat) (v : Byte) (hm : m.wf = true) : (m.write a v).wf = true :=
  Memory.wfFrom_write (Nat.zero_le a) v hm

/-- Writing a run of bytes keeps memory canonical. -/
theorem Memory.wf_writeBytes {m : Memory} (a : Nat) (bs : List Byte) (hm : m.wf = true) : (m.writeBytes a bs).wf = true := by
  induction bs generalizing m a with
  | nil => exact hm
  | cons b bs ih => exact ih _ (Memory.wf_write a b hm)

theorem State.wf_poke {s : State} (pa : Nat) (bs : List Byte) (h : MemoryInv s) : MemoryInv (s.poke pa bs) := Memory.wf_writeBytes pa bs h

theorem memoryInv_reset : MemoryInv State.reset := rfl

theorem fetchMemory_wf (bs : List Byte) : (fetchMemory bs).wf = true := by
  unfold fetchMemory
  repeat apply Memory.wf_writeBytes
  rfl

theorem State.fetchWave_mem (s : State) : s.fetchWave.mem = s.mem := rfl
theorem State.fetchHart_mem (s : State) : s.fetchHart.mem = s.mem := rfl

theorem fetch_wf (s : State) (bs : List Byte) (b : Bool) :
    MemoryInv (if b then ({ s with mem := fetchMemory bs } : State).fetchHart else ({ s with mem := fetchMemory bs } : State).fetchWave) := by
  cases b
  · exact fetchMemory_wf bs
  · exact fetchMemory_wf bs

/-- Putting an instruction where the next step fetches it keeps memory canonical. -/
theorem State.withFetchWord_wf (s : State) (nbits w : Nat) : MemoryInv (s.withFetchWord nbits w) :=
  fetch_wf s (natBytes 16 (w % 2 ^ nbits)) (nbits == 32)

/-! ## Reads after writes -/

theorem Memory.read_below {lo a : Nat} (h : a < lo) {m : Memory} (hm : m.wfFrom lo = true) : m.read a = Config.initialByte := by
  cases m with
  | nil => rfl
  | cons p rest =>
    obtain ⟨k, b⟩ := p
    simp only [Memory.wfFrom, Bool.and_eq_true, decide_eq_true_eq] at hm
    have h1 : (k == a) = false := by simp; omega
    have h2 : a < k := by omega
    simp [Memory.read, h1, h2]

/-- A byte after a write: the byte written at its address, the old one elsewhere. -/
theorem Memory.read_write_from {lo : Nat} {m : Memory} (hm : m.wfFrom lo = true) (a x : Nat) (v : Byte) :
    (m.write a v).read x = if x = a then v else m.read x := by
  induction m generalizing lo with
  | nil =>
    simp only [Memory.write]
    split
    · rename_i hv
      simp only [beq_iff_eq] at hv
      simp only [Memory.read, hv, ite_self]
    · simp only [Memory.read, beq_iff_eq, ite_self]
      by_cases hx : x = a
      · simp [hx]
      · simp [hx, Ne.symm hx]
  | cons p rest ih =>
    obtain ⟨k, b⟩ := p
    simp only [Memory.wfFrom, Bool.and_eq_true, decide_eq_true_eq] at hm
    obtain ⟨⟨hk, hb⟩, hr⟩ := hm
    simp only [Memory.write]
    split
    · rename_i hak
      split
      · rename_i hv
        simp only [beq_iff_eq] at hv
        by_cases hx : x = a
        · have h1 : (k == a) = false := by simp; omega
          simp [hx, Memory.read, h1, hak, hv]
        · simp [hx]
      · by_cases hx : x = a
        · simp [Memory.read, hx]
        · by_cases hxa : x < a
          · have h1 : (k == x) = false := by simp; omega
            have h2 : x < k := by omega
            simp [Memory.read, Ne.symm hx, hx, hxa, h1, h2]
          · simp [Memory.read, Ne.symm hx, hx, hxa]
    · split
      · rename_i he
        simp only [beq_iff_eq] at he
        subst he
        split
        · rename_i hv
          simp only [beq_iff_eq] at hv
          by_cases hx : x = a
          · rw [if_pos hx, hx, hv]
            exact Memory.read_below (by omega) hr
          · rw [if_neg hx]
            by_cases hxa : x < a
            · rw [Memory.read_below (by omega) hr]
              simp [Memory.read, Ne.symm hx, hxa]
            · simp [Memory.read, Ne.symm hx, hxa]
        · by_cases hx : x = a
          · simp [Memory.read, hx]
          · simp [Memory.read, hx, Ne.symm hx]
      · rename_i hlt hne
        simp only [beq_iff_eq] at hne
        have := ih hr
        by_cases hx : x = k
        · have : x ≠ a := by omega
          subst hx
          simp [Memory.read, this]
        · simp only [Memory.read]
          have h1 : (k == x) = false := by simp; omega
          simp only [h1, Bool.false_eq_true, if_false]
          by_cases hxk : x < k
          · have : x ≠ a := by omega
            simp [hxk, this]
          · simp only [hxk, if_false, this]

theorem Memory.read_write {m : Memory} (hm : m.wf = true) (a x : Nat) (v : Byte) : (m.write a v).read x = if x = a then v else m.read x :=
  Memory.read_write_from hm a x v

/-- A byte after a run has been written: the run's where it lies, the old one elsewhere. -/
theorem Memory.read_writeBytes {m : Memory} (hm : m.wf = true) (a x : Nat) (bs : List Byte) :
    (m.writeBytes a bs).read x = if a ≤ x ∧ x < a + bs.length then bs.getD (x - a) 0 else m.read x := by
  induction bs generalizing m a with
  | nil =>
    have : ¬ (a ≤ x ∧ x < a + ([] : List Byte).length) := by simp
    rw [if_neg this]
    rfl
  | cons b bs ih =>
    have h := ih (Memory.wf_write a b hm) (a + 1)
    simp only [Memory.writeBytes]
    rw [h, Memory.read_write hm]
    simp only [List.length_cons]
    by_cases h1 : a + 1 ≤ x ∧ x < a + 1 + bs.length
    · have h2 : a ≤ x ∧ x < a + (bs.length + 1) := by omega
      rw [if_pos h1, if_pos h2]
      have h3 : x - a = (x - (a + 1)) + 1 := by omega
      rw [h3, List.getD_cons_succ]
    · rw [if_neg h1]
      by_cases h2 : x = a
      · subst h2
        simp
      · have h3 : ¬ (a ≤ x ∧ x < a + (bs.length + 1)) := by omega
        rw [if_neg h2, if_neg h3]

/-- A poke replaces exactly its bytes. -/
theorem State.bytesPut_poke {s : State} (h : MemoryInv s) (pa : Nat) (bs : List Byte) : BytesPut s.mem (s.poke pa bs).mem pa bs :=
  fun x => Memory.read_writeBytes h pa x bs

/-- Poking nowhere near leaves a byte alone. -/
theorem State.read_poke_other {s : State} (h : MemoryInv s) (pa x : Nat) (bs : List Byte) (hx : x < pa ∨ pa + bs.length ≤ x) :
    (s.poke pa bs).mem.read x = s.mem.read x := by
  rw [State.bytesPut_poke h pa bs x, if_neg (by omega)]

/-! ## Equal memories are equal data -/

theorem Memory.ext_from {lo : Nat} {m m' : Memory} (h : m.wfFrom lo = true) (h' : m'.wfFrom lo = true) (e : ∀ a, m.read a = m'.read a) : m = m' := by
  induction m generalizing m' lo with
  | nil =>
    cases m' with
    | nil => rfl
    | cons p rest =>
      obtain ⟨k, b⟩ := p
      simp only [Memory.wfFrom, Bool.and_eq_true, decide_eq_true_eq, bne_iff_ne] at h'
      have := e k
      simp only [Memory.read, beq_self_eq_true, if_true] at this
      exact absurd this.symm h'.1.2
  | cons p rest ih =>
    obtain ⟨k, b⟩ := p
    simp only [Memory.wfFrom, Bool.and_eq_true, decide_eq_true_eq, bne_iff_ne] at h
    obtain ⟨⟨hk, hb⟩, hr⟩ := h
    cases m' with
    | nil =>
      have := e k
      simp only [Memory.read, beq_self_eq_true, if_true] at this
      exact absurd this hb
    | cons p' rest' =>
      obtain ⟨k', b'⟩ := p'
      simp only [Memory.wfFrom, Bool.and_eq_true, decide_eq_true_eq, bne_iff_ne] at h'
      obtain ⟨⟨hk', hb'⟩, hr'⟩ := h'
      have hkk : k = k' := by
        by_cases hlt : k < k'
        · have := e k
          simp only [Memory.read, beq_self_eq_true, if_true] at this
          have h1 : (k' == k) = false := by simp; omega
          simp only [h1, Bool.false_eq_true, if_false, hlt, if_true] at this
          exact absurd this hb
        · by_cases hgt : k' < k
          · have := e k'
            simp only [Memory.read, beq_self_eq_true, if_true] at this
            have h1 : (k == k') = false := by simp; omega
            simp only [h1, Bool.false_eq_true, if_false, hgt, if_true] at this
            exact absurd this.symm hb'
          · omega
      subst hkk
      have hbb : b = b' := by
        have := e k
        simpa [Memory.read] using this
      subst hbb
      have : rest = rest' := by
        refine ih hr hr' fun a => ?_
        by_cases ha : a < k + 1
        · rw [Memory.read_below ha hr, Memory.read_below ha hr']
        · have := e a
          have h1 : (k == a) = false := by simp; omega
          have h2 : ¬ a < k := by omega
          simpa [Memory.read, h1, h2] using this
      rw [this]

/-- Canonical memories that read alike are equal. -/
theorem Memory.ext_read {m m' : Memory} (h : m.wf = true) (h' : m'.wf = true) (e : ∀ a, m.read a = m'.read a) : m = m' := Memory.ext_from h h' e

end Sys2Proof.Machine
end

