-- ==== Sys2Proof/Laws/Step.lean ====
section
/-! SUPPORT. What a loop over a list, a step, and the passing of cycles can do. -/
namespace Sys2Proof.Machine

/-- What every round of a loop keeps, the loop keeps. -/
theorem State.forEach_keeps {α : Type} (p : State → Prop) (f : α → State → State) (hf : ∀ a s, p s → p (f a s)) (l : List α) (s : State)
    (h : p s) : p (s.forEach l f) := by
  induction l generalizing s with
  | nil => exact h
  | cons a l ih => exact ih (f a s) (hf a s h)

/-- A loop over nothing. -/
@[simp] theorem State.forEach_nil {α : Type} (f : α → State → State) (s : State) : s.forEach [] f = s := rfl
@[simp] theorem State.forEach_cons {α : Type} (f : α → State → State) (a : α) (l : List α) (s : State) :
    s.forEach (a :: l) f = (f a s).forEach l f := rfl

/-- Every step that goes on is the act that comes next, then the passing of cycles. -/
theorem step_next {s t : State} (h : step s = .next t) :
    (∃ s0, s.nextAct = (none, s0) ∧ t = s0.pass true)
      ∨ ∃ a s0 u, s.nextAct = (some a, s0) ∧ t = u.pass false
          ∧ (s0.plan a = .done u ∨ ∃ i s1, s0.plan a = .run i s1 ∧ exec i s1 = .next u) := by
  unfold step at h
  split at h
  · rename_i a s0 hn
    right
    unfold runPlan at h
    split at h
    · rename_i i s1 hp
      unfold afterExec at h
      split at h
      · rename_i u hu
        injection h with h
        exact ⟨a, s0, u, hn, h.symm, .inr ⟨i, s1, hp, hu⟩⟩
      · rename_i o ho
        exact absurd h (ho t)
    · rename_i u hp
      injection h with h
      exact ⟨a, s0, u, hn, h.symm, .inl hp⟩
    · cases h
    · cases h
  · rename_i s0 hn
    injection h with h
    exact .inl ⟨s0, hn, h.symm⟩

/-- A tenant's counters are all that an event of a core changes. -/
theorem State.perfCoreEvent_tenants (s : State) (n ev k : Nat) : ∃ ts, s.perfCoreEvent n ev k = { s with tenants := ts } := ⟨_, rfl⟩

/-- What a step leaves to be done between steps: nothing where no Cuff holds a request and no engine operation has touched a line. -/
theorem State.settled {s : State} (h : ∀ m ∈ s.moves, m.held = []) (ht : s.touched = []) : s.settleCuffs.sweepTouched = s := by
  have h1 : s.settleCuffs = s := by
    unfold State.settleCuffs
    have : (s.moves.all fun m => m.held.isEmpty) = true := List.all_eq_true.2 fun m hm => by simp [h m hm]
    simp [this]
  rw [h1]
  unfold State.sweepTouched
  simp [ht]

/-- The passing of cycles settles the Cuffs' queues, and changes the clock, the count of free values and the tenants' counters alone. -/
theorem State.pass_changes (s : State) (idle : Bool) : ∃ ts n, s.pass idle
    = { s.settleCuffs.sweepTouched with free := s.settleCuffs.sweepTouched.free + 1, tenants := ts, clock := n } := by
  have key : ∀ (l : List (Nat × Nat)) (n : Nat) (u : State), ∃ ts, u.forEach l (fun p s => s.perfCoreEvent p.2 1 n) = { u with tenants := ts } := by
    intro l n
    induction l with
    | nil => exact fun u => ⟨u.tenants, rfl⟩
    | cons p l ih =>
      intro u
      obtain ⟨ts, h⟩ := ih (u.perfCoreEvent p.2 1 n)
      exact ⟨ts, h⟩
  unfold State.pass
  generalize s.settleCuffs.sweepTouched = v
  obtain ⟨ts, h⟩ := key ((v.waves.map fun w => (w.ref.core, v.tenantOfWave w)).eraseDups) (Config.elapsed v.free + b2n idle)
    { v with free := v.free + 1 }
  refine ⟨ts, v.clock + (Config.elapsed v.free + b2n idle), ?_⟩
  exact congrArg (fun u : State => { u with clock := u.clock + (Config.elapsed v.free + b2n idle) }) h

/-- A recalled line is in no cache and in no entry of the directory. -/
theorem State.recall_dir (s : State) (l : Nat) : (s.recall l).dir = s.dir.filter fun x => x.line != l := rfl
theorem State.recall_l1 (s : State) (l : Nat) : (s.recall l).l1 = s.l1.filter fun p => !p.2 == l := rfl
theorem State.recall_mem (s : State) (l : Nat) : (s.recall l).mem = s.mem := rfl
theorem State.recall_waves (s : State) (l : Nat) : (s.recall l).waves = s.waves := rfl

end Sys2Proof.Machine
end

