-- ==== Sys2Proof/Tests/Slice0.lean ====
section
/-! SUPPORT. Tests: decoding by words written out from the spec's encodings, what WellFormed refuses, single steps with results from the
spec, and states that meet the hypotheses of the statements. -/
set_option Elab.async false
namespace Sys2Proof.Machine

/-! ## Decoding: one word of every device instruction (03 R67-R70, R79: OPC in [11:2], guard p7 in [14:12], D, A, B, C, MOD) -/

/-- An instruction's low 64 bits: length code, opcode, the codes of D, A, B, C, and MOD, under guard p7. -/
def word (lc opc d a b c mod : Nat) : Nat :=
  lc + opc * 2 ^ 2 + 7 * 2 ^ 12 + d * 2 ^ 16 + a * 2 ^ 25 + b * 2 ^ 34 + c * 2 ^ 43 + mod * 2 ^ 52

/-- The fields that such bits hold. -/
def dev (d a b c : Operand) (mod : BitVec 12) : Dev :=
  ⟨⟨false, 7⟩, .l64, mod, d, a, b, c, .unused, .unused, .unused, .unused, 0, 0⟩

/-- Every word decodes to its instruction. -/
def reads (l : List (Nat × Nat × Instr)) : Bool := l.all fun (n, w, i) => decodeTableWord n w == some i

/-- The worked encodings of 03 R68, 04 R98, R110, 05 R123, R133, 07 R163, R175, 12 R283, R292, 14 R329, 15 R338, 16 R361 and 17 R379. -/
theorem test_decode_examples : reads [
    (64, 0x000018080205732C, .fdota (dev (.v 5) (.v 1) (.v 2) (.v 3) 0)),
    (64, 0x400A4014080A7404, .pack (dev (.v 10) (.v 4) (.v 5) (.k .zero) 0x400)),
    (64, 0x005000000000760C, .barw (dev .unused .unused .unused .unused 0x005)),
    (64, 0x0020000000017A00, .srd (dev (.v 1) .unused .unused .unused 0x002)),
    (64, 0x0000000000007A08, .tret (dev .unused .unused .unused .unused 0)),
    (64, 0x00D000000A007A04, .swr (dev .unused (.v 5) .unused .unused 0x00D)),
    (96, 0x015A4D200C097519, .atom { dev (.v 9) (.v 6) (.k .zero) (.k .one) 0x015 with len := .l96 }),
    (96, 0x0000000000007005 + 0xFFFFFFC0 * 2 ^ 64, .bra { dev .unused .unused .unused .unused 0 with len := .l96, imm := 0xFFFFFFC0 }),
    (96, 0x0000000000002005 + 0xFFFFFFC0 * 2 ^ 64,
      .bra { dev .unused .unused .unused .unused 0 with guard := ⟨false, 2⟩, len := .l96, imm := 0xFFFFFFC0 }),
    (64, 0x120018080204730C, .ffma (dev (.v 4) (.v 1) (.v 2) (.v 3) 0x120)),
    (64, 0x0F80180802077154, .lop3 (dev (.v 7) (.v 1) (.v 2) (.v 3) 0x0F8)),
    (64, 0x0F70052404037480, .shfl (dev (.v 3) (.v 2) (.k .one) .unused 0x0F7)),
    (96, 0x4400052200027501 + 0x40 * 2 ^ 64, .ld { dev (.v 2) (.s 0) (.k .zero) .unused 0x440 with len := .l96, imm := 0x40 }),
    (64, 0x1000004E20007614, .swarm (dev .unused (.s 16) (.v 19) .unused 0x100)),
    (128, 0x0150401004147742 + 0x000001000522140C * 2 ^ 64,
      .cpyb { dev (.v 20) (.v 2) (.v 4) (.v 8) 0x015 with len := .l128, e := .v 12, f := .s 10, g := .k .zero, xmod := 0x010 }),
    (128, 0x0150401004147742 + 0x000001200522900C * 2 ^ 64,
      .cpyb { dev (.v 20) (.v 2) (.v 4) (.v 8) 0x015 with len := .l128, e := .v 12, f := .k .zero, g := .k .zero, xmod := 0x012 })] := by
  decide +kernel

theorem test_decode_control : reads [
    (64, word 0 0x000 0 0 0 0 0x000, .nop (dev .unused .unused .unused .unused 0x000)),
    (96, word 1 0x001 0 0 0 0 0x000 + 0x80000040 * 2 ^ 64, .bra { dev .unused .unused .unused .unused 0x000 with len := .l96, imm := 0x80000040 }),
    (64, word 0 0x002 0 260 0 0 0x001, .brx (dev .unused (.s 4) .unused .unused 0x001)),
    (96, word 1 0x003 10 0 0 0 0x000 + 0x80000040 * 2 ^ 64, .call { dev (.v 10) .unused .unused .unused 0x000 with len := .l96, imm := 0x80000040 }),
    (64, word 0 0x004 10 260 0 0 0x001, .callx (dev (.v 10) (.s 4) .unused .unused 0x001)),
    (64, word 0 0x005 0 260 0 0 0x000, .ret (dev .unused (.s 4) .unused .unused 0x000)),
    (64, word 0 0x006 0 0 0 0 0x000, .exit (dev .unused .unused .unused .unused 0x000)),
    (64, word 0 0x007 0 0 0 0 0x0F8, .trap (dev .unused .unused .unused .unused 0x0F8)),
    (64, word 0 0x008 0 0 0 0 0x0F8, .bkpt (dev .unused .unused .unused .unused 0x0F8)),
    (64, word 0 0x009 0 0 0 0 0x000, .yield (dev .unused .unused .unused .unused 0x000)),
    (64, word 0 0x00A 0 10 0 0 0x000, .nap (dev .unused (.v 10) .unused .unused 0x000)),
    (64, word 0 0x00B 321 260 269 335 0x401, .waitw (dev (.p 1) (.s 4) (.s 13) (.k .pi) 0x401)),
    (64, word 0 0x00C 0 0 0 0 0x000, .safept (dev .unused .unused .unused .unused 0x000))] := by decide +kernel

theorem test_decode_integer_logic_address_predicate : reads [
    (64, word 0 0x040 4 10 269 0 0x128, .iadd (dev (.v 4) (.v 10) (.s 13) .unused 0x128)),
    (64, word 0 0x041 4 10 269 0 0x128, .isub (dev (.v 4) (.v 10) (.s 13) .unused 0x128)),
    (64, word 0 0x042 4 10 269 0 0x128, .imul (dev (.v 4) (.v 10) (.s 13) .unused 0x128)),
    (64, word 0 0x043 4 10 269 0 0x120, .imulh (dev (.v 4) (.v 10) (.s 13) .unused 0x120)),
    (64, word 0 0x044 4 10 269 335 0x128, .imad (dev (.v 4) (.v 10) (.s 13) (.k .pi) 0x128)),
    (64, word 0 0x045 10 10 269 268 0x128, .imadw (dev (.v 10) (.v 10) (.s 13) (.s 12) 0x128)),
    (64, word 0 0x046 4 10 269 0 0x128, .idiv (dev (.v 4) (.v 10) (.s 13) .unused 0x128)),
    (64, word 0 0x047 4 10 269 0 0x120, .irem (dev (.v 4) (.v 10) (.s 13) .unused 0x120)),
    (64, word 0 0x048 4 10 269 0 0x128, .imin (dev (.v 4) (.v 10) (.s 13) .unused 0x128)),
    (64, word 0 0x049 4 10 269 0 0x128, .imax (dev (.v 4) (.v 10) (.s 13) .unused 0x128)),
    (64, word 0 0x04A 4 10 0 0 0x128, .iabs (dev (.v 4) (.v 10) .unused .unused 0x128)),
    (64, word 0 0x04B 4 10 0 0 0x128, .ineg (dev (.v 4) (.v 10) .unused .unused 0x128)),
    (64, word 0 0x04C 4 10 269 324 0x120, .iaddc (dev (.v 4) (.v 10) (.s 13) (.p 4) 0x120)),
    (64, word 0 0x04D 4 10 269 324 0x120, .isubb (dev (.v 4) (.v 10) (.s 13) (.p 4) 0x120)),
    (64, word 0 0x04E 4 10 269 335 0x128, .isad (dev (.v 4) (.v 10) (.s 13) (.k .pi) 0x128)),
    (64, word 0 0x04F 4 10 269 335 0x128, .idp4 (dev (.v 4) (.v 10) (.s 13) (.k .pi) 0x128)),
    (64, word 0 0x050 4 10 269 0 0x000, .and (dev (.v 4) (.v 10) (.s 13) .unused 0x000)),
    (64, word 0 0x051 4 10 269 0 0x000, .or (dev (.v 4) (.v 10) (.s 13) .unused 0x000)),
    (64, word 0 0x052 4 10 269 0 0x000, .xor (dev (.v 4) (.v 10) (.s 13) .unused 0x000)),
    (64, word 0 0x053 4 10 0 0 0x000, .not (dev (.v 4) (.v 10) .unused .unused 0x000)),
    (64, word 0 0x054 4 10 269 0 0x000, .andn (dev (.v 4) (.v 10) (.s 13) .unused 0x000)),
    (64, word 0 0x055 4 10 269 335 0x0F8, .lop3 (dev (.v 4) (.v 10) (.s 13) (.k .pi) 0x0F8)),
    (64, word 0 0x056 4 10 269 0 0x000, .shl (dev (.v 4) (.v 10) (.s 13) .unused 0x000)),
    (64, word 0 0x057 4 10 269 0 0x000, .shr (dev (.v 4) (.v 10) (.s 13) .unused 0x000)),
    (64, word 0 0x058 4 10 269 0 0x000, .sar (dev (.v 4) (.v 10) (.s 13) .unused 0x000)),
    (64, word 0 0x059 4 10 269 0 0x000, .rotl (dev (.v 4) (.v 10) (.s 13) .unused 0x000)),
    (64, word 0 0x05A 4 10 269 335 0x001, .shf (dev (.v 4) (.v 10) (.s 13) (.k .pi) 0x001)),
    (64, word 0 0x05B 4 10 269 0 0x001, .bfe (dev (.v 4) (.v 10) (.s 13) .unused 0x001)),
    (64, word 0 0x05C 4 10 269 335 0x000, .bfi (dev (.v 4) (.v 10) (.s 13) (.k .pi) 0x000)),
    (64, word 0 0x05D 4 10 0 0 0x000, .brev (dev (.v 4) (.v 10) .unused .unused 0x000)),
    (64, word 0 0x05E 4 10 0 0 0x000, .popc (dev (.v 4) (.v 10) .unused .unused 0x000)),
    (64, word 0 0x05F 4 10 0 0 0x000, .clz (dev (.v 4) (.v 10) .unused .unused 0x000)),
    (64, word 0 0x060 4 10 0 0 0x000, .ctz (dev (.v 4) (.v 10) .unused .unused 0x000)),
    (64, word 0 0x061 4 10 269 335 0x000, .prmt (dev (.v 4) (.v 10) (.s 13) (.k .pi) 0x000)),
    (64, word 0 0x062 321 10 269 0 0x120, .icmp (dev (.p 1) (.v 10) (.s 13) .unused 0x120)),
    (64, word 0 0x063 4 10 269 324 0x001, .sel (dev (.v 4) (.v 10) (.s 13) (.p 4) 0x001)),
    (64, word 0 0x064 10 260 0 0 0x001, .mov (dev (.v 10) (.s 4) .unused .unused 0x001)),
    (96, word 1 0x065 4 0 0 0 0x010 + 0x80000040 * 2 ^ 64, .movi { dev (.v 4) .unused .unused .unused 0x010 with len := .l96, imm := 0x80000040 }),
    (128, word 2 0x066 10 0 0 0 0x010 + 0x8000004012345678 * 2 ^ 64, .movw { dev (.v 10) .unused .unused .unused 0x010 with len := .l128, imm := 0x8000004012345678 }),
    (64, word 0 0x067 10 260 269 0 0x005, .lea (dev (.v 10) (.s 4) (.s 13) .unused 0x005)),
    (64, word 0 0x068 10 260 18 0 0x000, .add64 (dev (.v 10) (.s 4) (.v 18) .unused 0x000)),
    (64, word 0 0x069 10 260 18 0 0x000, .sub64 (dev (.v 10) (.s 4) (.v 18) .unused 0x000)),
    (64, word 0 0x06A 321 260 18 324 0x401, .cmp64 (dev (.p 1) (.s 4) (.v 18) (.p 4) 0x401)),
    (64, word 0 0x06B 321 322 323 324 0x0F8, .plop (dev (.p 1) (.p 2) (.p 3) (.p 4) 0x0F8)),
    (64, word 0 0x06C 4 0 0 0 0x001, .pmov (dev (.v 4) .unused .unused .unused 0x001))] := by decide +kernel

theorem test_decode_floating_point : reads [
    (64, word 0 0x0C0 4 10 269 0 0x120, .fadd (dev (.v 4) (.v 10) (.s 13) .unused 0x120)),
    (64, word 0 0x0C1 4 10 269 0 0x120, .fsub (dev (.v 4) (.v 10) (.s 13) .unused 0x120)),
    (64, word 0 0x0C2 4 10 269 0 0x120, .fmul (dev (.v 4) (.v 10) (.s 13) .unused 0x120)),
    (64, word 0 0x0C3 4 10 269 335 0x120, .ffma (dev (.v 4) (.v 10) (.s 13) (.k .pi) 0x120)),
    (64, word 0 0x0C4 4 10 269 0 0x120, .fmin (dev (.v 4) (.v 10) (.s 13) .unused 0x120)),
    (64, word 0 0x0C5 4 10 269 0 0x120, .fmax (dev (.v 4) (.v 10) (.s 13) .unused 0x120)),
    (64, word 0 0x0C6 321 10 269 0 0x120, .fcmp (dev (.p 1) (.v 10) (.s 13) .unused 0x120)),
    (64, word 0 0x0C7 4 10 0 0 0x120, .fclass (dev (.v 4) (.v 10) .unused .unused 0x120)),
    (64, word 0 0x0C8 4 10 0 0 0x120, .frint (dev (.v 4) (.v 10) .unused .unused 0x120)),
    (64, word 0 0x0C9 4 10 269 0 0x005, .fscale (dev (.v 4) (.v 10) (.s 13) .unused 0x005)),
    (64, word 0 0x0CA 4 10 269 0 0x000, .fdot (dev (.v 4) (.v 10) (.s 13) .unused 0x000)),
    (64, word 0 0x0CB 4 10 269 335 0x000, .fdota (dev (.v 4) (.v 10) (.s 13) (.k .pi) 0x000))] := by decide +kernel

theorem test_decode_special_function : reads [
    (64, word 0 0x0E0 4 10 0 0 0x120, .frcp (dev (.v 4) (.v 10) .unused .unused 0x120)),
    (64, word 0 0x0E1 4 10 0 0 0x120, .frsq (dev (.v 4) (.v 10) .unused .unused 0x120)),
    (64, word 0 0x0E2 4 10 0 0 0x120, .fsqrt (dev (.v 4) (.v 10) .unused .unused 0x120)),
    (64, word 0 0x0E3 4 10 0 0 0x120, .fexp2 (dev (.v 4) (.v 10) .unused .unused 0x120)),
    (64, word 0 0x0E4 4 10 0 0 0x120, .flog2 (dev (.v 4) (.v 10) .unused .unused 0x120)),
    (64, word 0 0x0E5 4 10 0 0 0x120, .fsin (dev (.v 4) (.v 10) .unused .unused 0x120)),
    (64, word 0 0x0E6 4 10 0 0 0x120, .fcos (dev (.v 4) (.v 10) .unused .unused 0x120)),
    (64, word 0 0x0E7 4 10 0 0 0x120, .ftanh (dev (.v 4) (.v 10) .unused .unused 0x120)),
    (64, word 0 0x0E8 4 10 269 0 0x120, .fdiv (dev (.v 4) (.v 10) (.s 13) .unused 0x120))] := by decide +kernel

theorem test_decode_conversion_and_tags : reads [
    (64, word 0 0x100 4 10 0 0 0x128, .cvt (dev (.v 4) (.v 10) .unused .unused 0x128)),
    (64, word 0 0x101 4 10 269 0 0x005, .pack (dev (.v 4) (.v 10) (.s 13) .unused 0x005)),
    (64, word 0 0x102 4 10 0 0 0x120, .unpk (dev (.v 4) (.v 10) .unused .unused 0x120)),
    (64, word 0 0x103 10 10 0 0 0x120, .qnt (dev (.v 10) (.v 10) .unused .unused 0x120)),
    (64, word 0 0x104 4 10 269 0 0x401, .dqnt (dev (.v 4) (.v 10) (.s 13) .unused 0x401)),
    (64, word 0 0x105 4 10 0 0 0x000, .sclx (dev (.v 4) (.v 10) .unused .unused 0x000)),
    (64, word 0 0x106 4 10 0 0 0x120, .tagrd (dev (.v 4) (.v 10) .unused .unused 0x120)),
    (64, word 0 0x107 4 10 269 0 0x000, .retag (dev (.v 4) (.v 10) (.s 13) .unused 0x000))] := by decide +kernel

theorem test_decode_cross_lane : reads [
    (64, word 0 0x120 4 10 269 0 0x005, .shfl (dev (.v 4) (.v 10) (.s 13) .unused 0x005)),
    (64, word 0 0x121 321 322 0 0 0x005, .vote (dev (.p 1) (.p 2) .unused .unused 0x005)),
    (64, word 0 0x122 4 10 0 0 0x128, .wred (dev (.v 4) (.v 10) .unused .unused 0x128)),
    (64, word 0 0x123 4 10 0 0 0x128, .wscan (dev (.v 4) (.v 10) .unused .unused 0x128)),
    (64, word 0 0x124 4 260 0 0 0x001, .matchLanes (dev (.v 4) (.s 4) .unused .unused 0x001)),
    (64, word 0 0x125 321 262 0 0 0x001, .elect (dev (.p 1) (.s 6) .unused .unused 0x001)),
    (64, word 0 0x126 4 0 0 0 0x000, .actmask (dev (.v 4) .unused .unused .unused 0x000))] := by decide +kernel

theorem test_decode_ragged : reads [
    (64, word 0 0x130 10 260 269 335 0x005, .ragld (dev (.v 10) (.s 4) (.s 13) (.k .pi) 0x005)),
    (64, word 0 0x131 4 10 0 324 0x128, .segred (dev (.v 4) (.v 10) .unused (.p 4) 0x128)),
    (64, word 0 0x132 4 10 0 324 0x128, .segscan (dev (.v 4) (.v 10) .unused (.p 4) 0x128))] := by decide +kernel

theorem test_decode_memory : reads [
    (96, word 1 0x140 4 260 269 0 0x440 + 0x80000040 * 2 ^ 64, .ld { dev (.v 4) (.s 4) (.s 13) .unused 0x440 with len := .l96, imm := 0x80000040 }),
    (96, word 1 0x141 0 260 269 335 0x211 + 0x80000040 * 2 ^ 64, .st { dev .unused (.s 4) (.s 13) (.k .pi) 0x211 with len := .l96, imm := 0x80000040 }),
    (96, word 1 0x142 4 260 269 0 0x440 + 0x80000040 * 2 ^ 64, .lds { dev (.v 4) (.s 4) (.s 13) .unused 0x440 with len := .l96, imm := 0x80000040 }),
    (96, word 1 0x143 0 260 269 335 0x211 + 0x80000040 * 2 ^ 64, .sts { dev .unused (.s 4) (.s 13) (.k .pi) 0x211 with len := .l96, imm := 0x80000040 }),
    (96, word 1 0x144 4 260 269 0 0x440 + 0x80000040 * 2 ^ 64, .ldp { dev (.v 4) (.s 4) (.s 13) .unused 0x440 with len := .l96, imm := 0x80000040 }),
    (96, word 1 0x145 0 260 269 335 0x000 + 0x80000040 * 2 ^ 64, .stp { dev .unused (.s 4) (.s 13) (.k .pi) 0x000 with len := .l96, imm := 0x80000040 }),
    (96, word 1 0x146 4 260 269 335 0x440 + 0x80000040 * 2 ^ 64, .atom { dev (.v 4) (.s 4) (.s 13) (.k .pi) 0x440 with len := .l96, imm := 0x80000040 }),
    (96, word 1 0x147 4 260 269 335 0x440 + 0x80000040 * 2 ^ 64, .atoms { dev (.v 4) (.s 4) (.s 13) (.k .pi) 0x440 with len := .l96, imm := 0x80000040 }),
    (96, word 1 0x148 0 260 269 335 0x440 + 0x80000040 * 2 ^ 64, .red { dev .unused (.s 4) (.s 13) (.k .pi) 0x440 with len := .l96, imm := 0x80000040 }),
    (96, word 1 0x149 0 0 0 0 0x010, .fence { dev .unused .unused .unused .unused 0x010 with len := .l96 }),
    (96, word 1 0x14A 0 260 269 0 0x000 + 0x80000040 * 2 ^ 64, .pref { dev .unused (.s 4) (.s 13) .unused 0x000 with len := .l96, imm := 0x80000040 }),
    (96, word 1 0x14B 0 260 269 0 0x000 + 0x80000040 * 2 ^ 64, .cctl { dev .unused (.s 4) (.s 13) .unused 0x000 with len := .l96, imm := 0x80000040 })] := by decide +kernel

theorem test_decode_placement : reads [
    (64, word 0 0x160 4 260 269 0 0x000, .pin (dev (.v 4) (.s 4) (.s 13) .unused 0x000)),
    (64, word 0 0x161 4 260 269 0 0x000, .unpin (dev (.v 4) (.s 4) (.s 13) .unused 0x000)),
    (64, word 0 0x162 4 260 269 335 0x000, .mhint (dev (.v 4) (.s 4) (.s 13) (.k .pi) 0x000)),
    (64, word 0 0x163 10 260 0 0 0x000, .mqry (dev (.v 10) (.s 4) .unused .unused 0x000)),
    (64, word 0 0x164 4 260 269 335 0x001, .mmove (dev (.v 4) (.s 4) (.s 13) (.k .pi) 0x001))] := by decide +kernel

theorem test_decode_append_cursors : reads [
    (64, word 0 0x170 4 260 0 0 0x000, .curopen (dev (.v 4) (.s 4) .unused .unused 0x000)),
    (64, word 0 0x171 4 260 269 0 0x000, .curadv (dev (.v 4) (.s 4) (.s 13) .unused 0x000)),
    (64, word 0 0x172 4 260 0 0 0x000, .curq (dev (.v 4) (.s 4) .unused .unused 0x000)),
    (64, word 0 0x173 4 260 269 335 0x001, .qapp (dev (.v 4) (.s 4) (.s 13) (.k .pi) 0x001))] := by decide +kernel

theorem test_decode_barriers : reads [
    (64, word 0 0x180 0 10 0 0 0x128, .binit (dev .unused (.v 10) .unused .unused 0x128)),
    (64, word 0 0x181 4 0 0 0 0x128, .barv (dev (.v 4) .unused .unused .unused 0x128)),
    (64, word 0 0x182 0 10 0 0 0x128, .bwait (dev .unused (.v 10) .unused .unused 0x128)),
    (64, word 0 0x183 0 0 0 0 0x128, .barw (dev .unused .unused .unused .unused 0x128)),
    (64, word 0 0x184 321 10 0 0 0x128, .btest (dev (.p 1) (.v 10) .unused .unused 0x128))] := by decide +kernel

theorem test_decode_sync_words : reads [
    (64, word 0 0x185 0 260 269 0 0x120, .swarm (dev .unused (.s 4) (.s 13) .unused 0x120)),
    (64, word 0 0x186 0 260 269 0 0x120, .swadd (dev .unused (.s 4) (.s 13) .unused 0x120)),
    (64, word 0 0x187 0 260 269 0 0x120, .swwait (dev .unused (.s 4) (.s 13) .unused 0x120)),
    (64, word 0 0x188 321 260 269 0 0x120, .swtest (dev (.p 1) (.s 4) (.s 13) .unused 0x120))] := by decide +kernel

theorem test_decode_tasks : reads [
    (64, word 0 0x1A0 4 260 0 0 0x000, .tspawn (dev (.v 4) (.s 4) .unused .unused 0x000)),
    (64, word 0 0x1A1 4 260 18 0 0x000, .tdep (dev (.v 4) (.s 4) (.v 18) .unused 0x000)),
    (64, word 0 0x1A2 4 260 0 0 0x000, .tfire (dev (.v 4) (.s 4) .unused .unused 0x000)),
    (64, word 0 0x1A3 4 260 269 0 0x000, .twait (dev (.v 4) (.s 4) (.s 13) .unused 0x000)),
    (64, word 0 0x1A4 4 260 0 0 0x000, .tcncl (dev (.v 4) (.s 4) .unused .unused 0x000)),
    (64, word 0 0x1A5 0 10 18 0 0x000, .tevt (dev .unused (.v 10) (.v 18) .unused 0x000))] := by decide +kernel

theorem test_decode_guess_carried_loops : reads [
    (64, word 0 0x1B0 4 260 0 0 0x000, .gloop (dev (.v 4) (.s 4) .unused .unused 0x000)),
    (64, word 0 0x1B1 4 10 0 0 0x005, .gcarry (dev (.v 4) (.v 10) .unused .unused 0x005)),
    (64, word 0 0x1B2 4 10 0 0 0x0F8, .gguess (dev (.v 4) (.v 10) .unused .unused 0x0F8)),
    (64, word 0 0x1B3 4 0 0 0 0x000, .gcmp (dev (.v 4) .unused .unused .unused 0x000)),
    (64, word 0 0x1B4 4 10 0 0 0x005, .gstat (dev (.v 4) (.v 10) .unused .unused 0x005))] := by decide +kernel

theorem test_decode_tensor_ids : reads [
    (64, word 0 0x1C0 4 10 18 0 0x000, .tidset (dev (.v 4) (.v 10) (.v 18) .unused 0x000)),
    (64, word 0 0x1C1 4 10 18 0 0x000, .tidrd (dev (.v 4) (.v 10) (.v 18) .unused 0x000)),
    (64, word 0 0x1C2 4 10 0 0 0x000, .tidclr (dev (.v 4) (.v 10) .unused .unused 0x000))] := by decide +kernel

theorem test_decode_asynchronous_engines : reads [
    (128, word 2 0x1D0 4 10 32 40 0x010 + 26 * 2 ^ 64 + 0 * 2 ^ 73 + 15 * 2 ^ 82 + 0 * 2 ^ 91, .cpyb { dev (.v 4) (.v 10) (.v 32) (.v 40) 0x010 with len := .l128, e := (.v 26), f := .unused, g := (.v 15), h := .unused }),
    (64, word 0 0x1D1 0 260 18 335 0x211, .cpyl (dev .unused (.s 4) (.v 18) (.k .pi) 0x211)),
    (64, word 0 0x1D2 4 0 0 0 0x000, .cseal (dev (.v 4) .unused .unused .unused 0x000)),
    (64, word 0 0x1D3 0 10 0 0 0x000, .cwait (dev .unused (.v 10) .unused .unused 0x000)),
    (64, word 0 0x1D4 4 0 0 0 0x001, .cqry (dev (.v 4) .unused .unused .unused 0x001)),
    (64, word 0 0x1D5 4 260 0 0 0x000, .nmcmd (dev (.v 4) (.s 4) .unused .unused 0x000))] := by decide +kernel

theorem test_decode_matrix_and_accumulator : reads [
    (64, word 0 0x200 4 10 0 0 0x005, .mlds (dev (.v 4) (.v 10) .unused .unused 0x005)),
    (64, word 0 0x201 4 10 0 0 0x005, .mstrm (dev (.v 4) (.v 10) .unused .unused 0x005)),
    (64, word 0 0x202 4 10 0 0 0x005, .mdrn (dev (.v 4) (.v 10) .unused .unused 0x005)),
    (64, word 0 0x203 4 10 0 0 0x005, .mpass (dev (.v 4) (.v 10) .unused .unused 0x005)),
    (64, word 0 0x204 4 10 269 0 0x000, .mzro (dev (.v 4) (.v 10) (.s 13) .unused 0x000)),
    (64, word 0 0x205 4 10 0 0 0x005, .accld (dev (.v 4) (.v 10) .unused .unused 0x005)),
    (64, word 0 0x206 4 10 0 0 0x005, .accst (dev (.v 4) (.v 10) .unused .unused 0x005)),
    (64, word 0 0x207 4 10 269 335 0x000, .accsc (dev (.v 4) (.v 10) (.s 13) (.k .pi) 0x000)),
    (64, word 0 0x20A 4 10 0 0 0x000, .msync (dev (.v 4) (.v 10) .unused .unused 0x000)),
    (64, word 0 0x20B 0 0 0 0 0x001, .mrst (dev .unused .unused .unused .unused 0x001))] := by decide +kernel

theorem test_decode_attention_and_merge : reads [
    (64, word 0 0x208 4 10 0 0 0x005, .accmrg (dev (.v 4) (.v 10) .unused .unused 0x005)),
    (64, word 0 0x209 4 10 0 0 0x005, .attn (dev (.v 4) (.v 10) .unused .unused 0x005))] := by decide +kernel

theorem test_decode_system : reads [
    (64, word 0 0x280 4 0 0 0 0x005, .srd (dev (.v 4) .unused .unused .unused 0x005)),
    (64, word 0 0x281 0 10 0 0 0x00D, .swr (dev .unused (.v 10) .unused .unused 0x00D)),
    (64, word 0 0x282 0 0 0 0 0x000, .tret (dev .unused .unused .unused .unused 0x000)),
    (64, word 0 0x283 0 0 0 0 0x0F8, .hlt (dev .unused .unused .unused .unused 0x0F8)),
    (64, word 0 0x284 10 10 0 0 0x001, .perf (dev (.v 10) (.v 10) .unused .unused 0x001)),
    (64, word 0 0x285 4 0 0 0 0x000, .clk (dev (.v 4) .unused .unused .unused 0x000)),
    (64, word 0 0x286 0 10 0 0 0x000, .regshr (dev .unused (.v 10) .unused .unused 0x000)),
    (64, word 0 0x287 0 10 0 0 0x000, .reggrw (dev .unused (.v 10) .unused .unused 0x000)),
    (64, word 0 0x288 0 10 0 0 0x128, .dbgmk (dev .unused (.v 10) .unused .unused 0x128)),
    (64, word 0 0x289 0 0 0 0 0x000, .isync (dev .unused .unused .unused .unused 0x000))] := by decide +kernel

/-- 22 R418: funct7, rs2, rs1, funct3, rd and custom-0. -/
theorem test_decode_host : reads [
    (32, 3 * 2 ^ 15 + 0 * 2 ^ 12 + 4 * 2 ^ 7 + 0x0B, .hsubmit ⟨4, 3, 0, 0⟩),
    (32, 5 * 2 ^ 20 + 3 * 2 ^ 15 + 1 * 2 ^ 12 + 4 * 2 ^ 7 + 0x0B, .hwait ⟨4, 3, 5, 0⟩),
    (32, 5 * 2 ^ 20 + 3 * 2 ^ 15 + 2 * 2 ^ 12 + 4 * 2 ^ 7 + 0x0B, .hpin ⟨4, 3, 5, 0⟩),
    (32, 5 * 2 ^ 20 + 3 * 2 ^ 15 + 3 * 2 ^ 12 + 4 * 2 ^ 7 + 0x0B, .hunpin ⟨4, 3, 5, 0⟩),
    (32, 2 * 2 ^ 25 + 5 * 2 ^ 20 + 3 * 2 ^ 15 + 4 * 2 ^ 12 + 4 * 2 ^ 7 + 0x0B, .hmhint ⟨4, 3, 5, 2⟩),
    (32, 3 * 2 ^ 15 + 5 * 2 ^ 12 + 4 * 2 ^ 7 + 0x0B, .hmqry ⟨4, 3, 0, 0⟩)] := by decide +kernel

/-- 03 R76: slot A with length code 3, slot B with bits [65:64] zero; neither writes what the other reads or writes. -/
theorem test_decode_pair : reads [
    (128, word 3 0x040 4 10 11 0 0 + word 0 0x0C2 5 12 13 0 0 * 2 ^ 64,
      .pair ⟨.iadd, dev (.v 4) (.v 10) (.v 11) .unused 0⟩ ⟨.fmul, dev (.v 5) (.v 12) (.v 13) .unused 0⟩)] := by decide +kernel

/-- What the decoder refuses: an opcode outside the map, a reserved one, a nonzero unused field, a wide operand at an odd register, TCHK with
TTAG 15, a code of 344, an L64 of an L96 form, a nonzero widening word, a crossing of the block, a pair whose slot B reads what slot A
writes, and a pair of an unpairable opcode (03 R66, R67, R70, R73, R74, R76, R77). -/
theorem test_decode_refuses :
    ([word 0 0x00D 0 0 0 0 0, word 0 0x300 0 0 0 0 0, word 0 0x000 1 0 0 0 0, word 0 0x005 0 11 0 0 0, word 0 0x040 4 10 11 0 0x1F0,
      word 0 0x040 344 10 11 0 0, word 0 0x001 0 0 0 0 0].all fun w => decodeTableWord 64 w == none)
      && decodeTableWord 96 (word 1 0x040 4 10 11 0 0 + 2 ^ 64) == none
      && decode 4 (natBytes 16 (word 0 0x000 0 0 0 0 0)) == .error .illegalOp
      && decode 16 (natBytes 16 (word 0 0x040 344 10 11 0 0)) == .error .regRange
      && decode 16 (natBytes 16 (word 3 0x040 4 10 11 0 0 + word 0 0x0C2 5 4 13 0 0 * 2 ^ 64)) == .error .illegalPair
      && decode 16 (natBytes 16 (word 3 0x040 4 10 11 0 0 + word 0 0x005 0 4 0 0 0 * 2 ^ 64)) == .error .illegalPair := by decide +kernel

/-! ## What WellFormed refuses, one term for each check -/

theorem test_wf_device : ([
    .iadd (dev (.v 4) (.v 10) .unused .unused 0),                                       -- a missing operand
    .iadd (dev (.p 1) (.v 10) (.v 11) .unused 0),                                       -- the wrong class
    .iadd (dev (.v 4) (.v 10) (.v 11) (.v 12) 0),                                       -- an operand in an unused field
    .iadd (dev (.v 4) (.v 10) (.v 11) .unused 0x001),                                   -- a reserved MOD bit
    .ret (dev .unused (.v 11) .unused .unused 0),                                       -- a wide operand at an odd register
    .bra (dev .unused .unused .unused .unused 0),                                       -- shorter than its base form
    .iadd { dev (.v 4) (.v 10) (.v 11) .unused 0 with imm := 1, len := .l96 },          -- a nonzero widening word
    .bra { dev .unused .unused .unused .unused 0 with imm := 2 ^ 32, len := .l128 },    -- an immediate of more than 32 bits
    .iadd { dev (.v 4) (.v 10) (.v 11) .unused 0 with xmod := 1 },                      -- XMOD where there is none
    .iadd { dev (.v 4) (.v 10) (.v 11) .unused 0 with e := .v 1 }] : List Instr).all (fun i => !i.wf) := by decide +kernel

theorem test_wf_pair : ([
    .pair ⟨.iadd, dev (.v 4) (.v 10) (.v 11) .unused 0⟩ ⟨.fmul, dev (.v 5) (.v 4) (.v 13) .unused 0⟩,             -- B reads what A writes
    .pair ⟨.iadd, dev (.v 4) (.v 10) (.v 11) .unused 0⟩ ⟨.fmul, dev (.v 4) (.v 12) (.v 13) .unused 0⟩,            -- both write one register
    .pair ⟨.iadd, { dev (.v 4) (.v 10) (.v 11) .unused 0 with len := .l96 }⟩ ⟨.fmul, dev (.v 5) (.v 12) (.v 13) .unused 0⟩,
    .pair ⟨.iadd, dev (.v 4) (.v 10) (.v 11) .unused 0⟩ ⟨.fmul, { dev (.v 5) (.v 12) (.v 13) .unused 0 with len := .l128 }⟩,
    .pair ⟨.iadd, dev (.v 4) (.v 10) (.v 11) .unused 1⟩ ⟨.fmul, dev (.v 5) (.v 12) (.v 13) .unused 0⟩,
    .pair ⟨.iadd, dev (.v 4) (.v 10) (.v 11) .unused 0⟩ ⟨.fmul, dev (.v 5) .unused (.v 13) .unused 0⟩] : List Instr).all (fun i => !i.wf) := by
  decide +kernel

theorem test_wf_host : ([.hsubmit ⟨1, 2, 3, 0⟩, .hsubmit ⟨1, 2, 0, 1⟩, .hmqry ⟨1, 2, 3, 0⟩, .hwait ⟨1, 2, 3, 1⟩, .hpin ⟨1, 2, 3, 1⟩,
    .hunpin ⟨1, 2, 3, 1⟩] : List Instr).all (fun i => !i.wf) := by decide +kernel

theorem test_wf_events : ([.htenantWrite 64 0x5C0 0, .htenantWrite 0 0x5C1 0, .safeptOverrun ⟨256, 0⟩, .safeptOverrun ⟨0, 64⟩,
    .napExpiry ⟨⟨0, 0⟩, 32⟩, .waitwPoll ⟨⟨0, 0⟩, 32⟩, .waitwTimeout ⟨⟨256, 0⟩, 0⟩, .handlerEntry ⟨⟨0, 64⟩, 0⟩, .registerFileError ⟨256, 0⟩,
    .reggrwGrant 256, .blockDispatch 256, .visorSample 256, .hostTaskDispatch 4, .nmTaskStart 4, .copyTaskStart 4 0, .copyTaskStart 0 4,
    .loopStart 4, .faultRecordWrite 4 0, .faultRecordWrite 0 64, .planeLoadStart 64, .planeLoadComplete 64, .arrayRunGrant 64, .runEnd 64,
    .matrixOpComplete 64 0, .moveStart 4, .tlbinvComplete 4, .poolLinkDown 4 0, .poolLinkDown 0 2, .poolLinkUp 4 0, .poolLinkUp 0 2,
    .peerLinkDown 8, .peerLinkUp 8, .channelHalfWidth 32 0 false, .channelHalfWidth 0 40 false, .channelFullWidth 32 0, .channelFullWidth 0 40,
    .circuitUp 512, .circuitDrained 512, .cteUp 512 0, .cteDown 512 0, .wavelengthFailure 512 0, .wavelengthFailure 0 8, .htaskTake 64 0 0,
    .htaskTake 0 32 0, .htaskTake 0 0 64] : List Instr).all (fun i => !i.wf) := by decide +kernel

/-- A well-formed instruction of each kind. -/
theorem test_wf_accepts : ([.iadd (dev (.v 4) (.v 10) (.v 11) .unused 0), .bra { dev .unused .unused .unused .unused 0 with len := .l96, imm := 64 },
    .pair ⟨.iadd, dev (.v 4) (.v 10) (.v 11) .unused 0⟩ ⟨.fmul, dev (.v 5) (.v 12) (.v 13) .unused 0⟩, .hsubmit ⟨1, 2, 0, 0⟩,
    .hmhint ⟨1, 2, 3, 3⟩, .safeptOverrun ⟨255, 63⟩, .peerLinkUp 7, .moduleReset none] : List Instr).all (·.wf) := by decide +kernel

/-! ## Single steps, with results that the spec works out -/

/-- A cohort of threads of one wave at PC 0, each with the registers given, on the tables of log entry 36. -/
def bench (ls : List (List (Nat × Reg))) : State :=
  let s := ({ State.reset with mem := fetchMemory [] } : State).fetchWave
  { s with
    cur := some ⟨⟨0, 0⟩, List.range ls.length, 0⟩
    agenda := []
    tasks := s.tasks.map fun t => { t with record := 2 ^ 128 + ls.length * 2 ^ 160 }
    blocks := s.blocks.map fun b => { b with threads := ls.length }
    waves := s.waves.map fun w =>
      { w with threads := ls.mapIdx fun i l => { newThread i 256 0 with regs := (List.range 256).map fun n => ((l.find? fun p => p.1 == n).map (·.2)).getD Reg.zero } } }

/-- What an instruction leaves, where it answers a next state. -/
def after (o : Host.Outcome State Fault Refusal) : Option State :=
  match o with
  | .next s => some s
  | _ => none

/-- A register of lane i, and FSTAT of the wave, after an instruction. -/
def regAfter (i : Instr) (ls : List (List (Nat × Reg))) (lane n : Nat) : Option Reg :=
  (after (exec i (bench ls))).bind fun s => (s.thread? ⟨⟨0, 0⟩, lane⟩).bind fun t => t.regs[n]?
def fstatAfter (i : Instr) (ls : List (List (Nat × Reg))) : Option Word :=
  (after (exec i (bench ls))).bind fun s => (s.wave? ⟨0, 0⟩).map (·.fstat)
def predsAfter (i : Instr) (ls : List (List (Nat × Reg))) (lane : Nat) : Option (BitVec 7) :=
  (after (exec i (bench ls))).bind fun s => (s.thread? ⟨⟨0, 0⟩, lane⟩).map (·.preds)
def pcAfter (i : Instr) (ls : List (List (Nat × Reg))) (lane : Nat) : Option (BitVec 60) :=
  (after (exec i (bench ls))).bind fun s => (s.thread? ⟨⟨0, 0⟩, lane⟩).map (·.pc)

/-- 04 R89's example: −1 + 4,294,967,295 saturates at the top of I32, with SAT; 4,294,967,295 > −1. -/
def exSat : List (List (Nat × Reg)) := [[(1, ⟨0xFFFFFFFF, .n32⟩), (2, ⟨0xFFFFFFFF, .i32⟩)]]
theorem test_iadd_sat : regAfter (.iadd (dev (.v 3) (.v 2) (.v 1) .unused 0x008)) exSat 0 3 = some ⟨0x7FFFFFFF, .i32⟩ := by decide +kernel
theorem test_iadd_sat_flag : fstatAfter (.iadd (dev (.v 3) (.v 2) (.v 1) .unused 0x008)) exSat = some 0x040 := by decide +kernel
theorem test_icmp_gt : predsAfter (.icmp (dev (.p 0) (.v 1) (.v 2) .unused 0x004)) exSat 0 = some 1 := by decide +kernel

/-- 04 R95's example: the low words carry. -/
theorem test_iaddc : regAfter (.iaddc (dev (.v 6) (.v 2) (.v 4) (.p 7) 0x201)) [[(2, ⟨0xFFFFFFFF, .n32⟩), (4, ⟨1, .n32⟩)]] 0 6 = some ⟨0, .n32⟩ := by
  decide +kernel
theorem test_iaddc_carry : predsAfter (.iaddc (dev (.v 6) (.v 2) (.v 4) (.p 7) 0x201)) [[(2, ⟨0xFFFFFFFF, .n32⟩), (4, ⟨1, .n32⟩)]] 0 = some 2 := by
  decide +kernel

/-- 04 R91: IABS of −2^31 wraps. 04 R93: division by zero writes all ones and sets DZ. -/
theorem test_iabs : regAfter (.iabs (dev (.v 3) (.v 1) .unused .unused 0)) [[(1, ⟨0x80000000, .i32⟩)]] 0 3 = some ⟨0x80000000, .i32⟩ := by decide +kernel
theorem test_idiv_zero : regAfter (.idiv (dev (.v 3) (.v 1) (.v 2) .unused 0)) [[(1, ⟨7, .i32⟩)]] 0 3 = some ⟨0xFFFFFFFF, .i32⟩ := by decide +kernel
theorem test_idiv_zero_flag : fstatAfter (.idiv (dev (.v 3) (.v 1) (.v 2) .unused 0)) [[(1, ⟨7, .i32⟩)]] = some 0x002 := by decide +kernel

/-- 04 R98's example: 0xF8 is (a & b) | c. -/
theorem test_lop3 : regAfter (.lop3 (dev (.v 7) (.v 1) (.v 2) (.v 3) 0x0F8))
    [[(1, ⟨0x0FF0, .raw⟩), (2, ⟨0x00FF, .i32⟩), (3, ⟨0x8001, .i32⟩)]] 0 7 = some ⟨0x80F1, .raw⟩ := by decide +kernel

/-- 04 R101's examples. -/
def exPrmt (c : Word) : List (List (Nat × Reg)) := [[(1, ⟨0x44332211, .raw⟩), (2, ⟨0x88776655, .i32⟩), (3, ⟨c, .i32⟩)]]
theorem test_prmt_swap : regAfter (.prmt (dev (.v 4) (.v 1) (.v 2) (.v 3) 0)) (exPrmt 0x00010203) 0 4 = some ⟨0x11223344, .raw⟩ := by decide +kernel
theorem test_prmt_fill : regAfter (.prmt (dev (.v 4) (.v 1) (.v 2) (.v 3) 0)) (exPrmt 0x27270704) 0 4 = some ⟨0xFFFF8855, .raw⟩ := by decide +kernel

/-- 04 R110: a branch back by 0x40 from PC 0 wraps in 60 bits. -/
theorem test_bra : pcAfter (.bra { dev .unused .unused .unused .unused 0 with len := .l96, imm := 0xFFFFFFC0 }) [[]] 0
    = some 0xFFFFFFFFFFFFFC0 := by decide +kernel

/-- 05 R122's example: +Inf + −Inf beside a tie at BF16. -/
def exBf : List (List (Nat × Reg)) := [[(1, ⟨0x3F807F80, .bf16x2⟩), (2, ⟨0x3B80FF80, .bf16x2⟩)]]
theorem test_fadd : regAfter (.fadd (dev (.v 3) (.v 1) (.v 2) .unused 0)) exBf 0 3 = some ⟨0x3F807FC0, .bf16x2⟩ := by decide +kernel
theorem test_fadd_flags : fstatAfter (.fadd (dev (.v 3) (.v 1) (.v 2) .unused 0)) exBf = some 0x011 := by decide +kernel

/-- 05 R130's example: one rounding of the whole sum, against a chain of fused products. -/
def exDot : List (List (Nat × Reg)) :=
  [[(1, ⟨0x00303038, .e4m3x4⟩), (2, ⟨0x38383838, .e4m3x4⟩), (3, ⟨0x4B800000, .f32⟩), (6, ⟨0x3F800000, .f32⟩)]]
theorem test_fdota : regAfter (.fdota (dev (.v 5) (.v 1) (.v 2) (.v 3) 0)) exDot 0 5 = some ⟨0x4B800001, .f32⟩ := by decide +kernel
theorem test_fdota_flags : fstatAfter (.fdota (dev (.v 5) (.v 1) (.v 2) (.v 3) 0)) exDot = some 0 := by decide +kernel
theorem test_ffma_tie : regAfter (.ffma (dev (.v 5) (.v 6) (.v 6) (.v 3) 0)) exDot 0 5 = some ⟨0x4B800000, .f32⟩ := by decide +kernel
theorem test_ffma_tie_flags : fstatAfter (.ffma (dev (.v 5) (.v 6) (.v 6) (.v 3) 0)) exDot = some 0x010 := by decide +kernel

/-- 05 R133's example. -/
def exPack : List (List (Nat × Reg)) := [[(2, ⟨0x3F800000, .f32⟩), (3, ⟨0xC0D00000, .f32⟩), (4, ⟨0x43FA0000, .f32⟩),
  (5, ⟨0x3DCCCCCD, .f32⟩), (10, ⟨0x00001D7E, .e4m3x4⟩)]]
theorem test_pack : regAfter (.pack (dev (.v 10) (.v 4) (.v 5) (.k .zero) 0x400)) exPack 0 10 = some ⟨0x00001D7E, .e4m3x4⟩ := by decide +kernel
theorem test_pack_shift : regAfter (.pack (dev (.v 11) (.v 2) (.v 3) (.v 10) 0x400)) exPack 0 11 = some ⟨0x1D7ECD38, .e4m3x4⟩ := by decide +kernel

/-- 05 R136's example: 7.0, −1.0, 0.3, 2.0 and zeros as BX4. -/
def exQnt : List (List (Nat × Reg)) :=
  ([0x40E00000, 0xBF800000, 0x3E99999A, 0x40000000] ++ List.replicate 28 0).map fun x => [(1, ⟨x, .f32⟩)]
theorem test_qnt : regAfter (.qnt (dev (.v 12) (.v 1) .unused .unused 0)) exQnt 0 12 = some ⟨0x000030A7, .e2m1x8⟩ := by decide +kernel
theorem test_qnt_scale : regAfter (.qnt (dev (.v 12) (.v 1) .unused .unused 0)) exQnt 31 13 = some ⟨0x000001FD, .sc10x3⟩ := by decide +kernel

/-- 07 R169's example: the tree sums 2^24 + 1 (a tie) and 1 + 1. -/
def exRed : List (List (Nat × Reg)) := [0x4B800000, 0x3F800000, 0x3F800000, 0x3F800000].map fun x => [(1, ⟨x, .f32⟩)]
theorem test_wred : regAfter (.wred (dev (.v 5) (.v 1) .unused .unused 0)) exRed 3 5 = some ⟨0x4B800001, .f32⟩ := by decide +kernel
theorem test_wred_flags : fstatAfter (.wred (dev (.v 5) (.v 1) .unused .unused 0)) exRed = some 0x010 := by decide +kernel

/-- 07 R164: SHFL.xor by one swaps neighbours. -/
theorem test_shfl : regAfter (.shfl (dev (.v 3) (.v 1) (.k .one) .unused 0x0F7)) exRed 0 3 = some ⟨0x3F800000, .f32⟩ := by decide +kernel

/-- 17 R379 and 01 R24: BLOCKID is special register 2; a TRAP with its trap unit off records the abort of its task (17 R371). -/
theorem test_srd : regAfter (.srd (dev (.v 1) .unused .unused .unused 0x002)) [[]] 0 1 = some ⟨1, .n32⟩ := by decide +kernel
theorem test_trap_aborts : ((after (exec (.trap (dev .unused .unused .unused .unused 5)) (bench [[]]))).bind fun s =>
    (s.task? 1).map (·.aborting)) = some true := by decide +kernel

/-! ## Witnesses: states and operands that meet the hypotheses of the statements -/

/-- The cohort of a state, its wave, and its first active lane at an instruction. -/
def State.c0 (s : State) : Cohort := s.cur.getD ⟨⟨0, 0⟩, [], 0⟩
def State.w0 (s : State) : Wave := (s.wave? s.c0.wave).getD (newWave fetchTask Tenant.reset 2 ⟨0, 0⟩ 0 0 none)
def State.l0 (s : State) (x : Dev) : LaneCtx := (s.c0.active s.w0 x).headD ⟨0, newThread 0 0 0, s.w0, 0⟩

/-- The wave of a name, alone under it. -/
theorem only_of {ws : List Wave} {r : WaveRef} {w : Wave} (h : ws.find? (fun v => v.ref == r) = some w) (d : (ws.map (·.ref)).Nodup) :
    ∀ v ∈ ws, v.ref = r → v = w := by
  induction ws with
  | nil => simp
  | cons u us ih =>
    rw [List.map_cons, List.nodup_cons] at d
    rw [List.find?_cons] at h
    intro v hv e
    cases hu : u.ref == r with
    | true =>
      rw [hu] at h
      cases h
      rcases List.mem_cons.mp hv with rfl | hm
      · rfl
      · exact absurd (List.mem_map.mpr ⟨v, hm, e.trans (eq_of_beq hu).symm⟩) d.1
    | false =>
      rw [hu] at h
      rcases List.mem_cons.mp hv with rfl | hm
      · simp [e] at hu
      · exact ih h d.2 v hm e

theorem ready_of {s : State} {c : Cohort} {w : Wave} (h : s.wave? c.wave = some w) (o : (s.waves.map (·.ref)).Nodup)
    (p : (∀ r ∈ (s.tenant (s.tenantOfWave w)).watch, bit r.toNat 60 = false) ∧ (s.tenant (s.tenantOfWave w)).phase ≠ .saving) : Ready s c w :=
  ⟨h, only_of h o, p.1, p.2⟩

/-- What makes a state a stage, as conditions that can be decided. -/
def State.stageB (s : State) : Bool :=
  s.cur.isSome && (s.wave? s.c0.wave).isSome && decide (s.waves.map (·.ref)).Nodup
    && (s.tenant (s.tenantOfWave s.w0)).watch.all (fun r => !bit r.toNat 60) && !(s.tenant (s.tenantOfWave s.w0)).phase == .saving
    && decide (s.c0.lanes.Pairwise (· < ·)) && s.c0.lanes.all (fun i => decide (i < s.w0.threads.length)) 
    && s.c0.lanes.all fun i => ((s.w0.threads[i]?).map fun t => t.inst.isNone).getD true

theorem stage_of (s : State) (h : s.stageB = true) : Stage s s.c0 s.w0 := by
  simp only [State.stageB, Bool.and_eq_true, decide_eq_true_eq, List.all_eq_true, beq_iff_eq, Bool.not_eq_eq_eq_not] at h
  obtain ⟨⟨⟨⟨⟨⟨⟨h1, h2⟩, h3⟩, h4⟩, h5⟩, h6⟩, h7⟩, h8⟩ := h
  have e : s.wave? s.c0.wave = some s.w0 := by
    obtain ⟨w, hw⟩ := Option.isSome_iff_exists.mp h2
    rw [State.w0, hw]; rfl
  refine ⟨?_, ready_of e h3 ⟨h4, ?_⟩, h6, h7, fun i hi t ht => ?_⟩
  · obtain ⟨c, hc⟩ := Option.isSome_iff_exists.mp h1
    rw [State.c0, hc]; rfl
  · intro k; rw [show s.idle.tenant (s.idle.tenantOfWave s.w0) = s.tenant (s.tenantOfWave s.w0) from rfl] at k; simp [k] at h5
  · simpa [ht] using h8 i hi

theorem oneLane_of (s : State) (x : Dev) (h : s.stageB = true) (a : (s.c0.active s.w0 x).length = 1) : OneLane s s.c0 s.w0 x (s.l0 x) :=
  { stage_of s h with
    act := by
      obtain ⟨l, e⟩ := List.length_eq_one_iff.mp a
      rw [State.l0, e]; rfl }

/-- A cohort stands at an instruction with some lane active. -/
def State.at_ (s : State) (x : Dev) : Prop := Stage s s.c0 s.w0 ∧ s.c0.active s.w0 x ≠ []

/-- Two lanes with a register of each kind: v1 and v2 signed, v3 and v4 unsigned, v5 and v6 RAW, v7 and v8 FX, v9 and v10 F32, v11 and v12 BF16,
v13 and v14 F16, v15 I16x2, v16 I8x4, v17 N8x4, v18 E2M1, v19 SC10, v20 E4M3. -/
def kinds : List (Nat × Reg) :=
  [(1, ⟨7, .i32⟩), (2, ⟨0xFFFFFFFE, .i32⟩), (3, ⟨9, .n32⟩), (4, ⟨0xFFFFFFFF, .n32⟩), (5, ⟨1, .raw⟩), (6, ⟨0, .raw⟩), (7, ⟨5, .fx⟩), (8, ⟨0, .fx⟩),
   (9, ⟨0x3F800000, .f32⟩), (10, ⟨0x7F800000, .f32⟩), (11, ⟨0x3F803F80, .bf16x2⟩), (12, ⟨0, .bf16x2⟩), (13, ⟨0x3C00, .f16x2⟩), (14, ⟨0, .f16x2⟩),
   (15, ⟨0x8000FFFF, .i16x2⟩), (16, ⟨0x80FF7F01, .i8x4⟩), (17, ⟨0x80FF7F01, .n8x4⟩), (18, ⟨0x77777777, .e2m1x8⟩), (19, ⟨0x1FF, .sc10x3⟩),
   (20, ⟨0x38383838, .e4m3x4⟩)]
def mixed : State := bench [kinds, kinds]
def single : State := bench [kinds]
/-- An instruction's operands from registers. -/
def ops (d a b c : Fin 256) (mod : BitVec 12 := 0) : Dev := dev (.v d) (.v a) (.v b) (.v c) mod


/-- The hypotheses of a statement of LanesDo hold of a cohort of two lanes at an instruction. -/
def Takes (x : Dev) (p : LaneCtx → Prop) : Prop := mixed.at_ x ∧ ∀ l ∈ mixed.c0.active mixed.w0 x, p l
def TakesAll (x : Dev) (p : List LaneCtx → Prop) : Prop := mixed.at_ x ∧ p (mixed.c0.active mixed.w0 x)
theorem mixed_stage : mixed.stageB = true := by decide +kernel
theorem single_stage : single.stageB = true := by decide +kernel
theorem wit_IntArithmetic :
    Takes (ops 21 1 3 4) (fun l => l.tags (ops 21 1 3 4) [.v 1, .v 3, .v 4] Tag.isScalar ∧ l.tags (ops 21 1 3 4) [.v 1, .v 3] Tag.isScalar)
    ∧ Takes (ops 21 16 16 0 0x008) (fun l => intSources (ops 21 16 16 0 0x008) l [.v 16, .v 16] ∧ intSources (ops 21 16 16 0 0x008) l [.v 16]) := by
  have h : ∀ l ∈ mixed.c0.active mixed.w0 (ops 21 16 16 0 0x008), (l.tags (ops 21 16 16 0 0x008) [.v 16, .v 16] (· = .i8x4))
      ∧ (l.tags (ops 21 16 16 0 0x008) [.v 16] (· = .i8x4)) := by simp only [LaneCtx.tags]; decide +kernel
  refine ⟨⟨⟨stage_of _ mixed_stage, by decide +kernel⟩, ?_⟩, ⟨⟨stage_of _ mixed_stage, by decide +kernel⟩, fun l hl =>
    ⟨.inr ⟨.i8x4, rfl, (h l hl).1⟩, .inr ⟨.i8x4, rfl, (h l hl).2⟩⟩⟩⟩
  simp only [LaneCtx.tags, Tag.isScalar]; decide +kernel

theorem wit_ProductsComparisonsMoves :
    Takes (ops 21 1 3 1 0x005) (fun l => l.tags (ops 21 1 3 1 0x005) [.v 1, .v 3, .v 1] Tag.isScalar
      ∧ (l.src (Operand.plus (.v 1) 1)).tag = (l.src (.v 1)).tag ∧ fld 5 2 0 ≤ 5 ∧ l.wideTags (.v 1) ∧ l.wideTags (.v 3))
    ∧ Takes (ops 21 16 17 1) (fun l => (l.src (.v 16)).tag = .i8x4 ∧ (l.src (.v 17)).tag = .n8x4 ∧ Tag.isScalar (l.src (.v 1)).tag)
    ∧ Takes (ops 21 1 2 0) (fun l => (l.src (.v 1)).tag = (l.src (.v 2)).tag)
    ∧ Takes (ops 21 1 1 0 2) (fun l => (l.src (.v 1)).tag = (l.src (.v 1)).tag ∧ (l.src (Operand.plus (.v 1) 1)).tag = (l.src (Operand.plus (.v 1) 1)).tag)
    ∧ Takes (ops 21 7 7 0) (fun l => l.wideTags (.v 7) ∧ (l.src (.v 7)).tag = .fx) := by
  refine ⟨⟨⟨stage_of _ mixed_stage, by decide +kernel⟩, ?_⟩, ⟨⟨stage_of _ mixed_stage, by decide +kernel⟩, ?_⟩,
    ⟨⟨stage_of _ mixed_stage, by decide +kernel⟩, ?_⟩, ⟨⟨stage_of _ mixed_stage, by decide +kernel⟩, ?_⟩,
    ⟨⟨stage_of _ mixed_stage, by decide +kernel⟩, ?_⟩⟩ <;> simp only [LaneCtx.tags, Tag.isScalar, LaneCtx.wideTags] <;> decide +kernel

/-- MOVI and MOVW of each tag, and PMOV in its three modes. -/
theorem wit_moves : (∀ t : Fin 15, ∃ x, mixed.at_ x ∧ fld x.m 7 4 = t.val) ∧ ∀ k : Fin 3, ∃ x, mixed.at_ x ∧ fld x.m 1 0 = k.val :=
  ⟨fun t => ⟨ops 21 0 0 0 (BitVec.ofNat 12 (16 * t.val)), ⟨stage_of _ mixed_stage, by revert t; decide +kernel⟩, by revert t; decide +kernel⟩,
   fun k => ⟨ops 21 0 0 0 (BitVec.ofNat 12 k.val), ⟨stage_of _ mixed_stage, by revert k; decide +kernel⟩, by revert k; decide +kernel⟩⟩

theorem wit_LogicAndShifts : mixed.at_ (ops 21 1 2 5) := ⟨stage_of _ mixed_stage, by decide +kernel⟩

/-- A pair of an addition and a floating-point addition. -/
def pairX : Dev := { dev .unused .unused .unused .unused 0 with len := .l128 }
def pairA : Slot := ⟨.iadd, ops 21 1 3 0⟩
def pairB : Slot := ⟨.fadd, ops 22 9 10 0⟩
theorem wit_Pairs : mixed.at_ pairX ∧ pairX.guard = ⟨false, 7⟩ ∧ pairX.len = .l128
    ∧ ∀ l ∈ mixed.c0.lanesOf mixed.w0 16, ∀ t ∈ [pairA, pairB], l.th.guard t.x.guard = true → pairTakes t.op t.x l := by
  have h1 : ∀ l ∈ mixed.c0.lanesOf mixed.w0 16, l.tags pairA.x [pairA.x.a, pairA.x.b] Tag.isScalar := by
    simp only [LaneCtx.tags, Tag.isScalar]; decide +kernel
  have h2 : ∀ l ∈ mixed.c0.lanesOf mixed.w0 16, l.tags pairB.x [pairB.x.a, pairB.x.b] (· = .f32) := by
    simp only [LaneCtx.tags]; decide +kernel
  refine ⟨⟨stage_of _ mixed_stage, by decide +kernel⟩, rfl, rfl, fun l hl t ht _ => ?_⟩
  rcases List.mem_cons.mp ht with rfl | ht
  · exact .inl (h1 l hl)
  · rcases List.mem_cons.mp ht with rfl | ht
    · exact ⟨.f32, rfl, h2 l hl⟩
    · cases ht

theorem wit_Shuffles : TakesAll (ops 21 1 2 0 0x0F4) (fun _ => fld 0x0F4 4 2 ≤ 5) := ⟨⟨stage_of _ mixed_stage, by decide +kernel⟩, by decide +kernel⟩

theorem wit_Reductions : TakesAll (ops 21 1 0 0 0x400) (fun act => reducible (ops 21 1 0 0 0x400) act ∧ ∀ l ∈ act, l.lane < 32)
    ∧ TakesAll (ops 21 5 0 0 0xA00) (fun act => reducible (ops 21 5 0 0 0xA00) act ∧ ∀ l ∈ act, l.lane < 32) := by
  refine ⟨⟨⟨stage_of _ mixed_stage, by decide +kernel⟩, ?_⟩, ⟨⟨stage_of _ mixed_stage, by decide +kernel⟩, ?_⟩⟩ <;>
    simp only [reducible, Tag.isScalar] <;> decide +kernel

/-- An operation's answer and state. -/
def okVal {α : Type} (x : Op α) (s : State) : Option α := match x s with | .ok v _ => some v | _ => none
def okState {α : Type} (x : Op α) (s : State) : State := match x s with | .ok _ u => u | .error _ u => u
theorem ok_of {α : Type} {x : Op α} {s : State} {v : α} (h : okVal x s = some v) : x s = .ok v (okState x s) := by
  unfold okVal at h; unfold okState
  split at h
  · rename_i e; rw [e]; cases h; rfl
  · cases h

/-- Words read one after the other, and the state after them. -/
def wordsFrom (c : Self) : (va : Nat) → (n : Nat) → State → Option (List Nat × State)
  | _, 0, s => some ([], s)
  | va, n + 1, s =>
    match okVal (readVa c .load va 4) s with
    | some v => (wordsFrom c (va + 4) n (okState (readVa c .load va 4) s)).map fun p => (v :: p.1, p.2)
    | none => none
theorem wordsRead_of {c : Self} : ∀ {n va : Nat} {s t : State} {vs : List Nat}, wordsFrom c va n s = some (vs, t) → WordsRead c va vs s t
  | 0, va, s, t, vs, h => by simp only [wordsFrom, Option.some.injEq, Prod.mk.injEq] at h; rw [← h.1, ← h.2]; rfl
  | n + 1, va, s, t, vs, h => by
    simp only [wordsFrom] at h
    split at h
    · rename_i v hv
      rw [Option.map_eq_some_iff] at h
      obtain ⟨p, hp, e⟩ := h
      simp only [Prod.mk.injEq] at e
      rw [← e.1, ← e.2]
      exact ⟨_, ok_of hv, wordsRead_of hp⟩
    · cases h
/-- A bench with bytes on its page, and one whose cohort has one lane. -/
def State.pagePut (s : State) (o : Nat) (bs : List Byte) : State := { s with mem := s.mem.writeBytes (0x28000 + o) bs }

theorem waves_c0 {s s1 : State} (h : s1.cur = s.cur) : s1.c0 = s.c0 := by simp only [State.c0, h]
theorem waves_w0 {s s1 : State} (h : s1.cur = s.cur) (e : s1.waves = s.waves) : s1.w0 = s.w0 := by
  simp only [State.w0, State.wave?, waves_c0 h, e]

/-- The wave is ready in a state with the same waves. -/
def State.readyB (s1 s : State) : Bool :=
  decide (s1.waves = s.waves) && (s1.tenant (s1.tenantOfWave s.w0)).watch.all (fun r => !bit r.toNat 60)
    && !(s1.tenant (s1.tenantOfWave s.w0)).phase == .saving
theorem readyB_of {s s1 : State} (h : s.stageB = true) (r : s1.readyB s = true) : Ready s1 s.c0 s.w0 := by
  have g := stage_of s h
  simp only [State.readyB, Bool.and_eq_true, decide_eq_true_eq, List.all_eq_true, Bool.not_eq_eq_eq_not] at r
  obtain ⟨⟨r1, r2⟩, r3⟩ := r
  refine ⟨?_, ?_, r2, ?_⟩
  · rw [State.wave?, r1]; exact g.ready.wave
  · rw [r1]; exact g.ready.only
  · intro k; simp [k] at r3
theorem stage_same {s s1 : State} (h : s.stageB = true) (c : s1.cur = s.cur) (r' : s1.idle.readyB s = true) : Stage s1 s.c0 s.w0 := by
  have g := stage_of s h
  exact ⟨c.trans g.cur, readyB_of h r', g.asc, g.exist, g.fresh⟩

def rag : State := (bench [[(1, ⟨0x10, .n32⟩), (4, ⟨3, .n32⟩)], []]).pagePut 0x10 (natBytes 12 (2 + 3 * 2 ^ 64))
def ragX : Dev := ops 21 1 3 4
def ragEnd : Option (List Nat × State) := wordsFrom (rag.self (rag.l0 ragX).ref) 0x10 3 rag
def ragS : State := (ragEnd.getD ([], rag)).2
theorem wit_RaggedRows : ∃ rest, Stage rag rag.c0 rag.w0 ∧ rag.c0.active rag.w0 ragX = rag.l0 ragX :: rest ∧ (rag.l0 ragX).srcWN ragX.a = 0x10
    ∧ (3 : Nat) ≤ min ((rag.l0 ragX).src ragX.c).val.toNat 64 ∧ WordsRead (rag.self (rag.l0 ragX).ref) 0x10 [2, 0, 3] rag ragS ∧ Stage ragS rag.c0 rag.w0 := by
  have hb : rag.stageB = true := by decide +kernel
  have e : wordsFrom (rag.self (rag.l0 ragX).ref) 0x10 3 rag = some ([2, 0, 3], ragS) := by
    have h : (ragEnd.map (·.1)) = some [2, 0, 3] := by decide +kernel
    obtain ⟨p, hp, q⟩ := Option.map_eq_some_iff.mp h
    rw [show wordsFrom (rag.self (rag.l0 ragX).ref) 0x10 3 rag = ragEnd from rfl, hp, ragS, hp, ← q]; rfl
  refine ⟨(rag.c0.active rag.w0 ragX).tail, stage_of _ hb, ?_, by decide +kernel, by decide +kernel, wordsRead_of e,
    stage_same hb (by decide +kernel) (by decide +kernel)⟩
  have n : rag.c0.active rag.w0 ragX ≠ [] := by decide +kernel
  obtain ⟨a, l, h⟩ := List.exists_cons_of_ne_nil n
  rw [State.l0, h]; rfl

theorem wit_FloatArithmetic : Takes (ops 21 9 10 9) (fun l => l.tags (ops 21 9 10 9) [.v 9, .v 10, .v 9] (· = .f32))
    ∧ Takes (ops 21 11 12 11) (fun l => l.tags (ops 21 11 12 11) [.v 11, .v 12, .v 11] (· = .bf16x2))
    ∧ Takes (ops 21 13 14 13) (fun l => l.tags (ops 21 13 14 13) [.v 13, .v 14, .v 13] (· = .f16x2))
    ∧ ((FVal.nan true).isNan || (FVal.inf true).isNan) = true := by
  refine ⟨⟨⟨stage_of _ mixed_stage, by decide +kernel⟩, ?_⟩, ⟨⟨stage_of _ mixed_stage, by decide +kernel⟩, ?_⟩,
    ⟨⟨stage_of _ mixed_stage, by decide +kernel⟩, ?_⟩, rfl⟩ <;> simp only [LaneCtx.tags] <;> decide +kernel

theorem wit_FloatOrderAndRounding : Takes (ops 21 9 10 0) (fun l => l.tags (ops 21 9 10 0) [.v 9, .v 10] (· = .f32))
    ∧ Takes (ops 21 13 1 0) (fun l => (l.src (.v 13)).tag = .f16x2 ∧ Tag.isScalar (l.src (.v 1)).tag) := by
  refine ⟨⟨⟨stage_of _ mixed_stage, by decide +kernel⟩, ?_⟩, ⟨⟨stage_of _ mixed_stage, by decide +kernel⟩, ?_⟩⟩ <;>
    simp only [LaneCtx.tags, Tag.isScalar] <;> decide +kernel

theorem wit_DotProducts : Takes (ops 21 20 20 9) (fun l => (l.src (.v 20)).tag = .e4m3x4 ∧ (l.src (.v 9)).tag = .f32)
    ∧ dotShape .e4m3x4 .e4m3x4 = true ∧ (elemsOf .e4m3x4).isSome ∧ Takes (ops 21 18 18 9) (fun l => (l.src (.v 18)).tag = .e2m1x8)
    ∧ dotShape .e2m1x8 .e2m1x8 = true ∧ (elemsOf .e2m1x8).isSome := by
  refine ⟨⟨⟨stage_of _ mixed_stage, by decide +kernel⟩, ?_⟩, rfl, rfl, ⟨⟨stage_of _ mixed_stage, by decide +kernel⟩, ?_⟩, rfl, rfl⟩ <;> decide +kernel

theorem wit_FunctionsAndConversions :
    Takes (ops 21 9 10 0) (fun l => l.tags (ops 21 9 10 0) [.v 9, .v 10] (· = .f32))
    ∧ (∀ k : Fin 3, Takes (ops 21 9 1 0 (BitVec.ofNat 12 (512 * k.val)))
        (fun l => fld (ops 21 9 1 0 (BitVec.ofNat 12 (512 * k.val))).m 11 9 = k.val ∧ (l.src (.v 9)).tag = .f32))
    ∧ Takes (ops 21 9 1 0 0x600) (fun l => fld 0x600 11 9 = 3 ∧ (l.src (.v 9)).tag = .f32 ∧ Tag.isScalar (l.src (.v 1)).tag)
    ∧ Takes (ops 21 7 1 0 0x800) (fun l => fld 0x800 11 9 = 4 ∧ (l.src (.v 7)).tag = .fx ∧ (l.src (Operand.plus (.v 7) 1)).tag = .fx
        ∧ Tag.isScalar (l.src (.v 1)).tag)
    ∧ Takes (ops 21 15 0 0 0xA00) (fun l => fld 0xA00 11 9 = 5 ∧ l.tags (ops 21 15 0 0 0xA00) [.v 15] (· = .i16x2))
    ∧ Takes (ops 21 11 0 0 0xC00) (fun l => fld 0xC00 11 9 = 6 ∧ l.tags (ops 21 11 0 0 0xC00) [.v 11] (· = .bf16x2))
    ∧ Takes (ops 21 13 0 0 0xE00) (fun l => fld 0xE00 11 9 = 7 ∧ l.tags (ops 21 13 0 0 0xE00) [.v 13] (· = .f16x2)) := by
  refine ⟨⟨⟨stage_of _ mixed_stage, by decide +kernel⟩, ?_⟩, fun k => ⟨⟨stage_of _ mixed_stage, by revert k; decide +kernel⟩, ?_⟩,
    ⟨⟨stage_of _ mixed_stage, by decide +kernel⟩, ?_⟩, ⟨⟨stage_of _ mixed_stage, by decide +kernel⟩, ?_⟩,
    ⟨⟨stage_of _ mixed_stage, by decide +kernel⟩, ?_⟩, ⟨⟨stage_of _ mixed_stage, by decide +kernel⟩, ?_⟩,
    ⟨⟨stage_of _ mixed_stage, by decide +kernel⟩, ?_⟩⟩ <;> simp only [LaneCtx.tags, Tag.isScalar] <;> try decide +kernel
  revert k; decide +kernel

theorem wit_PackAndUnpack :
    Takes (ops 21 9 1 18 0xA00) (fun l => packTag (fld 0xA00 11 9) = .e2m1x8 ∧ packable (l.src (.v 9)).tag ∧ packable (l.src (.v 1)).tag
      ∧ (l.src (.v 18)).tag = .e2m1x8)
    ∧ Takes (ops 21 18 0 0 0xE00) (fun l => l.tags (ops 21 18 0 0 0xE00) [.v 18] (· = .e2m1x8) ∧ fld 0xE00 11 9 < 8)
    ∧ Takes (ops 21 16 0 0 0x600) (fun l => l.tags (ops 21 16 0 0 0x600) [.v 16] (· = .i8x4) ∧ fld 0x600 11 9 < 4)
    ∧ Takes (ops 21 20 19 0 0x600) (fun l => (l.src (.v 20)).tag = .e4m3x4 ∧ (l.src (.v 19)).tag = .sc10x3 ∧ fld 0x600 11 9 < 4)
    ∧ Takes (ops 21 9 19 0 0x000) (fun l => fld 0 11 9 = 0 ∧ (l.src (.v 9)).tag = .f32)
    ∧ Takes (ops 21 19 0 0 0x600) (fun l => 1 ≤ fld 0x600 11 9 ∧ fld 0x600 11 9 ≤ 3 ∧ (l.src (.v 19)).tag = .sc10x3)
    ∧ Takes (ops 21 9 19 0 0xC00) (fun l => 4 ≤ fld 0xC00 11 9 ∧ fld 0xC00 11 9 ≤ 6 ∧ (l.src (.v 9)).tag = .f32 ∧ (l.src (.v 19)).tag = .sc10x3)
    ∧ Takes (ops 21 9 0 0 0) (fun l => tchkFails 0 [(l.src (.v 9)).tag] = false)
    ∧ Takes (ops 21 9 3 0 0) (fun l => (l.src (.v 3)).val.toNat % 16 = Tag.f16x2.code ∨ (l.src (.v 3)).val.toNat % 16 = 9) := by
  refine ⟨⟨⟨stage_of _ mixed_stage, by decide +kernel⟩, ?_⟩, ⟨⟨stage_of _ mixed_stage, by decide +kernel⟩, ?_⟩,
    ⟨⟨stage_of _ mixed_stage, by decide +kernel⟩, ?_⟩, ⟨⟨stage_of _ mixed_stage, by decide +kernel⟩, ?_⟩,
    ⟨⟨stage_of _ mixed_stage, by decide +kernel⟩, ?_⟩, ⟨⟨stage_of _ mixed_stage, by decide +kernel⟩, ?_⟩,
    ⟨⟨stage_of _ mixed_stage, by decide +kernel⟩, ?_⟩, ⟨⟨stage_of _ mixed_stage, by decide +kernel⟩, ?_⟩,
    ⟨⟨stage_of _ mixed_stage, by decide +kernel⟩, ?_⟩⟩ <;> simp only [LaneCtx.tags, packable, Tag.isScalar] <;> decide +kernel

theorem wit_Quantisation : ∀ k : Fin 4, Takes (ops 21 9 0 0 (BitVec.ofNat 12 (512 * k.val)))
    (fun l => l.tags (ops 21 9 0 0 (BitVec.ofNat 12 (512 * k.val))) [.v 9] (· = .f32)
      ∧ fld (ops 21 9 0 0 (BitVec.ofNat 12 (512 * k.val))).m 11 9 ≤ 3) := by
  intro k
  refine ⟨⟨stage_of _ mixed_stage, by revert k; decide +kernel⟩, ?_⟩
  simp only [LaneCtx.tags]
  revert k; decide +kernel
/-- The wave of a name in a state. -/
def State.w1 (s : State) (c : Cohort) : Wave := (s.wave? c.wave).getD (newWave fetchTask Tenant.reset 2 ⟨0, 0⟩ 0 0 none)
def State.selfReady (s : State) (c : Cohort) : Bool :=
  (s.wave? c.wave).isSome && decide (s.waves.map (·.ref)).Nodup && (s.tenant (s.tenantOfWave (s.w1 c))).watch.all (fun r => !bit r.toNat 60)
    && !(s.tenant (s.tenantOfWave (s.w1 c))).phase == .saving
theorem selfReady_of {s : State} {c : Cohort} (h : s.selfReady c = true) : Ready s c (s.w1 c) := by
  simp only [State.selfReady, Bool.and_eq_true, decide_eq_true_eq, List.all_eq_true, Bool.not_eq_eq_eq_not] at h
  obtain ⟨⟨⟨h1, h2⟩, h3⟩, h4⟩ := h
  refine ready_of ?_ h2 ⟨h3, ?_⟩
  · obtain ⟨w, hw⟩ := Option.isSome_iff_exists.mp h1
    rw [State.w1, hw]; rfl
  · intro k; simp [k] at h4

/-- One thread at an instruction of four fields, alone. -/
def State.one (s : State) (x : Dev) : Prop := OneLane s s.c0 s.w0 x (s.l0 x)
def State.oneB (s : State) (x : Dev) : Bool := s.stageB && decide ((s.c0.active s.w0 x).length = 1)
theorem one_of {s : State} {x : Dev} (h : s.oneB x = true) : s.one x := by
  simp only [State.oneB, Bool.and_eq_true, decide_eq_true_eq] at h
  exact oneLane_of s x h.1 h.2

/-- A branch of four bytes back or forward, relative and absolute targets, and the end of a wave's last thread. -/
def braX (i : BitVec 64) : Dev := { dev .unused .unused .unused .unused 0 with len := .l96, imm := i }
theorem wit_ControlAndExit :
    Takes (braX 0xFFFFFFFC) (fun l => (l.th.pc + BitVec.ofInt 60 (braX 0xFFFFFFFC).imm32).toNat % 4 = 0)
    ∧ Takes (ops 21 3 0 0 1) (fun _ => bit 1 0 = true)
    ∧ Takes (ops 21 5 0 0 0) (fun l => bit 0 0 = false ∧ (l.srcWN (.v 7) % 4 = 0 ∨ l.srcWN (.v 7) < 2 ^ 60))
    ∧ single.one (ops 0 0 0 0) ∧ (∀ v ∈ single.waves, v.block = single.w0.block → v.ref = single.w0.ref) ∧ single.waves.length = 1
    ∧ single.w0.threads.length = 1 ∧ single.c0.lanes = [(single.l0 (ops 0 0 0 0)).lane] ∧ single.mats = [] := by
  refine ⟨⟨⟨stage_of _ mixed_stage, by decide +kernel⟩, by decide +kernel⟩, ⟨⟨stage_of _ mixed_stage, by decide +kernel⟩, by decide +kernel⟩,
    ⟨⟨stage_of _ mixed_stage, by decide +kernel⟩, by decide +kernel⟩, one_of (by decide +kernel), by decide +kernel, by decide +kernel,
    by decide +kernel, by decide +kernel, by decide +kernel⟩
def absX : Dev := ops 21 1 0 0
def absS : State := bench [[(1, ⟨0xFFFFFFFC, .n32⟩), (2, ⟨0x0FFFFFFF, .n32⟩)]]
theorem wit_absolute : absS.one absX ∧ (absS.l0 absX).srcWN absX.a < 2 ^ 60 ∧ (absS.l0 absX).srcWN absX.a % 4 = 0
    ∧ (absS.l0 absX).srcWN absX.a = 2 ^ 60 - 4 := ⟨one_of (by decide +kernel), by decide +kernel, by decide +kernel, by decide +kernel⟩

/-- A thread with 64 bytes of private memory, and its tenant's trap handler at 0x40. -/
def priv1 : State :=
  let s := single
  { s with
    tenants := s.tenants.modify 0 fun t => { t with privsz := 0x10004, trap := 0x41 }
    waves := s.waves.map fun w => { w with frame := some 0, privsz := 0x10004 } }
def trapX : Dev := dev .unused .unused .unused .unused 0x0FF
def trapF (code : Nat) : FInfo :=
  { code, operand := trapX.m % 256, after := true, pc := (priv1.l0 trapX).th.pc.toNat, resume := (priv1.l0 trapX).nextPc.toNat, lanes := 0 }
def trapS1 (s : State) : State := s.idle.faulting s.c0 s.w0 trapX (s.l0 trapX)
def trapDo (code : Nat) : Op Unit :=
  writeFrameTo ((trapS1 priv1).self (priv1.l0 trapX).ref) ((trapS1 priv1).w1 priv1.c0) 0
    (frameBits ((trapS1 priv1).w1 priv1.c0) (priv1.l0 trapX).th (trapF code))
def trapS (code : Nat) : State := okState (trapDo code) (trapS1 priv1)
theorem wit_TrapsEnterTheHandler :
    priv1.one trapX ∧ priv1.strandOf priv1.w0 = none ∧ bit (priv1.tenant (priv1.tenantOfWave priv1.w0)).vis.toNat 2 = false
    ∧ bit (priv1.tenant (priv1.tenantOfWave priv1.w0)).trap.toNat 0 = true ∧ (priv1.l0 trapX).th.trapinfo = 0 ∧ priv1.w0.frame.isSome
    ∧ 64 ≤ priv1.w0.privBytes
    ∧ (trapS1 priv1).wave? priv1.c0.wave = some ((trapS1 priv1).w1 priv1.c0) ∧ Ready (trapS1 priv1) priv1.c0 ((trapS1 priv1).w1 priv1.c0)
    ∧ (∀ code ∈ [11, 12], trapDo code (trapS1 priv1) = .ok () (trapS code))
    ∧ (∀ code ∈ [11, 12], Ready (trapS code) priv1.c0 ((trapS code).w1 priv1.c0))
    ∧ single.one trapX ∧ single.strandOf single.w0 = none ∧ bit (single.tenant (single.tenantOfWave single.w0)).trap.toNat 0 = false
    ∧ Ready (trapS1 single) single.c0 ((trapS1 single).w1 single.c0) ∧ (single.block? single.w0.block).isSome := by
  refine ⟨one_of (by decide +kernel), by decide +kernel, by decide +kernel, by decide +kernel, by decide +kernel, by decide +kernel, by decide +kernel,
    by decide +kernel, selfReady_of (by decide +kernel), fun c hc => ok_of ?_, fun c hc => selfReady_of ?_, one_of (by decide +kernel), by decide +kernel,
    by decide +kernel, selfReady_of (by decide +kernel), by decide +kernel⟩ <;>
  revert c <;> decide +kernel

/-- NAP for no time and for some; a nap that is over. -/
def napS : State := { single with waves := single.waves.map fun w => w.updThread 0 fun t => { t with status := .waiting (.nap 0) 8 } }
theorem alone_of {s : State} {r : ThreadRef} (h : (s.waves.map (·.ref)).Nodup) (e : (s.wave? r.wave).isSome = true) : Alone s r := by
  intro v hv hr
  obtain ⟨w, hw⟩ := Option.isSome_iff_exists.mp e
  rw [hw, only_of hw h v hv hr]
/-- A word at 0x40 of the page, and a thread that compares it. -/
def waitS (w : Nat) : State := (bench [[(1, ⟨0x40, .n32⟩), (3, ⟨7, .n32⟩), (4, ⟨100, .n32⟩)]]).pagePut 0x40 (natBytes 4 w)
def waitX (cond : Nat) : Dev := ops 21 1 3 4 (BitVec.ofNat 12 (512 * cond))
def waitRead (w n lv : Nat) : Op Nat :=
  let c := (waitS w).idle.self ((waitS w).l0 (waitX 0)).ref
  readVa { c with who := { c.who with level := lv } } .load 0x40 n
theorem wit_Waits :
    Takes (ops 21 2 0 0) (fun l => Tag.isScalar (l.src (.v 2)).tag ∧ numOf (l.src (.v 2)) ≤ 0)
    ∧ single.one (ops 21 4 0 0) ∧ Tag.isScalar ((single.l0 (ops 21 4 0 0)).src (.v 4)).tag ∧ 0 < numOf ((single.l0 (ops 21 4 0 0)).src (.v 4))
    ∧ (napS.thread? ⟨⟨0, 0⟩, 0⟩).map (·.status) = some (.waiting (.nap 0) 8) ∧ Alone napS ⟨⟨0, 0⟩, 0⟩
    ∧ (∀ w ∈ [6, 7, 8], ∀ cond ∈ [0, 1, 2], (waitS w).oneB (waitX cond) = true ∧ ((waitS w).l0 (waitX cond)).srcWN (.v 1) = 0x40)
    ∧ (∀ w ∈ [0, 7], ∀ n ∈ [(1, 2), (4, 0)], waitRead w n.1 n.2 (waitS w).idle = .ok w (okState (waitRead w n.1 n.2) (waitS w).idle)
        ∧ (okState (waitRead w n.1 n.2) (waitS w).idle).readyB (waitS w) = true
        ∧ (okState (waitRead w n.1 n.2) (waitS w).idle).clockOf 0 = (waitS w).clockOf 0) := by
  refine ⟨⟨⟨stage_of _ mixed_stage, by decide +kernel⟩, ?_⟩, one_of (by decide +kernel), .inr (by decide +kernel), by decide +kernel, by decide +kernel,
    alone_of (by decide +kernel) (by decide +kernel), by decide +kernel, fun w hw n hn => ⟨ok_of ?_, ?_, ?_⟩⟩
  · simp only [Tag.isScalar]; decide +kernel
  all_goals revert w n; decide +kernel

/-- A thread that waits for a word with a limit, before and after it. -/
def pollS (w clock : Nat) : State :=
  let s := waitS w
  { s with clock, cur := none, waves := s.waves.map fun v => v.updThread 0 fun t => { t with status := .waiting (.waitw 0x40 0 7 0 100 0 (.v 21)) 8 } }
def pollRead (w clock : Nat) : Op Nat := readVa ((pollS w clock).self ⟨⟨0, 0⟩, 0⟩) .load 0x40 4
theorem wit_polls : ∀ p ∈ [(7, 0), (6, 99), (6, 100)],
    ((pollS p.1 p.2).thread? ⟨⟨0, 0⟩, 0⟩).map (·.status) = some (.waiting (.waitw 0x40 0 7 0 100 0 (.v 21)) 8)
    ∧ okVal (pollRead p.1 p.2) (pollS p.1 p.2) = some p.1
    ∧ ((okState (pollRead p.1 p.2) (pollS p.1 p.2)).writeDest ⟨⟨0, 0⟩, 0⟩ (.v 21) ⟨1, .n32⟩).selfReady ⟨⟨0, 0⟩, [0], 0⟩ = true
    ∧ ((okState (pollRead p.1 p.2) (pollS p.1 p.2)).writeDest ⟨⟨0, 0⟩, 0⟩ (.v 21) ⟨1, .n32⟩).waves
        = [((pollS p.1 p.2).w1 ⟨⟨0, 0⟩, [0], 0⟩).putDest 0 (.v 21) ⟨1, .n32⟩]
    ∧ (okState (pollRead p.1 p.2) (pollS p.1 p.2)).clockOf 0 = (pollS p.1 p.2).clockOf 0 := by decide +kernel
/-- A block with a safe distance of one that has been reached. -/
def lateS : State :=
  { single with blocks := single.blocks.map fun b => { b with safeDist := 1 }, waves := single.waves.map fun w => { w with safeCnt := 1 } }
theorem wit_SafePoints : single.at_ trapX ∧ (single.block? single.w0.block).isSome
    ∧ single.c0.active single.w0 { trapX with guard := ⟨true, 7⟩ } = []
    ∧ lateS.one trapX ∧ trapX.guard = ⟨false, 7⟩ ∧ lateS.c0.lanes = [(lateS.l0 trapX).lane] ∧ (lateS.block? lateS.w0.block).isSome
    ∧ lateS.overrun lateS.c0 lateS.w0 = true ∧ lateS.strandOf lateS.w0 = none :=
  ⟨⟨stage_of _ single_stage, by decide +kernel⟩, by decide +kernel, by decide +kernel, one_of (by decide +kernel), rfl, by decide +kernel,
    by decide +kernel, by decide +kernel, by decide +kernel⟩

/-- FSTAT with NV and SAT set, of which a written mask clears NV. -/
def flagS : State := { mixed with waves := mixed.waves.map fun w => { w with fstat := 0x041 } }
theorem wit_SpecialRegisters : flagS.at_ (ops 21 5 0 0 14) ∧ (flagS.block? flagS.w0.block).isSome ∧ (flagS.taskOfWave flagS.w0).isSome ∧ (14 : Nat) < 15
    ∧ ∀ i : Fin 32, (0x040 : Word).getLsbD i = (flagS.w0.fstat.getLsbD i
        && !([0, 1, 2, 3, 4, 6, 7, 8].contains i.val && (flagS.c0.active flagS.w0 (ops 21 5 0 0 14)).any fun l => (l.src (.v 5)).val.getLsbD i)) :=
  ⟨⟨stage_of _ (by decide +kernel), by decide +kernel⟩, by decide +kernel, by decide +kernel, by decide, by decide +kernel⟩

/-- Words of private memory read one after the other. -/
def privFrom (c : Self) (w : Wave) (lane : Nat) : (o : Nat) → (n : Nat) → State → Option (List Nat × State)
  | _, 0, s => some ([], s)
  | o, n + 1, s =>
    match okVal (readPriv c w lane o 4) s with
    | some v => (privFrom c w lane (o + 4) n (okState (readPriv c w lane o 4) s)).map fun p => (v :: p.1, p.2)
    | none => none
theorem privRead_of {c : Self} {w : Wave} {lane : Nat} : ∀ {n o : Nat} {s t : State} {vs : List Nat}, privFrom c w lane o n s = some (vs, t) →
    PrivRead c w lane o vs s t
  | 0, o, s, t, vs, h => by simp only [privFrom, Option.some.injEq, Prod.mk.injEq] at h; rw [← h.1, ← h.2]; rfl
  | n + 1, o, s, t, vs, h => by
    simp only [privFrom] at h
    split at h
    · rename_i v hv
      rw [Option.map_eq_some_iff] at h
      obtain ⟨p, hp, e⟩ := h
      simp only [Prod.mk.injEq] at e
      rw [← e.1, ← e.2]
      exact ⟨_, ok_of hv, privRead_of hp⟩
    · cases h

/-- A thread in its handler whose frame holds a resume address of which the words given are the last two. -/
def retS (lo hi : Nat) : State :=
  let s := (priv1.pagePut 1792 (natBytes 4 lo)).pagePut 1920 (natBytes 4 hi)
  { s with waves := s.waves.map fun w => w.updThread 0 fun t => { t with trapinfo := 0x0B000300 } }
def retEnd (lo hi : Nat) : Option (List Nat × State) :=
  privFrom ((retS lo hi).idle.self ((retS lo hi).l0 trapX).ref) (retS lo hi).w0 0 0 16 (retS lo hi).idle
theorem wit_HandlersReturn : ∀ p ∈ [(4, 0, 4), (2 ^ 32 - 4, 2 ^ 28 - 1, 2 ^ 60 - 4), (2, 0, 2), (0, 2 ^ 28, 2 ^ 60)],
    (retS p.1 p.2.1).one trapX ∧ ((retS p.1 p.2.1).l0 trapX).th.trapinfo ≠ 0
    ∧ ∃ ws s1, PrivRead ((retS p.1 p.2.1).idle.self ((retS p.1 p.2.1).l0 trapX).ref) (retS p.1 p.2.1).w0 0 0 ws (retS p.1 p.2.1).idle s1
        ∧ ws.length = 16 ∧ fld (wordsNat ws) 511 448 = p.2.2 ∧ fld (wordsNat ws) 67 64 < 15 ∧ Ready s1 (retS p.1 p.2.1).c0 (retS p.1 p.2.1).w0
        ∧ (s1.block? (retS p.1 p.2.1).w0.block).isSome := by
  intro p hp
  have a : (retS p.1 p.2.1).oneB trapX = true := by revert p; decide +kernel
  have b : ((retEnd p.1 p.2.1).any fun r => decide (r.1.length = 16 ∧ fld (wordsNat r.1) 511 448 = p.2.2 ∧ fld (wordsNat r.1) 67 64 < 15)
      && r.2.readyB (retS p.1 p.2.1) && (r.2.block? (retS p.1 p.2.1).w0.block).isSome) = true := by revert p; decide +kernel
  refine ⟨one_of a, by revert p; decide +kernel, ?_⟩
  cases h : retEnd p.1 p.2.1 with
  | none => rw [h] at b; cases b
  | some r =>
    rw [h] at b
    simp only [Option.any_some, Bool.and_eq_true, decide_eq_true_eq] at b
    simp only [State.oneB, Bool.and_eq_true] at a
    exact ⟨r.1, r.2, privRead_of (n := 16) h, b.1.1.1, b.1.1.2.1, b.1.1.2.2, readyB_of a.1 b.1.2, b.2⟩

/-- A tenant whose trace unit takes markers. -/
def visS : State := { single with tenants := single.tenants.modify 0 fun t => { t with vis := 9 } }
theorem wit_HaltAndMarker : single.one trapX ∧ (single.block? single.w0.block).map (·.strand) = some none
    ∧ bit (single.tenant (single.tenantOfWave single.w0)).vis.toNat 3 = false ∧ visS.one trapX
    ∧ bit (visS.tenant (visS.tenantOfWave visS.w0)).vis.toNat 3 = true
    ∧ Ready (visS.idle.visWrite (visS.l0 trapX).ref { type := 2, pc := (visS.l0 trapX).th.pc.toNat, aux := 0, id := 255 }) visS.c0 visS.w0 :=
  ⟨one_of (by decide +kernel), by decide +kernel, by decide +kernel, one_of (by decide +kernel), by decide +kernel,
    readyB_of (by decide +kernel) (by decide +kernel)⟩

/-- A wave of an allotment of 248, and threads that ask for 256, 248 and none. -/
def regS (n : Nat) : State :=
  let s := bench [[(1, ⟨BitVec.ofNat 32 n, .n32⟩)]]
  { s with waves := s.waves.map fun w => { w with allot := 248, threads := w.threads.map fun t => t.resized 248 } }
def growS : State :=
  let s := regS 256
  { s with
    cur := none
    cores := s.cores.modify 0 fun c => { c with reggrw := [⟨⟨0, 0⟩, 0⟩] }
    waves := s.waves.map fun w => w.updThread 0 fun t => { t with status := .waiting (.reggrw 256) 8 } }
theorem wit_RegisterSpace :
    (∀ n ∈ [256, 248, 241, 0], (regS n).oneB (ops 0 1 0 0) = true ∧ Tag.isScalar (((regS n).l0 (ops 0 1 0 0)).src (.v 1)).tag
      ∧ numOf (((regS n).l0 (ops 0 1 0 0)).src (.v 1)) ≤ 256)
    ∧ (growS.core 0).reggrw = [⟨⟨0, 0⟩, 0⟩] ∧ growS.cores.length = 256 ∧ (growS.wave? ⟨0, 0⟩).isSome
    ∧ ((growS.thread? ⟨⟨0, 0⟩, 0⟩).map (·.status)) = some (.waiting (.reggrw 256) 8)
    ∧ (growS.tenant (growS.tenantOfWave (growS.w1 ⟨⟨0, 0⟩, [], 0⟩))).phase ≠ .saving
    ∧ 128 * (256 - (growS.w1 ⟨⟨0, 0⟩, [], 0⟩).allot) + ((growS.waves.filter fun v => v.ref.core == 0).map fun v => 128 * v.allot).sum ≤ 524288 := by
  refine ⟨?_, by decide +kernel, by decide +kernel, by decide +kernel, by decide +kernel, by decide +kernel, by decide +kernel⟩
  simp only [Tag.isScalar]; decide +kernel

/-- A block with a scratchpad of 256 bytes and accumulator rows, the last parameter block of it, and the tickets of a block. -/
def matS : State :=
  let s := bench [[(1, ⟨192, .n32⟩), (2, ⟨1, .n32⟩), (3, ⟨0x3F800000, .f32⟩), (4, ⟨0, .i32⟩)]]
  { s with blocks := s.blocks.map fun b => { b with scratchLen := 256, accRows := List.replicate 4 ⟨0, List.replicate 256 0⟩, nextTicket := 2 ^ 32 - 1 } }
def postedS : State := (after (exec (.mlds (ops 21 1 0 0)) matS)).getD matS
def syncS : State := { postedS with cur := matS.cur }
theorem wit_MatrixOperations : matS.one (ops 21 1 2 3) ∧ matS.strandOf matS.w0 = none ∧ (matS.block? matS.w0.block).map (·.nextTicket) = some (2 ^ 32 - 1)
    ∧ (matS.taskOfWave matS.w0).isSome ∧ matS.w0.ref.core < 256 ∧ (matS.mats.filter fun o => o.by_.core == matS.w0.ref.core).length < 16
    ∧ ((matS.l0 (ops 21 1 2 3)).src (.v 1)).val.toNat % 64 = 0 ∧ ((matS.l0 (ops 21 1 2 3)).src (.v 1)).val.toNat + 64 = 256
    ∧ ((matS.block? matS.w0.block).map fun b => (b.scratchLen, b.granulesBad 192 64)) = some (256, false)
    ∧ ((matS.l0 (ops 21 1 2 3)).src (.v 3)).tag = .f32
    ∧ syncS.one (ops 21 2 0 0) ∧ (syncS.block? syncS.w0.block).map (·.nextTicket) = some 1
    ∧ (syncS.mats.any fun o => o.by_.block == some syncS.w0.block && covered 1 1 o.ticket) = true
    ∧ (matS.mats.any fun o => o.by_.block == some matS.w0.block && covered 1 1 o.ticket) = false
    ∧ matS.one (ops 0 4 0 0 1) ∧ bit 1 0 = true ∧ matS.one (ops 0 4 0 0 0) ∧ (matS.l0 (ops 0 4 0 0 0)).srcWN (.v 4) < 2 ^ 60
    ∧ (matS.l0 (ops 0 4 0 0 0)).srcWN (.v 4) % 4 = 0 :=
  ⟨one_of (by decide +kernel), by decide +kernel, by decide +kernel, by decide +kernel, by decide +kernel, by decide +kernel, by decide +kernel,
    by decide +kernel, by decide +kernel, by decide +kernel, one_of (by decide +kernel), by decide +kernel, by decide +kernel, by decide +kernel,
    one_of (by decide +kernel), by decide +kernel, one_of (by decide +kernel), by decide +kernel, by decide +kernel⟩
/-- An access whose translation is cached and good, as conditions that can be decided. -/
def State.mapB (s : State) (c : Self) (a : Access) (va pa leaf : Nat) : Bool :=
  decide (va < clusterBase) && bit c.who.root 0 && (s.tlbFind c.who va).any (fun t => t.leaf == leaf && c.who.caches.head? == some t.at_) && leafGrants a leaf
    && (!accWrites a || bit leaf 2 && bit leaf 6) && (leafFault s a leaf va).isNone && decide (pa = leafPa leaf va) && s.moves.isEmpty
    && s.forwards.isEmpty && !poolLost s pa && !handoverHold s pa && s.latent.isEmpty
theorem mapped_of {s : State} {c : Self} {a : Access} {va pa leaf : Nat} (h : s.mapB c a va pa leaf = true) : Mapped s c a va pa leaf := by
  simp only [State.mapB, Bool.and_eq_true, decide_eq_true_eq, Bool.or_eq_true, Bool.not_eq_eq_eq_not, Bool.not_true, Option.isNone_iff_eq_none,
    List.isEmpty_iff] at h
  obtain ⟨⟨⟨⟨⟨⟨⟨⟨⟨⟨⟨h1, h2⟩, h3⟩, h4⟩, h5⟩, h6⟩, h7⟩, h8⟩, h9⟩, h10⟩, h11⟩, h12⟩ := h
  refine ⟨h1, h2, ?_, h4, fun w => ?_, h6, h7, ⟨h8, h9⟩, ⟨h10, h11⟩, fun p hp => ?_⟩
  · obtain ⟨t, ht, e⟩ := Option.any_eq_true _ _ |>.mp h3
    simp only [Bool.and_eq_true] at e
    exact ⟨t, ht, eq_of_beq e.1, eq_of_beq e.2⟩
  · rcases h5 with h5 | h5
    · rw [w] at h5; cases h5
    · exact h5
  · rw [h12] at hp; cases hp

/-- A thread whose registers lead to offset o of its page, whose translation is cached: v1 holds o, v4 an unsigned operand, v2, v5 to v8 data. -/
def memS (o n : Nat) : State :=
  let s := bench [[(1, ⟨BitVec.ofNat 32 o, .n32⟩), (4, ⟨BitVec.ofNat 32 n, .n32⟩), (8, ⟨0x80000000, .i32⟩), (9, ⟨5, .i32⟩), (11, ⟨7, .fx⟩), (12, ⟨0, .fx⟩)]]
  { s with
    tlb := [⟨.core 0, 0, 0, 0, 0x2806F⟩, ⟨.cluster 0, 0, 0, 0, 0x2806F⟩, ⟨.die 0, 0, 0, 0, 0x2806F⟩]
    blocks := s.blocks.map fun b => { b with scratchLen := 4096 }
    waves := s.waves.map fun w => { w with frame := some 0, privsz := 0x10010 }
    tenants := s.tenants.modify 0 fun t => { t with privsz := 0x10010 } }
/-- An access of SIZE and TYPE at the address of v1, with data in v5. -/
def memX (size type : Nat) : Dev := { dev (.v 5) (.v 1) (.k .zero) (.v 5) (BitVec.ofNat 12 (512 * size + 32 * type)) with len := .l96 }
def memL (o size type : Nat) : LaneCtx := (memS o 0).l0 (memX size type)
def loadDo (o size : Nat) : Op Nat := readVa ((memS o 0).idle.self (memL o size 13).ref) .load o (2 ^ size)
def storeDo (o size : Nat) : Op Unit := writeVa ((memS o 0).idle.self (memL o size 13).ref) o (storeBytes (memX size 13) (memL o size 13)) 0 0
def loadpDo (size : Nat) : Op Nat := readPriv ((memS 0 0).idle.self (memL 0 size 13).ref) (memS 0 0).w0 0 0 (2 ^ size)
def storepDo (size : Nat) : Op Unit :=
  writePriv ((memS 0 0).idle.self (memL 0 size 13).ref) (memS 0 0).w0 0 0 (storeBytes (memX size 13) (memL 0 size 13))
/-- The last access of each size of the page. -/
theorem wit_LoadsAndStores : ∀ size : Fin 5,
    (memS (4096 - 2 ^ size.val) 0).one (memX size.val 13) ∧ Tag.ofCode? (fld (memX size.val 13).m 8 5) = some .raw ∧ fld (memX size.val 13).m 11 9 = size.val
    ∧ eaOf (memX size.val 13) (memL (4096 - 2 ^ size.val) size.val 13) = 4096 - 2 ^ size.val
    ∧ (∃ v s1, loadDo (4096 - 2 ^ size.val) size.val (memS (4096 - 2 ^ size.val) 0).idle = .ok v s1
        ∧ Ready s1 (memS (4096 - 2 ^ size.val) 0).c0 (memS (4096 - 2 ^ size.val) 0).w0)
    ∧ (∃ s1, storeDo (4096 - 2 ^ size.val) size.val (memS (4096 - 2 ^ size.val) 0).idle = .ok () s1
        ∧ Ready s1 (memS (4096 - 2 ^ size.val) 0).c0 (memS (4096 - 2 ^ size.val) 0).w0)
    ∧ ((memS (4096 - 2 ^ size.val) 0).block? 2).map (fun b => (b.scratchLen, b.granulesBad (4096 - 2 ^ size.val) (2 ^ size.val))) = some (4096, false)
    ∧ 2 ^ size.val ≤ (memS 0 0).w0.privBytes
    ∧ (∃ v s1, loadpDo size.val (memS 0 0).idle = .ok v s1 ∧ Ready s1 (memS 0 0).c0 (memS 0 0).w0)
    ∧ (∃ s1, storepDo size.val (memS 0 0).idle = .ok () s1 ∧ Ready s1 (memS 0 0).c0 (memS 0 0).w0) := by
  intro k
  have a : (memS (4096 - 2 ^ k.val) 0).stageB = true := by revert k; decide +kernel
  have z : (memS 0 0).stageB = true := by decide +kernel
  refine ⟨one_of (by revert k; decide +kernel), by revert k; decide +kernel, by revert k; decide +kernel, by revert k; decide +kernel,
    ⟨0, _, ok_of (by revert k; decide +kernel), readyB_of a (by revert k; decide +kernel)⟩,
    ⟨_, ok_of (by revert k; decide +kernel), readyB_of a (by revert k; decide +kernel)⟩, by revert k; decide +kernel, by revert k; decide +kernel,
    ⟨0, _, ok_of (by revert k; decide +kernel), readyB_of z (by revert k; decide +kernel)⟩,
    ⟨_, ok_of (by revert k; decide +kernel), readyB_of z (by revert k; decide +kernel)⟩⟩

theorem wit_GlobalAccesses : ∀ size : Fin 5,
    (memS (4096 - 2 ^ size.val) 0).one (memX size.val 13) ∧ MemoryInv (memS (4096 - 2 ^ size.val) 0)
    ∧ (memS (4096 - 2 ^ size.val) 0).strandOf (memS (4096 - 2 ^ size.val) 0).w0 = none
    ∧ (∀ a ∈ [Access.load, .store], Mapped (memS (4096 - 2 ^ size.val) 0) ((memS (4096 - 2 ^ size.val) 0).idle.self (memL (4096 - 2 ^ size.val) size.val 13).ref) a
        (4096 - 2 ^ size.val) (0x29000 - 2 ^ size.val) 0x2806F)
    ∧ (memS (4096 - 2 ^ size.val) 0).poisoned (0x29000 - 2 ^ size.val) (2 ^ size.val) = false
    ∧ bit ((memS (4096 - 2 ^ size.val) 0).tenant 0).dirty.toNat 0 = false := by
  intro k
  refine ⟨one_of (by revert k; decide +kernel), ?_, by revert k; decide +kernel, fun a ha => mapped_of ?_, by revert k; decide +kernel,
    by revert k; decide +kernel⟩
  · show (memS (4096 - 2 ^ k.val) 0).mem.wf = true; revert k; decide +kernel
  · simp only [List.mem_cons, List.not_mem_nil, or_false] at ha
    rcases ha with rfl | rfl <;> revert k <;> decide +kernel

/-- Every operation of an atomic on a RAW or FX word, or on the four 32-bit types. -/
def atomX (op type : Nat) : Dev :=
  { dev (.v 20) (.v 1) (.k .zero) (if type = 14 then .v 11 else if type = 1 then .v 4 else .v 9) (BitVec.ofNat 12 (512 * op + 32 * type)) with
    len := .l96, d := if op = 7 then (if type = 14 then .v 11 else if type = 1 then .v 4 else .v 9) else .v 20 }
def atomL (op type : Nat) : LaneCtx := (memS 0xFF8 3).l0 (atomX op type)
theorem wit_Atomics : (∀ op : Fin 8, ∀ type ∈ [0, 1, 14],
      (memS 0xFF8 3).oneB (atomX op.val type) = true ∧ eaOf (atomX op.val type) (atomL op.val type) = 0xFF8
      ∧ (memS 0xFF8 3).mapB ((memS 0xFF8 3).idle.self (atomL op.val type).ref) .atomic 0xFF8 0x28FF8 0x2806F = true
      ∧ ((atomL op.val type).src (atomX op.val type).c).tag.code = type
      ∧ (type = 14 → ((atomL op.val type).src ((atomX op.val type).c.plus 1)).tag.code = 14)
      ∧ (op.val = 7 → ((atomL op.val type).src (atomX op.val type).d).tag.code = type
          ∧ (type = 14 → ((atomL op.val type).src ((atomX op.val type).d.plus 1)).tag.code = 14)))
    ∧ MemoryInv (memS 0xFF8 3) ∧ (memS 0xFF8 3).strandOf (memS 0xFF8 3).w0 = none ∧ (memS 0xFF8 3).poisoned 0x28FF8 8 = false
    ∧ bit ((memS 0xFF8 3).tenant ((memS 0xFF8 3).tenantOfWave (memS 0xFF8 3).w0)).dirty.toNat 0 = false
    ∧ ((memS 0xFF8 3).block? 2).map (fun b => (b.scratchLen, b.granulesBad 0xFF8 8)) = some (4096, false) := by
  refine ⟨by decide +kernel, ?_, by decide +kernel, by decide +kernel, by decide +kernel, by decide +kernel⟩
  show (memS 0xFF8 3).mem.wf = true; decide +kernel

theorem wit_FencesAndHints : (∀ k : Fin 4, (memS 0x40 0).one (memX k.val 13) ∧ fld (memX k.val 13).m 11 9 = k.val
      ∧ Mapped (memS 0x40 0) ((memS 0x40 0).idle.self (memL 0x40 k.val 13).ref) .prefetch 0x40 0x28040 0x2806F)
    ∧ (memS 0x40 0).strandOf (memS 0x40 0).w0 = none ∧ (memS 0x40 0).w0.ref.core < 256
    ∧ (let s := bench [[(2, ⟨0x0FFFFFFF, .n32⟩)]]; s.oneB (memX 0 13) = true ∧ clusterBase ≤ eaOf (memX 0 13) (s.l0 (memX 0 13))) := by
  refine ⟨fun k => ⟨one_of ?_, ?_, mapped_of ?_⟩, by decide +kernel, by decide +kernel, by decide +kernel⟩ <;> revert k <;> decide +kernel

/-- A sync word at the end of the scratchpad at its limits, and a barrier that is one arrival from its end. -/
def syncW (target count gen : Nat) : State :=
  let s := memS 4080 1
  { s with blocks := s.blocks.map fun b =>
    { b with
      scratch := b.scratch.writeBytes 4080 (natBytes 16 (target + count * 2 ^ 32 + gen * 2 ^ 64 + 2 ^ 96))
      barriers := [⟨0xFFFFFFFF, 4094, 4095, true⟩] } }
def syncX : Dev := ops 21 1 4 0
def barX : Dev := ops 21 4 0 0
theorem wit_BarriersAndSyncWords : (∀ p ∈ [(2 ^ 32 - 1, 2 ^ 32 - 1, 2 ^ 32 - 1), (5, 4, 0), (5, 4, 1), (5, 4, 2)],
      (syncW p.1 p.2.1 p.2.2).oneB syncX = true
      ∧ (((syncW p.1 p.2.1 p.2.2).l0 syncX).srcWN syncX.a + 16 * fld syncX.m 11 5) % 2 ^ 64 = 4080
      ∧ ((syncW p.1 p.2.1 p.2.2).block? 2).map (·.scratchLen) = some 4096
      ∧ (syncW p.1 p.2.1 p.2.2).readyB (syncW p.1 p.2.1 p.2.2) = true)
    ∧ (syncW 5 4 0).waves.length = 1 ∧ (syncW 5 4 0).oneB barX = true
    ∧ (((syncW 5 4 0).block? 2).bind fun b => b.barriers[if bit barX.m 11 then 0 else fld barX.m 10 0]?) = some ⟨0xFFFFFFFF, 4094, 4095, true⟩ := by
  decide +kernel
/-! From here on the hypotheses stand in the forms that can be decided: `oneB`, `stageB`, `readyB`, `selfReady`, `mapB` and `okVal`, which `one_of`,
`stage_of`, `readyB_of`, `selfReady_of`, `mapped_of` and `ok_of` turn into those of the statements. -/

/-- The leaf of an address, where it has one. -/
def leafAt (s : State) (root : Nat) (a : Access) (va : Nat) : Option Leaf := match lookLeaf s root a va with | .ok g => some g | .error _ => none
theorem leaf_of {s : State} {root : Nat} {a : Access} {va : Nat} {g : Leaf} (h : leafAt s root a va = some g) : lookLeaf s root a va = .ok g := by
  unfold leafAt at h
  split at h
  · rename_i e; rw [e]; cases h; rfl
  · cases h

/-- A thread at a page that hub 0 knows and may move, with a free frame of LPD6: v3 holds the target, v4 the length. -/
def placeS (len target device : Nat) : State :=
  let s := memS 0x40 len
  let s := { s with mem := (((s.mem.writeBytes 0x40200 (natBytes 16 (1 + 2 ^ 32 + 0x41000 * 2 ^ 64))).writeBytes 0x40010 (natBytes 16 (1 + 2 ^ 32 + 0x41008 * 2 ^ 64))).writeBytes
    0x41000 (natBytes 8 (2 ^ 54 + 0x5000))).writeBytes 0x40050 (natBytes 16 (1 + 2 ^ 32 + 0x41010 * 2 ^ 64)) }
  { s with
    waves := s.waves.map fun w => w.updThread 0 fun t => { t with regs := t.regs.set 3 ⟨BitVec.ofNat 32 target, .n32⟩ }
    hubs := s.hubs.modify 0 fun h => { h with
      fst := List.replicate 10 0x60001, rings := 0x40001, pins := if device = 0 then [] else [⟨0x28, device, 0, 0⟩]
      frames := [⟨0x28, 0, false, true, 0x20000, 0, 0, 0, false, false⟩] } }
def placeX (m : Nat) : Dev := { ops 21 1 4 3 (BitVec.ofNat 12 m) with len := .l64 }
def placeOk (s : State) (m : Nat) : Bool :=
  s.oneB (placeX m) && s.mapB (s.idle.self (s.l0 (placeX m)).ref) .load 0x40 0x28040 0x2806F
    && leafAt s (s.idle.self (s.l0 (placeX m)).ref).who.root .load 0x40 == some ⟨0x2806F, 0x20000, 0, 0⟩ && (s.strandOf s.w0).isNone
theorem wit_PlacementInstructions :
    ((placeS 0 0 0).oneB (placeX 0) = true)
    ∧ (∀ p ∈ [(4032, 0, 0), (1, 0, 65534), (1, 0, 65535)], placeOk (placeS p.1 p.2.1 p.2.2) 0 = true ∧ 0x40 + p.1 ≤ 0 + pageBytes 0
        ∧ ((placeS p.1 p.2.1 p.2.2).pin 0x28).device = p.2.2)
    ∧ (∀ t ∈ [3, 1 + 2 ^ 5, 2 + 2 ^ 2], (placeS 1 t 0).oneB (placeX 0) = true ∧ (((placeS 1 t 0).l0 (placeX 0)).src (.v 3)).val.toNat = t)
    ∧ (∀ m ∈ [0, 1], placeOk (placeS 1 1 0) m = true ∧ tierOf 0x28000 = 0 ∧ ((placeS 1 1 0).pin 0x28).cls = 0
        ∧ (placeS 1 1 0).sharedPage ⟨0x2806F, 0x20000, 0, 0⟩ = false ∧ (placeS 1 1 0).freeFrames ⟨1, none, none, some 0⟩ 0 0 = 1)
    ∧ placeOk (placeS 1 0 0) 0 = true ∧ placeOk (placeS 1 1 0) 0 = true ∧ placeOk (placeS 1 2 0) 0 = true
    ∧ (placeS 1 2 0).freeFrames ⟨1, none, none, some 0⟩ 0 0 = 1 := by decide +kernel

/-- MQRY of a mapped and of an absent page. -/
theorem wit_Mqry : (placeS 1 0 0).oneB (placeX 0) = true ∧ ((placeS 1 0 0).l0 (placeX 0)).srcWN (.v 1) = 0x40
    ∧ walkRoot (placeS 1 0 0) (placeS 1 0 0).w0.root.toNat 0x40 = .leaf ⟨0x2806F, 0x20000, 0, 0⟩ ∧ paLegal (leafPa 0x2806F 0x40) = true
    ∧ homeHere (placeS 1 0 0) 0x28000 = true ∧ (memS 0x1000 0).oneB (placeX 0) = true
    ∧ walkRoot (memS 0x1000 0) (memS 0x1000 0).w0.root.toNat 0x1000 = .absent := by decide +kernel

/-- A cursor at 0x800 of two pages of 64 slots, its list at 0x840, and descriptors at 0x8C0 and 0x900 of slots of 64 bytes. -/
def curS (opened commit spec np entry desc k : Nat) (v : Word) : State :=
  let s := bench [[(1, ⟨0x800, .n32⟩), (4, ⟨BitVec.ofNat 32 k, .n32⟩), (9, ⟨v, .f32⟩)]]
  let s := s.pagePut 0x800 (natBytes 32 (0x840 + commit * 2 ^ 64 + spec * 2 ^ 96 + np * 2 ^ 128 + 6 * 2 ^ 160 + opened * 2 ^ 169))
  let s := s.pagePut 0x840 (natBytes 64 (0x8C0 + entry * 2 ^ 64 + 2 ^ 128 + 0x1FD * 2 ^ 192))
  let s := s.pagePut 0x880 (natBytes 64 0x900)
  (s.pagePut 0x8C0 (natBytes 64 (desc * 2 ^ 128 + 0x1FD * 2 ^ 192))).pagePut 0x900 (natBytes 64 (6 * 2 ^ 128 + 0x1FD * 2 ^ 192))
def curX (sel : Nat) : Dev := ops 21 1 4 0 (BitVec.ofNat 12 (512 * sel))
def curRec (s : State) : Op Nat := curRead (s.idle.self (s.l0 (curX 0)).ref) 0x800 32
def curOk (s : State) (x : Dev) : Bool :=
  s.oneB x && (okVal (curRec s) s.idle).isSome && (okState (curRec s) s.idle).readyB s && (s.strandOf s.w0).isNone
/-- CURQ of each SEL on a ready slot, one that is not, and one past the list. -/
theorem wit_Curq : ∀ sel : Fin 6, ∀ k ∈ [0, 1, 127, 128], curOk (curS 1 1 1 2 1 6 k 0) (curX sel.val) = true ∧ fld (curX sel.val).m 11 9 = sel.val
    ∧ (let s := curS 1 1 1 2 1 6 k 0
       let self := s.idle.self (s.l0 (curX 0)).ref
       let s1 := okState (curRec s) s.idle
       k < 128 → (okVal (curRead self (0x840 + 64 * (k / 64)) 64) s1).isSome = true ∧ (okState (curRead self (0x840 + 64 * (k / 64)) 64) s1).readyB s = true
        ∧ (let s2 := okState (curRead self (0x840 + 64 * (k / 64)) 64) s1
           (okVal (curRead self 0x8C0 64) s2).isSome = true ∧ (okState (curRead self 0x8C0 64) s2).readyB s = true)) := by decide +kernel

def qappX : Dev := ops 21 1 9 4
def pageOf (s : State) (q : Nat) (force : Bool) : Op (Option OpenPage) :=
  openPage (s.idle.self (s.l0 qappX).ref) ⟨0x800, (okVal (curRec s) s.idle).getD 0, none⟩ q force
/-- QAPP on a cursor that is not open, is full, with an element past the slot, with pages of another geometry, of a number that fits and of an
infinity. -/
theorem wit_Qapp : curOk (curS 0 1 1 2 1 6 63 0) qappX = true ∧ curOk (curS 1 1 128 2 1 6 63 0) qappX = true ∧ curOk (curS 1 1 127 2 1 6 64 0) qappX = true
    ∧ (let s := curS 1 1 1 2 0 7 63 0
       curOk s qappX = true ∧ okVal (pageOf s 0 false) (okState (curRec s) s.idle) = some none
         ∧ (okState (pageOf s 0 false) (okState (curRec s) s.idle)).readyB s = true)
    ∧ (∀ e ∈ [0, 1], ∀ v ∈ [0x3F800000, 0x7F800000],
       let s := curS 1 1 1 2 e 6 63 (BitVec.ofNat 32 v)
       let s1 := okState (curRec s) s.idle
       let s2 := okState (pageOf s 0 false) s1
       curOk s qappX = true ∧ ((okVal (pageOf s 0 false) s1).bind id).isSome = true ∧ s2.readyB s = true
         ∧ (appendByte 0x1FD (fmtF32.value v)).isSome = decide (v = 0x3F800000)
         ∧ (let s3 := okState (curWrites (s.idle.self (s.l0 qappX).ref) [(0x7F, [0x55#8])]) s2; s3.readyB s = true)) := by decide +kernel

/-- CURADV on a cursor that is not open, by none, past the end, over pages of another geometry, and up to the end. -/
def closeOf (s : State) (t n : Nat) : Op (Option (List (Nat × List Byte))) :=
  closePages (s.idle.self (s.l0 (curX 0)).ref) ⟨0x800, (okVal (curRec s) s.idle).getD 0, none⟩ t n ((List.range ((t + n - 1) / 64 + 1 - t / 64)).map (t / 64 + ·))
theorem wit_Curadv : curOk (curS 0 1 1 2 1 6 1 0) (curX 0) = true ∧ curOk (curS 1 1 1 2 1 6 0 0) (curX 0) = true ∧ curOk (curS 1 1 1 2 1 6 128 0) (curX 0) = true
    ∧ (let s := curS 1 1 1 2 0 7 1 0
       let s1 := okState (curRec s) s.idle
       curOk s (curX 0) = true ∧ okVal (closeOf s 1 1) s1 = some none ∧ (okState (closeOf s 1 1) s1).readyB s = true)
    ∧ (let s := curS 1 1 1 2 1 6 127 0
       let s1 := okState (curRec s) s.idle
       let s2 := okState (closeOf s 1 127) s1
       let w := curWrites (s.idle.self (s.l0 (curX 0)).ref) (((okVal (closeOf s 1 127) s1).bind id).getD [])
       curOk s (curX 0) = true ∧ ((okVal (closeOf s 1 127) s1).bind id).isSome = true ∧ (okVal w s2).isSome = true
         ∧ ((okState w s2).releaseCurq 0 0x800).selfReady s.c0 = true) := by decide +kernel

/-- CUROPEN on a record with no pages, of a commit past the end, of pages of another geometry, and at the first, the last and past the last slot. -/
def entryOf (s : State) : Op Nat := curRead (s.idle.self (s.l0 (curX 0)).ref) 0x840 64
def descOf (s : State) : Op Nat := readDesc (s.idle.self (s.l0 (curX 0)).ref) 0x8C0
theorem wit_Curopen : curOk (curS 0 0 0 0 0 6 0 0) (curX 0) = true
    ∧ (∀ commit ∈ [0, 127, 128, 129],
       let s := curS 0 commit 0 2 0 6 0 0
       let s1 := okState (curRec s) s.idle
       let s2 := okState (entryOf s) s1
       let s3 := okState (descOf s) s2
       curOk s (curX 0) = true ∧ (okVal (entryOf s) s1).isSome = true ∧ (okVal (descOf s) s2).isSome = true ∧ s3.readyB s = true
         ∧ (commit < 128 → ((okVal (pageOf s (commit / 64) true) s3).bind id).isSome = true)
         ∧ ((okState (pageOf s (commit / 64) true) s3).discardCurq 0 0x800 fun n => decide (commit ≤ n)).selfReady s.c0 = true) := by decide +kernel
/-! ### Tasks, loops and tensor IDs -/

/-- A kernel's task record of one block of one thread, and a loop's with its loop, body and guess records at 0x200, 0x300 and 0x380. -/
def recK : Nat := 0x0102 + 2 ^ 128 + 2 ^ 160 + 0x400 * 2 ^ 384
def recI : Nat := 0x0102 + 2 ^ 128 + 2 ^ 160
def recG : Nat := 0x0102 + 4 * 2 ^ 16 + 0x200 * 2 ^ 64 + 0x400 * 2 ^ 384
def recL : Nat := 0x0102 + 2 * 2 ^ 16 + 2 ^ 22 + 2 ^ 32 + 0x300 * 2 ^ 64 + 0x380 * 2 ^ 128 + 0x480 * 2 ^ 192 + 5 * 2 ^ 256 + 2 ^ 288
/-- A thread that submits the record r at an address. -/
def subS (va r : Nat) : State :=
  let s := bench [[(1, ⟨BitVec.ofNat 32 va, .n32⟩)]]
  let s := (((s.pagePut 0x100 (natBytes 128 r)).pagePut 0x200 (natBytes 128 recL)).pagePut 0x300 (natBytes 128 recI)).pagePut 0x380 (natBytes 128 recI)
  { s with tenants := s.tenants.modify 0 fun t => { t with vera := 0x0103_0101_0102, early := [0x100] } }
def subX : Dev := ops 21 1 0 0
def subRec (s : State) : Op Nat := readRecord (s.idle.self (s.l0 subX).ref) 0x100 128
def subExtra (s : State) (r : Nat) : Op (List Nat × List Nat × List Nat) := readExtras (s.idle.self (s.l0 subX).ref) r
def subLoop (s : State) : Op (Nat × List RecCopy × RecCopy × List Nat) := readLoop (s.idle.self (s.l0 subX).ref) 0x0102 0x200
def subOk (s : State) (r : Nat) : Bool :=
  s.oneB subX && (s.strandOf s.w0).isNone && okVal (subRec s) s.idle == some r && (okState (subRec s) s.idle).readyB s
def codesOf (r : Nat) (loopKind : Bool) : List Nat := recordCodes 0x0102 r false ++ if (fld r 19 16 == 4) != loopKind then [3] else []
/-- A thread that submits a record at an address that is no multiple of 128. -/
def subM : State := (subS 0x140 0).pagePut 0x140 (natBytes 128 recK)
theorem wit_Submission : (subM.oneB subX = true ∧ (subM.l0 subX).srcWN subX.a = 0x140
      ∧ (let o := readRecord (subM.idle.self (subM.l0 subX).ref) 0x140 128
         okVal o subM.idle = some recK ∧ (okState o subM.idle).readyB subM = true ∧ okVal (subExtra subM recK) (okState o subM.idle) = some ([], [], [])
           ∧ (okState (subExtra subM recK) (okState o subM.idle)).readyB subM = true))
    ∧ (∀ p ∈ [(recK + 0x100, false, 1), (recK + 2 ^ 29, false, 2)], subOk (subS 0x100 p.1) p.1 = true ∧ p.2.2 ∈ codesOf p.1 p.2.1
        ∧ ∀ m ∈ codesOf p.1 p.2.1, p.2.2 ≤ m)
    ∧ (∀ p ∈ [(recK, false), (recG, true), (recG, false), (recK, true)],
        let s := subS 0x100 p.1
        let s1 := okState (subRec s) s.idle
        let s2 := okState (subExtra s p.1) s1
        subOk s p.1 = true ∧ (∀ m ∈ codesOf p.1 p.2, 3 ≤ m) ∧ okVal (subExtra s p.1) s1 = some ([], [], []) ∧ s2.readyB s = true
          ∧ (codesOf p.1 p.2 = [] → (s2.liveTask? 0 0x100).isNone = true)
          ∧ (p = (recG, true) → (okVal (subLoop s) s2).map (fun y => (y.1, y.2.2.2)) = some (recL, []) ∧ (okState (subLoop s) s2).readyB s = true))
    ∧ codesOf recK false = [] ∧ codesOf recG true = [] ∧ codesOf recG false = [3] := by decide +kernel

/-- A thread beside a waiting task at 0x80 with n added successors; its own task is at 0. -/
def sigS (a b n : Nat) : State :=
  let s := bench [[(1, ⟨BitVec.ofNat 32 a, .n32⟩), (3, ⟨BitVec.ofNat 32 b, .n32⟩), (5, ⟨0, .n32⟩), (6, ⟨0x10000000, .n32⟩)]]
  let s : State := { s with tasks := s.tasks ++ [{ fetchTask with id := 7, addr := 0x80, phase := .waiting, count := 1, added := List.replicate n 0 },
    { fetchTask with id := 8, addr := 0x180, phase := .running }] }
  { s with tenants := s.tenants.modify 0 fun t => { t with early := List.replicate 100 0x200, evq := 1 } }
def sigX : Dev := ops 21 1 3 0
theorem wit_TaskSignals : (∀ p ∈ [(1, 0, 0), (0, 1, 0), (0, 0x80, 63), (0, 0x80, 64), (0x80, 0, 0), (0x280, 0, 0), (0x80, 0x80, 0)],
      (sigS p.1 p.2.1 p.2.2).oneB sigX = true ∧ ((sigS p.1 p.2.1 p.2.2).strandOf (sigS p.1 p.2.1 p.2.2).w0).isNone = true)
    ∧ (sigS 0 0 0).oneB (ops 21 5 5 0) = true ∧ ((sigS 0 0 0).l0 (ops 21 5 5 0)).srcWN (.v 5) = 2 ^ 60
    ∧ (((sigS 0 0x80 64).liveTask? 0 0x80).map fun t => (t.phase, t.added.length, t.ending, t.id)) = some (.waiting, 64, none, 7)
    ∧ (((sigS 0 0x80 64).liveTask? 0 0).map fun t => (t.phase, t.added.length, t.id)) = some (.running, 0, 1)
    ∧ ((sigS 0x280 0 0).liveTask? 0 0x280).isNone = true ∧ ((sigS 0x280 0 0).tenant 0).early.length < 16384
    ∧ ((sigS 0 0 0).tasks.map (·.id)).Nodup
    ∧ (((sigS 0x180 0 0).liveTask? 0 0x180).map fun t => (t.phase, t.kind, t.blocks, t.nextBlk, t.ending)) = some (.running, 0, 1, 1, none)
    ∧ (sigS 0x180 0 0).blocks.all (fun b => b.task != 8) = true
    ∧ ((sigS 0 0 0).taskOfWave (sigS 0 0 0).w0).isSome = true
    ∧ ((sigS 0 0 0).idle.postEvent 0 3 0 0 0 0).readyB (sigS 0 0 0) = true := by decide +kernel

/-- A loop of two strands of one carry word whose strand 0 this block runs, or whose guess routine it runs. -/
def loopV (sealed sealedIn : Bool) (v : Verdict) : Loop :=
  { newLoop 9 0 recL [⟨0x300, recI, [], []⟩] ⟨0x380, recI, [], []⟩ with
    carry := [⟨5, .i32⟩], width := 2
    strands := [{ newStrand [⟨5, .i32⟩] true with phase := .running, sealed := sealed, verdict := v }, newStrand [⟨5, .i32⟩] sealedIn] }
def loopS (strand : Option (Nat × Nat)) (guess : Option Nat) (lp : Loop) (a : Nat) : State :=
  let s := bench [[(1, ⟨BitVec.ofNat 32 a, .n32⟩)]]
  { s with loops := [lp], tasks := s.tasks ++ [{ fetchTask with id := 9, addr := 0x80, record := recG }], blocks := s.blocks.map fun b => { b with strand := strand, guessOf := guess } }
theorem wit_CarriesAndGuesses :
    (∀ m ∈ [0, 1, 7], (loopS none none (loopV false false .none) 0).oneB (ops 21 1 0 0 (BitVec.ofNat 12 m)) = true)
    ∧ (∀ p ∈ [(true, Verdict.match_), (true, .none), (false, .none)], ∀ m ∈ [0, 1, 16, 32],
        let s := loopS (some (9, 0)) none (loopV p.1 false p.2) 0
        s.oneB (ops 21 1 0 0 (BitVec.ofNat 12 m)) = true ∧ (s.block? s.w0.block).map (·.strand) = some (some (9, 0)) ∧ (s.loop? 9).isSome = true)
    ∧ (∀ q ∈ [false, true],
        let s := loopS (some (9, 0)) none (loopV false q .none) 0
        let s1 := s.idle.sealProduced 9 0
        s1.selfReady s.c0 = true ∧ (s1.block? s.w0.block).map (·.strand) = some (some (9, 0))
          ∧ (((s1.loop? 9).bind (·.strands[0]?)).map (·.verdict == .none)) = some (!q))
    ∧ (∀ q ∈ [false, true], ∀ m ∈ [0x10, 0x90, 0x20, 0x11],
        let s := loopS none (some 9) (loopV false q .none) 0
        s.oneB (ops 21 1 0 0 (BitVec.ofNat 12 m)) = true ∧ (s.block? s.w0.block).map (·.guessOf) = some (some 9) ∧ ((s.loop? 9).map (·.width)) = some 2) := by
  decide +kernel

/-- A tenant with tensor IDs on; v1 holds the tensor ID, v3 the address of a record. -/
def tenS (on tid wb : Nat) (full : Bool) : State :=
  let s := bench [[(1, ⟨BitVec.ofNat 32 tid, .n32⟩), (3, ⟨BitVec.ofNat 32 wb, .n32⟩)]]
  let s := s.pagePut 0x400 (natBytes 64 (0x1000 + (List.range 5).foldl (fun n i => n + 2 ^ (128 + 24 * i)) 0 + 0x0101 * 2 ^ 448))
  let s : State := { s with
    tasks := if full then (List.range 8).map fun i => { fetchTask with id := i + 1, bound := [(tid, i)] } else s.tasks }
  { s with tenants := s.tenants.modify 0 fun t => { t with
      vera := 0x0103_0101_0102, tid := BitVec.ofNat 64 (0x80000 + on)
      tensors := if full then [⟨tid, List.replicate 8 (some ⟨0, true, 0⟩), some 7, 0x7FFFFFFE⟩] else [] } }
def tenX : Dev := ops 21 1 3 0
def tenRec (s : State) : Op Nat := curRead (s.idle.self (s.l0 tenX).ref) 0x400 64
def tenPart (s : State) (j : Nat) : Op Unit := writeGlobal (s.idle.self (s.l0 tenX).ref) (0x400 + 16 * j) (natBytes 16 0) 0 0
/-- A thread that installs a good record from an address that is no multiple of 64, and a bad one. -/
def tenM (va ver : Nat) : State :=
  (tenS 1 1023 va false).pagePut va (natBytes 64 (0x1000 + (List.range 5).foldl (fun n i => n + 2 ^ (128 + 24 * i)) 0 + ver * 2 ^ 448))
theorem wit_TensorIdsCodes : ∀ p ∈ [(0x410, 0x0101, 0), (0x400, 0x0102, 1)], let s := tenM p.1 p.2.1
    let o := readRecord (s.idle.self (s.l0 tenX).ref) p.1 64
    s.oneB tenX = true ∧ (okVal o s.idle).map (tensorCode 0x0101) = some p.2.2 ∧ (okState o s.idle).readyB s = true := by decide +kernel
theorem wit_TensorIds : (tenS 0 0 0 false).oneB tenX = true ∧ (tenS 1 1024 0 false).oneB tenX = true ∧ (tenS 1 1023 0x401 false).oneB tenX = true
    ∧ (∀ f ∈ [false, true],
        let s := tenS 1 1023 0x400 f
        let s1 := okState (tenRec s) s.idle
        s.oneB tenX = true ∧ (s.taskOfWave s.w0).isSome = true ∧ (s.strandOf s.w0).isNone = true ∧ bit (s.tenant 0).tid.toNat 0 = true
          ∧ (s.freeTensorSlot 0 ((s.tenant 0).tensor 1023)).isNone = f
          ∧ (okVal (tenRec s) s.idle).map (tensorCode 0x0101) = some 0 ∧ s1.readyB s = true ∧ (s1.tenant 0).tensors = (s.tenant 0).tensors
          ∧ (let a := okState (tenPart s 0) s.idle
             let b := okState (tenPart s 1) a
             let c := okState (tenPart s 2) b
             let d := okState (tenPart s 3) c
             (okVal (tenPart s 0) s.idle).isSome = true ∧ (okVal (tenPart s 1) a).isSome = true ∧ (okVal (tenPart s 2) b).isSome = true
               ∧ (okVal (tenPart s 3) c).isSome = true ∧ d.readyB s = true)) := by decide +kernel

/-! ### Postings to the engines -/

/-- A thread whose open batch has n copies, and s sealed batches unfinished. -/
def cpyS (n sealed : Nat) : State :=
  let s := bench [[(1, ⟨0x40, .n32⟩), (3, ⟨0x80, .n32⟩), (5, ⟨0, .n32⟩), (7, ⟨0x100, .n32⟩), (9, ⟨1, .i32⟩), (10, ⟨17, .n32⟩)]]
  { s with
    blocks := s.blocks.map fun b => { b with scratchLen := 256 }
    waves := s.waves.map fun w => w.updThread 0 fun t => { t with openSize := n, openLeft := n, sealed := (List.range sealed).map fun i => ⟨i + 1, 1⟩, batch := sealed + 1 } }
def cpybX (mode : Nat) : Dev :=
  { dev (.v 21) (.v 1) (.v 3) (.v 5) 0 with len := .l128, e := .v 7, f := .k .zero, g := .k .zero, xmod := BitVec.ofNat 12 (0x10 + mode) }
theorem wit_Copies :
    (∀ n ∈ [0, 255, 256], ∀ mode ∈ [0, 1, 3], let s := cpyS n 15
      s.oneB (cpybX mode) = true ∧ (s.strandOf s.w0).isNone = true ∧ (s.block? s.w0.block).isSome = true ∧ (s.taskOfWave s.w0).isSome = true
        ∧ (s.l0 (cpybX mode)).srcWN (.v 7) = 0x100 ∧ (s.l0 (cpybX mode)).th.unfinished < 16 ∧ ((s.l0 (cpybX mode)).src (cpybX mode).f).val.toNat + 16 ≤ 256)
    ∧ (cpyS 0 0).oneB (ops 0 1 3 5 0x200) = true ∧ (cpyS 0 0).copies = [] ∧ (cpyS 0 0).w0.ref.core < 256
    ∧ (∀ p ∈ [(0, 16), (1, 15), (256, 0)], ∀ k ∈ [0, 1, 2, 3, 4], let s := cpyS p.1 p.2
        s.oneB (ops 21 9 0 0 (BitVec.ofNat 12 k)) = true ∧ fld (ops 21 9 0 0 (BitVec.ofNat 12 k)).m 2 0 = k
          ∧ (s.l0 (ops 21 9 0 0 0)).th.batch < 2 ^ 32 ∧ ((s.l0 (ops 21 9 0 0 0)).th.openLeft = 0
            ∨ ((s.l0 (ops 21 9 0 0 0)).th.sealed.filter fun b => b.left != 0).length < 16))
    ∧ (let s := cpyS 0 16
       ((s.l0 (ops 21 9 0 0)).src (.v 9)).tag = .i32 ∧ numOf ((s.l0 (ops 21 9 0 0)).src (.v 9)) = 1
         ∧ numOf ((s.l0 (ops 21 10 0 0)).src (.v 10)) = 17 ∧ s.oneB (ops 21 10 0 0) = true
         ∧ ((s.l0 (ops 21 9 0 0)).th.sealed.filter fun b => b.left != 0).length = 16) := by decide +kernel

/-- A FILL command at 0x400, and one of a bad version. -/
def nmS (va r : Nat) : State :=
  let s := (bench [[(1, ⟨BitVec.ofNat 32 va, .n32⟩)]]).pagePut 0x400 (natBytes 64 r)
  { s with tenants := s.tenants.modify 0 fun t => { t with vera := 0x0102 } }
def nmR : Nat := 0x0102 + 3 * 2 ^ 16 + 16 * 2 ^ 160 + 0x500 * 2 ^ 320 + 0x600 * 2 ^ 448
def nmRead (s : State) : Op Nat := curRead (s.idle.self (s.l0 subX).ref) 0x400 64
def nmM : State := (nmS 0x410 0).pagePut 0x410 (natBytes 64 nmR)
theorem wit_NearMemoryPosting : (nmM.oneB subX = true
      ∧ (let o := readRecord (nmM.idle.self (nmM.l0 subX).ref) 0x410 64; okVal o nmM.idle = some nmR ∧ (okState o nmM.idle).readyB nmM = true))
    ∧ ∀ p ∈ [(nmR, 0), (nmR + 1, 1), (nmR + 2 ^ 25, 2), (nmR + 2 ^ 320, 4)], let s := nmS 0x400 p.1
      s.oneB subX = true ∧ okVal (nmRead s) s.idle = some p.1 ∧ (okState (nmRead s) s.idle).readyB s = true ∧ (s.block? s.w0.block).isSome = true
        ∧ nmCode ((okState (nmRead s) s.idle).tenant 0).verTask p.1 false = p.2 := by decide +kernel

/-- Hart 0 at a host-extension instruction on the tables of log entry 36: x5 holds the address, x6 the length or limit. -/
def hostS (en x5 x6 : Nat) : State :=
  let s := (({ State.reset with mem := (fetchMemory []).writeBytes 0x28100 (natBytes 128 recK) } : State).fetchHart)
  { s with
    agenda := [], curHart := some 0
    tenants := s.tenants.modify 0 fun t => { t with ctl := BitVec.ofNat 64 en, vera := 0x0103_0101_0102 }
    harts := s.harts.modify 0 fun h => { h with x := (h.x.set 5 (BitVec.ofNat 64 x5)).set 6 (BitVec.ofNat 64 x6) } }
def hostWho (s : State) : Who := ({ s with curHart := none } : State).hartWho 0 false
def hostSelf (s : State) : Self := ({ s with curHart := none } : State).hartSelf 0
theorem wit_HostInstructions : (∀ en ∈ [0, 1, 5], (hostS en 0x100 0).curHart = some 0 ∧ (0 : Nat) < (hostS en 0x100 0).harts.length
      ∧ bit ((hostS en 0x100 0).tenant 0).ctl.toNat 0 = bit en 0)
    ∧ (let s := hostS 1 0x100 64
       let s0 : State := { s with curHart := none }
       (s.hart 0).htenant.toNat / 2 ^ 63 % 2 = 1 ∧ (s.tenant 0).phase ≠ .saving ∧ (okVal (submit (hostSelf s) .host 0x100) s0) = some 0
         ∧ (okVal (pinRange (hostWho s) .host true 0x100 64) s0).isSome = true
         ∧ (okVal (pinRange (hostWho s) .host false 0x100 64) s0).isSome = true
         ∧ (okVal (moveRange (hostWho s) none (some 0) true (s.hart 0).redo (fun r u => u.updHart 0 fun h => { h with redo := some r }) 0x100 64) s0).isSome = true
         ∧ (okVal (mqryWord (hostWho s) 0x100) s0).isSome = true)
    ∧ (∀ a ∈ [0x100, 0x140, 0x180], let s := hostS 1 a 0
       let s0 : State := { s with curHart := none }
       (okVal (readVa (hostSelf s) (hostSelf s).who.load a 1) s0) = some (if a = 0x100 then 2 else 0)
         ∧ (okState (readVa (hostSelf s) (hostSelf s).who.load a 1) s0).clock = s.clock)
    ∧ ((hostS 1 0 0).hart 0).mode = .u ∧ (State.reset.hart 0).mode ≠ .u := by decide +kernel

/-- A hart in M-mode of a machine right after reset, and what its own instructions need of memory and registers. -/
theorem wit_HartAccesses : (3 : Nat) < 64 ∧ State.reset.harts.length = 64 ∧ State.reset.inReset = false ∧ (State.reset.hart 3).exc = none
    ∧ (State.reset.hart 3).translates = false ∧ (State.reset.hart 3).mode = .m ∧ ((hostS 1 0 0).hart 0).mode = .u ∧ ((hostS 1 0 0).hart 0).exc = none
    ∧ (hostS 1 0 0).harts.length = 64 ∧ (hostS 1 0 0).inReset = false
    ∧ spaceOf (tenantReg 0 0) = 3 ∧ tenantReg 0 0 < 2 ^ 56 ∧ tenantReg 0 0 % 8 = 0
    ∧ (∀ va ∈ [0x1000, 0x1003], paLegal va = true ∧ poolLost State.reset va = false ∧ handoverHold State.reset va = false
        ∧ State.reset.poisoned va 4 = false ∧ State.reset.poisoned va 8 = false)
    ∧ State.reset.mem.wf = true ∧ State.reset.moves = [] ∧ State.reset.forwards = [] ∧ State.reset.latent = []
    ∧ bit (State.reset.tenant ((State.reset.hart 3).htenant.toNat % 64)).dirty.toNat 0 = false
    ∧ (let s := State.reset.updHart 3 fun h => { h with resv := some (0x1000 / 64) }
       (s.hart 3).resv = some (0x1000 / 64) ∧ s.harts.length = 64 ∧ (State.reset.hart 3).resv ≠ some (0x1000 / 64)) := by decide +kernel
/-! ### Dispatch, the ends of tasks and loops -/

/-- Tenant 0 on the tables of log entry 36, with versions chosen, tasks live, a kernel header at 0x100 and nothing running. -/
def evS (ts : List Task) (hdr : Nat) : State :=
  let s := State.reset
  { s with
    mem := ((fetchMemory []).writeBytes 0x28100 (natBytes 256 hdr)), tasks := ts, nextId := 20
    tenants := s.tenants.modify 0 fun t => { fetchTenant t with ctl := 0xFF0000001, vera := 0x0103_0101_0102, privsz := 0x400004 } }
/-- A header of ENTRY_OFF 256, one register, 16 accumulator rows, 2 barriers and 300 bytes of scratchpad. -/
def hdrG : Nat := 0x534B4C56 + 0x0103 * 2 ^ 32 + 256 * 2 ^ 64 + 2 ^ 192 + 16 * 2 ^ 208 + 2 * 2 ^ 224 + 300 * 2 ^ 256
def readyT (r : Nat) : Task :=
  { fetchTask with id := 9, addr := 0x80, phase := .ready, nextBlk := 0, started := 0, record := r, slice := 0 }
def kernR (code : Nat) : Nat := 0x0102 + 3 * 2 ^ 128 + 33 * 2 ^ 160 + code * 2 ^ 64 + 0x400 * 2 ^ 384
def okRead (p : TaskRead × State) : Option (Nat × State) := match p with | (.ok h, s) => some (h, s) | _ => none
theorem wit_BlocksStart :
    (∀ p ∈ [(0x101, 0), (0x100, 0), (0x100, hdrG)], ((evS [readyT (kernR p.1)] p.2).pickWave 0).map (fun q => (q.1.id, q.2.1)) = some (9, 0)
      ∧ ((evS [readyT (kernR p.1)] p.2).task? 9).map (·.colevel) = some 0)
    ∧ (let s := evS [readyT (kernR 0x100)] hdrG
       (okRead (s.readHeader (readyT (kernR 0x100)))).any (fun p => p.1 == hdrG && p.2.fits 0 (readyT (kernR 0x100)) hdrG && decide (p.2.slices.length = 4)
         && (p.2.task? 9).isSome && decide (p.2.tenants.length = 64)) = true)
    ∧ HeaderGood 0x0103 hdrG 33 ∧ ¬ HeaderGood 0x0103 0 33 := by
  refine ⟨by decide +kernel, by decide +kernel, ?_, ?_⟩ <;> unfold HeaderGood <;> decide +kernel

/-- A gang of so many blocks at level 1 with a header, ready since a clock; a host, a near-memory and a copy task. -/
def gangR (blocks code : Nat) : Nat := 0x0102 + blocks * 2 ^ 128 + 33 * 2 ^ 160 + code * 2 ^ 64 + 2 ^ 22 + 0x400 * 2 ^ 384
def launchH (s : State) (t : Task) : Option (Nat × State) := match s.launchOf t with | (.header h, s1) => some (h, s1) | _ => none
theorem wit_Gangs : (∀ p ∈ [(8, false), (2000, true)],
      let t := readyT (gangR p.1 0x100)
      let s := evS [t] hdrG
      t.colevel = 1 ∧ (s.pickWave 0).map (fun q => q.1.id) = some 9
        ∧ (launchH s t).any (fun q => gangTooBig t q.1 == p.2 && (p.2 || (placeGang 9 q.1 (levelCores 1 0) t.blocks q.2).isSome)) = true)
    ∧ (let t := readyT (gangR 8 0x100)
       let s : State := { evS [t] hdrG with clock := 65536 }
       t.kind = 0 ∧ 65536 ≤ s.clock - t.readyAt ∧ (levelCores 1 0).head? = some 0 ∧ t.slice ∈ s.dieSlices (dieOfCore 0)
        ∧ (levelCores 1 0).all (fun c => !s.reserved c 9) = true) := by decide +kernel

def hostR : Nat := 0x0102 + 2 ^ 16 + 0x400 * 2 ^ 384
def nmTR (code : Nat) : Nat := 0x0102 + 2 * 2 ^ 16 + code * 2 ^ 64 + 0x400 * 2 ^ 384
def copyR : Nat := 0x0102 + 3 * 2 ^ 16 + 0x100 * 2 ^ 64 + 0x400 * 2 ^ 384
def copyD : Nat := 0x0102 + 0x200 * 2 ^ 192
theorem wit_OtherTasks :
    ((evS [readyT hostR] 0).pickKind 0 1 (fun _ => true)).map (fun p => p.1.id) = some 9
    ∧ (∀ p ∈ [(0x100, nmR, nmR), (0x100, nmR + 1, nmR + 1), (0x110, nmR * 2 ^ 128, nmR)], let s := evS [readyT (nmTR p.1)] p.2.1
        (s.pickKind 0 2 s.unheld).map (fun p => p.1.id) = some 9
          ∧ (okRead (s.taskRead (readyT (nmTR p.1)) 3 p.1 64)).any (fun q => q.1 == p.2.2 && (q.2.task? 9).isSome && decide (q.2.tenants.length = 64)) = true)
    ∧ (∀ d ∈ [copyD, copyD + 2 ^ 42], let s := evS [readyT copyR] d
        (s.pickKind 0 3 (fun t => !s.mustWait t.strand && s.unheld t)).map (fun p => p.1.id) = some 9
          ∧ (okRead (s.taskRead (readyT copyR) 3 0x100 64)).any (fun p => p.1 == d && (p.2.task? 9).isSome) = true) := by decide +kernel

/-- A finished kernel whose completion wakes one task and would cancel another. -/
def endT (e : Option TaskEnd) : Task := { fetchTask with id := 9, addr := 0x80, record := recK, succs := [0x100, 0x180], ending := e }
def endS (e : Option TaskEnd) (aborting : Bool) : State :=
  let w : Task := { fetchTask with id := 10, addr := 0x100, phase := .waiting, count := 2, waitsOn := [9] }
  evS [{ endT e with aborting := aborting }, w, { w with id := 11, addr := 0x180, waitsOn := [], count := 1 }] 0
def instS (e : Option TaskEnd) : State :=
  let s := evS [{ endT e with guessOf := some 12 }, { fetchTask with id := 12, record := recG }] 0
  { s with loops := [{ loopV false false .none with task := 12 }] }
theorem wit_TasksEnd : (∀ e ∈ [none, some (⟨4, 0, 0, 0⟩ : TaskEnd)], let s := endS e false
      (s.task? 9).isSome = true ∧ (endT e).strand = none ∧ (endT e).guessOf = none ∧ (endT e).kind = 0 ∧ (endT e).phase = .running
        ∧ (endT e).blocks ≤ (endT e).nextBlk ∧ s.blocks = [] ∧ (s.tenant 0).rest = [] ∧ (endT e).pending = []
        ∧ (s.tenant 0).early.length + 2 ≤ 16384
        ∧ (endT e).saved = 0 ∧ (s.devStore 0 0x400 (natBytes 64 1)).1 = .done ∧ ((s.devStore 0 0x400 (natBytes 64 1)).2.tasks.map (·.id)) = [9, 10, 11])
    ∧ (∀ e ∈ [none, some (⟨4, 0, 0, 0⟩ : TaskEnd)], (instS e).mayComplete { endT e with guessOf := some 12 } = true ∧ ((instS e).loop? 12).isSome = true
        ∧ ((instS e).task? 9).map (fun t => (t.strand, t.guessOf)) = some (none, some 12))
    ∧ ((endS none true).task? 9).map (·.aborting) = some true := by decide +kernel

/-- A ready loop with a state block at 0x480, of the iteration and tag given. -/
def loopT : Task := readyT recG
def startS (b : Nat) : State :=
  let s := evS [loopT] 0
  { s with mem := s.mem.writeBytes 0x28480 (natBytes 128 b), loops := [newLoop 9 0 recL [⟨0x300, recI, [], []⟩] ⟨0x380, recI, [], []⟩] }
def strandS : State :=
  let s := evS [{ loopT with phase := .running }] 0
  { s with loops := [{ loopV false true .none with guessEnd := none }] }
theorem wit_LoopsStart : (∀ b ∈ [0, 5 * 2 ^ 640, 4 * 2 ^ 640, 15 * 2 ^ 512], let s := startS b
      (s.pickKind 0 4 (fun _ => true)).map (fun p => p.1.id) = some 9 ∧ (s.loop? 9).isSome = true
        ∧ (okRead (s.taskRead loopT 4 0x480 128)).any (fun p => p.1 == b && (p.2.task? 9).isSome && (p.2.loop? 9).isSome) = true)
    ∧ fld recL 255 192 = 0x480 ∧ fld recL 26 22 ≤ 16 ∧ fld recL 19 16 ≠ 0
    ∧ (let s := strandS
       (s.loop? 9).any (fun lp => lp.strands[1]?.any (fun x => x.phase == .notStarted && x.sealedIn) && lp.strands[0]?.any (fun x => x.phase == .running)
         && lp.ending == none && !lp.hold && !lp.cancel && lp.guessEnd != some false) = true ∧ (s.task? 9).isSome = true) := by decide +kernel

/-- A round of which strand 0 is confirmed and done and strand 1 has not, with its loop going on, being cancelled, failed or at its end. -/
def doneS (iter : Nat) (cancel : Bool) (e : Option TaskEnd) (v : Verdict) : State :=
  let s := evS [{ loopT with phase := .running }] 0
  let lp := loopV true true v
  { s with
    mem := s.mem.writeBytes 0x28480 (natBytes 128 0)
    loops := [{ lp with
      iter := iter, cancel := cancel, ending := e, guessEnd := some true
      strands := lp.strands.mapIdx fun i x => { x with phase := if i = 0 then .completed else .rejected } }] }
theorem wit_LoopsCommit : ∀ p ∈ [(0, false, none, Verdict.mismatch), (4, false, none, .mismatch), (0, true, none, .mismatch),
      (0, false, some (⟨3, 5, 0, 0⟩ : TaskEnd), .mismatch), (0, false, none, .exited)],
    let s := doneS p.1 p.2.1 p.2.2.1 p.2.2.2
    (s.loop? 9).any (fun lp => lp.width != 0 && lp.guessEnd.isSome && !lp.hold && lp.confirmed 0 && !lp.confirmed 1
      && lp.strands.all fun y => y.phase == .completed || y.phase == .rejected) = true
      ∧ (let lp := loopV true true p.2.2.2
         let o : Op Unit := do publish 9 0; commitCursors lp 0; writeLoopBlock 9 0; writeLoopBlock 9 1
         (okVal o s).isSome = true ∧ ((okState o s).loop? 9).isSome = true ∧ ((okState o s).task? 9).isSome = true) := by
  decide +kernel
/-! ### Homes, translations, moves and faults -/

/-- Hub 0 keeps frame state at 0x60000, free rings at 0x40000 with one frame of LPD6, and a release ring; frame 0x28 holds the page of address 0. -/
def hubS (pte : Nat) (raw : Nat) (ms : List Move) (full : Bool) : State :=
  let s := evS [] 0
  let m := (((s.mem.writeBytes 0x40200 (natBytes 16 (1 + 2 ^ 32 + 0x41000 * 2 ^ 64))).writeBytes 0x41000 (natBytes 8 (2 ^ 54 + 0x5000))).writeBytes
    0x40280 (natBytes 16 ((if full then 1 else 0) + 2 ^ 32 + 0x42000 * 2 ^ 64))).writeBytes 0x20000 (natBytes 8 pte)
  { s with
    mem := m, moves := ms
    hubs := s.hubs.modify 0 fun h => { h with
      fst := List.replicate 10 0x60001, rings := 0x40001, migctl := 1
      frames := [⟨0x28, 0, false, true, 0x20000, 0, 0, raw, false, decide (ms.any fun m => m.phase != .queued)⟩] } }
def lineE (st : DirState) (own : Option Holder) (d : BitVec 8) : State := { hubS 0x2806F 0 [] false with dir := [⟨0xA00, st, own, d, false, 0⟩] }
def homeOk (s : State) : Bool :=
  paLegal (0xA00 * 64) && s.forwards.isEmpty && (s.cuff? (0xA00 * 64)).isNone && !poolLost s (0xA00 * 64) && !handoverHold s (0xA00 * 64)
    && homeHere s (0xA00 * 64) && decide (s.dir.length < 16) && decide (s.hubs.length = 4) && (s.frame? (0xA00 * 64 / 4096)).any fun f => !f.frozen
theorem wit_HomeRequests : (∀ raw ∈ [0, 65535], homeOk (hubS 0x2806F raw [] false) = true ∧ ((hubS 0x2806F raw [] false).dirEntry? 0xA00).isNone = true)
    ∧ ([(DirState.s, none, (3 : BitVec 8)), (.e, some (Holder.die 1), 2), (.m, some (.die 1), 2), (.o, some (.die 1), 3)].all fun p =>
        homeOk (lineE p.1 p.2.1 p.2.2) && ((lineE p.1 p.2.1 p.2.2).dirEntry? 0xA00).isSome) = true := by decide +kernel

theorem wit_TranslationEvents :
    (∀ pte ∈ [0x2800F, 0x2806F], ∀ a ∈ [Access.load, .store],
      let s := hubS pte 0 [] false
      (s.tlbFind (s.walkWho 0 0) 0).isNone = true ∧ leafAt s (s.tenant 0).root.toNat a 0 = some ⟨pte, 0x20000, 0, 0⟩ ∧ bit pte 62 = false
        ∧ s.mem.wf = true ∧ spaceOf 0x20000 ≠ 2 ∧ s.moves = [] ∧ bit (s.tenant 0).dirty.toNat 0 = false ∧ bit (s.tenant 0).root.toNat 0 = true)
    ∧ bit ((hubS 0 0 [] false).hub 3).tlbinv.toNat 0 = false ∧ (3 : Nat) < (hubS 0 0 [] false).hubs.length
    ∧ (∀ pte ∈ [0x2806F, 0x280EB], leafAt (hubS pte 0 [] false) ((hubS pte 0 [] false).tenant 0).root.toNat .store 0 = some ⟨pte, 0x20000, 0, 0⟩
        ∧ bit ((hubS pte 0 [] false).tenant 0).ddw.toNat 0 = false) := by decide +kernel

def mv (p : MovePhase) (copied : Nat) (held : List HeldReq) : Move :=
  { newMove 5 0 0x28 0 1 0 none false none 0 with phase := p, dest := if p = .queued then none else some (2 ^ 42 + 5), copied := copied, held := held }
def heldQ (n t : Nat) : List HeldReq := List.replicate n ⟨.thread ⟨⟨0, 0⟩, 0⟩, 0xA00, true, t⟩
theorem wit_MoveEvents :
    (∀ pte ∈ [0x2806F, 0x3006F],
      let s := hubS pte 0 [mv .queued 0 []] false
      let r := s.takeDest 0 1 0 none
      s.runningMoves 0 < 16 ∧ (s.moves.find? fun m => m.hub == 0 && m.phase == .queued && m.behind.isNone).any (fun m => m.id == 5 && s.startableMove m) = true ∧ r.1 = some (2 ^ 42 + 5)
        ∧ (r.2.frame? 0x28).any (fun f => r.2.leafHolds f == decide (pte = 0x2806F) && f.ppn == 0x28) = true ∧ r.2.mem.wf = true
        ∧ (r.2.releaseFrame 0 0 (2 ^ 42 + 5)).isSome = true)
    ∧ (∀ n ∈ [0, 63, 64],
        let s := hubS 0x8000000002806F 0 [mv .copying n []] false
        ((s.move? 5).map fun m => (m.phase, m.copied, m.dest)) = some (.copying, n, some (2 ^ 42 + 5)) ∧ s.mem.wf = true
          ∧ s.tenants.all (fun t => !bit t.dirty.toNat 0) = true ∧ s.usedForwards 0 < 256 ∧ s.latent = [] ∧ (mv .copying n []).retryAt ≤ s.clock
          ∧ poolLost s (0x28 * 4096 + 64 * n) = false)
    ∧ (let s := hubS 0x8000002806F 0 [mv .cuff 64 []] false
       (s.frame? 0x28).isSome = true ∧ s.forwards = [] ∧ covers 0x28 0 (0x20000 / 4096) = false)
    ∧ (let s := hubS (2 ^ 63 + 0x2806F) 0 [mv .cuff 64 []] false; (s.frame? 0x28).any (fun f => s.leafHolds f) = true)
    ∧ (let s := hubS (2 ^ 63 + 0x2806F) 0 (mv .copying 64 [] :: List.replicate 256 { mv .installed 64 [] with id := 7, src := 0x29 }) false
       256 ≤ s.usedForwards 0 ∧ (s.frame? 0x28).any (fun f => s.leafHolds f) = true ∧ (s.move? 5).isSome = true)
    ∧ (∀ p ∈ [(65, 0, 0), (1, 0, 5000)],
        let s : State := { hubS 0x2806F 0 [mv .cuff 64 (heldQ p.1 p.2.1)] false with clock := p.2.2 }
        (64 < (heldQ p.1 p.2.1).length ∨ (heldQ p.1 p.2.1).any fun q => decide (5000 ≤ s.clock - q.time)))
    ∧ (let s := hubS 0x2806F 0 [mv .installed 64 []] false
       (s.releaseFrame 0 0 0x28).any (fun u => (u.frame? 0x28).isSome && decide (u.hubs.length = 4)) = true) := by decide +kernel

/-- A thread with a fault of its own that waits for its handler, with and without one; fault entries of tenant 0 at hub 0. -/
def pendF : FInfo := { code := 8, cause := 63, access := 0, addr := 0x1000, lanes := 1 }
def pendS (trap : Dword) : State :=
  let s := priv1
  { s with
    cur := none, tenants := s.tenants.modify 0 fun t => { t with trap := trap }
    waves := s.waves.map fun w => w.updThread 0 fun t => { t with status := .pending pendF } }
def pendDo (trap : Dword) : Op Unit := writeFrameTo ((pendS trap).self ⟨⟨0, 0⟩, 0⟩) ((pendS trap).w1 ⟨⟨0, 0⟩, [], 0⟩) 0
  (frameBits ((pendS trap).w1 ⟨⟨0, 0⟩, [], 0⟩) (((pendS trap).thread? ⟨⟨0, 0⟩, 0⟩).getD (newThread 0 0 0)) pendF)
theorem wit_HandlerEntry : ∀ trap ∈ [0x41, 0],
    let s := pendS (BitVec.ofNat 64 trap)
    ((s.thread? ⟨⟨0, 0⟩, 0⟩).map (·.status)) = some (.pending pendF) ∧ (s.wave? ⟨0, 0⟩).any (fun w => !w.parked && decide (64 ≤ w.privBytes)) = true
      ∧ (s.block? 2).isSome = true ∧ (s.task? 1).map (·.aborting) = some false ∧ bit (s.tenant 0).trap.toNat 0 = decide (trap = 0x41)
      ∧ (okVal (pendDo (BitVec.ofNat 64 trap)) s).isSome = true := by decide +kernel

def fltS (tail : Nat) : State :=
  let s := pendS 0
  { s with
    faults := [⟨30, 0, 0, some 4095, 0, 1, 0, pendF, false, 0, false⟩]
    waves := s.waves.map fun w => w.updThread 0 fun t => { t with status := .parked 30 pendF none }
    tenants := s.tenants.modify 0 fun t => { t with fq := 1, fqhead := BitVec.ofNat 64 (tail * 2 ^ 16) } }
theorem wit_FaultEvents :
    (∀ tail ∈ [0, 63, 64], let s := fltS tail
      (s.faults.find? fun e => e.hub == 0 && e.tenant == 0 && !e.written && e.slot.isSome).map (·.id) = some 30
        ∧ (s.devStore 0 (32 * (tail % 64)) (natBytes 32 1)).1 = .done ∧ (s.devStore 0 (32 * (tail % 64)) (natBytes 32 1)).2.faults = s.faults
        ∧ (s.devStore 0 (32 * (tail % 64)) (natBytes 32 1)).2.tenants = s.tenants ∧ s.tenants.length = 64)
    ∧ (∀ k ∈ [0, 1], let v := 2 ^ 31 + k * 2 ^ 29 + 4095
        bit ((fltS 0).hub 0).fltres.toNat 31 = false ∧ fld v 30 29 = k
          ∧ ((fltS 0).faults.find? fun e => e.hub == 0 && e.tenant == fld v 17 12 && e.slot == some (fld v 11 0)).map (·.id) = some 30
          ∧ ((fltS 0).thread? ⟨⟨0, 0⟩, 0⟩).map (·.status) = some (.parked 30 pendF none))
    ∧ (let s := hubS 0x2806F 7 [] false
       bit (s.hub 0).fstq.toNat 45 = false ∧ (s.frame? 0x28).map (·.ppn) = some 0x28 ∧ (homeOf (0x28 * 4096)).hub = 0 ∧ paLegal (0x28 * 4096) = true
        ∧ (homeOf (2 ^ 40 * 4096)).hub = 1 ∧ (homeOf (2 ^ 30 * 4096)).hub = 0 ∧ paLegal (2 ^ 30 * 4096) = false) := by decide +kernel
theorem wit_parked : Alone (fltS 0) ⟨⟨0, 0⟩, 0⟩ := alone_of (by decide +kernel) (by decide +kernel)
/-! ### The engines' own events -/

/-- A BF16 tensor of one element, a posted pass over it, and its plane. -/
def tenR : Nat := 0x800 + (List.range 5).foldl (fun n i => n + 2 ^ (128 + 24 * i)) 0 + 3 * 2 ^ 376 + 0x0101 * 2 ^ 448
def matPoster : Poster :=
  { tenant := 0, task := 1, block := some 2, thread := some ⟨⟨0, 0⟩, 0⟩, core := 0, die := 0, root := 0x8001, strand := none, pc := 0 }
def passO : MatOp :=
  { id := 5, by_ := matPoster, engine := 0, kind := .mpass, ticket := 1, postedAt := 0, off := 0, pb := 2 ^ 112, sem := 0, scope := 0
    snapA := some ⟨1, 0, 0, some tenR⟩, snapB := some ⟨2, 0, 0, some tenR⟩, phase := .waiting, code := 0, flags := 0, rowsDone := 0, chunk := 0
    vPass := false, probs := [], begun := false, qrows := [], work := [], park := .clear }
def passP : PlaneId := ⟨0, 2, 0, 0, 0, 0⟩
def planeZ : Plane := ⟨passP, 3, List.replicate 256 (List.replicate 8 ⟨List.replicate 32 0, scOne⟩), List.replicate 256 (List.replicate 8 0)⟩
def engS (e : Engine) (o : MatOp) : State :=
  let s := memS 0 0
  { s with
    engines := s.engines.set 0 e, mats := [o], cur := none
    blocks := s.blocks.map fun b => { b with accRows := List.replicate 4 ⟨0, List.replicate 256 0⟩ } }
def granted : State :=
  let s := engS ⟨some planeZ, none, none, [], none⟩ passO
  (s.updEngine 0 fun g => { g with run := [5] }).updMat 5 fun o => { o with begun := true, work := [] }
theorem wit_MatrixEvents :
    (let s := engS ⟨none, none, none, [], none⟩ passO
     (s.engine 0).loading = none ∧ (s.arbiter (s.mats.filter fun o => o.waits 0 && o.park.entry.isNone)).map (·.id) = [5]
      ∧ passO.planeId? = some passP ∧ (s.engine 0).holds passP = false)
    ∧ (let s := engS ⟨none, none, some (passP, 5), [], none⟩ passO
       (s.engine 0).loading = some (passP, 5) ∧ (s.mat? 5).isSome = true ∧ passO.plane?.map (fun q => (q.1, q.2.1)) = some (passP, tenR)
        ∧ (passO.plane?.any fun q => (okVal (loadPlane (passO.by_.self 5) passP tenR q.2.2) s).isSome) = true)
    ∧ (let s := engS ⟨some planeZ, none, none, [], none⟩ passO
       (s.engine 0).run = [] ∧ s.joiners 0 = [5] ∧ s.kindBad passO = false ∧ passO.rowCount = 1 ∧ passO.fmtA.isSome = true ∧ pbAcc0 passO.pb < 4
        ∧ (s.engine 0).shadow.isNone = true
        ∧ (passO.fmtA.any fun f => (okVal (passRow (passO.by_.self 5) passO f 0) granted).isSome
            && (let s2 := okState (passRow (passO.by_.self 5) passO f 0) granted
                decide (s2.mats.length = 1) && (s2.engine 0).run == [5] && decide (s2.blocks = granted.blocks))) = true)
    ∧ (let s := engS ⟨some planeZ, none, none, [5], none⟩ { passO with phase := .inRun }
       (s.engine 0).run ≠ [] ∧ s.joiners 0 = [])
    ∧ (let o : MatOp := { passO with kind := .mzro, pb := 4 * 2 ^ 32 }
       let s := engS ⟨none, none, none, [], none⟩ o
       s.rowsFree o = true ∧ (s.blockWaves 2).length = 1 ∧ (s.block? 2).map (·.id) = some 2 ∧ o.plainRows = 4 ∧ o.plainRow = 0)
    ∧ (∀ c ∈ [0, 3], let o : MatOp := { passO with phase := .streamed, code := c }
        (engS ⟨none, none, none, [], none⟩ o).blocks.all (fun b => b.scratch.wf) = true ∧ pbSwEn o.pb = false ∧ o.kind.isPass = true) := by
  decide +kernel

/-- The array's checks pass where nothing is in error. -/
theorem wit_rows : ((passO.fmtA.map fun f => (arrRow f f passO.tauA (recTau tenR) none (List.replicate 8 ⟨List.replicate 32 0, scOne⟩) planeZ.pairs).parity.isNone)) = some true := by
  decide +kernel
/-- A thread whose open batch holds one copy, of 16 bytes from 0x200 to 0x300 of its page, or of a box. -/
def laneC (started : Bool) : Copy :=
  { id := 6, hub := 0, by_ := matPoster, kind := .lane 0x300 0x200, sw := none, sem := 0, scope := 0, batch := some 1, inTask := false, started := started
    bytes := if started then 16 else 0, next := 0, page := 0, code := 0, flags := 0, failVa := 0, park := .clear }
def boxC (rec_ : Option Nat) (image mode : Nat) (started : Bool) : Copy :=
  { laneC started with kind := .box (some ⟨1, 0, 0, rec_⟩) 1 0 ((List.range 5).foldl (fun n i => n + 2 ^ (24 * i)) 0) image 16 0 mode false false, bytes := 0 }
def copyS (cp : Copy) : State :=
  let s := memS 0 0
  { s with copies := [cp], cur := none, waves := s.waves.map fun w => w.updThread 0 fun t => { t with openLeft := 1, openSize := 1 } }
def ddwOut (s : State) : Option Flags :=
  match (boxC (some tenR) 0x0 2 true).geom? with
  | some g => okVal (ddwPage (matPoster.self 6) g 0) s
  | none => none
def nmC (started inTask : Bool) (r : Nat) : NmCmd :=
  { id := 6, by_ := { matPoster with block := none, thread := none }, record := r, inTask := inTask, started := started, clock := 0
    frames := [], next := 0, sum := 0, flags := 0, poisons := 0, reason := 0, failVa := 0, park := .clear }
def nmEv (m : NmCmd) : State := { memS 0 0 with cur := none, nms := [m] }
theorem wit_CopyEvents :
    (∀ cp ∈ [laneC false, boxC none 0x100 0 false, boxC (some tenR) 0x100 0 false], ((copyS cp).copy? 6).map (·.started) = some false)
    ∧ (let s := copyS (laneC true)
       s.mem.wf = true ∧ s.opBad 6 = 0 ∧ s.mapB (matPoster.self 6) .engineRead 0x200 0x28200 0x2806F = true ∧ s.mapB (matPoster.self 6) .engineWrite 0x300 0x28300 0x2806F = true
        ∧ s.poisoned 0x28200 16 = false ∧ ((s.thread? ⟨⟨0, 0⟩, 0⟩).map fun t => (t.batch, t.status)) = some (1, .run) ∧ (s.wave? ⟨0, 0⟩).map (·.block) = some 2
        ∧ bit (s.tenant 0).dirty.toNat 0 = false ∧ (s.waves.all fun w => w.threads.all fun v => v.status == .run) = true)
    ∧ (let s := copyS (boxC (some tenR) 0 2 true)
       (boxC (some tenR) 0 2 true).paged = true ∧ ((boxC (some tenR) 0 2 true).geom?.map fun g => g.pages) = some 1 ∧ (ddwOut s).isSome = true)
    ∧ (∀ r ∈ [nmR, nmR - 0x500 * 2 ^ 320 + 0x40 * 2 ^ 320], (okVal (nmPages (matPoster.self 6) r) (nmEv (nmC false false r))).any (fun ps =>
        ps.all fun a => ps.all fun b => spaceOf a.2 == 0 && (homeOf a.2).hub == (homeOf b.2).hub && (homeOf a.2).place == (homeOf b.2).place) = true)
    ∧ (let s := nmEv (nmC true true nmR)
       s.mem.wf = true ∧ fld nmR 19 16 = 3 ∧ fld nmR 191 160 = 16 ∧ fld nmR 383 320 % 64 = 0 ∧ (s.task? 1).map (·.ending) = some none
        ∧ s.mapB ((nmC true true nmR).by_.self 6) .engineWrite 0x500 0x28500 0x2806F = true) := by decide +kernel

/-! ### Contexts, saves, registers, partitions -/

def ctxS (vera verb ctl : Nat) : State :=
  { State.reset with tenants := State.reset.tenants.modify 63 fun t => { t with vera := BitVec.ofNat 64 vera, verb := BitVec.ofNat 64 verb, ctl := BitVec.ofNat 64 ctl } }
theorem wit_ContextEvents :
    (∀ p ∈ [(0x0200_0103_0101_0102, 0x0100_0100, 0), (0, 0, 0), (0, 0, 4)], let s := ctxS p.1 p.2.1 p.2.2
      (63 : Nat) < s.tenants.length ∧ (s.tenant 63).flr = decide (p.2.2 = 4) ∧ (s.tenant 63).en = false ∧ s.peersUp.all (fun b => !b) = true ∧ (s.tenant 63).phase = .idle)
    ∧ (∀ i < 6, let t := (ctxS 0x0200_0103_0101_0102 0x0100_0100 0).tenant 63
        let c := [fld t.vera.toNat 15 0, fld t.vera.toNat 31 16, fld t.vera.toNat 47 32, fld t.vera.toNat 63 48, fld t.verb.toNat 15 0, fld t.verb.toNat 31 16].getD i 0
        Config.versionLow.getD i 0 ≤ c ∧ c ≤ Config.versionHigh.getD i 0)
    ∧ bit (1 : Dword).toNat 0 = true ∧ bit (1 : Dword).toNat 2 = false ∧ bit (4 : Dword).toNat 2 = true ∧ bit (4 : Dword).toNat 0 = false := by decide +kernel

/-- A block at its stop under a save, with its image's record in the save area at address 0. -/
def saveS : State :=
  let s := bench [[]]
  { s with
    cur := none
    tenants := s.tenants.modify 0 fun t => { t with phase := .saving, pre := 0x00000001_00000001, savePos := 128 }
    blocks := s.blocks.map fun b => { b with safeDist := 1 }
    waves := s.waves.map fun w => { w with allot := 8, threads := w.threads.map fun t => { t.resized 8 with stopped := true } } }
def idleS (ts : List Task) : State :=
  let s := evS ts 0
  { s with tenants := s.tenants.modify 0 fun t => { t with save := 0x100 } }
theorem wit_SaveAndRestore :
    (let s := saveS
     (s.block? 2).any (fun b => (s.taskOf b).any fun t => s.preemptable b t && !t.aborting) = true ∧ (s.tenant 0).phase = .saving
      ∧ (let s1 := s.saveMats 2
         (s1.block? 2).any (fun b => b.restarting == 0 && b.scratchBad.isEmpty
            && (s1.imageWrite 0 (s1.tenant 0).savePos (b.image 0 (s1.blockWaves 2))).1
            && decide ((s1.imageWrite 0 (s1.tenant 0).savePos (b.image 0 (s1.blockWaves 2))).2.tenants.length = 64)) = true
          ∧ s1.faults = [] ∧ s1.drained 2 = true ∧ (s1.waves.all fun w => w.threads.all fun x => x.status == .run) = true))
    ∧ bit ((idleS []).tenant 0).pre.toNat 0 = false ∧ bit (1 : Dword).toNat 0 = true ∧ fld (1 : Dword).toNat 3 2 = 0 ∧ ((idleS []).tenant 0).flr = false
    ∧ (idleS []).tenantLoops 0 = [] ∧ ((idleS []).waves.map (·.ref)).Nodup ∧ fld (5 : Dword).toNat 3 2 = 1 ∧ ((idleS []).tenant 0).phase = .idle
    ∧ (idleS [fetchTask]).tenantTasks 0 ≠ [] ∧ (idleS []).tenantTasks 0 = [] ∧ (idleS []).tenantBlocks 0 = []
    ∧ (okVal (imageRead 0 0 128) ((idleS []).preFields 0 5)).map (fun h => h.map fun h => fld (leNat h) 31 0) = some (some 0) := by decide +kernel

theorem wit_RegisterEvents :
    (63 : Nat) < State.reset.harts.length ∧ (63 : Nat) < State.reset.tenants.length ∧ State.reset.tenants.length = 64 ∧ (State.reset.hart 0).mode ≠ .u
    ∧ ((State.reset.fetchHart).hart 0).mode = .u
    ∧ (let s := evS [{ readyT hostR with phase := .running }] 0
       let s : State := { s with tenants := s.tenants.modify 0 fun t => { t with taken := [0x80], hostQ := [0x100] } }
       (s.liveTask? 0 0x80).map (fun t => (t.id, t.ending)) = some (9, none) ∧ 0x80 ∈ (s.tenant 0).taken ∧ (s.tenant 0).hostQ = [0x100] ∧ 0x100 ∉ (s.tenant 0).taken)
    ∧ (okVal (areaRead 0 4 0 160) ((evS [] 0).updTenant 0 fun t => { t with perfsel := (t.perfsel &&& 0xF00000000000003F#64) ||| (0 &&& 0x0FFFFFFFFFFFFFC0#64) })).any (·.isSome) = true
    ∧ bit (1 : Dword).toNat 0 = true := by decide +kernel

/-- A tenant of partition 1, a change under way that is over, and a wave whose thread waits at a barrier as its sample falls due. -/
def partS (ctl part : Nat) : State :=
  { State.reset with modPart := BitVec.ofNat 64 part, tenants := State.reset.tenants.modify 0 fun t => { t with ctl := BitVec.ofNat 64 ctl } }
def sampS : State :=
  let s := single
  { s with
    cur := none, clock := 256, tenants := s.tenants.modify 0 fun t => { t with vis := 3 }
    waves := s.waves.map fun w => w.updThread 0 fun t => { t with status := .waiting (.barrier 0 0 false) 8 } }
theorem wit_PartitionsAndSamples :
    (∀ p ∈ [(0, 1), (0x4000001, 0), (1, 0), (0, 0)], bit (partS p.1 p.2).modPart.toNat 0 = decide (p.2 = 1) ∧ (partS p.1 p.2).loops = []
      ∧ ((partS p.1 p.2).waves.map (·.ref)).Nodup ∧ fld (partS p.1 p.2).modPart.toNat 5 4 < 3)
    ∧ ((partS 0x4000001 0).tenant 0).en = true ∧ ((partS 0x4000001 0).tenant 0).part = 1 ∧ ((partS 1 0).tenant 0).part = 0
    ∧ (let s := partS 1 (2 * 2 ^ 56 + 1); bit s.modPart.toNat 0 = true ∧ fld s.modPart.toNat 63 56 = 2 ∧ s.blocks = [] ∧ s.tasks = [])
    ∧ (List.range 64).all (fun n => !State.reset.sampleDue 0 n) = true
    ∧ (let s := sampS
       s.sampleDue 0 0 = true ∧ (List.range 64).all (fun n => n == 0 || !s.sampleDue 0 n) = true ∧ (s.coreWaves 0 0).length = 1
        ∧ (s.wave? ⟨0, 0⟩).any (fun w => w.sampled.any (fun p => p.1 == 0) && (s.blockOf w).isSome) = true
        ∧ (s.thread? ⟨⟨0, 0⟩, 0⟩).map (fun t => (t.status, t.stopped)) = some (.waiting (.barrier 0 0 false) 8, false)
        ∧ (s.tenant 0).flr = false ∧ fld (s.tenant 0).vishead.toNat 63 32 = 0
        ∧ (s.devWrite 0 0 (natBytes 64 1)).1 = true ∧ (s.devWrite 0 0 (natBytes 64 1)).2.tenants.length = 64) := by decide +kernel

/-! ### The fabric, errors, the vault and the pool -/

def cteS (st : Nat) (down : BitVec 8) : State :=
  { State.reset with ctes := (State.reset.ctes.set 511 ⟨BitVec.ofNat 64 (st * 2 ^ 62 + 3 * 2 ^ 48 + 2 ^ 10 + 2 ^ 16), false, down⟩).set 0 ⟨BitVec.ofNat 64 (2 * 2 ^ 62 + 2 ^ 48 + 2 ^ 17 + 2 ^ 10 + 2 ^ 6), false, 0⟩ }
theorem wit_FabricEvents :
    (∀ st < 4, fld ((cteS st 0).cte 511).reg.toNat 63 62 = st ∧ (511 : Nat) < (cteS st 0).ctes.length)
    ∧ ((cteS 2 1).cte 511).down.toNat = 1
    ∧ fld (BitVec.ofNat 64 (2 ^ 60 + 3 * 2 ^ 48 + 2 ^ 10 + 2 ^ 16) : Dword).toNat 61 60 = 1 ∧ fld (BitVec.ofNat 64 (2 * 2 ^ 60) : Dword).toNat 61 60 = 2
    ∧ State.reset.dies.length = 8 ∧ State.reset.hubs.length = 4 ∧ Link.neighbour 7 ∉ State.reset.linksDown ∧ Link.fallback 0 3 ∉ State.reset.linksDown
    ∧ (31 : Nat) < State.reset.wstat.length ∧ (39 : Nat) < 40 ∧ (31, 39) ∉ State.reset.laneFlt
    ∧ (3 : Nat) < State.reset.hubs.length ∧ (1 : Nat) < (State.reset.hub 3).portsUp.length ∧ (7 : Nat) < State.reset.peersUp.length := by decide +kernel

def rstS (rst restarts restarting : Nat) : State :=
  { single with cur := none, blocks := single.blocks.map fun b => { b with rstpc := rst, restarts := restarts, restarting := restarting } }
theorem wit_ErrorsAndLimits :
    ((single.wave? ⟨0, 0⟩).isSome = true ∧ (single.block? 2).isSome = true ∧ (single.taskOfWave single.w0).isSome = true ∧ single.waves.length = 1
      ∧ single.dies.length = 8 ∧ (single.block? 2).map (fun b => (b.strand, b.core)) = some (none, 0))
    ∧ (∀ p ∈ [(1, 0, 17), (0x100, 15, 17), (0x100, 14, 17)], let s := rstS p.1 p.2.1 p.2.2
        (s.block? 2).map (fun b => (b.rstpc, b.restarts, b.restarting)) = some p ∧ (s.task? 1).isSome = true ∧ s.copies = [] ∧ s.nms = [] ∧ s.mats = []
          ∧ (s.waves.map (·.ref)).Nodup)
    ∧ (let s : State := { rstS 0x100 0 17 with copies := [laneC true] }; s.copies.any (fun c => c.by_.block == some 2) = true) := by decide +kernel
theorem wit_Alone : Alone single ⟨⟨0, 0⟩, 0⟩ := alone_of (by decide +kernel) (by decide +kernel)

/-- A vault with an image that is absent, one whose shards every module has, and one whose shards none has. -/
def shardHdr (e : Nat) : List Byte := (List.range 8).flatMap fun _ => natBytes 32 e
def vaultS : State := { State.reset with vault := [⟨0, [], [], true⟩, ⟨63, shardHdr (0xFF * 2 ^ 192 + 4 * 2 ^ 32), [1, 2, 3, 4], false⟩, ⟨62, [], [], false⟩] }
theorem wit_BootEvents : bit (1 : Dword).toNat 0 = true ∧ State.reset.mem.wf = true ∧ State.reset.moves = [] ∧ State.reset.forwards = []
    ∧ State.reset.tenants.length = 64 ∧ ((List.range 1312).all fun i => paLegal (0x40000 + i) && spaceOf (0x40000 + i) != 2) = true ∧ State.reset.poisoned 0x40000 64 = false
    ∧ (vaultS.vault.find? fun x => x.index == 0 && !x.absent).isNone = true
    ∧ (vaultS.vault.find? fun x => x.index == 63 && !x.absent).any (fun x => (List.range 8).all fun k => bit (fld (leNat ((x.header.drop (32 * k)).take 32)) 255 192) k) = true
    ∧ (vaultS.vault.find? fun x => x.index == 62 && !x.absent).any (fun x => (List.range 8).all fun k => !bit (fld (leNat ((x.header.drop (32 * k)).take 32)) 255 192) k) = true
    ∧ vaultS.peersUp.all (fun b => !b) = true := by decide +kernel
/-! ### The pool, and the machine -/

/-- The owner table at the start of the pool, with the entry of frame 3, for a module of each number. -/
def poolS (k : Nat) (entry : Nat) (pins : List PinEntry) (cmd : Nat) : State :=
  { State.reset with
    mem := (Memory.writeBytes State.reset.mem (2 * 2 ^ 54 + 24) (natBytes 8 entry)), poolOwt := BitVec.ofNat 64 (16 * k + 1), poolCmd := BitVec.ofNat 64 cmd
    peersUp := List.replicate 8 true, hubs := State.reset.hubs.map fun h => { h with pins := pins } }
def poolF : Nat := 2 * 2 ^ 42 + 3
def pinned : List PinEntry := [⟨poolF, 1, 0, 0⟩]
def poolEntry (s : State) : Nat := s.peek (2 * 2 ^ 54 + fld s.poolOwt.toNat 47 12 * 4096 + 8 * fld (poolF * 4096) 47 12) 8
def poolE (k own st : Nat) : State := poolS k (own * 2 ^ 8 + st + 0xFFFFFFFF * 2 ^ 32) [] 0
theorem wit_owner : ∀ k < 8, ∀ own < 8, ∀ st < 4,
    (poolE k own st).mem.wf = true ∧ bit (poolE k own st).poolOwt.toNat 0 = true ∧ bit (poolE k own st).poolCmd.toNat 0 = false
    ∧ (poolE k own st).peersUp.getD own false = true ∧ [fld (poolEntry (poolE k own st)) 1 0, fld (poolEntry (poolE k own st)) 10 8,
        fld (poolEntry (poolE k own st)) 31 19, fld (poolEntry (poolE k own st)) 15 11, fld (poolEntry (poolE k own st)) 7 2,
        ((poolE k own st).pin poolF).cls] = [st, own, 0, 0, 0, 0] := by decide +kernel
def poolP (k st : Nat) : State := poolS k (k * 2 ^ 8 + st) pinned 0x3001
theorem wit_PoolEvents :
    bit (0x3001 : Dword).toNat 0 = true ∧ fld (0x3001 : Dword).toNat 47 12 = 3 ∧ fld (0x3001 : Dword).toNat 3 2 = 0 ∧ fld (0x3005 : Dword).toNat 3 2 = 1
    ∧ fld (poolF * 4096) 55 54 = 2 ∧ (∀ k < 8, State.reset.peersUp.getD k false = false)
    ∧ (∀ k < 8, ∀ st < 3, (poolP k st).mem.wf = true ∧ ((poolP k st).pin poolF).cls = 1 ∧ bit (poolP k st).poolCmd.toNat 0 = true
        ∧ fld (poolEntry (poolP k st)) 1 0 = st ∧ fld (poolEntry (poolP k st)) 10 8 = k) := by decide +kernel
def handS (k q : Nat) : State :=
  { poolS k (1 + (q + 1) % 8 * 2 ^ 8) [] (if q = k then 0x3001 else 0) with handovers := [⟨poolF, q, decide (q = k), 0xFFFFFFFF⟩] }
theorem wit_handover : ∀ k < 8, ∀ q < 8,
    ((handS k q).handovers.find? fun x => x.frame == poolF) = some ⟨poolF, q, decide (q = k), 0xFFFFFFFF⟩ ∧ (handS k q).mem.wf = true
    ∧ bit (handS k q).poolOwt.toNat 0 = true ∧ bit (handS k q).poolCmd.toNat 0 = decide (q = k)
    ∧ (q ≠ k ∨ (((handS k q).poke (2 * 2 ^ 54 + 24) (natBytes 8 (q * 2 ^ 8))).frame? poolF).isNone = true ∧ fld (handS k q).poolCmd.toNat 3 2 = 0
      ∧ poolF = 2 * 2 ^ 42 + fld (handS k q).poolCmd.toNat 47 12) := by decide +kernel

/-- Instructions that are well-formed and have words, of each length, at the greatest value of some field. -/
theorem wit_EncodeDecode : ([
      .fdota (ops 255 255 255 255), .pair ⟨.iadd, dev (.v 4) (.v 10) (.v 11) .unused 0⟩ ⟨.fmul, dev (.v 5) (.v 12) (.v 13) .unused 0⟩,
      .bra { dev .unused .unused .unused .unused 0 with len := .l96, imm := 0xFFFFFFFF }, .hwait ⟨31, 31, 31, 0⟩, .tret (dev .unused .unused .unused .unused 0)] : List Instr).all
    (fun i => i.wf && (encode i).isSome) = true := by decide +kernel

/-- Where a run begins: an instruction of a wave, and one of a hart. -/
def waveS : State := State.reset.withFetchWord 64 0x7000
def hartS : State := State.reset.withFetchWord 32 (6 * 2 ^ 20 + 5 * 2 ^ 15 + 1 * 2 ^ 12 + 10 * 2 ^ 7 + 0x0B)
theorem wit_StepKeepsMemory : State.reset.mem.wf = true ∧ waveS.mem.wf = true ∧ (after (step waveS)).isSome = true ∧ (after (step State.reset)).isSome = true := by
  decide +kernel
theorem wit_StepRunsDecoded :
    (waveS.agenda.map (·.act)) = [.issue 0 0] ∧ (waveS.agenda.all fun p => decide (p.due ≤ waveS.clock)) = true
    ∧ waveS.nextAct.1 = some (.issue 0 0) ∧ waveS.nextAct.2.inReset = false
    ∧ (waveS.nextAct.2.turnOf 0 0).any (fun q =>
        (okVal (fetchBytes ⟨q.2.wave, q.2.lanes.headD 0⟩ q.2.pc.toNat) waveS.nextAct.2).any (fun bs =>
          decide (decode (32 - q.2.pc.toNat % 32) bs = .ok (.nop (dev .unused .unused .unused .unused 0), 8)) && (allotFault q.1.allot (.nop (dev .unused .unused .unused .unused 0))).isNone
            && !waveS.nextAct.2.overrun q.2 q.1)) = true
    ∧ (State.reset.agenda = [] ∧ State.reset.enabled = [])
    ∧ hartS.nextAct.1 = some (.hart 0) ∧ hartS.nextAct.2.inReset = false ∧ (hartS.nextAct.2.hart 0).exc = none ∧ (hartS.nextAct.2.hart 0).satpMode = 14
    ∧ (okVal (hartWord 0) hartS.nextAct.2).any (fun x => x.any fun n => decide (decodeHost (BitVec.ofNat 32 n) = .ext (.hwait ⟨10, 5, 6, 0⟩))) = true
    ∧ ({ State.reset with agenda := [⟨0, .event (.peerLinkUp 0)⟩] } : State).nextAct.1 = some (.event (.peerLinkUp 0)) := by decide +kernel

/-- Where a run goes on: a Cuff whose bound has passed, an instruction at a wave's limit, words that no instruction has, and several things that the
module may do. -/
def overdueS : State := hubS 0x2806F 0 [mv .cuff 64 (heldQ 65 0)] false
def limitS : State := { waveS with blocks := waveS.blocks.map fun b => { b with safeDist := 1 }, waves := waveS.waves.map fun w => { w with safeCnt := 1 } }
def badS : State := State.reset.withFetchWord 64 0xFFFFFFFFFFFFFFFF
def busyS (ages : List (Act × Nat)) : State :=
  { bench [[]] with cur := none, ages := ages, moves := [mv .copying 0 [], { mv .copying 0 [] with id := 6 }] }
theorem wit_NextActs : overdueS.inReset = false ∧ overdueS.overdueMoves.map (·.id) = [5] ∧ waveS.waits (.issue 0 0) = false
    ∧ waveS.overdueMoves.map (·.id) = [] ∧ (limitS.nextAct.2.turnOf 0 0).any (fun q => limitS.nextAct.2.overrun q.2 q.1) = true
    ∧ (badS.nextAct.2.turnOf 0 0).any (fun q => match fetchBytes ⟨q.2.wave, q.2.lanes.headD 0⟩ q.2.pc.toNat badS.nextAct.2 with
        | .ok bs _ => (match decode (32 - q.2.pc.toNat % 32) bs with | .error _ => true | .ok _ => false)
        | .error _ _ => false) = true
    ∧ (hartS.nextAct.2.hart 0).held = none ∧ { single with cur := none }.enabled = [.issue 0 0] := by decide +kernel
theorem wit_patience : (busyS [(.issue 0 0, Config.patience + 1)]).agenda = [] ∧ 2 ≤ (busyS [(.issue 0 0, Config.patience + 1)]).enabled.length
    ∧ .issue 0 0 ∈ (busyS [(.issue 0 0, Config.patience + 1)]).enabled
    ∧ Config.patience < (busyS [(.issue 0 0, Config.patience + 1)]).age (.issue 0 0) :=
  ⟨by decide +kernel, by decide +kernel, by decide +kernel, Nat.lt_succ_self _⟩
/-- A frame of the pool that every module may only read (that the pool reaches to it is the configuration record's, Config.poolBytes). -/
theorem wit_sharedRo : ∀ k < 8, sharedRo (poolE k k 2) (poolF * 4096) = true ∧ entryOwner (ownerEntry (poolE k k 2) (poolF * 4096)) = k
    ∧ (poolE k k 2).dir = [] ∧ (poolE k k 2).forwards = [] ∧ (poolE k k 2).cuff? (poolF * 4096) = none
    ∧ handoverHold (poolE k k 2) (poolF * 4096) = false ∧ sharedRo (poolE k k 0) (poolF * 4096) = false := by decide +kernel

/-! ### A save that ends, and an image that is restored -/

/-- Page tables that map the first 1 GiB to itself, and a tenant under a save into the area at 1 MiB. -/
def saveLeaf : Nat := 3 * 2 ^ 56 + 0x67
def saveTables : Memory :=
  Memory.writeBytes (Memory.writeBytes (Memory.writeBytes [] 0x8000 (natBytes 8 0x10001)) 0x10000 (natBytes 8 0x18001)) 0x18000 (natBytes 8 saveLeaf)
def savingS (m : Memory) : State :=
  { State.reset with
    mem := m
    tenants := State.reset.tenants.modify 0 fun t =>
      { t with ctl := 1, root := 0x8001, save := 0x100000, pre := 0x00001000_00000001, phase := .saving, savePos := 128 } }

structure Tables (m : Memory) : Prop where
  wf : m.wf = true
  top : m.readNat 0x8000 8 = 0x10001
  mid : m.readNat 0x10000 8 = 0x18001
  low : m.readNat 0x18000 8 = saveLeaf

theorem saveTables_ok : Tables saveTables := ⟨by decide +kernel, by decide +kernel, by decide +kernel, by decide +kernel⟩

theorem readNat_write {m : Memory} (h : m.wf = true) (a x n : Nat) (bs : List Byte) (d : x + n ≤ a) : (m.writeBytes a bs).readNat x n = m.readNat x n := by
  simp only [Memory.readNat, Memory.readBytes]
  congr 1
  apply List.map_congr_left
  intro i hi
  have := List.mem_range.mp hi
  rw [Memory.read_writeBytes h, if_neg (by omega)]

theorem Tables.write {m : Memory} (h : Tables m) (a : Nat) (bs : List Byte) (d : 0x100000 ≤ a) : Tables (m.writeBytes a bs) :=
  ⟨Memory.wf_writeBytes a bs h.wf, by rw [readNat_write h.wf _ _ _ _ (by omega)]; exact h.top, by rw [readNat_write h.wf _ _ _ _ (by omega)]; exact h.mid,
    by rw [readNat_write h.wf _ _ _ _ (by omega)]; exact h.low⟩

theorem fld_small {va lo : Nat} (hi : Nat) (h : va < 2 ^ lo) : fld va hi lo = 0 := by
  simp only [fld, Nat.shiftRight_eq_div_pow, Nat.div_eq_of_lt h, Nat.zero_mod]

theorem saving_clean (m : Memory) (pa n : Nat) : (savingS m).poisoned pa n = false := by
  rw [State.poisoned, show (savingS m).poison = [] from rfl]
  simp

theorem saving_walk {m : Memory} (h : Tables m) {va : Nat} (hv : va < 2 ^ 24) :
    walkRoot (savingS m) 0x8001 va = .leaf ⟨saveLeaf, 0x18000, 3, 0⟩ := by
  have l3 : fld va 59 48 = 0 := fld_small _ (by omega)
  have l2 : fld va 47 36 = 0 := fld_small _ (by omega)
  have l1 : fld va 35 24 = 0 := fld_small _ hv
  have al : alignDown va (pageBytes 3) = 0 := by
    have : pageBytes 3 = 2 ^ 30 := by decide +kernel
    rw [alignDown, this, Nat.div_eq_of_lt (by omega), Nat.zero_mul]
  have p3 : (savingS m).peek 0x8000 8 = 0x10001 := h.top
  have p2 : (savingS m).peek 0x10000 8 = 0x18001 := h.mid
  have p1 : (savingS m).peek 0x18000 8 = saveLeaf := h.low
  have q : ∀ pa n, (savingS m).poisoned pa n = false := saving_clean m
  have r : ∀ pa, spaceOf pa = 0 → poolLost (savingS m) pa = false := by intro pa e; simp [poolLost, e]
  have e0 : fld 0x8001 55 15 * 2 ^ 15 = 0x8000 := by decide
  have e1 : ptePage 0x10001 = 0x10000 := by decide
  have e2 : ptePage 0x18001 = 0x18000 := by decide
  have e3 : fld saveLeaf 57 56 = 3 := by decide +kernel
  rw [walkRoot, e0]
  simp [walk, l3, l2, l1, p3, p2, p1, q, r, e1, e2, e3, al, show paLegal 0x8000 = true by decide, show paLegal 0x10000 = true by decide, show paLegal 0x18000 = true by decide,
    show spaceOf 0x8000 = 0 by decide, show spaceOf 0x10000 = 0 by decide, show spaceOf 0x18000 = 0 by decide, show bit 0x10001 0 = true by decide, show bit 0x18001 0 = true by decide,
    show bit saveLeaf 0 = true by decide +kernel, show pteIsPointer 0x10001 = true by decide, show pteIsPointer 0x18001 = true by decide, show pteIsPointer saveLeaf = false by decide +kernel,
    show pointerOk 0x10001 = true by decide, show pointerOk 0x18001 = true by decide, show leafOk 1 saveLeaf = true by decide +kernel]

theorem saving_look {m : Memory} (h : Tables m) {va : Nat} (hv : va < 2 ^ 24) (a : Access) (ha : leafGrants a saveLeaf = true) :
    lookLeaf (savingS m) 0x8001 a va = .ok ⟨saveLeaf, 0x18000, 3, 0⟩ ∧ leafPa saveLeaf va = va := by
  have pa : leafPa saveLeaf va = va := by
    have e : leafPa saveLeaf va = 0 + va % 2 ^ 30 := by
      have : pageBytes (fld saveLeaf 57 56) = 2 ^ 30 := by decide +kernel
      have z : ptePage saveLeaf = 0 := by decide +kernel
      rw [leafPa, this, z]
    rw [e, Nat.zero_add, Nat.mod_eq_of_lt (by omega)]
  have sp : spaceOf va = 0 := fld_small _ (by omega)
  have lg : paLegal va = true := by
    rw [paLegal, sp]; simp [fld_small 48 (show va < 2 ^ 36 by omega)]
  have f : leafFault (savingS m) a saveLeaf va = none := by simp [leafFault, sharedRo, ha, pa, lg, sp]
  have w : inWindow va = false := by
    have : 2 ^ 24 ≤ clusterBase := by decide +kernel
    simp [inWindow]; omega
  refine ⟨?_, pa⟩
  simp [lookLeaf, canonical, w, show bit 0x8001 0 = true by decide, saving_walk h hv, f]
  omega

theorem saving_write {m : Memory} (h : Tables m) {va : Nat} (hv : va < 2 ^ 24) (lo : 0x100000 ≤ va) (bs : List Byte) :
    (savingS m).devWrite 0 va bs = (true, savingS (m.writeBytes va bs)) := by
  have sp : spaceOf va = 0 := fld_small _ (by omega)
  obtain ⟨e, p⟩ := saving_look h hv .engineWrite (by decide +kernel)
  have lost : ∀ s : State, poolLost s va = false := by intro s; simp [poolLost, sp]
  have rt : ((savingS m).hubWho 0).root = 0x8001 := by rfl
  have cw : bit saveLeaf 2 = true := by decide +kernel
  have tl : (savingS m).touchLeaf 0 .engineWrite ⟨saveLeaf, 0x18000, 3, 0⟩ = (⟨saveLeaf, 0x18000, 3, 0⟩, savingS m) := by
    have : (setFld (setFld saveLeaf 5 5 1) 6 6 1 == saveLeaf) = true := by decide +kernel
    simp only [State.touchLeaf, show bit (setFld saveLeaf 5 5 1) 2 = true by decide +kernel, show accWrites .engineWrite = true by rfl, Bool.and_self, if_true, this]
  have rc : (savingS m).recall (lineOf va) = savingS m := rfl
  have sn : (savingS m).setPoison (lineOf va) false = savingS m := rfl
  have ro : (savingS m).route va = va := rfl
  have mi : ∀ m', (savingS m').mirror? va = none := fun _ => rfl
  have md : (savingS (m.writeBytes va bs)).markDirty 0 va = savingS (m.writeBytes va bs) := rfl
  have lr : (savingS (m.writeBytes va bs)).loseResv (lineOf va) = savingS (m.writeBytes va bs) := rfl
  have pt : (savingS m).put 0 va bs = savingS (m.writeBytes va bs) := by
    simp only [State.put, lost, Bool.false_eq_true, if_false]
    rw [show (savingS m).poke va bs = savingS (m.writeBytes va bs) from rfl, lr, md, mi]
  have pl : (savingS m).putLine 0 va bs = savingS (m.writeBytes va bs) := by
    simp only [State.putLine, State.setBad, lost, Bool.false_eq_true, if_false, mi, sn, pt]
  have st : (savingS m).devStore 0 va bs = (.done, savingS (m.writeBytes va bs)) := by
    simp only [State.devStore, rt, e, cw, if_true, show Op.attempt (pure () : Op Unit) (savingS m) = (.ok (), savingS m) from rfl, tl, p, lost, ro,
      Bool.false_eq_true, if_false, State.putHome, show (savingS m).cuff? va = none from rfl, State.putNow, Bool.false_and, rc, pl, pt, ite_self]
  rw [State.devWrite, st]
  rfl

theorem saving_area (fuel : Nat) : ∀ {m : Memory}, Tables m → ∀ (va : Nat) (bs : List Byte), 0x100000 ≤ va → va + bs.length ≤ 2 ^ 24 →
    ∃ m', Tables m' ∧ (savingS m).areaWrite 0 fuel va bs = (true, savingS m') := by
  induction fuel with
  | zero => intro m h va bs _ _; exact ⟨m, h, rfl⟩
  | succ n ih =>
    intro m h va bs lo hi
    rw [State.areaWrite]
    cases hb : bs.isEmpty with
    | true => exact ⟨m, h, rfl⟩
    | false =>
      have pos : 0 < bs.length := by cases bs with | nil => simp at hb | cons => simp
      simp only [Bool.false_eq_true, if_false]
      rw [saving_write h (by omega) lo]
      have := ih (h.write va (bs.take (64 - va % 64)) lo) (va + (64 - va % 64)) (bs.drop (64 - va % 64)) (by omega)
      by_cases hk : bs.length ≤ 64 - va % 64
      · have z : bs.drop (64 - va % 64) = [] := List.drop_eq_nil_of_le hk
        refine ⟨_, h.write va (bs.take (64 - va % 64)) lo, ?_⟩
        cases n with
        | zero => rfl
        | succ n => simp [z, State.areaWrite]
      · exact this (by rw [List.length_drop]; omega)

theorem saving_get {m : Memory} (h : Tables m) {va : Nat} (hv : va < 2 ^ 24) (k : Nat) : ∃ x, devGet 0 va k (savingS m) = .ok (some x) (savingS m) := by
  have sp : spaceOf va = 0 := fld_small _ (by omega)
  obtain ⟨e, p⟩ := saving_look h hv .engineRead (by decide +kernel)
  have rt : ((savingS m).tenant 0).root.toNat = 0x8001 := by rfl
  have tl : (savingS m).touchLeaf 0 .engineRead ⟨saveLeaf, 0x18000, 3, 0⟩ = (⟨saveLeaf, 0x18000, 3, 0⟩, savingS m) := by
    have : (setFld saveLeaf 5 5 1 == saveLeaf) = true := by decide +kernel
    simp only [State.touchLeaf, show accWrites .engineRead = false by rfl, Bool.false_and, Bool.false_eq_true, if_false, this, if_true]
  have ro : (savingS m).route va = va := rfl
  have nr : (savingS m).noteRead va k = savingS m := rfl
  have d : (savingS m).devRead 0 va k = (some ((savingS m).peekDev va k), savingS m) := by
    simp only [State.devRead, rt, e, tl, p, ro, show poolLost (savingS m) va = false by simp [poolLost, sp], Bool.false_eq_true, if_false, nr,
      saving_clean m va k]
  refine ⟨(savingS m).peekDev va k, ?_⟩
  show (match (savingS m).devRead 0 va k with | (x, s) => (do set s; pure x : Op (Option Nat))) (savingS m) = _
  rw [d]
  rfl

theorem saving_read {m : Memory} (h : Tables m) (fuel : Nat) : ∀ (va n : Nat), va + n ≤ 2 ^ 24 →
    ∃ bs, areaRead 0 fuel va n (savingS m) = .ok (some bs) (savingS m) := by
  induction fuel with
  | zero => intro va n _; exact ⟨[], rfl⟩
  | succ f ih =>
    intro va n hi
    by_cases hz : n = 0
    · exact ⟨[], by rw [areaRead, hz]; rfl⟩
    · obtain ⟨x, hx⟩ := saving_get h (va := va) (by omega) (min n (64 - va % 64))
      obtain ⟨y, hy⟩ := ih (va + min n (64 - va % 64)) (n - min n (64 - va % 64)) (by omega)
      refine ⟨natBytes (min n (64 - va % 64)) x ++ y, ?_⟩
      rw [areaRead, if_neg (by simpa using hz)]
      simp only [bind, EStateM.bind, hx, hy, Option.map, pure, EStateM.pure]

theorem saving_image (a : List Byte) (n : Nat) (hdr : State → List Byte → List Byte) (ha : a.length ≤ 2 ^ 23) (hn : n ≤ 2 ^ 23)
    (hh : ∀ s bs, (hdr s bs).length = 128) : ∃ m1 m2 bs, (savingS saveTables).imageWrite 0 128 a = (true, savingS m1)
      ∧ imageRead 0 128 n (savingS m1) = .ok (some bs) (savingS m1) ∧ (savingS m1).imageWrite 0 0 (hdr (savingS m1) bs) = (true, savingS m2) := by
  have va : ∀ m, ((savingS m).tenant 0).areaVa = 0x100000 := fun m => by
    rw [show (savingS m).tenant 0 = (savingS saveTables).tenant 0 from rfl]
    decide +kernel
  obtain ⟨m1, t1, w1⟩ := saving_area (a.length / 64 + 2) saveTables_ok (0x100000 + 128) a (by omega) (by omega)
  obtain ⟨bs, rd⟩ := saving_read t1 (n / 64 + 2) (0x100000 + 128) n (by omega)
  obtain ⟨m2, t2, w2⟩ := saving_area ((hdr (savingS m1) bs).length / 64 + 2) t1 (0x100000 + 0) (hdr (savingS m1) bs) (by omega) (by rw [hh]; omega)
  refine ⟨m1, m2, bs, ?_, ?_, ?_⟩
  · rw [State.imageWrite, va]; exact w1
  · show areaRead 0 (n / 64 + 2) (((savingS m1).tenant 0).areaVa + 128) n (savingS m1) = _
    rw [va]; exact rd
  · rw [State.imageWrite, va]; exact w2

theorem natBytes_len (n : Nat) : ∀ x, (natBytes n x).length = n := by
  induction n with
  | zero => intro x; rfl
  | succ n ih => intro x; simp [natBytes, ih]

theorem flat_len (l : List Nat) (f : Nat → List Byte) (k : Nat) (hf : ∀ x, (f x).length = k) : (l.flatMap f).length = l.length * k := by
  induction l with
  | nil => simp
  | cons a l ih => rw [List.flatMap_cons, List.length_append, ih, hf, List.length_cons, Nat.succ_mul, Nat.add_comm]

theorem tidImage_len (s : State) (n : Nat) : (s.tidImage n).length = 65536 := by
  simp only [State.tidImage]
  rw [flat_len _ _ 64 (fun t => by rw [flat_len _ _ 8 (fun i => natBytes_len 8 _)]; rfl), List.length_range]

theorem counterImage_len (t : Tenant) : t.counterImage.length = 2432 := by
  simp only [Tenant.counterImage, List.length_append, List.length_replicate]
  rw [flat_len _ _ 2 (fun i => natBytes_len 2 _), flat_len _ _ 8 (fun i => natBytes_len 8 _),
    flat_len _ _ 512 (fun h => by rw [flat_len _ _ 8 (fun i => natBytes_len 8 _)]; rfl), List.length_range, List.length_range, List.length_range]

theorem earlyImage_len : (earlyImage []).length = 262144 := by
  unfold earlyImage
  rw [List.length_append, List.length_replicate]
  rfl

theorem pad64_len (bs : List Byte) : (pad64 bs).length < bs.length + 64 := by
  have h : ceilDiv bs.length 64 * 64 < bs.length + 64 := by
    unfold ceilDiv
    omega
  rw [pad64, List.length_append, List.length_replicate, alignUp]
  omega

/-- The pool section of a tenant with nothing live: its early-signal table and SEQ. -/
theorem poolImage_len (s : State) (n : Nat) (h : s.tenantTasks n = []) (l : s.tenantLoops n = []) (e : (s.tenant n).early = []) :
    (s.poolImage n).length ≤ 2 ^ 19 := by
  have w : (s.poolWords n).length ≤ 1 := by simp [State.poolWords, h, l, wordList]
  have q : ((s.poolWords n).flatMap (natBytes 8)).length ≤ 8 := by
    rw [flat_len _ _ 8 (fun i => natBytes_len 8 i)]
    omega
  have p := pad64_len (([] : List Task).flatMap (fun t => t.image []) ++ earlyImage [] ++ natBytes 64 (s.tenant n).evSeq ++ (s.poolWords n).flatMap (natBytes 8))
  rw [List.length_append, List.length_append, List.length_append, earlyImage_len, natBytes_len, List.flatMap_nil, List.length_nil] at p
  have z : s.poolImage n = pad64 (([] : List Task).flatMap (fun t => t.image []) ++ earlyImage [] ++ natBytes 64 (s.tenant n).evSeq
      ++ (s.poolWords n).flatMap (natBytes 8)) := by
    unfold State.poolImage
    rw [h, e]
  rw [z, List.flatMap_nil]
  omega

/-- The hypotheses on a save that ends can be met: a tenant with nothing live. -/
theorem wit_SaveComplete : ∃ (s s1 s2 : State) (bs : List Byte), (s.tenant 0).phase = .saving ∧ s.tenantLoops 0 = [] ∧ s.tenantBlocks 0 = [] ∧ s.mats = [] ∧ s.copies = []
    ∧ s.nms = [] ∧ s.tenantTasks 0 = [] ∧ 0 < s2.tenants.length
    ∧ s.imageWrite 0 (s.tenant 0).savePos (s.poolImage 0 ++ s.tidImage 0 ++ (s.tenant 0).counterImage) = (true, s1)
    ∧ imageRead 0 128 ((s.tenant 0).savePos + (s.poolImage 0).length + (s.tidImage 0).length + (s.tenant 0).counterImage.length - 128) s1 = .ok (some bs) s1
    ∧ s1.imageWrite 0 0 (natBytes 128 (0x43584D49 + 0x0200 * 2 ^ 32 + 0 * 2 ^ 48 + s1.clockOf 0 * 2 ^ 448 + (s1.tenantTasks 0).length * 2 ^ 512
        + (s.tenant 0).saveCnt * 2 ^ 544
        + ((s.tenant 0).savePos + (s.poolImage 0).length + (s.tidImage 0).length + (s.tenant 0).counterImage.length) * 2 ^ 576 + 128 * 2 ^ 640
        + ((s.tenant 0).savePos + (s.poolImage 0).length + (s.tidImage 0).length) * 2 ^ 704
        + ((s.tenant 0).savePos + (s.poolImage 0).length) * 2 ^ 768 + (s.tenant 0).savePos * 2 ^ 832 + fingerprint bs * 2 ^ 896)) = (true, s2) := by
  have pos : ((savingS saveTables).tenant 0).savePos = 128 := rfl
  have pool := poolImage_len (savingS saveTables) 0 rfl rfl rfl
  generalize hs : savingS saveTables = s at pos pool
  obtain ⟨m1, m2, bs, w1, rd, w2⟩ := saving_image (s.poolImage 0 ++ s.tidImage 0 ++ (s.tenant 0).counterImage)
    ((s.tenant 0).savePos + (s.poolImage 0).length + (s.tidImage 0).length + (s.tenant 0).counterImage.length - 128)
    (fun s1 bs => natBytes 128 (0x43584D49 + 0x0200 * 2 ^ 32 + 0 * 2 ^ 48 + s1.clockOf 0 * 2 ^ 448 + (s1.tenantTasks 0).length * 2 ^ 512
        + (s.tenant 0).saveCnt * 2 ^ 544
        + ((s.tenant 0).savePos + (s.poolImage 0).length + (s.tidImage 0).length + (s.tenant 0).counterImage.length) * 2 ^ 576 + 128 * 2 ^ 640
        + ((s.tenant 0).savePos + (s.poolImage 0).length + (s.tidImage 0).length) * 2 ^ 704
        + ((s.tenant 0).savePos + (s.poolImage 0).length) * 2 ^ 768 + (s.tenant 0).savePos * 2 ^ 832 + fingerprint bs * 2 ^ 896))
    (by rw [List.length_append, List.length_append, tidImage_len, counterImage_len]; omega) (by rw [tidImage_len, counterImage_len, pos]; omega)
    (fun _ _ => natBytes_len 128 _)
  have len : ∀ m, 0 < (savingS m).tenants.length := fun m => by rw [show (savingS m).tenants.length = 64 from rfl]; omega
  refine ⟨s, savingS m1, savingS m2, bs, by rw [← hs]; rfl, by rw [← hs]; rfl, by rw [← hs]; rfl, by rw [← hs]; rfl, by rw [← hs]; rfl, by rw [← hs]; rfl,
    by rw [← hs]; rfl, len m2, ?_, rd, w2⟩
  rw [pos, ← hs] at *
  exact w1

/-- An image of nothing live, of the header alone, and a tenant that may restore it. -/
def imageHdr : Nat := 0x43584D49 + 0x0200 * 2 ^ 32 + 128 * 2 ^ 576 + 128 * 2 ^ 640 + 128 * 2 ^ 704 + 262344 * 2 ^ 768 + 128 * 2 ^ 832 + fingerprint [] * 2 ^ 896
def restS : State :=
  { savingS (saveTables.writeBytes 0x100000 (natBytes 128 imageHdr)) with
    tenants := (savingS saveTables).tenants.modify 0 fun t => { t with phase := .idle, pre := 0, vera := 0x0200_0103_0101_0102 } }
theorem wit_Restore : (restS.tenant 0).phase = .idle ∧ bit (restS.tenant 0).pre.toNat 0 = false ∧ bit (0x0000_1000_0000_0005 : Dword).toNat 0 = true
    ∧ fld (0x0000_1000_0000_0005 : Dword).toNat 3 2 = 1
    ∧ (match okVal (checkImage 0) (restS.preFields 0 0x0000_1000_0000_0005) with
       | some (.ok p) => p.f 575 544 == 0 && ((okState (checkImage 0) (restS.preFields 0 0x0000_1000_0000_0005)).reinstate 0 p).any fun s1 => decide (0 < s1.tenants.length)
       | _ => false) = true := by decide +kernel

/-- A directory set with its 16 ways in use, and a line of the set that is not among them. -/
theorem full_set : ∃ (line : Nat) (ls : List Nat), line < 2 ^ 24 ∧ ls.length = 16 ∧ line ∉ ls ∧ ∀ k ∈ ls, k < 2 ^ 24 ∧ Config.dirSet k = Config.dirSet line := by
  obtain ⟨y, -, hy⟩ := Finset.exists_lt_card_fiber_of_mul_lt_card_of_maps_to (s := Finset.range (2 ^ 24)) (t := (Finset.univ : Finset (Fin 524288)))
    (f := Config.dirSet) (n := 16) (fun _ _ => Finset.mem_univ _) (by rw [Finset.card_univ, Fintype.card_fin, Finset.card_range]; norm_num)
  obtain ⟨t, ht, hc⟩ := Finset.exists_subset_card_eq hy
  have nd := t.nodup_toList
  have mem : ∀ k ∈ t.toList, k < 2 ^ 24 ∧ Config.dirSet k = y := fun k hk => by simpa using ht (Finset.mem_toList.mp hk)
  have len : t.toList.length = 17 := by rw [Finset.length_toList, hc]
  match hl : t.toList with
  | [] => rw [hl] at len; simp at len
  | a :: r =>
    rw [hl] at nd mem len
    refine ⟨a, r, (mem a (by simp)).1, by simpa using len, (List.nodup_cons.mp nd).1, fun k hk => ?_⟩
    rw [(mem k (by simp [hk])).2, (mem a (by simp)).2]
    exact ⟨(mem k (by simp [hk])).1, rfl⟩

/-- The hypotheses of a request that displaces an entry can be met. -/
theorem wit_displaced : ∃ (s : State) (line : Nat), paLegal (line * 64) = true ∧ s.forwards = [] ∧ s.cuff? (line * 64) = none ∧ poolLost s (line * 64) = false
    ∧ handoverHold s (line * 64) = false ∧ homeHere s (line * 64) = true ∧ s.dir.length < 262144 ∧ s.dirEntry? line = none
    ∧ 16 ≤ (s.dir.filter fun e => (homeOf (64 * e.line)).hub == (homeOf (line * 64)).hub && Config.dirSet e.line == Config.dirSet line).length := by
  obtain ⟨line, ls, hl, len, out, all⟩ := full_set
  have sp : ∀ k < 2 ^ 24, spaceOf (64 * k) = 0 := fun k hk => fld_small _ (by omega)
  have hub : ∀ k < 2 ^ 24, (homeOf (64 * k)).hub = 0 := fun k hk => by
    unfold homeOf
    rw [sp k hk]
    exact fld_small _ (by omega)
  refine ⟨{ State.reset with dir := ls.map fun k => ⟨k, .s, none, 1, false, 0⟩ }, line, ?_, rfl, rfl, ?_, ?_, ?_, ?_, ?_, ?_⟩
  · rw [Nat.mul_comm, paLegal, sp _ hl]
    simp [fld_small 48 (show 64 * line < 2 ^ 36 by omega)]
  · simp [poolLost, Nat.mul_comm line, sp _ hl]
  · simp [handoverHold, Nat.mul_comm line, sp _ hl]
  · simp [homeHere, Nat.mul_comm line, sp _ hl]
  · simp [len]
  · simp only [State.dirEntry?, List.find?_map, Option.map_eq_none_iff, List.find?_eq_none]
    intro k hk e
    simp at e
    exact out (e ▸ hk)
  · rw [List.filter_eq_self.mpr]
    · simp [len]
    · intro e he
      obtain ⟨k, hk, rfl⟩ := List.mem_map.mp he
      simp [Nat.mul_comm line, hub k (all k hk).1, hub _ hl, (all k hk).2]
end Sys2Proof.Machine
end

section
/-! What reset leaves. -/
namespace Sys2Proof.Machine

/-- The Owner Table word of reset carries the module's number above its ENABLE bit, so no bit of the number reaches it. -/
theorem reset_poolOwt_disabled : bit State.reset.poolOwt.toNat 0 = false := by
  have small : 16 * Config.moduleOrd.val < 2 ^ 64 := by have := Config.moduleOrd.isLt; omega
  have even : 16 * Config.moduleOrd.val % 2 = 0 := by omega
  have word : State.reset.poolOwt.toNat = 16 * Config.moduleOrd.val := by
    rw [show State.reset.poolOwt = BitVec.ofNat 64 (16 * Config.moduleOrd.val) from rfl, BitVec.toNat_ofNat, Nat.mod_eq_of_lt small]
  rw [bit, word, Nat.shiftRight_zero, even]
  rfl

theorem wf_reset : State.reset.wf = true := by
  have harts : State.reset.harts.all Hart.wf = true := List.all_eq_true.mpr fun h hh => by
    rw [List.eq_of_mem_replicate hh]
    rfl
  have sizes : State.reset.harts.length = 64 ∧ State.reset.tenants.length = 64 ∧ State.reset.hubs.length = 4 ∧ State.reset.dies.length = 8
      ∧ State.reset.cores.length = 256 ∧ State.reset.slices.length = 4 ∧ State.reset.engines.length = 64 ∧ State.reset.ctes.length = 512 :=
    ⟨List.length_replicate, List.length_replicate, List.length_replicate, List.length_replicate, List.length_replicate, List.length_replicate,
      List.length_replicate, List.length_replicate⟩
  have scratch : State.reset.blocks.all (fun b => b.scratch.wf) = true := rfl
  simp only [State.wf, show State.reset.mem.wf = true from rfl, scratch, harts, sizes, decide_true, Bool.and_self]

/-- Settles O56: every list of the reset state is empty or repeats one record, so a clause about its members is one about that record. -/
theorem resetState : Obligations.ResetState := by
  refine ⟨wf_reset, memoryInv_reset, rfl, rfl, rfl, rfl, rfl, rfl, rfl, rfl, rfl, rfl, rfl, rfl, rfl, rfl, rfl, rfl, rfl, rfl, rfl, rfl,
    reset_poolOwt_disabled, ?tenants, ?ctes, ?dies, ?hubs, ?wstat, ?engines, rfl, ?harts⟩
  case tenants =>
    intro t ht
    obtain rfl := List.eq_of_mem_replicate ht
    exact ⟨rfl, rfl, rfl, rfl⟩
  case ctes => exact fun c hc => by rw [List.eq_of_mem_replicate hc]
  case dies => exact fun d hd => by rw [List.eq_of_mem_replicate hd]
  case hubs =>
    intro h hh
    obtain rfl := List.eq_of_mem_replicate hh
    exact ⟨rfl, rfl, rfl, rfl, rfl, rfl⟩
  case wstat => exact fun w hw => List.eq_of_mem_replicate hw
  case engines =>
    intro e he
    obtain rfl := List.eq_of_mem_replicate he
    exact ⟨rfl, rfl⟩
  case harts =>
    intro h hh
    obtain rfl := List.eq_of_mem_replicate hh
    exact ⟨rfl, rfl, rfl, rfl, fun r hr => List.eq_of_mem_replicate hr⟩
end Sys2Proof.Machine
end

section
/-! SUPPORT. Memory stays in canonical form (00 R3): an operation keeps it whether it ends or stops, and what writes no byte leaves memory equal.
One lemma for each function that answers a state or runs as an operation, in the order of the model's files; what stores bytes does so
through `State.poke`, whose lemma is `State.wf_poke`. -/
namespace Sys2Proof.Machine
open Std.Do
set_option mvcgen.warning false
variable {s : State}

/-! ## Operations -/

/-- An operation keeps memory canonical, whether it ends or stops. -/
abbrev Op.Keeps {α} (x : Op α) : Prop :=
  Triple (m := EStateM Stop State) x (ps := .except Stop (.arg State .pure)) (fun s => ⌜MemoryInv s⌝)
    (post⟨fun _ s => ⌜MemoryInv s⌝, fun _ s => ⌜MemoryInv s⌝⟩)

theorem Op.Keeps.ok {α} {x : Op α} (hx : Op.Keeps x) {s t : State} {a : α} (h : MemoryInv s) (e : x s = .ok a t) : MemoryInv t := by
  have := hx s h
  simpa [wp, PredTrans.apply, EStateM.run, e] using this
theorem Op.Keeps.error {α} {x : Op α} (hx : Op.Keeps x) {s t : State} {a} (h : MemoryInv s) (e : x s = .error a t) : MemoryInv t := by
  have := hx s h
  simpa [wp, PredTrans.apply, EStateM.run, e] using this
theorem Op.Keeps.attempt {α} {x : Op α} (hx : Op.Keeps x) {s : State} (h : MemoryInv s) : MemoryInv (x.attempt s).2 := by
  grind [Op.attempt, Op.Keeps.ok, Op.Keeps.error]
theorem Op.Keeps.run {α} {x : Op α} (hx : Op.Keeps x) {s : State} (h : MemoryInv s) : MemoryInv (x.run? s).2 := by
  grind [Op.run?, Op.Keeps.ok, Op.Keeps.error]
theorem State.forEach_mem {α : Type} {l : List α} {f : α → State → State} (hf : ∀ a s, (f a s).mem = s.mem) : (s.forEach l f).mem = s.mem := by
  induction l generalizing s with
  | nil => rfl
  | cons a l ih => rw [State.forEach_cons, ih, hf]
theorem State.forEach_memoryInv {α : Type} {l : List α} {f : α → State → State} (hf : ∀ a s, MemoryInv s → MemoryInv (f a s)) (h : MemoryInv s) :
    MemoryInv (s.forEach l f) := State.forEach_keeps MemoryInv f hf l s h

theorem Op.keeps_pure {α : Type} {a : α} : Op.Keeps (pure a) := by mvcgen
theorem Op.keeps_throw {α : Type} {e} : Op.Keeps (throw e : Op α) := by mvcgen
theorem Op.keeps_set {t : State} (h : MemoryInv t) : Op.Keeps (set t) := by mvcgen
theorem Op.keeps_modify {f : State → State} (hf : ∀ s, MemoryInv s → MemoryInv (f s)) : Op.Keeps (modify f) := by
  mvcgen with grind
theorem Op.keeps_get_bind {α : Type} {f : State → Op α} (hf : ∀ s, MemoryInv s → Op.Keeps (f s)) : Op.Keeps (get >>= f) :=
  fun s h => hf s h s h
theorem memoryInv_of_eq {α : Type} {p : α × State} {a : α} {t : State} (e : p = (a, t)) (h : MemoryInv p.2) : MemoryInv t := by
  rw [e] at h
  exact h
theorem Op.keeps_bind {α β : Type} {x : Op α} {f : α → Op β} (hx : Op.Keeps x) (hf : ∀ a, Op.Keeps (f a)) : Op.Keeps (x >>= f) := by
  mvcgen [hx, hf]
theorem Op.keeps_foldlM {α β : Type} {f : β → α → Op β} (hf : ∀ b a, Op.Keeps (f b a)) {b : β} {l : List α} : Op.Keeps (l.foldlM f b) := by
  induction l generalizing b with
  | nil => exact Op.keeps_pure
  | cons a l ih => exact Op.keeps_bind (hf b a) fun _ => ih
theorem Op.keeps_mapM {α β : Type} {f : α → Op β} (hf : ∀ a, Op.Keeps (f a)) {l : List α} : Op.Keeps (l.mapM f) := by
  induction l with
  | nil => rw [List.mapM_nil]; exact Op.keeps_pure
  | cons a l ih => rw [List.mapM_cons]; exact Op.keeps_bind (hf a) fun _ => Op.keeps_bind ih fun _ => Op.keeps_pure
theorem Op.keeps_forIn {α β : Type} {f : α → β → Op (ForInStep β)} (hf : ∀ a b, Op.Keeps (f a b)) {b : β} {l : List α} :
    Op.Keeps (forIn l b f) := by
  induction l generalizing b with
  | nil => exact Op.keeps_pure
  | cons a l ih =>
    rw [List.forIn_cons]
    refine Op.keeps_bind (hf a b) fun r => ?_
    cases r
    · exact Op.keeps_pure
    · exact ih
theorem Op.keeps_filterMapM {α β : Type} {f : α → Op (Option β)} (hf : ∀ a, Op.Keeps (f a)) {l : List α} : Op.Keeps (l.filterMapM f) := by
  rw [List.filterMapM]
  generalize ([] : List β) = done
  induction l generalizing done with
  | nil => exact Op.keeps_pure
  | cons a l ih =>
    rw [List.filterMapM.loop]
    refine Op.keeps_bind (hf a) fun r => ?_
    cases r <;> exact ih _

/-! ## Access -/

@[simp] theorem State.perfCoreEvent_mem {tenant ev n} : (s.perfCoreEvent tenant ev n).mem = s.mem := rfl
@[simp] theorem State.perfHubEvent_mem {tenant hub ev n} : (s.perfHubEvent tenant hub ev n).mem = s.mem := rfl

/-! ## Home -/

@[simp] theorem State.hubError_mem {h0 unit pa} : (s.hubError h0 unit pa).mem = s.mem := rfl
@[simp] theorem State.dieError_mem {d unit pa} : (s.dieError d unit pa).mem = s.mem := rfl
@[simp] theorem State.lostError_mem {pa} : (s.lostError pa).mem = s.mem := rfl
@[simp] theorem State.countError_mem {p} : (s.countError p).mem = s.mem := by
  unfold State.countError
  grind [State.hubError_mem, State.dieError_mem]
@[simp] theorem State.findErrors_mem {p} : (s.findErrors p).mem = s.mem := by
  grind [State.findErrors, State.forEach_mem, State.countError_mem]
@[simp] theorem State.setFrame_mem {f} : (s.setFrame f).mem = s.mem := rfl
@[simp] theorem State.updFrame_mem {ppn g} : (s.updFrame ppn g).mem = s.mem := by
  grind [State.updFrame, State.setFrame_mem]
@[simp] theorem State.reloadFrame_mem {ppn} : (s.reloadFrame ppn).mem = s.mem := by
  grind [State.reloadFrame, State.updFrame_mem]
@[simp] theorem State.setPin_mem {p} : (s.setPin p).mem = s.mem := rfl
@[simp] theorem State.joinCuff_mem {m b line write} : (s.joinCuff m b line write).mem = s.mem := by
  grind [State.joinCuff, State.updMove_mem]
@[simp] theorem trigger_mem {f die} : (trigger s f die).mem = s.mem := by
  grind [trigger, State.newId_mem, State.setFrame_mem]
@[simp] theorem countAt_mem {die pa} : (countAt die pa s).mem = s.mem := by
  grind [countAt, State.updMove_mem, State.setFrame_mem, State.updFrame_mem, trigger_mem]
@[simp] theorem State.dropL1_mem {die line keep} : (s.dropL1 die line keep).mem = s.mem := rfl
@[simp] theorem State.dropHolder_mem {x line} : (s.dropHolder x line).mem = s.mem := by
  grind [State.dropHolder, State.setDir_mem, State.dropL1_mem]
@[simp] theorem State.victim_mem {l} : (s.victim l).2.mem = s.mem := rfl
@[simp] theorem State.dirRoom_mem {line} : (s.dirRoom line).mem = s.mem := by
  grind [State.dirRoom, State.recall_mem, State.victim_mem]
theorem State.l2Room_mem {die line} {t} (e : s.l2Room die line = some t) : t.mem = s.mem := by
  grind [State.l2Room, State.dropHolder_mem, State.victim_mem]
theorem State.room_mem {x line} {t} (e : s.room x line = some t) : t.mem = s.mem := by
  grind [State.room, State.l2Room_mem, State.dirRoom_mem, Option.map_eq_some_iff]
@[simp] theorem State.fillL1_mem {core line} : (s.fillL1 core line).mem = s.mem := by
  grind [State.fillL1, State.unL1_mem, State.victim_mem]
@[simp] theorem State.lockLine_mem {die core leaf asid line} : (s.lockLine die core leaf asid line).mem = s.mem := by
  unfold State.lockLine
  grind
@[simp] theorem State.homeRead_mem {x line} : (s.homeRead x line).mem = s.mem := by
  grind [State.homeRead, State.setDir_mem, State.room_mem]
@[simp] theorem State.homeOwn_mem {x line} : (s.homeOwn x line).mem = s.mem := by
  grind [State.homeOwn, State.setDir_mem, State.unL1_mem, State.recall_mem, State.room_mem]
theorem State.markDirty_keeps {tenant pa} (h : MemoryInv s) : MemoryInv (s.markDirty tenant pa) := by
  grind [State.markDirty, MemoryInv, State.wf_poke]
theorem State.markDirtyAll_keeps {pa} (h : MemoryInv s) : MemoryInv (s.markDirtyAll pa) := by
  grind [State.markDirtyAll, MemoryInv, State.forEach_memoryInv, State.markDirty_keeps]
@[simp] theorem State.loseResv_mem {line} : (s.loseResv line).mem = s.mem := by
  grind [State.loseResv]
theorem State.put_keeps {tenant pa bs} (h : MemoryInv s) : MemoryInv (s.put tenant pa bs) := by
  grind [State.put, MemoryInv, State.wf_poke, State.lostError_mem, State.markDirty_keeps, State.markDirtyAll_keeps, State.loseResv_mem]
@[simp] theorem State.setBad_mem {pa b} : (s.setBad pa b).mem = s.mem := by
  grind [State.setBad, State.setPoison_mem]
theorem State.putLine_keeps {tenant pa bs} (h : MemoryInv s) : MemoryInv (s.putLine tenant pa bs) := by
  grind [State.putLine, MemoryInv, State.lostError_mem, State.put_keeps, State.setBad_mem]
@[simp] theorem State.noteRead_mem {pa n} : (s.noteRead pa n).mem = s.mem := by
  grind [State.noteRead, State.forEach_mem, State.findErrors_mem, State.setBad_mem]
theorem State.copyLine_keeps {src dst} (h : MemoryInv s) : MemoryInv (s.copyLine src dst) := by
  grind [State.copyLine, MemoryInv, State.setPoison_mem, State.wf_poke, State.lostError_mem, State.markDirtyAll_keeps, State.noteRead_mem]
theorem State.putPte_keeps {tenant pa e0} (h : MemoryInv s) : MemoryInv (s.putPte tenant pa e0) := by
  grind [State.putPte, MemoryInv, State.recall_mem, State.put_keeps]
theorem State.putNow_keeps {tenant pa count bs} (h : MemoryInv s) : MemoryInv (s.putNow tenant pa count bs) := by
  grind [State.putNow, MemoryInv, countAt_mem, State.recall_mem, State.put_keeps, State.putLine_keeps]
@[simp] theorem State.serveHolder_mem {x kind line} : (s.serveHolder x kind line).mem = s.mem := by
  grind [State.serveHolder, countAt_mem, State.recall_mem, State.homeRead_mem, State.homeOwn_mem]
theorem State.drainCuff_keeps {id fuel} (h : MemoryInv s) : MemoryInv (s.drainCuff id fuel) := by
  fun_induction s.drainCuff id fuel <;> grind [MemoryInv, State.updMove_mem, State.putNow_keeps, State.serveHolder_mem]
theorem State.drainCuffs_keeps (h : MemoryInv s) : MemoryInv (s.drainCuffs) := by
  grind [State.drainCuffs, MemoryInv, State.forEach_memoryInv, State.drainCuff_keeps]
theorem State.leaveCuffs_keeps {b pa write} (h : MemoryInv s) : MemoryInv (s.leaveCuffs b pa write) := by
  grind [State.leaveCuffs, MemoryInv, State.drainCuffs_keeps]
theorem State.putHome_keeps {tenant pa count bs} (h : MemoryInv s) : MemoryInv (s.putHome tenant pa count bs) := by
  grind [State.putHome, MemoryInv, State.updMove_mem, State.recall_mem, State.putNow_keeps]

/-! ## Walk -/

@[simp] theorem State.noteWalk_mem {root va} : (s.noteWalk root va).mem = s.mem := by
  grind [State.noteWalk, State.lostError_mem, State.noteRead_mem]
theorem State.touchLeaf_keeps {tenant a l} (h : MemoryInv s) : MemoryInv (s.touchLeaf tenant a l).2 := by
  grind [State.touchLeaf, MemoryInv, State.putPte_keeps]
@[simp] theorem State.shootFrames_mem {src size} : (s.shootFrames src size).mem = s.mem := rfl
@[simp] theorem State.shootPage_mem {asid va} : (s.shootPage asid va).mem = s.mem := rfl
@[simp] theorem State.recordFault_mem {hub tenant asid f engine} : (s.recordFault hub tenant asid f engine).2.mem = s.mem := by
  grind [State.recordFault, State.newId_mem]
@[simp] theorem State.freeFault_mem {id} : (s.freeFault id).mem = s.mem := by
  grind [State.freeFault]
theorem State.devLookAt_keeps {root tenant hub a va} (h : MemoryInv s) : MemoryInv (s.devLookAt root tenant hub a va).2 := by
  grind [State.devLookAt, MemoryInv, State.noteWalk_mem, State.touchLeaf_keeps, State.recordFault_mem]
theorem State.devLook_keeps {tenant hub a va} (h : MemoryInv s) : MemoryInv (s.devLook tenant hub a va).2 := by
  grind [State.devLook, MemoryInv, State.devLookAt_keeps]

/-! ## Frames -/

@[simp] theorem State.badFrame_mem {hub} : (s.badFrame hub).mem = s.mem := rfl
theorem State.takeRing_keeps {hub place size dpa fuel} (h : MemoryInv s) : MemoryInv (s.takeRing hub place size dpa fuel).2 := by
  induction fuel generalizing s with
  | zero => exact h
  | succ n ih => grind [State.takeRing, MemoryInv, State.wf_poke, State.badFrame_mem]
theorem State.takeFrame_keeps {hub place size} (h : MemoryInv s) : MemoryInv (s.takeFrame hub place size).2 := by
  grind [State.takeFrame, MemoryInv, State.takeRing_keeps]
theorem State.takeFirst_keeps {hub size a4} (h : MemoryInv s) : MemoryInv (s.takeFirst hub size a4).2 := by
  fun_induction s.takeFirst hub size a4 <;> grind [MemoryInv, State.updHub_mem, State.takeFrame_keeps]
theorem State.takeDest_keeps {hub tier size stk} (h : MemoryInv s) : MemoryInv (s.takeDest hub tier size stk).2 := by
  unfold State.takeDest
  grind [MemoryInv, State.takeFrame_keeps, State.takeFirst_keeps]
theorem State.releaseFrame_keeps {hub size ppn} {t} (h : MemoryInv s) (e : s.releaseFrame hub size ppn = some t) : MemoryInv t := by
  grind [State.releaseFrame, MemoryInv, State.wf_poke]
theorem State.writeFrame_keeps {f} (h : MemoryInv s) : MemoryInv (s.writeFrame f) := by
  grind [State.writeFrame, MemoryInv, State.wf_poke, State.setFrame_mem]
theorem State.initFrame_keeps {f} (h : MemoryInv s) : MemoryInv (s.initFrame f) := by
  grind [State.initFrame, MemoryInv, State.wf_poke, State.setFrame_mem]
theorem State.setMulti_keeps {ppn} (h : MemoryInv s) : MemoryInv (s.setMulti ppn) := by
  grind [State.setMulti, MemoryInv, State.wf_poke, State.setFrame_mem]
theorem State.initFrames_keeps {src dest size} (h : MemoryInv s) : MemoryInv (s.initFrames src dest size) := by
  grind [State.initFrames, MemoryInv, State.forEach_memoryInv, State.initFrame_keeps]
@[simp] theorem State.countReq_mem {w pa} : (s.countReq w pa).mem = s.mem := by
  grind [State.countReq, State.perfHubEvent_mem, countAt_mem]
@[simp] theorem State.countLines_mem {w pa n} : (s.countLines w pa n).mem = s.mem := by
  grind [State.countLines, State.forEach_mem, State.countReq_mem]
theorem State.putDdwEntry_keeps {w pa i e0} (h : MemoryInv s) : MemoryInv (s.putDdwEntry w pa i e0) := by
  grind [State.putDdwEntry, MemoryInv, State.putHome_keeps, State.countReq_mem]
@[simp] theorem State.readBucket_mem {w pa} : (s.readBucket w pa).2.mem = s.mem := by
  grind [State.readBucket, State.lostError_mem, State.noteRead_mem, State.countLines_mem]
theorem State.copyFrame_keeps {src dst} (h : MemoryInv s) : MemoryInv (s.copyFrame src dst) := by
  grind [State.copyFrame, MemoryInv, State.forEach_memoryInv, State.copyLine_keeps]
theorem State.cowDone_keeps {w l ppn} (h : MemoryInv s) : MemoryInv (s.cowDone w l ppn) := by
  grind [State.cowDone, MemoryInv, State.putPte_keeps, State.shootPage_mem]
theorem State.cowLarge_keeps {w l} (h : MemoryInv s) : MemoryInv (s.cowLarge w l) := by
  grind [State.cowLarge, MemoryInv, State.forEach_memoryInv, State.putPte_keeps, State.shootPage_mem]
theorem cowCopy_keeps {w l} : Op.Keeps (cowCopy w l) := by
  mvcgen [cowCopy] with grind [MemoryInv, State.takeFrame_keeps, State.initFrame_keeps, State.copyFrame_keeps, State.cowDone_keeps]
theorem cowResolve_keeps {w l} : Op.Keeps (cowResolve w l) := by
  unfold cowResolve
  refine Op.keeps_get_bind fun s h => ?_
  extract_lets ppn r s1 fp va
  have h1 : MemoryInv s1 := by rw [MemoryInv, State.noteRead_mem]; exact h
  clear_value s1 fp va
  generalize ppn * 4096 = pa
  mvcgen [cowCopy_keeps] with
    grind [MemoryInv, State.cowLarge_keeps, State.cowDone_keeps, State.lostError_mem, State.devLook_keeps, State.readBucket_mem,
        State.putDdwEntry_keeps]

/-! ## Translate -/

theorem State.devStore_keeps {tenant va bs} (h : MemoryInv s) : MemoryInv (s.devStore tenant va bs).2 := by
  unfold State.devStore
  extract_lets w
  split
  · grind [MemoryInv, State.noteWalk_mem]
  · rename_i l _
    have cow : Op.Keeps (if bit l.pte 2 then pure () else cowResolve w l) := by
      split
      · exact Op.keeps_pure
      · exact cowResolve_keeps
    have resolved := cow.attempt h
    revert resolved
    generalize Op.attempt _ s = p
    grind [MemoryInv, State.touchLeaf_keeps, State.lostError_mem, State.putHome_keeps]
theorem State.devWrite_keeps {tenant va bs} (h : MemoryInv s) : MemoryInv (s.devWrite tenant va bs).2 := by
  grind [State.devWrite, MemoryInv, State.devStore_keeps]
theorem State.devRead_keeps {tenant va n} (h : MemoryInv s) : MemoryInv (s.devRead tenant va n).2 := by
  grind [State.devRead, MemoryInv, State.lostError_mem, State.noteRead_mem, State.noteWalk_mem, State.touchLeaf_keeps]
@[simp] theorem State.fireEvent_mem {tenant code} : (s.fireEvent tenant code).mem = s.mem := by
  grind [State.fireEvent, State.updTask_mem]
theorem State.tryEvent_keeps {tenant kind addr graph num code} (h : MemoryInv s) : MemoryInv (s.tryEvent tenant kind addr graph num code).2 := by
  grind [State.tryEvent, MemoryInv, State.updTenant_mem, State.devWrite_keeps, State.fireEvent_mem]
theorem State.postEvent_keeps {tenant kind addr graph num code} (h : MemoryInv s) : MemoryInv (s.postEvent tenant kind addr graph num code) := by
  grind [State.postEvent, MemoryInv, State.tryEvent_keeps]
theorem State.tierMiss_keeps {w a e0 va} (h : MemoryInv s) : MemoryInv (s.tierMiss w a e0 va) := by
  grind [State.tierMiss, MemoryInv, State.perfHubEvent_mem, State.tryEvent_keeps]
@[simp] theorem State.tlbFill_mem {t0} : (s.tlbFill t0).mem = s.mem := by
  grind [State.tlbFill]
@[simp] theorem State.tlbFillAll_mem {w page size leaf} : (s.tlbFillAll w page size leaf).mem = s.mem := by
  grind [State.tlbFillAll, State.forEach_mem, State.tlbFill_mem]
theorem walkFill_keeps {w a va fresh} : Op.Keeps (walkFill w a va fresh) := by
  mvcgen [walkFill] with grind [MemoryInv, State.noteWalk_mem, State.touchLeaf_keeps, State.tierMiss_keeps, State.tlbFillAll_mem]
theorem translate_keeps {w a va} : Op.Keeps (translate w a va) := by
  mvcgen [translate, walkFill_keeps] with grind [MemoryInv, State.tlbFillAll_mem]
theorem translateWrite_keeps {w a va} : Op.Keeps (translateWrite w a va) := by
  mvcgen [translateWrite, cowResolve_keeps, translate_keeps]

/-! ## Block -/

@[simp] theorem State.writeDest_mem {r o v} : (s.writeDest r o v).mem = s.mem := by
  unfold State.writeDest
  grind [State.updWave_mem, State.updThread_mem]
@[simp] theorem State.releaseIf_mem {p} : (s.releaseIf p).mem = s.mem := by
  grind [State.releaseIf, State.updThread_mem, State.forEach_mem, State.writeDest_mem]
@[simp] theorem State.raise_mem {r fl} : (s.raise r fl).mem = s.mem := rfl
@[simp] theorem State.syncStep_mem {blk off a} : (s.syncStep blk off a).mem = s.mem := by
  grind [State.syncStep, State.updBlock_mem, State.releaseIf_mem]
@[simp] theorem State.releaseBarrier_mem {blk idx} : (s.releaseBarrier blk idx).mem = s.mem := by
  grind [State.releaseBarrier, State.releaseIf_mem]
@[simp] theorem State.setBarrier_mem {blk idx b} : (s.setBarrier blk idx b).mem = s.mem := by
  grind [State.setBarrier, State.updBlock_mem, State.releaseBarrier_mem]
@[simp] theorem State.exitBarriers_mem {blk} : (s.exitBarriers blk).mem = s.mem := by
  grind [State.exitBarriers, State.forEach_mem, State.setBarrier_mem]
@[simp] theorem State.releaseCwait_mem {r} : (s.releaseCwait r).mem = s.mem := by
  grind [State.releaseCwait, State.releaseIf_mem]
@[simp] theorem State.finishInBatch_mem {r batch code} : (s.finishInBatch r batch code).mem = s.mem := by
  grind [State.finishInBatch, State.updThread_mem, State.releaseCwait_mem]
@[simp] theorem State.addPending_mem {task core} : (s.addPending task core).mem = s.mem := rfl
@[simp] theorem State.subPending_mem {task core} : (s.subPending task core).mem = s.mem := rfl
@[simp] theorem State.sweepFaults_mem : (s.sweepFaults).mem = s.mem := by
  grind [State.sweepFaults, State.forEach_mem, State.freeFault_mem]
@[simp] theorem State.sweepHeld_mem : (s.sweepHeld).mem = s.mem := rfl
theorem State.settleCuffs_keeps (h : MemoryInv s) : MemoryInv (s.settleCuffs) := by
  grind [State.settleCuffs, MemoryInv, State.drainCuffs_keeps]
@[simp] theorem State.endWaves_mem {blk} : (s.endWaves blk).mem = s.mem := rfl
@[simp] theorem State.endBlock_mem {blk} : (s.endBlock blk).mem = s.mem := by
  grind [State.endBlock]
@[simp] theorem State.exitThread_mem {r} : (s.exitThread r).mem = s.mem := by
  grind [State.exitThread, State.updThread_mem, State.exitBarriers_mem, State.endWaves_mem, State.endBlock_mem]
@[simp] theorem State.discardThreads_mem {blk} : (s.discardThreads blk).mem = s.mem := by
  grind [State.discardThreads, State.sweepFaults_mem, State.sweepHeld_mem, State.endWaves_mem, State.endBlock_mem]
@[simp] theorem State.releaseMsync_mem {blk} : (s.releaseMsync blk).mem = s.mem := by
  grind [State.releaseMsync, State.releaseIf_mem]
@[simp] theorem State.raiseMat_mem {o} : (s.raiseMat o).mem = s.mem := by
  grind [State.raiseMat, State.raise_mem]
@[simp] theorem State.writeStatus_mem {o code} : (s.writeStatus o code).mem = s.mem := by
  grind [State.writeStatus, State.updBlock_mem]
@[simp] theorem State.dropMats_mem {blk} : (s.dropMats blk).mem = s.mem := by
  grind [State.dropMats, State.updBlock_mem, State.forEach_mem, State.subPending_mem, State.raiseMat_mem, State.writeStatus_mem]
@[simp] theorem State.cancelMats_mem {blk} : (s.cancelMats blk).mem = s.mem := by
  grind [State.cancelMats, State.releaseMsync_mem, State.dropMats_mem]
@[simp] theorem State.saveMats_mem {blk} : (s.saveMats blk).mem = s.mem := by
  grind [State.saveMats, State.updBlock_mem, State.dropMats_mem]
@[simp] theorem State.markAbort_mem {task e0} : (s.markAbort task e0).mem = s.mem := rfl
@[simp] theorem State.discardTask_mem {task} : (s.discardTask task).mem = s.mem := by
  grind [State.discardTask, State.forEach_mem, State.discardThreads_mem]

/-! ## Strand -/

@[simp] theorem State.updStrand_mem {l k f} : (s.updStrand l k f).mem = s.mem := rfl
@[simp] theorem State.releaseCurq_mem {tenant cursor} : (s.releaseCurq tenant cursor).mem = s.mem := by
  grind [State.releaseCurq, State.releaseIf_mem]
@[simp] theorem State.discardCurq_mem {tenant cursor p} : (s.discardCurq tenant cursor p).mem = s.mem := by
  grind [State.discardCurq, State.releaseIf_mem]
theorem State.clearSlot_keeps {tenant cursor k} (h : MemoryInv s) : MemoryInv (s.clearSlot tenant cursor k) := by
  grind [State.clearSlot, MemoryInv, State.devWrite_keeps, State.devRead_keeps]
theorem State.setSpec_keeps {tenant cursor t0} (h : MemoryInv s) : MemoryInv (s.setSpec tenant cursor t0) := by
  grind [State.setSpec, MemoryInv, State.devWrite_keeps, State.devRead_keeps]
@[simp] theorem State.dropBlock_mem {blk} : (s.dropBlock blk).mem = s.mem := rfl
theorem State.discardSlots_keeps {l k} (h : MemoryInv s) : MemoryInv (s.discardSlots l k) := by
  grind [State.discardSlots, MemoryInv, State.forEach_memoryInv, State.discardCurq_mem, State.clearSlot_keeps, State.setSpec_keeps]
theorem State.rejectOne_keeps {l k byExit} (h : MemoryInv s) : MemoryInv (s.rejectOne l k byExit) := by
  unfold State.rejectOne
  grind [MemoryInv, State.forEach_memoryInv, State.sweepFaults_mem, State.updStrand_mem, State.dropBlock_mem, State.discardSlots_keeps]
theorem State.rejectAbove_keeps {l j byExit} (h : MemoryInv s) : MemoryInv (s.rejectAbove l j byExit) := by
  grind [State.rejectAbove, MemoryInv, State.forEach_memoryInv, State.rejectOne_keeps]
@[simp] theorem State.releaseGcmp_mem {l k v} : (s.releaseGcmp l k v).mem = s.mem := by
  grind [State.releaseGcmp, State.releaseIf_mem]
theorem State.putVerdict_keeps {l k v} (h : MemoryInv s) : MemoryInv (s.putVerdict l k v) := by
  grind [State.putVerdict, MemoryInv, State.updStrand_mem, State.rejectAbove_keeps, State.releaseGcmp_mem]
theorem State.recordVerdict_keeps {l k v} (h : MemoryInv s) : MemoryInv (s.recordVerdict l k v) := by
  grind [State.recordVerdict, MemoryInv, State.putVerdict_keeps]
theorem State.tryVerdict_keeps {l k} (h : MemoryInv s) : MemoryInv (s.tryVerdict l k) := by
  grind [State.tryVerdict, MemoryInv, State.recordVerdict_keeps]
theorem State.tryVerdicts_keeps {l} (h : MemoryInv s) : MemoryInv (s.tryVerdicts l) := by
  grind [State.tryVerdicts, MemoryInv, State.forEach_memoryInv, State.tryVerdict_keeps]
theorem State.sealProduced_keeps {l k} (h : MemoryInv s) : MemoryInv (s.sealProduced l k) := by
  grind [State.sealProduced, MemoryInv, State.updStrand_mem, State.putVerdict_keeps, State.tryVerdicts_keeps]
theorem State.sealGuess_keeps {l k} (h : MemoryInv s) : MemoryInv (s.sealGuess l k) := by
  grind [State.sealGuess, MemoryInv, State.updStrand_mem, State.tryVerdicts_keeps]

/-! ## ThreadMem -/

theorem cuffCheck_keeps {b pa write} : Op.Keeps (cuffCheck b pa write) := by
  mvcgen [cuffCheck] with grind [MemoryInv, State.joinCuff_mem]
@[simp] theorem State.touchLine_mem {b va write bad} : (s.touchLine b va write bad).mem = s.mem := by
  unfold State.touchLine
  grind
@[simp] theorem State.readRequest_mem {w leaf pa} : (s.readRequest w leaf pa).mem = s.mem := by
  grind [State.readRequest, State.perfCoreEvent_mem, State.recall_mem, State.fillL1_mem, State.lockLine_mem, State.homeRead_mem, State.countReq_mem]
@[simp] theorem State.writeRequest_mem {w leaf pa atHome} : (s.writeRequest w leaf pa atHome).mem = s.mem := by
  grind [State.writeRequest, State.setDir_mem, State.dropL1_mem, State.recall_mem, State.lockLine_mem, State.homeOwn_mem, State.countReq_mem]
theorem readPa_keeps {w b a leaf pa va n} : Op.Keeps (readPa w b a leaf pa va n) := by
  mvcgen [readPa, cuffCheck_keeps] with grind [MemoryInv, State.lostError_mem, State.noteRead_mem, State.leaveCuffs_keeps, State.readRequest_mem]
theorem writePa_keeps {w b leaf pa bs atHome} : Op.Keeps (writePa w b leaf pa bs atHome) := by
  mvcgen [writePa, cuffCheck_keeps] with grind [MemoryInv, State.lostError_mem, State.put_keeps, State.putLine_keeps, State.leaveCuffs_keeps,
      State.writeRequest_mem]
@[simp] theorem State.noteScratch_mem {blk o n} : (s.noteScratch blk o n).mem = s.mem := by
  grind [State.noteScratch, State.findErrors_mem]
theorem readScratch_keeps {blk o n va a} : Op.Keeps (readScratch blk o n va a) := by
  mvcgen [readScratch] with grind [MemoryInv, State.noteScratch_mem]
@[simp] theorem State.putScratch_mem {blk o bs} : (s.putScratch blk o bs).mem = s.mem := rfl
@[simp] theorem State.strandRead_mem {l k va pa n} : (s.strandRead l k va pa n).2.mem = s.mem := by
  grind [State.strandRead, State.updStrand_mem]
theorem State.conflicts_keeps {l k va pa} (h : MemoryInv s) : MemoryInv (s.conflicts l k va pa) := by
  grind [State.conflicts, MemoryInv, State.recordVerdict_keeps]
@[simp] theorem State.remapStrands_mem {src dest size} : (s.remapStrands src dest size).mem = s.mem := by
  grind [State.remapStrands]
theorem publishAddr_keeps {w va} : Op.Keeps (publishAddr w va) := by
  mvcgen [publishAddr] with grind [MemoryInv, Op.Keeps.attempt, translateWrite_keeps, State.devLookAt_keeps]
theorem publishAt_keeps {w counted va n f} : Op.Keeps (publishAt w counted va n f) := by
  mvcgen [publishAt, writePa_keeps, publishAddr_keeps] with grind [MemoryInv, State.put_keeps]
theorem publishOp_keeps {lp counted op} : Op.Keeps (publishOp lp counted op) := by
  mvcgen [publishOp, publishAt_keeps] with grind [MemoryInv, State.raise_mem]
theorem State.settleOp_keeps {α : Type} {x : Op α} (hx : Op.Keeps x) (h : MemoryInv s) : MemoryInv (s.settleOp x).2 := by
  grind [State.settleOp, MemoryInv, Op.Keeps.ok]
theorem devPut_keeps {tenant va bs} : Op.Keeps (devPut tenant va bs) := by
  mvcgen [devPut] with grind [MemoryInv, State.devStore_keeps]
theorem devGet_keeps {tenant va n} : Op.Keeps (devGet tenant va n) := by
  mvcgen [devGet] with grind [MemoryInv, State.devRead_keeps]
theorem devSpan_keeps {tenant fuel va bs} : Op.Keeps (devSpan tenant fuel va bs) := by
  induction fuel generalizing va bs with
  | zero => exact Op.keeps_pure
  | succ n ih => mvcgen [devSpan, devPut_keeps, ih]
theorem publish_keeps {l k} : Op.Keeps (publish l k) := by
  refine Op.keeps_get_bind fun s h => ?_
  split
  · exact Op.keeps_pure
  rename_i lp _
  extract_lets counted body
  have hb : Op.Keeps body := by
    refine Op.keeps_bind (Op.keeps_forIn fun i _ => ?_) fun _ => Op.keeps_pure
    split
    · exact Op.keeps_pure
    · refine Op.keeps_bind (Op.keeps_forIn fun op _ => Op.keeps_bind publishOp_keeps fun _ => Op.keeps_pure) fun _ => ?_
      exact Op.keeps_bind (Op.keeps_modify fun _ h => h) fun _ => Op.keeps_pure
  split
  · exact Op.keeps_set (hb.ok h ‹_›)
  · exact Op.keeps_bind (Op.keeps_set (State.settleOp_keeps hb h)) fun _ => Op.keeps_throw
theorem awaitHead_keeps {strand} : Op.Keeps (awaitHead strand) := by
  mvcgen [awaitHead, publish_keeps]
theorem State.touchSlots_keeps {strand} (h : MemoryInv s) : MemoryInv (s.touchSlots strand) := by
  grind [State.touchSlots, MemoryInv, State.forEach_memoryInv, State.devRead_keeps]
theorem slotWait_keeps {c va} : Op.Keeps (slotWait c va) := by
  mvcgen [slotWait] with grind [MemoryInv, State.touchSlots_keeps]
theorem readGlobal_keeps {c a va n} : Op.Keeps (readGlobal c a va n) := by
  mvcgen [readGlobal, translate_keeps, readPa_keeps, slotWait_keeps] with grind [MemoryInv, State.strandRead_mem]
theorem storeStrand_keeps {c a l k va mk} : Op.Keeps (storeStrand c a l k va mk) := by
  mvcgen [storeStrand, translate_keeps, publish_keeps] with grind [MemoryInv, State.updStrand_mem, State.conflicts_keeps]
theorem State.headStore_keeps {strand va pa} (h : MemoryInv s) : MemoryInv (s.headStore strand va pa) := by
  unfold State.headStore
  grind [MemoryInv, State.conflicts_keeps]
theorem writeGlobal_keeps {c va bs sem scope} : Op.Keeps (writeGlobal c va bs sem scope) := by
  mvcgen [writeGlobal, translateWrite_keeps, writePa_keeps, awaitHead_keeps, storeStrand_keeps] with grind [MemoryInv, State.headStore_keeps]
theorem readVa_keeps {c a va n} : Op.Keeps (readVa c a va n) := by
  mvcgen [readVa, readScratch_keeps, readGlobal_keeps]
theorem writeVa_keeps {c va bs sem scope} : Op.Keeps (writeVa c va bs sem scope) := by
  mvcgen [writeVa, writeGlobal_keeps]
theorem rmwPa_keeps {c red leaf pa va n atHome f} : Op.Keeps (rmwPa c red leaf pa va n atHome f) := by
  mvcgen [rmwPa, cuffCheck_keeps] with grind [MemoryInv, State.lostError_mem, State.put_keeps, State.noteRead_mem, State.leaveCuffs_keeps,
      State.writeRequest_mem, State.headStore_keeps]
theorem atomGlobal_keeps {c red va op type v cas scope} : Op.Keeps (atomGlobal c red va op type v cas scope) := by
  mvcgen [atomGlobal, translateWrite_keeps, rmwPa_keeps]
theorem atomScratch_keeps {red blk o va op type v cas} : Op.Keeps (atomScratch red blk o va op type v cas) := by
  mvcgen [atomScratch, readScratch_keeps]

/-! ## Visor -/

theorem State.visWrite_keeps {r v} (h : MemoryInv s) : MemoryInv (s.visWrite r v) := by
  unfold State.visWrite
  split
  · split
    · exact h
    extract_lets tenant t reg sid tail head size s1
    generalize ((tail + 2 ^ 32 - head) % 2 ^ 32 == size) = full
    grind [MemoryInv, State.updTenant_mem, State.devWrite_keeps]
  · exact h

/-! ## Ops -/

theorem readPriv_keeps {c w lane o n} : Op.Keeps (readPriv c w lane o n) := by
  mvcgen [readPriv, translate_keeps, readPa_keeps]
theorem writePriv_keeps {c w lane o bs} : Op.Keeps (writePriv c w lane o bs) := by
  mvcgen [writePriv, translateWrite_keeps, writePa_keeps] with grind [MemoryInv, State.fillL1_mem]
theorem writeFrameTo_keeps {c w lane frame} : Op.Keeps (writeFrameTo c w lane frame) := by
  exact Op.keeps_bind (Op.keeps_forIn fun _ _ => Op.keeps_bind writePriv_keeps fun _ => Op.keeps_pure) fun _ => Op.keeps_pure
@[simp] theorem State.park_mem {r f entering} : (s.park r f entering).mem = s.mem := by
  grind [State.park, State.updThread_mem, State.recordFault_mem]
theorem State.noteFault_keeps {tenant r f} (h : MemoryInv s) : MemoryInv (s.noteFault tenant r f) := by
  grind [State.noteFault, MemoryInv, State.visWrite_keeps]
theorem State.takeFault_keeps {r f} (h : MemoryInv s) : MemoryInv (s.takeFault r f) := by
  have noted := fun tenant => State.noteFault_keeps (tenant := tenant) (r := r) (f := f) h
  grind [State.takeFault, MemoryInv, State.markAbort_mem, State.park_mem, State.updThread_mem, writeFrameTo_keeps, → Op.Keeps.ok, → Op.Keeps.error]
theorem State.raiseFault_keeps {r f wavePark} (h : MemoryInv s) : MemoryInv (s.raiseFault r f wavePark) := by
  grind [State.raiseFault, MemoryInv, State.updThread_mem, State.park_mem, State.takeFault_keeps]
theorem foldLanes_keeps {f : LaneCtx → State → LaneRes × State} (hf : ∀ c s, MemoryInv s → MemoryInv (f c s).2) {cs} (h : MemoryInv s) :
    MemoryInv (foldLanes f cs s).2 := by
  induction cs generalizing s with
  | nil => exact h
  | cons c cs ih => exact ih (hf c s h)
@[simp] theorem State.stopThreads_mem {ref} : (s.stopThreads ref).mem = s.mem := by
  grind [State.stopThreads, State.updWave_mem]
theorem finishLanes_keeps {ref len idle rs} (h : MemoryInv s) : MemoryInv (finishLanes ref len idle rs s) := by
  grind [finishLanes, MemoryInv, State.updWave_mem, State.newId_mem, State.forEach_memoryInv, State.exitThread_mem, State.raiseFault_keeps,
      State.stopThreads_mem]
theorem runActing_keeps {acts len} {f : LaneCtx → State → LaneRes × State} (hf : ∀ c s, MemoryInv s → MemoryInv (f c s).2) (h : MemoryInv s) :
    MemoryInv (runActing acts len f s) := by
  grind [runActing, MemoryInv, foldLanes_keeps, finishLanes_keeps]
theorem runLanes_keeps {g len} {f : LaneCtx → State → LaneRes × State} (hf : ∀ c s, MemoryInv s → MemoryInv (f c s).2) (h : MemoryInv s) :
    MemoryInv (runLanes g len f s) := runActing_keeps hf h
theorem runPure_keeps {x f} (h : MemoryInv s) : MemoryInv (runPure x f s) := by
  grind [runPure, MemoryInv, runLanes_keeps]
theorem laneOp_keeps {m : Op LaneRes} (hm : Op.Keeps m) (h : MemoryInv s) : MemoryInv (laneOp m s).2 := by
  grind [laneOp, Op.Keeps.ok, Op.Keeps.error]
theorem runOp_keeps {x} {f : LaneCtx → Op LaneRes} (hf : ∀ c, Op.Keeps (f c)) (h : MemoryInv s) : MemoryInv (runOp x f s) :=
  runLanes_keeps (fun c _ => laneOp_keeps (hf c)) h
theorem runCohort_keeps {x} {m : List LaneCtx → Op (LaneCtx → LaneRes)} (hm : ∀ act, Op.Keeps (m act)) (h : MemoryInv s) :
    MemoryInv (runCohort x m s) := by
  grind [runCohort, runLanes_keeps, Op.Keeps.ok, Op.Keeps.error]

/-! ## Barrier -/

theorem barrierOf_keeps {x leader} : Op.Keeps (barrierOf x leader) := by
  mvcgen [barrierOf]
@[simp] theorem State.arrive_mem {b n} : (s.arrive b n).2.mem = s.mem := by
  grind [State.arrive, State.drawWord_mem]
theorem arriveOp_keeps {x act leader} : Op.Keeps (arriveOp x act leader) := by
  mvcgen [arriveOp, barrierOf_keeps] with grind [MemoryInv, State.setBarrier_mem, State.arrive_mem]
theorem runBarrier_keeps {x} {m : List LaneCtx → LaneCtx → Op (LaneCtx → LaneRes)} (hm : ∀ act c, Op.Keeps (m act c)) (h : MemoryInv s) :
    MemoryInv (runBarrier x m s) := by
  refine runCohort_keeps (fun act => ?_) h
  split
  · exact hm _ _
  · mvcgen
theorem binitOp_keeps {x a2 c} : Op.Keeps (binitOp x a2 c) := by
  mvcgen [binitOp, barrierOf_keeps] with grind [MemoryInv, State.setBarrier_mem]
theorem barvOp_keeps {x act c} : Op.Keeps (barvOp x act c) := by
  mvcgen [barvOp, arriveOp_keeps]
theorem bwaitOp_keeps {x a2 c} : Op.Keeps (bwaitOp x a2 c) := by
  mvcgen [bwaitOp, barrierOf_keeps]
theorem barwOp_keeps {x act c} : Op.Keeps (barwOp x act c) := by
  mvcgen [barwOp, barrierOf_keeps, arriveOp_keeps]
theorem btestOp_keeps {x a2 c} : Op.Keeps (btestOp x a2 c) := by
  mvcgen [btestOp, barrierOf_keeps]

/-! ## Memory -/

theorem placeAt_keeps {kind ea n acc self c} : Op.Keeps (placeAt kind ea n acc self c) := by
  mvcgen [placeAt]
theorem readPlace_keeps {self c p n} : Op.Keeps (readPlace self c p n) := by
  mvcgen [readPlace, readScratch_keeps, readVa_keeps, readPriv_keeps]
theorem writePlace_keeps {self c p bs sem scope} : Op.Keeps (writePlace self c p bs sem scope) := by
  mvcgen [writePlace, writeVa_keeps, writePriv_keeps]
theorem loadOp_keeps {kind x c} : Op.Keeps (loadOp kind x c) := by
  mvcgen [loadOp, placeAt_keeps, readPlace_keeps]
theorem storeOp_keeps {kind x c} : Op.Keeps (storeOp kind x c) := by
  mvcgen [storeOp, placeAt_keeps, writePlace_keeps]
theorem atomPrep_keeps {kind x self c} : Op.Keeps (atomPrep kind x self c) := by
  mvcgen [atomPrep, placeAt_keeps]
theorem atomAt_keeps {self red p x v cas} : Op.Keeps (atomAt self red p x v cas) := by
  mvcgen [atomAt, atomGlobal_keeps, atomScratch_keeps]
theorem atomOp_keeps {kind x c} : Op.Keeps (atomOp kind x c) := by
  mvcgen [atomOp, awaitHead_keeps, atomPrep_keeps, atomAt_keeps]
theorem redOp_keeps {x c} : Op.Keeps (redOp x c) := by
  mvcgen [redOp, awaitHead_keeps, storeStrand_keeps, atomPrep_keeps, atomAt_keeps]
theorem fenceOp_keeps {x c} : Op.Keeps (fenceOp x c) := by
  mvcgen [fenceOp, awaitHead_keeps]
theorem hintPa_keeps {w ea} (h : MemoryInv s) : MemoryInv (hintPa w ea s).2 := by
  grind [hintPa, MemoryInv, translate_keeps, Op.Keeps.ok, Op.Keeps.error]
theorem prefLane_keeps {x c} (h : MemoryInv s) : MemoryInv (prefLane x c s).2 := by
  grind [prefLane, MemoryInv, State.fillL1_mem, State.lockLine_mem, State.homeRead_mem, State.homeOwn_mem, hintPa_keeps]
@[simp] theorem State.unlockLine_mem {die core line} : (s.unlockLine die core line).mem = s.mem := rfl
theorem cctlLane_keeps {x c} (h : MemoryInv s) : MemoryInv (cctlLane x c s).2 := by
  grind [cctlLane, MemoryInv, State.unL1_mem, State.dropHolder_mem, hintPa_keeps, State.unlockLine_mem]
theorem syncOffset_keeps {x acc self c} : Op.Keeps (syncOffset x acc self c) := by
  mvcgen [syncOffset]
theorem syncAct_keeps {act x c} : Op.Keeps (syncAct act x c) := by
  mvcgen [syncAct, syncOffset_keeps] with grind [MemoryInv, State.syncStep_mem]
theorem syncPassed_keeps {self o g} : Op.Keeps (syncPassed self o g) := by
  mvcgen [syncPassed]
theorem swwaitOp_keeps {x c} : Op.Keeps (swwaitOp x c) := by
  mvcgen [swwaitOp, syncOffset_keeps, syncPassed_keeps]
theorem swtestOp_keeps {x c} : Op.Keeps (swtestOp x c) := by
  mvcgen [swtestOp, syncOffset_keeps, syncPassed_keeps]

/-! ## Cursor -/

theorem curRead_keeps {c va n} : Op.Keeps (curRead c va n) := by
  mvcgen [curRead, translate_keeps, readPa_keeps]
theorem curWrite_keeps {c va bs} : Op.Keeps (curWrite c va bs) := by
  mvcgen [curWrite, translateWrite_keeps, writePa_keeps]
theorem curWrites_keeps {c ws} : Op.Keeps (curWrites c ws) := by
  refine Op.keeps_bind (Op.keeps_forIn fun _ _ => ?_) fun _ => Op.keeps_bind (Op.keeps_forIn fun _ _ => ?_) fun _ => Op.keeps_pure
  · exact Op.keeps_bind translateWrite_keeps fun _ => Op.keeps_pure
  · exact Op.keeps_bind curWrite_keeps fun _ => Op.keeps_pure
theorem cursorOf_keeps {x c waits} : Op.Keeps (cursorOf x c waits) := by
  mvcgen [cursorOf, awaitHead_keeps, curRead_keeps]
theorem ownSlots_keeps {self k last} : Op.Keeps (ownSlots self k last) := by
  mvcgen [ownSlots] with grind [MemoryInv, State.putVerdict_keeps]
theorem readDesc_keeps {self va} : Op.Keeps (readDesc self va) := by
  mvcgen [readDesc, curRead_keeps]
theorem openPage_keeps {self k q force} : Op.Keeps (openPage self k q force) := by
  mvcgen [openPage, curRead_keeps, readDesc_keeps]
theorem curopenOp_keeps {x c} : Op.Keeps (curopenOp x c) := by
  have olds : ∀ (self : Self) (l : List Nat), Op.Keeps (l.mapM fun va => do
      let e ← curRead self (va + 8) 8
      pure (va + 8, natBytes 8 (setFld e 0 0 0))) := fun self l =>
    Op.keeps_mapM fun va => Op.keeps_bind curRead_keeps fun _ => Op.keeps_pure
  mvcgen [curopenOp, cursorOf_keeps, curRead_keeps, readDesc_keeps, openPage_keeps, olds, curWrites_keeps] with
    grind [MemoryInv, State.discardCurq_mem]
theorem qappOp_keeps {x c} : Op.Keeps (qappOp x c) := by
  mvcgen [qappOp, curWrites_keeps, cursorOf_keeps, ownSlots_keeps, openPage_keeps]
theorem closePages_keeps {self k t n l} : Op.Keeps (closePages self k t n l) := by
  induction l with
  | nil => exact Op.keeps_pure
  | cons q qs ih => mvcgen [closePages, openPage_keeps, ih]
theorem curadvOp_keeps {x c} : Op.Keeps (curadvOp x c) := by
  mvcgen [curadvOp, curWrites_keeps, cursorOf_keeps, ownSlots_keeps, closePages_keeps] with grind [MemoryInv, State.updStrand_mem,
      State.releaseCurq_mem]
theorem slotBits_keeps {self k slot clip} : Op.Keeps (slotBits self k slot clip) := by
  mvcgen [slotBits, curRead_keeps]
theorem curqOp_keeps {x c} : Op.Keeps (curqOp x c) := by
  mvcgen [curqOp, cursorOf_keeps, slotBits_keeps]

/-! ## Tasks -/

theorem readSpan_keeps {c fuel va n} : Op.Keeps (readSpan c fuel va n) := by
  induction fuel generalizing va n with
  | zero => exact Op.keeps_pure
  | succ k ih => mvcgen [readSpan, curRead_keeps, ih]
theorem readRecord_keeps {c va n} : Op.Keeps (readRecord c va n) := by
  mvcgen [readRecord, readSpan_keeps]
theorem readExtras_keeps {c r} : Op.Keeps (readExtras c r) := by
  unfold readExtras
  extract_lets nops nsucc oa sa rest
  have tail : ∀ ops, Op.Keeps (rest ops) := fun ops => by
    unfold rest
    extract_lets last
    split
    · exact Op.keeps_pure
    · exact Op.keeps_bind readRecord_keeps fun _ => Op.keeps_pure
  clear_value rest
  split
  · exact tail _
  · exact Op.keeps_bind readRecord_keeps fun _ => tail _
theorem readInstance_keeps {c chosen va body} : Op.Keeps (readInstance c chosen va body) := by
  mvcgen [readInstance, readRecord_keeps, readExtras_keeps]
theorem readLoop_keeps {c chosen va} : Op.Keeps (readLoop c chosen va) := by
  unfold readLoop
  refine Op.keeps_bind readRecord_keeps fun r => ?_
  extract_lets codes
  split
  · exact Op.keeps_pure
  · exact Op.keeps_bind (Op.keeps_mapM fun _ => readInstance_keeps) fun _ => Op.keeps_bind readInstance_keeps fun _ => Op.keeps_pure
@[simp] theorem State.enterTask_mem {n} : (s.enterTask n).2.mem = s.mem := by
  grind [State.enterTask, State.updTenant_mem, State.updSlice_mem, State.newId_mem]
theorem submit_keeps {c by_ va} : Op.Keeps (submit c by_ va) := by
  unfold submit
  refine Op.keeps_get_bind fun s _ => Op.keeps_bind readRecord_keeps fun r => ?_
  extract_lets tenant chosen loop codes
  split
  · exact Op.keeps_pure
  refine Op.keeps_bind readExtras_keeps fun x => ?_
  split
  extract_lets rest
  have tail : ∀ lp, Op.Keeps (rest lp) := fun lp => by
    unfold rest
    extract_lets code
    split
    · exact Op.keeps_pure
    refine Op.keeps_get_bind fun s h => ?_
    extract_lets slice
    split
    · exact Op.keeps_pure
    split
    · exact Op.keeps_pure
    split
    rename_i e
    have entered : MemoryInv _ := memoryInv_of_eq e (by rw [MemoryInv, State.enterTask_mem]; exact h)
    split <;> exact Op.keeps_bind (Op.keeps_set entered) fun _ => Op.keeps_pure
  clear_value rest
  split
  · exact Op.keeps_bind readLoop_keeps fun _ => tail _
  · exact tail _
theorem State.cancelLoop_keeps {l} (h : MemoryInv s) : MemoryInv (s.cancelLoop l) := by
  grind [State.cancelLoop, MemoryInv, State.updLoop_mem, State.forEach_memoryInv, State.rejectOne_keeps, State.tryVerdicts_keeps]
theorem State.cancelTask_keeps {id status} (h : MemoryInv s) : MemoryInv (s.cancelTask id status) := by
  grind [State.cancelTask, MemoryInv, State.updTask_mem, State.cancelLoop_keeps]
theorem State.signalTask_keeps {t0 failed} (h : MemoryInv s) : MemoryInv (s.signalTask t0 failed) := by
  grind [State.signalTask, MemoryInv, State.updTask_mem, State.cancelTask_keeps]
theorem State.signalAddr_keeps {tenant addr failed} (h : MemoryInv s) : MemoryInv (s.signalAddr tenant addr failed) := by
  grind [State.signalAddr, MemoryInv, State.updTenant_mem, State.signalTask_keeps]
theorem savingHold_keeps {c} : Op.Keeps (savingHold c) := by
  mvcgen [savingHold]
theorem taskOp_keeps {x} {m : Self → LaneCtx → Op Nat} {c} (hm : ∀ self c, Op.Keeps (m self c)) : Op.Keeps (taskOp x m c) := by
  mvcgen [taskOp, savingHold_keeps, awaitHead_keeps, hm]
theorem tspawnCode_keeps {x self c} : Op.Keeps (tspawnCode x self c) := submit_keeps
theorem gloopCode_keeps {x self c} : Op.Keeps (gloopCode x self c) := by
  mvcgen [gloopCode, submit_keeps]
theorem tdepCode_keeps {x self c} : Op.Keeps (tdepCode x self c) := by
  mvcgen [tdepCode]
theorem tfireCode_keeps {x self c} : Op.Keeps (tfireCode x self c) := by
  mvcgen [tfireCode] with grind [MemoryInv, State.signalAddr_keeps]
theorem tcnclCode_keeps {x self c} : Op.Keeps (tcnclCode x self c) := by
  mvcgen [tcnclCode] with grind [MemoryInv, State.cancelTask_keeps]
theorem tevtOp_keeps {x c} : Op.Keeps (tevtOp x c) := by
  mvcgen [tevtOp, awaitHead_keeps, savingHold_keeps] with grind [MemoryInv, State.postEvent_keeps]

/-! ## Tensor -/

@[simp] theorem State.setTensor_mem {tenant e0} : (s.setTensor tenant e0).mem = s.mem := rfl
theorem State.installGen_keeps {tenant e0 i rec_} (h : MemoryInv s) : MemoryInv (s.installGen tenant e0 i rec_) := by
  unfold State.installGen
  grind [MemoryInv, State.wf_poke, State.setTensor_mem]
@[simp] theorem State.rebind_mem {task tid i} : (s.rebind task tid i).mem = s.mem := by
  unfold State.rebind
  grind [State.updTask_mem]
theorem installTensor_keeps {self tid rec_} : Op.Keeps (installTensor self tid rec_) := by
  mvcgen [installTensor] with grind [MemoryInv, State.installGen_keeps, State.rebind_mem]
theorem tidsetOp_keeps {x c} : Op.Keeps (tidsetOp x c) := by
  mvcgen [tidsetOp, awaitHead_keeps, readRecord_keeps, installTensor_keeps]
theorem tidclrOp_keeps {x c} : Op.Keeps (tidclrOp x c) := by
  mvcgen [tidclrOp, awaitHead_keeps, installTensor_keeps]
theorem tidrdOp_keeps {x c} : Op.Keeps (tidrdOp x c) := by
  have store : ∀ (self : Self) (wb : Nat) (bytes : List Byte), Op.Keeps (forIn (List.range 4) PUnit.unit fun j _ => do
      writeGlobal self (wb + 16 * j) ((bytes.drop (16 * j)).take 16) 0 0
      pure (ForInStep.yield PUnit.unit)) := fun self wb bytes =>
    Op.keeps_forIn fun _ _ => Op.keeps_bind writeGlobal_keeps fun _ => Op.keeps_pure
  unfold tidrdOp
  refine Op.keeps_get_bind fun s h => ?_
  extract_lets self t tid wb i g bytes
  split
  · exact Op.keeps_pure
  split
  · exact Op.keeps_throw
  · exact Op.keeps_bind (store _ _ _) fun _ => Op.keeps_get_bind fun _ _ => Op.keeps_pure

/-! ## Engine -/

theorem engFetch_keeps {c va n} : Op.Keeps (engFetch c va n) := by
  mvcgen [engFetch, translate_keeps] with grind [Op.Keeps.attempt, readPa_keeps]
theorem engRead_keeps {c va n} : Op.Keeps (engRead c va n) := by
  mvcgen [engRead, slotWait_keeps, engFetch_keeps] with grind [MemoryInv, State.touchLine_mem, State.strandRead_mem]
theorem engSpan_keeps {c fuel va n} : Op.Keeps (engSpan c fuel va n) := by
  induction fuel generalizing va n with
  | zero => exact Op.keeps_pure
  | succ k ih => mvcgen [engSpan, engRead_keeps, ih]
theorem engBytes_keeps {c va n} : Op.Keeps (engBytes c va n) := by
  mvcgen [engBytes, engSpan_keeps]
theorem engWrite_keeps {c va bs bad} : Op.Keeps (engWrite c va bs bad) := by
  mvcgen [engWrite, translateWrite_keeps, writePa_keeps] with grind [MemoryInv, State.setBad_mem, State.touchLine_mem, State.headStore_keeps]
theorem engUpdate_keeps {α : Type} {c va n bad} {f : List Byte → List Byte × α} : Op.Keeps (engUpdate c va n bad f) := by
  mvcgen [engUpdate, translateWrite_keeps, cuffCheck_keeps] with
    grind [MemoryInv, State.leaveCuffs_keeps, State.lostError_mem, State.writeRequest_mem, State.noteRead_mem, State.putLine_keeps, State.put_keeps,
      State.touchLine_mem, State.headStore_keeps, State.setBad_mem]
@[simp] theorem State.engScratch_mem {blk o bs bad} : (s.engScratch blk o bs bad).mem = s.mem := rfl
theorem imgWindow_keeps {c va n} : Op.Keeps (imgWindow c va n) := by
  mvcgen [imgWindow]
theorem imgRead_keeps {c va n} : Op.Keeps (imgRead c va n) := by
  mvcgen [imgRead, engBytes_keeps, imgWindow_keeps] with grind [MemoryInv, State.touchLine_mem, State.noteScratch_mem]
theorem imgWrite_keeps {c va bs bad} : Op.Keeps (imgWrite c va bs bad) := by
  mvcgen [imgWrite, engWrite_keeps, imgWindow_keeps]
theorem imgUpdate_keeps {α : Type} {c va n bad} {f : List Byte → List Byte × α} : Op.Keeps (imgUpdate c va n bad f) := by
  mvcgen [imgUpdate, imgWindow_keeps, engUpdate_keeps]
theorem engScratchRead_keeps {c a n} : Op.Keeps (engScratchRead c a n) := by
  mvcgen [engScratchRead] with grind [MemoryInv, State.noteScratch_mem]
@[simp] theorem State.forgetHeld_mem {b} : (s.forgetHeld b).mem = s.mem := by
  grind [State.forgetHeld]
theorem engStep_keeps {α : Type} {c} {m : Op α} (hm : Op.Keeps m) (h : MemoryInv s) : MemoryInv (engStep c m s).2 := by
  grind [engStep, MemoryInv, State.forgetHeld_mem, State.recordFault_mem, → Op.Keeps.ok, → Op.Keeps.error]
@[simp] theorem State.raiseFor_mem {p fl} : (s.raiseFor p fl).mem = s.mem := by
  grind [State.raiseFor, State.raise_mem]
theorem syncOffsetOk_keeps {acc self o} : Op.Keeps (syncOffsetOk acc self o) := by
  mvcgen [syncOffsetOk]

/-! ## Pool -/

theorem State.putOwner_keeps {ppn e0} (h : MemoryInv s) : MemoryInv (s.putOwner ppn e0) := by
  grind [State.putOwner, MemoryInv, State.wf_poke]
@[simp] theorem State.ownerPins_mem {ppn} : (s.ownerPins ppn).2.mem = s.mem := by
  grind [State.ownerPins, State.drawWord_mem]
theorem State.requestFrame_keeps {ppn x fromReg} (h : MemoryInv s) : MemoryInv (s.requestFrame ppn x fromReg).2 := by
  grind [State.requestFrame, MemoryInv, State.forEach_memoryInv, State.recall_mem, State.putOwner_keeps, State.ownerPins_mem]
@[simp] theorem State.poolResult_mem {code cls} : (s.poolResult code cls).mem = s.mem := by
  grind [State.poolResult]
theorem State.serveAcquire_keeps (h : MemoryInv s) : MemoryInv (s.serveAcquire) := by
  grind [State.serveAcquire, MemoryInv, State.requestFrame_keeps, State.poolResult_mem]
theorem State.receiveFrame_keeps {ppn fromPeer} (h : MemoryInv s) : MemoryInv (s.receiveFrame ppn fromPeer) := by
  grind [State.receiveFrame, MemoryInv, State.drawWord_mem, State.writeFrame_keeps]
theorem State.finishHandover_keeps {ppn} (h : MemoryInv s) : MemoryInv (s.finishHandover ppn) := by
  grind [State.finishHandover, MemoryInv, State.putOwner_keeps, State.serveAcquire_keeps, State.receiveFrame_keeps]
@[simp] theorem State.poolCmdFields_mem {v} : (s.poolCmdFields v).mem = s.mem := rfl
theorem State.startCmd_keeps {v} {run : State → State} (hr : ∀ s, MemoryInv s → MemoryInv (run s)) (h : MemoryInv s) : MemoryInv (s.startCmd v run)
    := by
  grind [State.startCmd, MemoryInv, State.poolCmdFields_mem]
theorem State.serveShare_keeps (h : MemoryInv s) : MemoryInv (s.serveShare) := by
  grind [State.serveShare, MemoryInv, State.forEach_memoryInv, State.recall_mem, State.putOwner_keeps, State.poolResult_mem]
@[simp] theorem State.setPort_mem {hub port up} : (s.setPort hub port up).mem = s.mem := rfl
@[simp] theorem State.setPeer_mem {k up} : (s.setPeer k up).mem = s.mem := rfl

/-! ## Placement -/

theorem rangePages_keeps {w fuel va stop} : Op.Keeps (rangePages w fuel va stop) := by
  induction fuel generalizing va with
  | zero => exact Op.keeps_pure
  | succ k ih => mvcgen [rangePages, translate_keeps, ih]
theorem rangeOf_keeps {w va len} : Op.Keeps (rangeOf w va len) := by
  mvcgen [rangeOf, rangePages_keeps]
theorem State.pinEntryStep_mem {c up ppn} {t} (e : s.pinEntryStep c up ppn = .ok t) : t.mem = s.mem := by
  grind [State.pinEntryStep, State.setPin_mem]
theorem State.pinStep_mem {c up ppn} {t} (e : s.pinStep c up ppn = .ok t) : t.mem = s.mem := by
  grind [State.pinStep, State.drawBit_mem, State.pinEntryStep_mem]
theorem State.pinAll_mem {c up frames t} (e : s.pinAll c up frames = .ok t) : t.mem = s.mem := by
  unfold State.pinAll at e
  induction frames generalizing s with
  | nil => cases e; rfl
  | cons f fs ih =>
    rw [List.foldlM_cons] at e
    cases hp : s.pinStep c up f with
    | error n => rw [hp] at e; cases e
    | ok u => rw [hp] at e; rw [ih e, State.pinStep_mem hp]
theorem pinHolds_keeps {pages} : Op.Keeps (pinHolds pages) := by
  refine Op.keeps_get_bind fun s h => Op.keeps_bind (Op.keeps_forIn fun l _ => ?_) fun _ => Op.keeps_pure
  mvcgen
theorem pinRange_keeps {w c up va len} : Op.Keeps (pinRange w c up va len) := by
  mvcgen [pinRange, rangeOf_keeps, pinHolds_keeps] with grind [MemoryInv, State.pinAll_mem]
theorem pageCls_keeps {l} : Op.Keeps (pageCls l) :=
  Op.keeps_foldlM fun _ _ => by mvcgen with grind [MemoryInv, State.ownerPins_mem]
theorem planPage_keeps {q idx l} : Op.Keeps (planPage q idx l) := by
  mvcgen [planPage, pageCls_keeps]
theorem planPages_keeps {q idx l} : Op.Keeps (planPages q idx l) := by
  induction l generalizing idx with
  | nil => exact Op.keeps_pure
  | cons l ls ih => mvcgen [planPages, planPage_keeps, ih]
theorem queueMove_keeps {w q l behind} : Op.Keeps (queueMove w q l behind) := by
  mvcgen [queueMove]
theorem takePool_keeps {idx va l} : Op.Keeps (takePool idx va l) := by
  refine Op.keeps_bind (Op.keeps_forIn fun f _ => ?_) fun _ => Op.keeps_pure
  mvcgen with grind [State.requestFrame_keeps]
theorem State.writeTaff_keeps {tenant l taff} (h : MemoryInv s) : MemoryInv (s.writeTaff tenant l taff) := by
  grind [State.writeTaff, MemoryInv, State.forEach_memoryInv, State.putPte_keeps]
theorem requestPage_keeps {w q taff va idx l p} : Op.Keeps (requestPage w q taff va idx l p) := by
  mvcgen [requestPage, queueMove_keeps, takePool_keeps] with grind [MemoryInv, State.writeTaff_keeps]
theorem requestPages_keeps {w q taff} {note : Redo → State → State} (hn : ∀ r s, MemoryInv s → MemoryInv (note r s)) {r ls} :
    Op.Keeps (requestPages w q taff note r ls) := by
  induction ls generalizing r with
  | nil => mvcgen [requestPages]
  | cons p ls ih => mvcgen [requestPages, requestPage_keeps, ih] with grind
theorem State.writeTaffs_keeps {tenant pages taff} (h : MemoryInv s) : MemoryInv (s.writeTaffs tenant pages taff) := by
  grind [State.writeTaffs, MemoryInv, State.forEach_memoryInv, State.writeTaff_keeps]
theorem moveRange_keeps {w q taff first redo} {note : Redo → State → State} (hn : ∀ r s, MemoryInv s → MemoryInv (note r s)) {va len} :
    Op.Keeps (moveRange w q taff first redo note va len) := by
  have pages := fun {w q taff r ls} => requestPages_keeps (w := w) (q := q) (taff := taff) (r := r) (ls := ls) hn
  mvcgen [moveRange, rangeOf_keeps, rangePages_keeps, planPages_keeps, pages] with grind [State.writeTaffs_keeps]
@[simp] theorem State.pinView_mem {ppn} : (s.pinView ppn).2.mem = s.mem := by
  grind [State.pinView, State.drawWord_mem]
theorem mqryWord_keeps {w va} : Op.Keeps (mqryWord w va) := by
  mvcgen [mqryWord] with grind [MemoryInv, State.pinView_mem]
@[simp] theorem LaneCtx.noteRedo_mem {c r} : (LaneCtx.noteRedo c r s).mem = s.mem := rfl
theorem pinOp_keeps {up x c} : Op.Keeps (pinOp up x c) := by
  mvcgen [pinOp, awaitHead_keeps, pinRange_keeps]
theorem mhintOp_keeps {x c} : Op.Keeps (mhintOp x c) := by
  mvcgen [mhintOp, awaitHead_keeps, moveRange_keeps] with grind [MemoryInv, LaneCtx.noteRedo_mem]
theorem mmoveOp_keeps {x c} : Op.Keeps (mmoveOp x c) := by
  mvcgen [mmoveOp, awaitHead_keeps, moveRange_keeps] with grind [MemoryInv, LaneCtx.noteRedo_mem]
theorem mqryOp_keeps {x c} : Op.Keeps (mqryOp x c) := by
  mvcgen [mqryOp, mqryWord_keeps]
@[simp] theorem State.releaseMoves_mem : (s.releaseMoves).mem = s.mem := by
  grind [State.releaseMoves, State.releaseIf_mem]

/-! ## Copy -/

theorem boxElems_keeps {c g r o n} : Op.Keeps (boxElems c g r o n) := by
  mvcgen [boxElems, engBytes_keeps]
theorem boxScale_keeps {c g r j} : Op.Keeps (boxScale c g r j) := by
  mvcgen [boxScale, engBytes_keeps]
theorem boxScaleWord_keeps {c g r t} : Op.Keeps (boxScaleWord c g r t) :=
  Op.keeps_foldlM fun p i => by
    split
    split
    · exact Op.keeps_pure
    · exact Op.keeps_bind boxScale_keeps fun _ => Op.keeps_pure
theorem boxBytes_keeps {c g r o n} : Op.Keeps (boxBytes c g r o n) := by
  refine Op.keeps_bind boxElems_keeps fun p => ?_
  split
  split
  · exact Op.keeps_pure
  · refine Op.keeps_bind (Op.keeps_foldlM fun p t => ?_) fun _ => Op.keeps_pure
    exact Op.keeps_bind boxScaleWord_keeps fun _ => Op.keeps_pure
theorem fxaddPiece_keeps {c g r o n} : Op.Keeps (fxaddPiece c g r o n) := by
  mvcgen [fxaddPiece, engBytes_keeps, imgUpdate_keeps]
theorem outPiece_keeps {c g r o n} : Op.Keeps (outPiece c g r o n) := by
  mvcgen [outPiece, imgWrite_keeps, boxBytes_keeps, fxaddPiece_keeps]
theorem engWriteSpan_keeps {c bad fuel va bs} : Op.Keeps (engWriteSpan c bad fuel va bs) := by
  induction fuel generalizing va bs with
  | zero => exact Op.keeps_pure
  | succ n ih => mvcgen [engWriteSpan, engWrite_keeps, ih]
theorem newScales_keeps {c g r w} : Op.Keeps (newScales c g r w) :=
  Op.keeps_foldlM fun p i => by
    split
    extract_lets b
    split
    · exact Op.keeps_pure
    split
    · exact Op.keeps_pure
    · exact Op.keeps_bind imgRead_keeps fun _ => Op.keeps_pure
theorem putScales_keeps {c g r} : Op.Keeps (putScales c g r) := by
  refine Op.keeps_bind (Op.keeps_forIn fun l _ => ?_) fun _ => Op.keeps_pure
  exact Op.keeps_bind (Op.keeps_mapM fun _ => newScales_keeps) fun _ => Op.keeps_bind engUpdate_keeps fun _ => Op.keeps_pure
theorem inPiece_keeps {c g r o n} : Op.Keeps (inPiece c g r o n) := by
  mvcgen [inPiece, imgRead_keeps, engWriteSpan_keeps, putScales_keeps]
theorem boxPiece_keeps {c g n} : Op.Keeps (boxPiece c g n) := by
  mvcgen [boxPiece, outPiece_keeps, inPiece_keeps]
theorem lanePiece_keeps {c dst src} : Op.Keeps (lanePiece c dst src) := by
  mvcgen [lanePiece, imgRead_keeps, imgWrite_keeps]
theorem lineParts_keeps {c g p i} : Op.Keeps (lineParts c g p i) :=
  Op.keeps_foldlM fun ps r => by
    extract_lets a b
    split
    · exact Op.keeps_pure
    · exact Op.keeps_bind boxBytes_keeps fun _ => Op.keeps_pure
theorem pageParts_keeps {c g p} : Op.Keeps (pageParts c g p) :=
  Op.keeps_foldlM fun _ _ => Op.keeps_bind lineParts_keeps fun _ => Op.keeps_pure
theorem writeParts_keeps {c va parts} : Op.Keeps (writeParts c va parts) :=
  Op.keeps_bind (Op.keeps_forIn fun _ _ => Op.keeps_bind engWrite_keeps fun _ => Op.keeps_pure) fun _ => Op.keeps_pure
theorem rewriteParts_keeps {c va l parts} : Op.Keeps (rewriteParts c va l parts) := by
  refine Op.keeps_bind (Op.keeps_forIn fun q _ => ?_) fun _ => Op.keeps_pure
  mvcgen [writePa_keeps] with grind [MemoryInv, State.touchLine_mem]
theorem ddwBucketRead_keeps {c hub r fp} : Op.Keeps (ddwBucketRead c hub r fp) := by
  mvcgen [ddwBucketRead] with grind [MemoryInv, State.devLook_keeps, State.readBucket_mem]
theorem engFrame_keeps {c ppn} : Op.Keeps (engFrame c ppn) := by
  mvcgen [engFrame] with grind [MemoryInv, State.lostError_mem, State.noteRead_mem, State.countLines_mem]
theorem pageImage_keeps {c va parts} : Op.Keeps (pageImage c va parts) := by
  refine Op.keeps_bind (Op.keeps_mapM fun i => ?_) fun _ => Op.keeps_pure
  split
  · exact Op.keeps_pure
  · exact Op.keeps_bind engFetch_keeps fun _ => Op.keeps_pure
theorem ddwLeaf_keeps {c va} : Op.Keeps (ddwLeaf c va) := by
  mvcgen [ddwLeaf, translate_keeps]
theorem State.mapCow_keeps {c l ppn} (h : MemoryInv s) : MemoryInv (s.mapCow c l ppn) := by
  grind [State.mapCow, MemoryInv, State.putPte_keeps, State.shootPage_mem]
theorem ddwInsert_keeps {c hub r fp va parts} : Op.Keeps (ddwInsert c hub r fp va parts) := by
  mvcgen [ddwInsert, writeParts_keeps, ddwBucketRead_keeps, ddwLeaf_keeps] with grind [MemoryInv, State.putDdwEntry_keeps, State.mapCow_keeps]
theorem ddwPage_keeps {c g p} : Op.Keeps (ddwPage c g p) := by
  mvcgen [ddwPage, pageParts_keeps, writeParts_keeps, rewriteParts_keeps, ddwBucketRead_keeps, engFrame_keeps, pageImage_keeps, ddwLeaf_keeps,
      ddwInsert_keeps] with grind [MemoryInv, State.perfHubEvent_mem, State.releaseFrame_keeps, State.setMulti_keeps, State.putDdwEntry_keeps,
      State.mapCow_keeps]
@[simp] theorem State.startCopy_mem {id} : (s.startCopy id).mem = s.mem := by
  grind [State.startCopy, State.updCopy_mem]
theorem State.stepCopy_keeps {id} (h : MemoryInv s) : MemoryInv (s.stepCopy id).2 := by
  unfold State.stepCopy
  split
  · exact h
  rename_i c _
  extract_lets self m
  have hm : Op.Keeps m := by
    unfold m
    split
    · exact lanePiece_keeps
    · split
      · exact ddwPage_keeps
      · exact boxPiece_keeps
    · exact Op.keeps_pure
  have step := engStep_keeps (c := self) hm h
  clear_value m
  grind [MemoryInv, State.updCopy_mem]
theorem State.runCopy_keeps {id fuel} (h : MemoryInv s) : MemoryInv (s.runCopy id fuel) := by
  fun_induction s.runCopy id fuel <;> grind [MemoryInv, State.stepCopy_keeps]
@[simp] theorem State.countCopied_mem {tenant hub bytes} : (s.countCopied tenant hub bytes).mem = s.mem := rfl
@[simp] theorem State.endCopyTask_mem {task code bytes poisons failVa} : (s.endCopyTask task code bytes poisons failVa).mem = s.mem := rfl
@[simp] theorem State.endCopy_mem {id} : (s.endCopy id).mem = s.mem := by
  grind [State.endCopy, State.syncStep_mem, State.finishInBatch_mem, State.subPending_mem, State.raiseFor_mem, State.countCopied_mem,
      State.endCopyTask_mem]
theorem State.completeCopy_keeps {id} (h : MemoryInv s) : MemoryInv (s.completeCopy id) := by
  grind [State.completeCopy, MemoryInv, State.runCopy_keeps, State.endCopy_mem]
theorem postSync_keeps {on self o} : Op.Keeps (postSync on self o) := by
  mvcgen [postSync, syncOffsetOk_keeps]
theorem postCopy_keeps {c global kind sw sem scope} : Op.Keeps (postCopy c global kind sw sem scope) := by
  mvcgen [postCopy, awaitHead_keeps]
theorem cpybOp_keeps {x c} : Op.Keeps (cpybOp x c) := by
  mvcgen [cpybOp, postSync_keeps, postCopy_keeps]
theorem cpylOp_keeps {x c} : Op.Keeps (cpylOp x c) := by
  mvcgen [cpylOp, postSync_keeps, postCopy_keeps]
theorem csealOp_keeps {x c} : Op.Keeps (csealOp x c) := by
  mvcgen [csealOp]
theorem cqryOp_keeps {x c} : Op.Keeps (cqryOp x c) := by
  mvcgen [cqryOp]

/-! ## NearMem -/

@[simp] theorem State.postNm_mem {p r inTask} : (s.postNm p r inTask).mem = s.mem := rfl
theorem nmcmdOp_keeps {x c} : Op.Keeps (nmcmdOp x c) := by
  mvcgen [nmcmdOp, awaitHead_keeps, readRecord_keeps]
theorem nmPage_keeps {c writes va} : Op.Keeps (nmPage c writes va) := by
  mvcgen [nmPage, translate_keeps, translateWrite_keeps]
theorem nmPages_keeps {c r} : Op.Keeps (nmPages c r) := by
  have pages : ∀ b (l : List Nat), Op.Keeps (l.mapM (nmPage c b)) := fun b l => Op.keeps_mapM fun _ => nmPage_keeps
  mvcgen [nmPages, pages]
theorem nmLine_keeps {c m} : Op.Keeps (nmLine c m) := by
  mvcgen [nmLine, engBytes_keeps, engWrite_keeps, engUpdate_keeps]
theorem nmResult_keeps {c m} : Op.Keeps (nmResult c m) := by
  mvcgen [nmResult, engWrite_keeps]
theorem nmComplete_keeps {c m} : Op.Keeps (nmComplete c m) := by
  mvcgen [nmComplete, engWrite_keeps]
theorem State.startNm_keeps {id} (h : MemoryInv s) : MemoryInv (s.startNm id) := by
  grind [State.startNm, MemoryInv, engStep_keeps, State.updNm_mem, nmPages_keeps, Op.Keeps.ok, Op.Keeps.error]
theorem State.stepNm_keeps {id} (h : MemoryInv s) : MemoryInv (s.stepNm id).2 := by
  grind [State.stepNm, MemoryInv, engStep_keeps, State.updNm_mem, nmLine_keeps, nmResult_keeps, nmComplete_keeps, Op.Keeps.ok, Op.Keeps.error]
theorem State.runNm_keeps {id fuel} (h : MemoryInv s) : MemoryInv (s.runNm id fuel) := by
  fun_induction s.runNm id fuel <;> grind [MemoryInv, State.stepNm_keeps]
@[simp] theorem State.endNmTask_mem {task i} : (s.endNmTask task i).mem = s.mem := rfl
@[simp] theorem State.endNm_mem {id} : (s.endNm id).mem = s.mem := by
  grind [State.endNm, State.subPending_mem, State.endNmTask_mem]
theorem State.completeNm_keeps {id} (h : MemoryInv s) : MemoryInv (s.completeNm id) := by
  grind [State.completeNm, MemoryInv, State.runNm_keeps, State.endNm_mem]

/-! ## CrossLane -/

theorem runCross_keeps {x f} (h : MemoryInv s) : MemoryInv (runCross x f s) := runCohort_keeps (fun _ => Op.keeps_pure) h
theorem ragAdvance_keeps {self wa n e fuel k first lens} : Op.Keeps (ragAdvance self wa n e fuel k first lens) := by
  induction fuel generalizing k first lens with
  | zero => exact Op.keeps_pure
  | succ m ih => mvcgen [ragAdvance, readVa_keeps, ih]
theorem ragRows_keeps {self wa n b lanes k first lens} : Op.Keeps (ragRows self wa n b lanes k first lens) := by
  induction lanes generalizing k first lens with
  | nil => exact Op.keeps_pure
  | cons l ls ih => mvcgen [ragRows, ragAdvance_keeps, ih]
theorem ragldOp_keeps {x act} : Op.Keeps (ragldOp x act) := by
  mvcgen [ragldOp, ragRows_keeps]

/-! ## System -/

theorem swrOp_keeps {x act} : Op.Keeps (swrOp x act) := by
  mvcgen [swrOp]
@[simp] theorem State.frameTag_mem {code} : (s.frameTag code).2.mem = s.mem := by
  grind [State.frameTag, State.drawWord_mem]
theorem abortHere_keeps {c code} : Op.Keeps (abortHere c code) := by
  mvcgen [abortHere]
theorem tretOp_keeps {x c} : Op.Keeps (tretOp x c) := by
  have words : ∀ self, Op.Keeps ((List.range 16).mapM fun i => readPriv self c.wave c.lane (4 * i) 4) := fun self => Op.keeps_mapM fun _ =>
      readPriv_keeps
  mvcgen [tretOp, words, abortHere_keeps] with grind [MemoryInv, State.frameTag_mem]
theorem hltOp_keeps {x c} : Op.Keeps (hltOp x c) := by
  mvcgen [hltOp, awaitHead_keeps, abortHere_keeps]
theorem dbgmkOp_keeps {x c} : Op.Keeps (dbgmkOp x c) := by
  mvcgen [dbgmkOp] with grind [MemoryInv, State.visWrite_keeps]
theorem allotOperand_keeps {x c} : Op.Keeps (allotOperand x c) := by
  mvcgen [allotOperand]
theorem regshrOp_keeps {x a2 c} : Op.Keeps (regshrOp x a2 c) := by
  mvcgen [regshrOp, allotOperand_keeps]
theorem reggrwOp_keeps {x a2 c} : Op.Keeps (reggrwOp x a2 c) := by
  mvcgen [reggrwOp, allotOperand_keeps]
@[simp] theorem State.grantReggrw_mem {core} : (s.grantReggrw core).mem = s.mem := by
  grind [State.grantReggrw, State.updCore_mem, State.updWave_mem]

/-! ## Launch -/

theorem State.taskPart_keeps {t0 va n} (h : MemoryInv s) : MemoryInv (s.taskPart t0 va n).2 := by
  grind [State.taskPart, MemoryInv, State.updTask_mem, State.lostError_mem, State.devLook_keeps]
theorem State.taskRead_keeps {t0 fuel va n} (h : MemoryInv s) : MemoryInv (s.taskRead t0 fuel va n).2 := by
  fun_induction s.taskRead t0 fuel va n <;> grind [MemoryInv, State.taskPart_keeps]
theorem State.readHeader_keeps {t0} (h : MemoryInv s) : MemoryInv (s.readHeader t0).2 := by
  grind [State.readHeader, MemoryInv, State.taskPart_keeps, State.taskRead_keeps]
@[simp] theorem State.beginTask_mem {id} : (s.beginTask id).mem = s.mem := by
  grind [State.beginTask, State.updTask_mem]
@[simp] theorem State.startBlock_mem {id core h0} : (s.startBlock id core h0).mem = s.mem := by
  grind [State.startBlock, State.updTask_mem, State.newId_mem, State.beginTask_mem]
@[simp] theorem State.endTask_mem {id e0} : (s.endTask id e0).mem = s.mem := rfl
theorem State.endLoopAt_keeps {l k e0} (h : MemoryInv s) : MemoryInv (s.endLoopAt l k e0) := by
  grind [State.endLoopAt, MemoryInv, State.updLoop_mem, State.forEach_memoryInv, State.rejectOne_keeps, State.tryVerdicts_keeps]
theorem State.launchOf_keeps {t0} (h : MemoryInv s) : MemoryInv (s.launchOf t0).2 := by
  grind [State.launchOf, MemoryInv, State.readHeader_keeps]
theorem State.refuse_keeps {t0 e0 loopEnds} (h : MemoryInv s) : MemoryInv (s.refuse t0 e0 loopEnds) := by
  unfold State.refuse
  grind [MemoryInv, State.endTask_mem, State.endLoopAt_keeps]
@[simp] theorem State.setSlice_mem {h0 sl} : (s.setSlice h0 sl).mem = s.mem := rfl
theorem placeGang_mem {id h0 cores n} {t} (e : placeGang id h0 cores n s = some t) : t.mem = s.mem := by
  fun_induction placeGang id h0 cores n s <;> grind [State.startBlock_mem]
theorem State.dispatchBlock_keeps {core} (h : MemoryInv s) : MemoryInv (s.dispatchBlock core) := by
  grind [State.dispatchBlock, MemoryInv, State.startBlock_mem, State.endTask_mem, State.launchOf_keeps, State.refuse_keeps, State.setSlice_mem]
theorem State.dispatchGang_keeps {task inst} (h : MemoryInv s) : MemoryInv (s.dispatchGang task inst) := by
  unfold State.dispatchGang
  split <;> grind [MemoryInv, State.updTask_mem, State.endTask_mem, State.launchOf_keeps, State.refuse_keeps, State.setSlice_mem, placeGang_mem]
@[simp] theorem State.reserveGang_mem {task inst} : (s.reserveGang task inst).mem = s.mem := by
  grind [State.reserveGang, State.updTask_mem]
@[simp] theorem State.dispatchHost_mem {slice} : (s.dispatchHost slice).mem = s.mem := by
  grind [State.dispatchHost, State.updTenant_mem, State.beginTask_mem, State.setSlice_mem]
theorem State.startNmTask_keeps {slice} (h : MemoryInv s) : MemoryInv (s.startNmTask slice) := by
  grind [State.startNmTask, MemoryInv, State.updTask_mem, State.postNm_mem, State.taskRead_keeps, State.beginTask_mem, State.endTask_mem,
      State.setSlice_mem]
theorem State.startCopyTask_keeps {slice} (h : MemoryInv s) : MemoryInv (s.startCopyTask slice) := by
  unfold State.startCopyTask
  split <;> grind [MemoryInv, State.newId_mem, Op.Keeps.attempt, State.endCopyTask_mem, State.taskRead_keeps, State.beginTask_mem,
      State.setSlice_mem, awaitHead_keeps, Op.Keeps.ok, Op.Keeps.error]

/-! ## Fabric -/

@[simp] theorem State.cteUp_mem {n v} : (s.cteUp n v).mem = s.mem := by
  grind [State.cteUp, State.updCte_mem]
@[simp] theorem State.cteDown_mem {n v} : (s.cteDown n v).mem = s.mem := by
  grind [State.cteDown, State.updCte_mem]
@[simp] theorem State.circuitUp_mem {n} : (s.circuitUp n).mem = s.mem := rfl
@[simp] theorem State.circuitDrained_mem {n} : (s.circuitDrained n).mem = s.mem := rfl
@[simp] theorem State.linkEnd_mem {l} : (s.linkEnd l).2.mem = s.mem := by
  grind [State.linkEnd, State.drawBit_mem]
@[simp] theorem State.flitError_mem {l} : (s.flitError l).mem = s.mem := by
  grind [State.flitError, State.updHub_mem, State.updDie_mem, State.linkEnd_mem]
@[simp] theorem State.linkDown_mem {l} : (s.linkDown l).mem = s.mem := by
  unfold State.linkDown
  grind [State.hubError_mem, State.dieError_mem, State.updCte_mem, State.linkEnd_mem]
@[simp] theorem State.halfWidth_mem {stack channel fault} : (s.halfWidth stack channel fault).mem = s.mem := by
  grind [State.halfWidth]
@[simp] theorem State.fullWidth_mem {stack channel} : (s.fullWidth stack channel).mem = s.mem := by
  grind [State.fullWidth]
@[simp] theorem State.setLimits_mem {b f} : (s.setLimits b f).mem = s.mem := rfl

/-! ## Boot -/

theorem State.lost_keeps {b why} : MemoryInv (s.lost b why) := rfl
theorem State.critical_keeps : MemoryInv (s.critical) := by
  grind [State.critical, MemoryInv, State.lost_keeps]
theorem State.boot_keeps {failedStep} : MemoryInv (s.boot failedStep) := by
  grind [State.boot, MemoryInv, State.lost_keeps]
theorem State.putSpan_keeps {fuel pa a4} (h : MemoryInv s) : MemoryInv (s.putSpan fuel pa a4) := by
  fun_induction s.putSpan fuel pa a4 <;> grind [MemoryInv, State.putHome_keeps]
@[simp] theorem State.freeBytes_mem {n} : (s.freeBytes n).2.mem = s.mem := by
  fun_induction s.freeBytes n <;> grind [State.drawWord_mem]
theorem State.attestWrite_keeps {v} (h : MemoryInv s) : MemoryInv (s.attestWrite v) := by
  grind [State.attestWrite, MemoryInv, State.lostError_mem, State.noteRead_mem, State.putSpan_keeps, State.freeBytes_mem]
theorem State.vaultBytes_mem {v e} : (s.vaultBytes v e).2.mem = s.mem := by
  unfold State.vaultBytes
  extract_lets first
  generalize v.shardData e = bs
  generalize s.latent = ps
  induction ps generalizing s bs with
  | nil => rfl
  | cons p ps ih =>
    rw [List.foldl_cons, ih]
    grind [State.freeBytes_mem, State.countError_mem]
@[simp] theorem State.fetchShard_mem {v e0} : (s.fetchShard v e0).2.mem = s.mem := by
  grind [State.fetchShard, State.freeBytes_mem, State.vaultBytes_mem]
@[simp] theorem State.vaultResult_mem {code} : (s.vaultResult code).mem = s.mem := by
  grind [State.vaultResult]
theorem State.vaultRead_keeps {v} (h : MemoryInv s) : MemoryInv (s.vaultRead v) := by
  grind [State.vaultRead, MemoryInv, State.putSpan_keeps, State.fetchShard_mem, State.vaultResult_mem]
@[simp] theorem State.relayShard_mem {peer image} : (s.relayShard peer image).mem = s.mem := by
  grind [State.relayShard, State.vaultBytes_mem]
@[simp] theorem State.installImage_mem {v} : (s.installImage v).mem = s.mem := by
  grind [State.installImage]
@[simp] theorem State.sensor_mem {x} : (s.sensor x).2.mem = s.mem := by
  unfold State.sensor
  grind
@[simp] theorem State.reply_mem {x} : (s.reply x).mem = s.mem := rfl

/-! ## Control -/

@[simp] theorem State.stopAt_mem {r} : (s.stopAt r).mem = s.mem := rfl
theorem runSafept_keeps {x} (h : MemoryInv s) : MemoryInv (runSafept x s) := by
  grind [runSafept, MemoryInv, State.updWave_mem, State.updBlock_mem, State.perfCoreEvent_mem, State.forEach_memoryInv, runPure_keeps,
      State.stopAt_mem]
theorem waitPass_keeps {c ea cond b t0 limit level} : Op.Keeps (waitPass c ea cond b t0 limit level) := by
  mvcgen [waitPass, readVa_keeps]
theorem waitLane_keeps {d ea cond b limit level c} : Op.Keeps (waitLane d ea cond b limit level c) := by
  mvcgen [waitLane, waitPass_keeps]
theorem waitwOp_keeps {x c} : Op.Keeps (waitwOp x c) := by
  mvcgen [waitwOp, waitLane_keeps]
theorem twaitOp_keeps {x c} : Op.Keeps (twaitOp x c) := by
  mvcgen [twaitOp, waitLane_keeps]
theorem State.faultAt_keeps {r f} (h : MemoryInv s) : MemoryInv (s.faultAt r f) := by
  grind [State.faultAt, MemoryInv, State.raiseFault_keeps]
theorem State.pollWait_keeps {r} (h : MemoryInv s) : MemoryInv (s.pollWait r) := by
  unfold State.pollWait
  split
  · exact h
  split
  · split
    · exact waitPass_keeps.ok h ‹_›
    · rw [MemoryInv, State.updThread_mem, State.writeDest_mem]
      exact waitPass_keeps.ok h ‹_›
    · exact State.faultAt_keeps (waitPass_keeps.error h ‹_›)
    · exact waitPass_keeps.error h ‹_›
  · exact h
@[simp] theorem State.endNap_mem {r} : (s.endNap r).mem = s.mem := by
  grind [State.endNap, State.updThread_mem]

/-! ## Faults -/

theorem State.raiseHeld_keeps {w} (h : MemoryInv s) : MemoryInv (s.raiseHeld w) := by
  grind [State.raiseHeld, MemoryInv, State.forEach_memoryInv, State.raiseFault_keeps]
theorem State.enterHandler_keeps {r} (h : MemoryInv s) : MemoryInv (s.enterHandler r) := by
  grind [State.enterHandler, MemoryInv, State.raiseFault_keeps, State.raiseHeld_keeps]
theorem State.writeFaultRecord_keeps {hub tenant} (h : MemoryInv s) : MemoryInv (s.writeFaultRecord hub tenant) := by
  grind [State.writeFaultRecord, MemoryInv, State.updTenant_mem, State.perfHubEvent_mem, State.devStore_keeps]
@[simp] theorem State.abortEntering_mem {id} : (s.abortEntering id).mem = s.mem := by
  grind [State.abortEntering, State.forEach_mem, State.markAbort_mem]
@[simp] theorem State.resolveFault_mem {e0 ok} : (s.resolveFault e0 ok).mem = s.mem := by
  grind [State.resolveFault, State.mapThreads_mem, State.freeFault_mem, State.abortEntering_mem]
@[simp] theorem State.runFltres_mem {hub action v} : (s.runFltres hub action v).mem = s.mem := by
  grind [State.runFltres, State.updHub_mem, State.resolveFault_mem]

/-! ## Host -/

@[simp] theorem State.hartExc_mem {n e0} : (s.hartExc n e0).mem = s.mem := rfl
theorem runHost_keeps {i} {m : Nat → Hart → Op (Option Nat)} (hm : ∀ n h, Op.Keeps (m n h)) (h : MemoryInv s) : MemoryInv (runHost i m s) := by
  unfold runHost
  split
  · exact h
  rename_i n _
  extract_lets s1
  have h1 : MemoryInv s1 := h
  clear_value s1
  grind [MemoryInv, State.updHart_mem, State.hartExc_mem, → Op.Keeps.ok, → Op.Keeps.error]
theorem hsubmitOp_keeps {i n h0} : Op.Keeps (hsubmitOp i n h0) := by
  mvcgen [hsubmitOp, submit_keeps, savingHold_keeps]
theorem hwaitOp_keeps {i n h0} : Op.Keeps (hwaitOp i n h0) := by
  mvcgen [hwaitOp, readVa_keeps]
theorem hpinOp_keeps {up i n h0} : Op.Keeps (hpinOp up i n h0) := by
  mvcgen [hpinOp, pinRange_keeps]
@[simp] theorem noteHart_mem {n r} : (noteHart n r s).mem = s.mem := rfl
theorem hmhintOp_keeps {i n h0} : Op.Keeps (hmhintOp i n h0) := by
  mvcgen [hmhintOp, moveRange_keeps] with grind [MemoryInv, noteHart_mem]
theorem hmqryOp_keeps {i n h0} : Op.Keeps (hmqryOp i n h0) := by
  mvcgen [hmqryOp, mqryWord_keeps]
@[simp] theorem State.writeHtenant_mem {n csr v} : (s.writeHtenant n csr v).mem = s.mem := by
  grind [State.writeHtenant, State.updHart_mem, State.hartExc_mem]

/-! ## Moves -/

@[simp] theorem State.askHome_mem {x kind line} : (s.askHome x kind line).mem = s.mem := by
  grind [State.askHome, State.updMove_mem, State.serveHolder_mem]
@[simp] theorem State.displace_mem {line} : (s.displace line).mem = s.mem := by
  grind [State.displace, State.recall_mem]
theorem State.walkPage_keeps {die tenant va a} (h : MemoryInv s) : MemoryInv (s.walkPage die tenant va a) := by
  grind [State.walkPage, MemoryInv, Op.run?, walkFill_keeps, Op.Keeps.ok, Op.Keeps.error]
theorem State.resolveCow_keeps {tenant va} (h : MemoryInv s) : MemoryInv (s.resolveCow tenant va) := by
  grind [State.resolveCow, MemoryInv, Op.run?, cowResolve_keeps, Op.Keeps.ok, Op.Keeps.error]
theorem State.markSource_keeps {m g} (h : MemoryInv s) : MemoryInv (s.markSource m g) := by
  grind [State.markSource, MemoryInv, State.forEach_memoryInv, State.writeFrame_keeps]
@[simp] theorem State.dropMove_mem {m src} : (s.dropMove m src).mem = s.mem := by
  grind [State.dropMove, State.releaseMoves_mem]
theorem State.abandonMove_keeps {m heldCnt} (h : MemoryInv s) : MemoryInv (s.abandonMove m heldCnt) := by
  grind [State.abandonMove, MemoryInv, State.writeFrame_keeps, State.markSource_keeps, State.dropMove_mem]
theorem State.beginMove_keeps {m d} (h : MemoryInv s) : MemoryInv (s.beginMove m d) := by
  grind [State.beginMove, MemoryInv, State.updMove_mem, State.forEach_memoryInv, State.putPte_keeps, State.releaseFrame_keeps,
      State.writeFrame_keeps, State.initFrames_keeps, State.markSource_keeps, State.abandonMove_keeps]
theorem State.startMove_keeps {hub} (h : MemoryInv s) : MemoryInv (s.startMove hub) := by
  grind [State.startMove, MemoryInv, State.takeDest_keeps, State.beginMove_keeps]
theorem State.copyMoveLine_keeps {id} (h : MemoryInv s) : MemoryInv (s.copyMoveLine id) := by
  grind [State.copyMoveLine, MemoryInv, State.updMove_mem, State.copyLine_keeps]
@[simp] theorem State.recallSource_mem {m} : (s.recallSource m).mem = s.mem := by
  grind [State.recallSource, State.forEach_mem, State.recall_mem]
theorem State.giveUp_keeps {m d} (h : MemoryInv s) : MemoryInv (s.giveUp m d) := by
  grind [State.giveUp, MemoryInv, State.releaseFrame_keeps, State.abandonMove_keeps]
theorem State.openCuff_keeps {id} (h : MemoryInv s) : MemoryInv (s.openCuff id) := by
  grind [State.openCuff, MemoryInv, State.updMove_mem, State.recallSource_mem, State.giveUp_keeps]
theorem State.closeCuff_keeps {id retryAt} (h : MemoryInv s) : MemoryInv (s.closeCuff id retryAt) := by
  grind [State.closeCuff, MemoryInv, State.updMove_mem, State.drainCuffs_keeps]
theorem State.installForward_keeps {id} (h : MemoryInv s) : MemoryInv (s.installForward id) := by
  unfold State.installForward
  grind [MemoryInv, State.updMove_mem, State.forEach_memoryInv, State.putPte_keeps, State.drainCuffs_keeps, State.shootFrames_mem,
      State.remapStrands_mem, State.recallSource_mem, State.closeCuff_keeps]
theorem State.abandonCuff_keeps {id} (h : MemoryInv s) : MemoryInv (s.abandonCuff id) := by
  grind [State.abandonCuff, MemoryInv, State.perfHubEvent_mem, State.closeCuff_keeps]
@[simp] theorem State.movePins_mem {m} : (s.movePins m).mem = s.mem := rfl
theorem State.retireMove_keeps {id} (h : MemoryInv s) : MemoryInv (s.retireMove id) := by
  grind [State.retireMove, MemoryInv, State.perfHubEvent_mem, State.releaseFrame_keeps, State.markSource_keeps, State.dropMove_mem,
      State.movePins_mem]
@[simp] theorem State.startTlbinv_mem {hub kind v gone} : (s.startTlbinv hub kind v gone).mem = s.mem := by
  grind [State.startTlbinv, State.updHub_mem, State.dropTlb_mem]
@[simp] theorem State.endTlbinv_mem {hub} : (s.endTlbinv hub).mem = s.mem := rfl
theorem State.runFstq_keeps {hub op v} {f : FrameState → State → Nat × State} (hf : ∀ x s, MemoryInv s → MemoryInv (f x s).2) (h : MemoryInv s) :
    MemoryInv (s.runFstq hub op v f) := by
  grind [State.runFstq, MemoryInv, State.updHub_mem]
theorem State.fstqReload_keeps {hub v} (h : MemoryInv s) : MemoryInv (s.fstqReload hub v) :=
  State.runFstq_keeps (fun x s h => by rw [MemoryInv, State.reloadFrame_mem, State.setFrame_mem]; exact h) h
theorem State.fstqRead_keeps {hub v} (h : MemoryInv s) : MemoryInv (s.fstqRead hub v) := State.runFstq_keeps (fun _ _ h => h) h
theorem State.fstqWrite_keeps {hub v} (h : MemoryInv s) : MemoryInv (s.fstqWrite hub v) := by
  grind [State.fstqWrite, MemoryInv, State.writeFrame_keeps, State.runFstq_keeps]

/-! ## Loops -/

theorem writeLoopBlock_keeps {l cause} : Op.Keeps (writeLoopBlock l cause) := by
  mvcgen [writeLoopBlock, devSpan_keeps]
theorem finishLoop_keeps {l cause e0} : Op.Keeps (finishLoop l cause e0) := by
  mvcgen [finishLoop, writeLoopBlock_keeps]
@[simp] theorem State.enterInstance_mem {l c strand guessOf} : (s.enterInstance l c strand guessOf).mem = s.mem := by
  grind [State.enterInstance, State.updTask_mem, State.enterTask_mem]
@[simp] theorem State.beginStrand_mem {l k} : (s.beginStrand l k).mem = s.mem := by
  grind [State.beginStrand, State.forEach_mem, State.updStrand_mem, State.enterInstance_mem]
theorem loopCommits_keeps {lp} : Op.Keeps (loopCommits lp) := Op.keeps_mapM fun _ => Op.keeps_bind devGet_keeps fun _ => Op.keeps_pure
theorem beginRound_keeps {l} : Op.Keeps (beginRound l) := by
  mvcgen [beginRound, loopCommits_keeps] with grind [MemoryInv, State.updLoop_mem, State.enterInstance_mem, State.beginStrand_mem]
@[simp] theorem State.startStrand_mem {l k} : (s.startStrand l k).mem = s.mem := by
  grind [State.startStrand, State.beginStrand_mem]
theorem State.startLoop_keeps {slice} (h : MemoryInv s) : MemoryInv (s.startLoop slice) := by
  unfold State.startLoop
  split
  · exact h
  split
  · exact h
  rename_i t x _ _ lp _
  have read := State.taskRead_keeps (t0 := t) (fuel := 4) (va := lp.stateVa) (n := 128) h
  split
  · exact memoryInv_of_eq ‹_› read
  extract_lets begin_
  refine State.settleOp_keeps ?_ (memoryInv_of_eq ‹_› read)
  refine Op.keeps_bind (Op.keeps_modify fun s hs => ?_) fun _ => ?_
  · grind [MemoryInv, State.updLoop_mem, State.beginTask_mem, State.setSlice_mem]
  split
  · exact finishLoop_keeps
  · exact Op.keeps_pure
  · refine Op.keeps_bind (Op.keeps_modify fun s hs => hs) fun _ => ?_
    split
    · exact finishLoop_keeps
    split
    · exact finishLoop_keeps
    · exact beginRound_keeps
theorem fillSlot_keeps {tenant cursor slot} : Op.Keeps (fillSlot tenant cursor slot) := by
  mvcgen [fillSlot, devPut_keeps, devGet_keeps, devSpan_keeps]
theorem setCommit_keeps {tenant cursor t0} : Op.Keeps (setCommit tenant cursor t0) := by
  mvcgen [setCommit, devPut_keeps, devGet_keeps] with grind [MemoryInv, State.setSpec_keeps]
theorem commitCursors_keeps {lp m} : Op.Keeps (commitCursors lp m) := by
  refine Op.keeps_bind (Op.keeps_forIn fun i _ => ?_) fun _ => Op.keeps_pure
  refine Op.keeps_bind (Op.keeps_forIn fun k _ => ?_) fun _ => ?_
  · exact Op.keeps_bind (Op.keeps_forIn fun j _ => Op.keeps_bind fillSlot_keeps fun _ => Op.keeps_pure) fun _ => Op.keeps_pure
  · mvcgen [setCommit_keeps] with grind [MemoryInv, State.releaseCurq_mem]
theorem afterRound_keeps {l exited} : Op.Keeps (afterRound l exited) := by
  mvcgen [afterRound, finishLoop_keeps, beginRound_keeps]
theorem commitOp_keeps {l lp} : Op.Keeps (commitOp l lp) := by
  mvcgen [commitOp, publish_keeps, writeLoopBlock_keeps, commitCursors_keeps, afterRound_keeps]
theorem State.commitLoop_keeps {l} (h : MemoryInv s) : MemoryInv (s.commitLoop l) := by
  grind [State.commitLoop, MemoryInv, State.settleOp_keeps, commitOp_keeps, Op.Keeps.ok, Op.Keeps.error]
theorem State.settleFail_keeps {l} (h : MemoryInv s) : MemoryInv (s.settleFail l) := by
  grind [State.settleFail, MemoryInv, State.endLoopAt_keeps]
theorem State.bodyDone_keeps {l k e0 addr} (h : MemoryInv s) : MemoryInv (s.bodyDone l k e0 addr) := by
  grind [State.bodyDone, MemoryInv, State.updStrand_mem, State.sealProduced_keeps, State.settleFail_keeps]
theorem State.guessDone_keeps {l ok} (h : MemoryInv s) : MemoryInv (s.guessDone l ok) := by
  grind [State.guessDone, MemoryInv, State.updLoop_mem, State.tryVerdicts_keeps]
theorem State.signalInstance_keeps {t0 addr failed} (h : MemoryInv s) : MemoryInv (s.signalInstance t0 addr failed) := by
  grind [State.signalInstance, MemoryInv, State.signalTask_keeps]
@[simp] theorem State.leavePool_mem {t0} : (s.leavePool t0).mem = s.mem := by
  grind [State.leavePool, State.updTask_mem, State.forEach_mem]
theorem State.completeTask_keeps {id} (h : MemoryInv s) : MemoryInv (s.completeTask id) := by
  grind [State.completeTask, MemoryInv, State.forEach_memoryInv, State.postEvent_keeps, State.settleOp_keeps, State.signalAddr_keeps,
      State.bodyDone_keeps, State.guessDone_keeps, State.signalInstance_keeps, State.leavePool_mem, devPut_keeps, Op.Keeps.ok, Op.Keeps.error]

/-! ## Matrix -/

theorem postMat_keeps {x c kind off pb} : Op.Keeps (postMat x c kind off pb) := by
  mvcgen [postMat, awaitHead_keeps]
theorem postBlock_keeps {kind x c} : Op.Keeps (postBlock kind x c) := by
  mvcgen [postBlock, postMat_keeps] with grind [MemoryInv, State.noteScratch_mem]
theorem mzroOp_keeps {x c} : Op.Keeps (mzroOp x c) := by
  mvcgen [mzroOp, postMat_keeps]
theorem accscOp_keeps {x c} : Op.Keeps (accscOp x c) := by
  mvcgen [accscOp, postMat_keeps]
theorem mrstOp_keeps {x c} : Op.Keeps (mrstOp x c) := by
  mvcgen [mrstOp]
theorem readRow_keeps {c f g r} : Op.Keeps (readRow c f g r) := by
  refine Op.keeps_bind boxElems_keeps fun p => ?_
  split
  split
  · exact Op.keeps_pure
  · refine Op.keeps_bind (Op.keeps_foldlM fun _ _ => ?_) fun _ => Op.keeps_pure
    exact Op.keeps_bind boxScale_keeps fun _ => Op.keeps_pure
theorem loadPlane_keeps {c p r f} : Op.Keeps (loadPlane c p r f) := by
  refine Op.keeps_bind (Op.keeps_mapM fun j => ?_) fun _ => Op.keeps_pure
  mvcgen [readRow_keeps]
@[simp] theorem State.failMat_mem {id code} : (s.failMat id code).mem = s.mem := by
  grind [State.failMat, State.updMat_mem, State.updEngine_mem]
@[simp] theorem State.startLoad_mem {e0} : (s.startLoad e0).mem = s.mem := by
  grind [State.startLoad, State.updEngine_mem]
@[simp] theorem State.promotePlane_mem {e0} : (s.promotePlane e0).mem = s.mem := by
  grind [State.promotePlane, State.drawBit_mem, State.updEngine_mem]
theorem State.finishLoad_keeps {e} (h : MemoryInv s) : MemoryInv (s.finishLoad e) := by
  unfold State.finishLoad
  split
  · exact h
  rename_i p _ _
  extract_lets drop
  have dropped : ∀ s, MemoryInv s → MemoryInv (drop s) := fun _ h => h
  clear_value drop
  split
  · exact dropped s h
  rename_i o _
  split
  · exact dropped s h
  rename_i r f _
  have load := engStep_keeps (c := o.by_.self o.id) (loadPlane_keeps (c := o.by_.self o.id) (p := p) (r := r) (f := f)) h
  revert load
  generalize engStep _ (loadPlane _ _ _ _) s = x
  intro load
  split
  · exact dropped s h
  split
  · exact h
  split
  · rw [MemoryInv, State.failMat_mem]
    exact dropped s h
  split
  · rw [MemoryInv, State.promotePlane_mem, State.updEngine_mem]
    exact load
  · exact load
  · exact load
  · rw [MemoryInv, State.failMat_mem]
    exact dropped _ load
@[simp] theorem State.setAcc_mem {o i r} : (s.setAcc o i r).mem = s.mem := by
  grind [State.setAcc, State.updBlock_mem]
@[simp] theorem State.beginMat_mem {o} : (s.beginMat o).mem = s.mem := by
  grind [State.beginMat, State.updMat_mem, State.failMat_mem]
theorem passRow_keeps {c o f i} : Op.Keeps (passRow c o f i) := by
  mvcgen [passRow, engScratchRead_keeps, readRow_keeps]
theorem State.streamRow_keeps {e0 o pl fb} (h : MemoryInv s) : MemoryInv (s.streamRow e0 o pl fb).2 := by
  grind [State.streamRow, MemoryInv, State.perfCoreEvent_mem, engStep_keeps, State.updMat_mem, State.failMat_mem, State.setAcc_mem, passRow_keeps,
      Op.Keeps.ok, Op.Keeps.error]
theorem attnQ_keeps {c o i} : Op.Keeps (attnQ c o i) := by
  mvcgen [attnQ, engScratchRead_keeps]
theorem State.attnStep_keeps {e o pl f} (h : MemoryInv s) : MemoryInv (s.attnStep e o pl f).2 := by
  unfold State.attnStep
  extract_lets n bad i i'
  have query := engStep_keeps (c := o.by_.self o.id) (attnQ_keeps (c := o.by_.self o.id) (o := o) (i := i)) h
  grind [MemoryInv, State.updMat_mem, State.failMat_mem, State.perfCoreEvent_mem]
theorem State.runStep_keeps {e id} (h : MemoryInv s) : MemoryInv (s.runStep e id).2 := by
  grind [State.runStep, MemoryInv, State.failMat_mem, State.attnStep_keeps, State.streamRow_keeps]
theorem State.runPass_keeps {e0 id fuel} (h : MemoryInv s) : MemoryInv (s.runPass e0 id fuel).2 := by
  fun_induction s.runPass e0 id fuel <;> grind [MemoryInv, State.runStep_keeps]
theorem State.loseAcc_keeps {blk code} (h : MemoryInv s) : MemoryInv (s.loseAcc blk code) := by
  grind [State.loseAcc, MemoryInv, State.updBlock_mem, State.cancelMats_mem, State.rejectAbove_keeps, State.recordVerdict_keeps]
theorem State.arrayParity_keeps {e0 place} (h : MemoryInv s) : MemoryInv (s.arrayParity e0 place) := by
  grind [State.arrayParity, MemoryInv, State.forEach_memoryInv, State.dieError_mem, State.loseAcc_keeps]
theorem State.streamAll_keeps {e0 a3} (h : MemoryInv s) : MemoryInv (s.streamAll e0 a3).2 := by
  fun_induction s.streamAll e0 a3 <;> grind [MemoryInv, State.updMat_mem, State.beginMat_mem, State.runPass_keeps, State.arrayParity_keeps]
theorem State.streamRun_keeps {e0 more} (h : MemoryInv s) : MemoryInv (s.streamRun e0 more).2 := by
  grind [State.streamRun, MemoryInv, State.updEngine_mem, State.streamAll_keeps]
theorem State.grantRun_keeps {e0} (h : MemoryInv s) : MemoryInv (s.grantRun e0) := by
  grind [State.grantRun, MemoryInv, State.promotePlane_mem, State.streamRun_keeps]
theorem State.endRun_keeps {e0} (h : MemoryInv s) : MemoryInv (s.endRun e0) := by
  grind [State.endRun, MemoryInv, State.forEach_memoryInv, State.updMat_mem, State.updEngine_mem, State.promotePlane_mem, State.streamRun_keeps]
theorem scratchWords_keeps {c a n} : Op.Keeps (scratchWords c a n) := by
  mvcgen [scratchWords, engScratchRead_keeps]
theorem mergeStep_keeps {c o i} : Op.Keeps (mergeStep c o i) := by
  mvcgen [mergeStep, scratchWords_keeps] with grind [MemoryInv, State.setAcc_mem]
theorem storeAtoms_keeps {c fuel va bs} : Op.Keeps (storeAtoms c fuel va bs) := by
  induction fuel generalizing va bs with
  | zero => exact Op.keeps_pure
  | succ n ih => mvcgen [storeAtoms, engWrite_keeps, ih]
theorem portRow_keeps {c o i} : Op.Keeps (portRow c o i) := by
  mvcgen [portRow, engBytes_keeps, mergeStep_keeps, storeAtoms_keeps] with grind [MemoryInv, State.engScratch_mem, State.setAcc_mem]
theorem State.runPort_keeps {id fuel} (h : MemoryInv s) : MemoryInv (s.runPort id fuel) := by
  fun_induction s.runPort id fuel <;> grind [MemoryInv, engStep_keeps, State.updMat_mem, State.failMat_mem, portRow_keeps, Op.Keeps.ok,
      Op.Keeps.error]
@[simp] theorem State.attnCommit_mem {o} : (s.attnCommit o).mem = s.mem := by
  grind [State.attnCommit, State.forEach_mem, State.updMat_mem, State.setAcc_mem]
@[simp] theorem State.endMat_mem {o code} : (s.endMat o code).mem = s.mem := by
  grind [State.endMat, State.updBlock_mem, State.syncStep_mem, State.subPending_mem, State.endBlock_mem, State.releaseMsync_mem, State.raiseMat_mem,
      State.writeStatus_mem]
theorem State.completeMat_keeps {e0 id} (h : MemoryInv s) : MemoryInv (s.completeMat e0 id) := by
  grind [State.completeMat, MemoryInv, State.beginMat_mem, State.runPort_keeps, State.attnCommit_mem, State.endMat_mem]

/-! ## Save -/

@[simp] theorem State.preResult_mem {tenant code} : (s.preResult tenant code).mem = s.mem := rfl
theorem State.areaWrite_keeps {tenant fuel va a5} (h : MemoryInv s) : MemoryInv (s.areaWrite tenant fuel va a5).2 := by
  fun_induction s.areaWrite tenant fuel va a5 <;> grind [MemoryInv, State.devWrite_keeps]
theorem State.imageWrite_keeps {tenant o bs} (h : MemoryInv s) : MemoryInv (s.imageWrite tenant o bs).2 := by
  grind [State.imageWrite, MemoryInv, State.areaWrite_keeps]
theorem areaRead_keeps {tenant fuel va n} : Op.Keeps (areaRead tenant fuel va n) := by
  induction fuel generalizing va n with
  | zero => exact Op.keeps_pure
  | succ k ih => mvcgen [areaRead, devGet_keeps, ih]
theorem imageRead_keeps {tenant o n} : Op.Keeps (imageRead tenant o n) := by
  mvcgen [imageRead, areaRead_keeps]
theorem State.loseTask_keeps {t0} (h : MemoryInv s) : MemoryInv (s.loseTask t0) := by
  grind [State.loseTask, MemoryInv, State.updTenant_mem, State.markAbort_mem, State.endTask_mem, State.endLoopAt_keeps]
theorem State.loseContext_keeps {tenant} (h : MemoryInv s) : MemoryInv (s.loseContext tenant) := by
  grind [State.loseContext, MemoryInv, State.updTenant_mem, State.forEach_memoryInv, State.preResult_mem, State.loseTask_keeps]
theorem State.publishLoop_keeps {l} (h : MemoryInv s) : MemoryInv (s.publishLoop l) := by
  grind [State.publishLoop, MemoryInv, publish_keeps, Op.Keeps.ok, Op.Keeps.error]
theorem State.holdLoop_keeps {l} (h : MemoryInv s) : MemoryInv (s.holdLoop l) := by
  grind [State.holdLoop, MemoryInv, State.updLoop_mem, State.rejectAbove_keeps, State.recordVerdict_keeps, State.publishLoop_keeps]
theorem State.startSave_keeps {tenant} (h : MemoryInv s) : MemoryInv (s.startSave tenant) := by
  grind [State.startSave, MemoryInv, State.updTenant_mem, State.forEach_memoryInv, State.stopThreads_mem, State.preResult_mem, State.holdLoop_keeps]
@[simp] theorem State.preFields_mem {tenant v} : (s.preFields tenant v).mem = s.mem := rfl
@[simp] theorem State.restartBlock_mem {blk} : (s.restartBlock blk).mem = s.mem := by
  grind [State.restartBlock, State.updBlock_mem, State.sweepFaults_mem]
@[simp] theorem State.abortBlock_mem {b code} : (s.abortBlock b code).mem = s.mem := rfl
theorem State.stopBlock_keeps {blk} (h : MemoryInv s) : MemoryInv (s.stopBlock blk) := by
  unfold State.stopBlock
  split <;> grind [MemoryInv, State.updTenant_mem, State.updTask_mem, State.dieError_mem, State.sweepFaults_mem, State.saveMats_mem,
      State.dropBlock_mem, State.imageWrite_keeps, State.loseContext_keeps, State.restartBlock_mem, State.abortBlock_mem]
@[simp] theorem State.removeTenant_mem {tenant} : (s.removeTenant tenant).mem = s.mem := rfl
theorem State.completeSave_keeps {tenant} (h : MemoryInv s) : MemoryInv (s.completeSave tenant) := by
  have sections := fun {s : State} {o bs} => State.imageWrite_keeps (s := s) (tenant := tenant) (o := o) (bs := bs)
  have image := fun {s : State} {n} => State.settleOp_keeps (s := s) (imageRead_keeps (tenant := tenant) (o := 128) (n := n))
  have lost := fun {s : State} => State.loseContext_keeps (s := s) (tenant := tenant)
  unfold State.completeSave
  extract_lets s1 t pool tid tidOff cntOff size
  have h1 : MemoryInv s1 := by
    unfold s1
    split
    · exact State.forEach_memoryInv (fun _ _ => State.publishLoop_keeps) h
    · exact h
  clear_value s1 size pool tid tidOff cntOff t
  split
  · exact h1
  generalize e1 : s1.imageWrite _ _ _ = p1
  obtain ⟨_ | _, s2⟩ := p1 <;> have h2 := memoryInv_of_eq e1 (sections h1)
  · exact lost h2
  dsimp only
  generalize e2 : s2.settleOp _ = p2
  obtain ⟨_ | _ | bs, s3⟩ := p2 <;> have h3 := memoryInv_of_eq e2 (image h2)
  · exact lost h3
  · exact lost h3
  dsimp only
  generalize e3 : s3.imageWrite _ _ _ = p3
  obtain ⟨_ | _, s4⟩ := p3 <;> have h4 := memoryInv_of_eq e3 (sections h3)
  · exact lost h4
  · rw [MemoryInv, State.preResult_mem, State.updTenant_mem, State.removeTenant_mem]
    exact h4
theorem checkImage_keeps {tenant} : Op.Keeps (checkImage tenant) := by
  mvcgen [checkImage, imageRead_keeps]
theorem restHeader_keeps {tenant va} : Op.Keeps (restHeader tenant va) := by
  mvcgen [restHeader, areaRead_keeps]
@[simp] theorem State.restTasks_mem {tenant ids a4} : (s.restTasks tenant ids a4).mem = s.mem := by
  fun_induction s.restTasks tenant ids a4 <;> grind [State.updSlice_mem]
@[simp] theorem State.newIds_mem {a2} : (s.newIds a2).2.mem = s.mem := by
  fun_induction s.newIds a2 <;> grind [State.newId_mem]
@[simp] theorem State.restConflicts_mem {tenant} : (s.restConflicts tenant).mem = s.mem := rfl
theorem State.reinstate_keeps {tenant p} {t} (h : MemoryInv s) (e : s.reinstate tenant p = some t) : MemoryInv t := by
  have settled := fun {s x} => State.settleOp_keeps (s := s) (α := List RestBlock) (x := x)
  have named := fun {s n} => State.newIds_mem (s := s) (a2 := n)
  obtain ⟨reinstate, spec⟩ : ∃ f, f = State.reinstate := ⟨_, rfl⟩
  obtain ⟨settle, settle_eq⟩ : ∃ f, f = @State.settleOp (List RestBlock) := ⟨_, rfl⟩
  obtain ⟨newIds, newIds_eq⟩ : ∃ f, f = State.newIds := ⟨_, rfl⟩
  obtain ⟨read, read_eq⟩ : ∃ f, f = rdPool := ⟨_, rfl⟩
  rw [← spec] at e
  delta State.reinstate at spec
  rw [← settle_eq] at settled
  rw [← newIds_eq] at named
  rw [← settle_eq, ← newIds_eq, ← read_eq] at spec
  rw [spec] at e
  beta_reduce at e
  extract_lets n pool tail tid cnt at e
  split at e
  rename_i ids s1 ids_eq
  split at e
  · cases e
  extract_lets entries s2 s3 s4 base entry at e
  have h4 : MemoryInv s4 := by
    have ids : s1.mem = s.mem := by rw [← named (s := s) (n := n), ids_eq]
    have tasks : s2.mem = s1.mem := State.restTasks_mem
    have succs : s3.mem = s2.mem := State.forEach_mem fun _ _ => rfl
    have conflicts : s4.mem = s3.mem := State.restConflicts_mem
    rw [MemoryInv, conflicts, succs, tasks, ids]
    exact h
  split at e
  rename_i settled_eq
  have blocks := memoryInv_of_eq settled_eq <| settled (Op.keeps_filterMapM fun o => by
    extract_lets bs hd
    split
    · exact Op.keeps_pure
    · exact Op.keeps_bind restHeader_keeps fun _ => Op.keeps_pure) h4
  cases e
  exact blocks
@[simp] theorem State.putRest_mem {core r} : (s.putRest core r).mem = s.mem := rfl
@[simp] theorem State.restCores_mem {t0 cores} : (s.restCores t0 cores).2.mem = s.mem := rfl
theorem State.putAll_mem {t0 cores a4} {t} (e : s.putAll t0 cores a4 = some t) : t.mem = s.mem := by
  fun_induction s.putAll t0 cores a4 <;> grind [State.putRest_mem]
theorem State.placeTask_mem {t rs} : (s.placeTask t rs).mem = s.mem := by
  unfold State.placeTask
  extract_lets keep n
  have kept : ∀ (s : State) gone, (keep s gone).mem = s.mem := fun _ _ => rfl
  clear_value keep
  split
  · refine State.forEach_mem fun r s => ?_
    have cores := State.restCores_mem (s := s) (t0 := t) (cores := List.range 256)
    grind [State.putAll_mem]
  have drawn := State.drawWord_mem s
  revert drawn
  generalize s.drawWord = p
  intro drawn
  split
  extract_lets insts
  split
  · rename_i found
    obtain ⟨i, _, placed⟩ := List.exists_of_findSome?_eq_some found
    rw [kept, State.putAll_mem placed]
    exact drawn
  · exact drawn
@[simp] theorem State.placeRest_mem {tenant} : (s.placeRest tenant).mem = s.mem := by
  grind [State.placeRest, State.updTenant_mem, State.forEach_mem, State.preResult_mem, State.placeTask_mem]
theorem State.startRestore_keeps {tenant} (h : MemoryInv s) : MemoryInv (s.startRestore tenant) := by
  have checked := State.settleOp_keeps (checkImage_keeps (tenant := tenant)) h
  have reinstated := fun {s t p} => State.reinstate_keeps (s := s) (t := t) (p := p) (tenant := tenant)
  unfold State.startRestore
  obtain ⟨reinstate, eq⟩ : ∃ f, f = State.reinstate := ⟨_, rfl⟩
  rw [← eq] at reinstated ⊢
  split
  · rw [MemoryInv, State.preResult_mem]
    exact h
  split
  · rename_i again
    have h1 := memoryInv_of_eq again checked
    split
    · rw [MemoryInv, State.preResult_mem]
      exact h1
    · rw [MemoryInv, State.placeRest_mem]
      exact reinstated h1 ‹_›
  · rw [MemoryInv, State.preResult_mem]
    exact memoryInv_of_eq ‹_› checked
  · exact State.loseContext_keeps (memoryInv_of_eq ‹_› checked)
theorem State.startPre_keeps {n cmd v} {run : State → State} (hr : ∀ s, MemoryInv s → MemoryInv (run s)) (h : MemoryInv s) :
    MemoryInv (s.startPre n cmd v run) := by
  grind [State.startPre, MemoryInv, State.preFields_mem]

/-! ## Restart -/

@[simp] theorem State.loseWave_mem {ref} : (s.loseWave ref).mem = s.mem := by
  grind [State.loseWave, State.updWave_mem, State.dieError_mem, State.sweepFaults_mem, State.sweepHeld_mem, State.endWaves_mem, State.endBlock_mem,
      State.markAbort_mem]
theorem State.accError_keeps {blk} (h : MemoryInv s) : MemoryInv (s.accError blk) := by
  grind [State.accError, MemoryInv, State.dieError_mem, State.loseAcc_keeps]
@[simp] theorem State.resumeBlock_mem {blk} : (s.resumeBlock blk).mem = s.mem := by
  grind [State.resumeBlock, State.restartBlock_mem, State.abortBlock_mem]
@[simp] theorem State.stallCode_mem {x} : (s.stallCode x).2.mem = s.mem := by
  unfold State.stallCode
  grind [State.drawWord_mem]
theorem State.sampleWave_keeps {w} (h : MemoryInv s) : MemoryInv (s.sampleWave w) := by
  grind [State.sampleWave, MemoryInv, State.visWrite_keeps, State.stallCode_mem]
theorem State.sampleCore_keeps {core} (h : MemoryInv s) : MemoryInv (s.sampleCore core) := by
  grind [State.sampleCore, MemoryInv, State.updCore_mem, State.forEach_memoryInv, State.sampleWave_keeps]

/-! ## Registers -/

@[simp] theorem State.freeSels_mem {a2} : (s.freeSels a2).2.mem = s.mem := by
  fun_induction s.freeSels a2 <;> grind [State.drawWord_mem]
theorem State.loadSels_keeps {tenant} (h : MemoryInv s) : MemoryInv (s.loadSels tenant) := by
  grind [State.loadSels, MemoryInv, State.updTenant_mem, State.settleOp_keeps, State.freeSels_mem, areaRead_keeps, Op.Keeps.ok, Op.Keeps.error]
theorem State.writePerfsel_keeps {tenant v} (h : MemoryInv s) : MemoryInv (s.writePerfsel tenant v) := by
  grind [State.writePerfsel, MemoryInv, State.updTenant_mem, State.loadSels_keeps]
@[simp] theorem State.ctlResult_mem {tenant code} : (s.ctlResult tenant code).mem = s.mem := rfl
theorem State.createContext_keeps {tenant} (h : MemoryInv s) : MemoryInv (s.createContext tenant) := by
  grind [State.createContext, MemoryInv, State.updTenant_mem, State.loadSels_keeps, State.ctlResult_mem]
@[simp] theorem State.startFlr_mem {tenant} : (s.startFlr tenant).mem = s.mem := by
  grind [State.startFlr, State.updTenant_mem, State.forEach_mem, State.dropBlock_mem, State.preResult_mem]
@[simp] theorem State.endFlr_mem {tenant} : (s.endFlr tenant).mem = s.mem := by
  grind [State.endFlr, State.updTenant_mem]
theorem State.writeCtl_keeps {tenant v} (h : MemoryInv s) : MemoryInv (s.writeCtl tenant v) := by
  grind [State.writeCtl, MemoryInv, State.updTenant_mem, State.createContext_keeps, State.startFlr_mem]
@[simp] theorem State.partResult_mem {code busy} : (s.partResult code busy).mem = s.mem := rfl
theorem State.writePart_keeps {v} (h : MemoryInv s) : MemoryInv (s.writePart v) := by
  grind [State.writePart, MemoryInv, State.updTenant_mem, State.forEach_memoryInv, State.startSave_keeps, State.partResult_mem]
@[simp] theorem State.endPart_mem : (s.endPart).mem = s.mem := by
  grind [State.endPart, State.partResult_mem]
@[simp] theorem State.takeTask_mem {hart rd tenant} : (s.takeTask hart rd tenant).mem = s.mem := by
  grind [State.takeTask, State.updTenant_mem, State.updHart_mem, State.hartExc_mem]
@[simp] theorem State.finishHostTask_mem {tenant v} : (s.finishHostTask tenant v).mem = s.mem := by
  grind [State.finishHostTask, State.updTenant_mem, State.endTask_mem]
@[simp] theorem State.writeEvq_mem {tenant v} : (s.writeEvq tenant v).mem = s.mem := rfl
@[simp] theorem State.writeEvqHead_mem {tenant v} : (s.writeEvqHead tenant v).mem = s.mem := rfl
@[simp] theorem State.recallOwned_mem : (s.recallOwned).mem = s.mem := by
  grind [State.recallOwned, State.forEach_mem, State.recall_mem]
@[simp] theorem State.writeDirty_mem {tenant v} : (s.writeDirty tenant v).mem = s.mem := by
  grind [State.writeDirty, State.updTenant_mem, State.recallOwned_mem]
theorem State.writePre_keeps {tenant v} (h : MemoryInv s) : MemoryInv (s.writePre tenant v) := by
  grind [State.writePre, MemoryInv, State.startSave_keeps, State.preFields_mem, State.startRestore_keeps]
theorem State.writeTenant_keeps {n o v} (h : MemoryInv s) : MemoryInv (s.writeTenant n o v) := by
  unfold State.writeTenant
  grind [MemoryInv, State.updTenant_mem, State.writePerfsel_keeps, State.writeCtl_keeps, State.finishHostTask_mem, State.writeEvq_mem,
      State.writeEvqHead_mem, State.writeDirty_mem, State.writePre_keeps]
theorem State.writeFstq_keeps {h0 v} (h : MemoryInv s) : MemoryInv (s.writeFstq h0 v) := by
  unfold State.writeFstq
  split
  · exact h
  split
  · exact State.fstqReload_keeps h
  · exact State.fstqRead_keeps h
  · exact State.fstqWrite_keeps h
  · exact h
@[simp] theorem State.writeTlbinv_mem {h0 v} : (s.writeTlbinv h0 v).mem = s.mem := by
  grind [State.writeTlbinv, State.updHub_mem, State.startTlbinv_mem]
@[simp] theorem State.writeFltres_mem {h0 v} : (s.writeFltres h0 v).mem = s.mem := by
  grind [State.writeFltres, State.updHub_mem, State.runFltres_mem]
theorem State.writeHub_keeps {h0 o v} (h : MemoryInv s) : MemoryInv (s.writeHub h0 o v) := by
  unfold State.writeHub
  grind [MemoryInv, State.updHub_mem, State.writeFstq_keeps, State.writeTlbinv_mem, State.writeFltres_mem]
theorem State.writePoolCmd_keeps {v} (h : MemoryInv s) : MemoryInv (s.writePoolCmd v) := by
  grind [State.writePoolCmd, MemoryInv, State.serveAcquire_keeps, State.poolCmdFields_mem, State.startCmd_keeps, State.serveShare_keeps]
@[simp] theorem State.writeCte_mem {n v} : (s.writeCte n v).mem = s.mem := by
  grind [State.writeCte, State.updCte_mem, State.cteUp_mem, State.cteDown_mem]
theorem State.writeModule_keeps {o v} (h : MemoryInv s) : MemoryInv (s.writeModule o v) := by
  have wavelengths : ∀ w, MemoryInv { s with wstat := w } := fun _ => h
  have owners : ∀ w, MemoryInv { s with poolOwt := w } := fun _ => h
  have circuits : ∀ k, MemoryInv (s.writeCte k v) := fun k => by rw [MemoryInv, State.writeCte_mem]; exact h
  unfold State.writeModule
  split
  · split
    · exact wavelengths _
    · exact h
  split
  · exact circuits _
  split
  · exact State.writePart_keeps h
  · exact State.attestWrite_keeps h
  · exact State.vaultRead_keeps h
  · exact owners _
  · exact State.writePoolCmd_keeps h
  · exact h
theorem State.writeRegister_keeps {pa v} (h : MemoryInv s) : MemoryInv (s.writeRegister pa v) := by
  grind [State.writeRegister, MemoryInv, State.updDie_mem, State.writeTenant_keeps, State.writeHub_keeps, State.writeModule_keeps]

/-! ## HostAccess -/

theorem hartMem_keeps {n a write va} : Op.Keeps (hartMem n a write va) := by
  mvcgen [hartMem, translate_keeps, translateWrite_keeps]
theorem hartRead_keeps {n a va bytes} : Op.Keeps (hartRead n a va bytes) := by
  refine Op.keeps_bind (Op.keeps_forIn fun p r => ?_) fun _ => Op.keeps_pure
  mvcgen [hartMem_keeps, readPa_keeps]
theorem hartWrite_keeps {n va bs} : Op.Keeps (hartWrite n va bs) := by
  refine Op.keeps_bind (Op.keeps_forIn fun p r => ?_) fun _ => Op.keeps_bind (Op.keeps_forIn fun p r => ?_) fun _ => Op.keeps_pure
  · mvcgen [hartMem_keeps]
  · mvcgen [hartMem_keeps, writePa_keeps]
theorem hartRmw_keeps {n va bytes f} : Op.Keeps (hartRmw n va bytes f) := by
  mvcgen [hartRmw, rmwPa_keeps, hartMem_keeps]
theorem hartResult_keeps {n rd x} : Op.Keeps (hartResult n rd x) := by
  mvcgen [hartResult]
theorem hartReg_keeps {n op pa} : Op.Keeps (hartReg n op pa) := by
  mvcgen [hartReg, hartResult_keeps] with grind [MemoryInv, State.takeTask_mem, State.writeRegister_keeps]
theorem hartAligned_keeps {n write va bytes} {x : Op Unit} (hx : Op.Keeps x) : Op.Keeps (hartAligned n write va bytes x) := by
  mvcgen [hartAligned, hx]
theorem hartOp_keeps {n op va} : Op.Keeps (hartOp n op va) := by
  mvcgen [hartOp, readPa_keeps, hartMem_keeps, hartRead_keeps, hartWrite_keeps, hartRmw_keeps, hartResult_keeps, hartReg_keeps, hartAligned_keeps]
     
theorem State.hartAccess_keeps {n op va} (h : MemoryInv s) : MemoryInv (s.hartAccess n op va) := by
  grind [State.hartAccess, MemoryInv, State.updHart_mem, State.hartExc_mem, hartOp_keeps, → Op.Keeps.ok, → Op.Keeps.error]

/-! ## Issue -/

@[simp] theorem State.takeTurn_mem {w c count} : (s.takeTurn w c count).mem = s.mem := rfl
theorem fetchBytes_keeps {r pc} : Op.Keeps (fetchBytes r pc) := by
  mvcgen [fetchBytes, translate_keeps, readPa_keeps]
theorem State.allLanes_keeps {c r} (h : MemoryInv s) : MemoryInv (s.allLanes c r) := by
  grind [State.allLanes, MemoryInv, runLanes_keeps]
theorem State.stopFetch_keeps {w c late r} (h : MemoryInv s) : MemoryInv (s.stopFetch w c late r) := by
  grind [State.stopFetch, MemoryInv, State.updThread_mem, State.forEach_memoryInv, State.takeTurn_mem, State.allLanes_keeps]
theorem State.raiseOverrun_keeps {ref} (h : MemoryInv s) : MemoryInv (s.raiseOverrun ref) := by
  grind [State.raiseOverrun, MemoryInv, State.allLanes_keeps]
theorem hartHalf_keeps {n va} : Op.Keeps (hartHalf n va) := by
  mvcgen [hartHalf, translate_keeps, readPa_keeps]
theorem hartWord_keeps {n} : Op.Keeps (hartWord n) := by
  mvcgen [hartWord, hartHalf_keeps]
@[simp] theorem State.hartFence_mem {n va asid} : (s.hartFence n va asid).mem = s.mem := rfl
@[simp] theorem State.correctHub_mem {h0} : (s.correctHub h0).mem = s.mem := rfl
@[simp] theorem State.correctDie_mem {d} : (s.correctDie d).mem = s.mem := rfl
@[simp] theorem State.addError_mem {p} : (s.addError p).mem = s.mem := by
  grind [State.addError]
@[simp] theorem State.spoil_mem {p} : (s.spoil p).mem = s.mem := by
  unfold State.spoil
  grind [State.correctDie_mem, State.addError_mem]
@[simp] theorem State.drivePin_mem {ppn up} : (s.drivePin ppn up).mem = s.mem := by
  grind [State.drivePin, State.pinEntryStep_mem]
theorem State.input_keeps {a} (h : MemoryInv s) : MemoryInv (s.input a) := by
  unfold State.input
  grind [MemoryInv, State.updHart_mem, State.hubError_mem, State.recall_mem, State.putSpan_keeps, State.installImage_mem, State.updEngine_mem,
      State.hartAccess_keeps, State.hartFence_mem, State.correctHub_mem, State.correctDie_mem, State.spoil_mem, State.drivePin_mem]
@[simp] theorem State.ownAct_mem : (s.ownAct).2.mem = s.mem := by
  grind [State.ownAct]
@[simp] theorem State.nextAct_mem : (s.nextAct).2.mem = s.mem := by
  grind [State.nextAct, State.ownAct_mem]
@[simp] theorem State.tick_mem {n} : (s.tick n).mem = s.mem := by
  grind [State.tick, State.perfCoreEvent_mem, State.forEach_mem]
@[simp] theorem State.sweepTouched_mem : (s.sweepTouched).mem = s.mem := by
  grind [State.sweepTouched]
theorem State.pass_keeps {idle} (h : MemoryInv s) : MemoryInv (s.pass idle) := by
  grind [State.pass, MemoryInv, State.settleCuffs_keeps, State.tick_mem, State.sweepTouched_mem]

/-! ## LoopInstr -/

@[simp] theorem gcarryLane_mem {x c} : (gcarryLane x c s).2.mem = s.mem := by
  grind [gcarryLane, State.updStrand_mem]
@[simp] theorem gguessLane_mem {x c} : (gguessLane x c s).2.mem = s.mem := by
  grind [gguessLane, State.updStrand_mem]
theorem runGguess_keeps {x} (h : MemoryInv s) : MemoryInv (runGguess x s) := by
  grind [runGguess, MemoryInv, State.sealGuess_keeps, runLanes_keeps, gguessLane_mem]
theorem gcmpLane_keeps {x c} (h : MemoryInv s) : MemoryInv (gcmpLane x c s).2 := by
  grind [gcmpLane, MemoryInv, State.sealProduced_keeps]
@[simp] theorem gstatLane_mem {x c} : (gstatLane x c s).2.mem = s.mem := by
  grind [gstatLane]

end Sys2Proof.Machine
end

section
/-! Every step keeps memory canonical. -/
namespace Sys2Proof.Machine
variable {s : State}

/-! ## What an instruction or event leaves -/

theorem memoryInv_of_mem {t : State} (e : t.mem = s.mem) (h : MemoryInv s) : MemoryInv t := by
  rw [MemoryInv, e]
  exact h
theorem memoryInv_ite {c : Prop} [Decidable c] {t u : State} (ht : MemoryInv t) (hu : MemoryInv u) : MemoryInv (if c then t else u) := by
  split
  · exact ht
  · exact hu
theorem next_keeps {t u : State} (h : MemoryInv u) (e : (.next u : Host.Outcome State Fault Refusal) = .next t) : MemoryInv t :=
  Host.Outcome.next.inj e ▸ h

/-- One line for each way in which an instruction or event runs, with the lemma about the operation behind it. -/
theorem exec_keeps {i : Instr} {t : State} (h : MemoryInv s) (e : exec i s = .next t) : MemoryInv t := by
  cases i with
  | nop _ | bra _ | brx _ | call _ | callx _ | ret _ | exit _ | trap _ | bkpt _ | yield _ | iadd _ | isub _ | imul _ | imulh _ | imad _
  | imadw _ | idiv _ | irem _ | imin _ | imax _ | iabs _ | ineg _ | iaddc _ | isubb _ | isad _ | idp4 _ | and _ | or _ | xor _ | not _
  | andn _ | lop3 _ | shl _ | shr _ | sar _ | rotl _ | shf _ | bfe _ | bfi _ | brev _ | popc _ | clz _ | ctz _ | prmt _ | icmp _ | sel _
  | mov _ | movi _ | movw _ | lea _ | add64 _ | sub64 _ | cmp64 _ | plop _ | pmov _ | fadd _ | fsub _ | fmul _ | ffma _ | fmin _ | fmax _
  | fcmp _ | fclass _ | frint _ | fscale _ | fdot _ | fdota _ | frcp _ | frsq _ | fsqrt _ | fexp2 _ | flog2 _ | fsin _ | fcos _ | ftanh _
  | fdiv _ | cvt _ | pack _ | unpk _ | dqnt _ | sclx _ | tagrd _ | retag _ | cwait _ | isync _ => exact next_keeps (runPure_keeps h) e
  | nap _ | qnt _ | msync _ | srd _ | perf _ | clk _ => exact next_keeps (runLanes_keeps (fun _ _ h => h) h) e
  | waitw _ => exact next_keeps (runOp_keeps (fun _ => waitwOp_keeps) h) e
  | safept _ => exact next_keeps (runSafept_keeps h) e
  | shfl _ | vote _ | wred _ | wscan _ | matchLanes _ | elect _ | actmask _ | segred _ | segscan _ => exact next_keeps (runCross_keeps h) e
  | ragld _ => exact next_keeps (runCohort_keeps (fun _ => ragldOp_keeps) h) e
  | ld _ | lds _ | ldp _ => exact next_keeps (runOp_keeps (fun _ => loadOp_keeps) h) e
  | st _ | sts _ | stp _ => exact next_keeps (runOp_keeps (fun _ => storeOp_keeps) h) e
  | atom _ | atoms _ => exact next_keeps (runOp_keeps (fun _ => atomOp_keeps) h) e
  | red _ => exact next_keeps (runOp_keeps (fun _ => redOp_keeps) h) e
  | fence _ => exact next_keeps (runOp_keeps (fun _ => fenceOp_keeps) h) e
  | pref _ => exact next_keeps (runLanes_keeps (fun _ _ h => prefLane_keeps h) h) e
  | cctl _ => exact next_keeps (runLanes_keeps (fun _ _ h => cctlLane_keeps h) h) e
  | pin _ | unpin _ => exact next_keeps (runOp_keeps (fun _ => pinOp_keeps) h) e
  | mhint _ => exact next_keeps (runOp_keeps (fun _ => mhintOp_keeps) h) e
  | mqry _ => exact next_keeps (runOp_keeps (fun _ => mqryOp_keeps) h) e
  | mmove _ => exact next_keeps (runOp_keeps (fun _ => mmoveOp_keeps) h) e
  | curopen _ => exact next_keeps (runOp_keeps (fun _ => curopenOp_keeps) h) e
  | curadv _ => exact next_keeps (runOp_keeps (fun _ => curadvOp_keeps) h) e
  | curq _ => exact next_keeps (runOp_keeps (fun _ => curqOp_keeps) h) e
  | qapp _ => exact next_keeps (runOp_keeps (fun _ => qappOp_keeps) h) e
  | binit _ => exact next_keeps (runBarrier_keeps (fun _ _ => binitOp_keeps) h) e
  | barv _ => exact next_keeps (runBarrier_keeps (fun _ _ => barvOp_keeps) h) e
  | bwait _ => exact next_keeps (runBarrier_keeps (fun _ _ => bwaitOp_keeps) h) e
  | barw _ => exact next_keeps (runBarrier_keeps (fun _ _ => barwOp_keeps) h) e
  | btest _ => exact next_keeps (runBarrier_keeps (fun _ _ => btestOp_keeps) h) e
  | swarm _ | swadd _ => exact next_keeps (runOp_keeps (fun _ => syncAct_keeps) h) e
  | swwait _ => exact next_keeps (runOp_keeps (fun _ => swwaitOp_keeps) h) e
  | swtest _ => exact next_keeps (runOp_keeps (fun _ => swtestOp_keeps) h) e
  | tspawn _ => exact next_keeps (runOp_keeps (fun _ => taskOp_keeps fun _ _ => tspawnCode_keeps) h) e
  | tdep _ => exact next_keeps (runOp_keeps (fun _ => taskOp_keeps fun _ _ => tdepCode_keeps) h) e
  | tfire _ => exact next_keeps (runOp_keeps (fun _ => taskOp_keeps fun _ _ => tfireCode_keeps) h) e
  | tcncl _ => exact next_keeps (runOp_keeps (fun _ => taskOp_keeps fun _ _ => tcnclCode_keeps) h) e
  | gloop _ => exact next_keeps (runOp_keeps (fun _ => taskOp_keeps fun _ _ => gloopCode_keeps) h) e
  | twait _ => exact next_keeps (runOp_keeps (fun _ => twaitOp_keeps) h) e
  | tevt _ => exact next_keeps (runOp_keeps (fun _ => tevtOp_keeps) h) e
  | gcarry _ => exact next_keeps (runLanes_keeps (fun _ _ h => memoryInv_of_mem gcarryLane_mem h) h) e
  | gguess _ => exact next_keeps (runGguess_keeps h) e
  | gcmp _ => exact next_keeps (runLanes_keeps (fun _ _ h => gcmpLane_keeps h) h) e
  | gstat _ => exact next_keeps (runLanes_keeps (fun _ _ h => memoryInv_of_mem gstatLane_mem h) h) e
  | tidset _ => exact next_keeps (runOp_keeps (fun _ => tidsetOp_keeps) h) e
  | tidrd _ => exact next_keeps (runOp_keeps (fun _ => tidrdOp_keeps) h) e
  | tidclr _ => exact next_keeps (runOp_keeps (fun _ => tidclrOp_keeps) h) e
  | cpyb _ => exact next_keeps (runOp_keeps (fun _ => cpybOp_keeps) h) e
  | cpyl _ => exact next_keeps (runOp_keeps (fun _ => cpylOp_keeps) h) e
  | cseal _ => exact next_keeps (runOp_keeps (fun _ => csealOp_keeps) h) e
  | cqry _ => exact next_keeps (runOp_keeps (fun _ => cqryOp_keeps) h) e
  | nmcmd _ => exact next_keeps (runOp_keeps (fun _ => nmcmdOp_keeps) h) e
  | mlds _ | mstrm _ | mdrn _ | mpass _ | accld _ | accst _ | accmrg _ | attn _ => exact next_keeps (runOp_keeps (fun _ => postBlock_keeps) h) e
  | mzro _ => exact next_keeps (runOp_keeps (fun _ => mzroOp_keeps) h) e
  | accsc _ => exact next_keeps (runOp_keeps (fun _ => accscOp_keeps) h) e
  | mrst _ => exact next_keeps (runOp_keeps (fun _ => mrstOp_keeps) h) e
  | swr _ => exact next_keeps (runCohort_keeps (fun _ => swrOp_keeps) h) e
  | tret _ => exact next_keeps (runOp_keeps (fun _ => tretOp_keeps) h) e
  | hlt _ => exact next_keeps (runOp_keeps (fun _ => hltOp_keeps) h) e
  | regshr _ => exact next_keeps (runCohort_keeps (fun act => by split; exacts [regshrOp_keeps, Op.keeps_pure]) h) e
  | reggrw _ => exact next_keeps (runCohort_keeps (fun act => by split; exacts [reggrwOp_keeps, Op.keeps_pure]) h) e
  | dbgmk _ => exact next_keeps (runOp_keeps (fun _ => dbgmkOp_keeps) h) e
  | pair _ _ => exact next_keeps (runActing_keeps (fun _ _ h => h) h) e
  | hsubmit _ => exact next_keeps (runHost_keeps (fun _ _ => hsubmitOp_keeps) h) e
  | hwait _ => exact next_keeps (runHost_keeps (fun _ _ => hwaitOp_keeps) h) e
  | hpin _ | hunpin _ => exact next_keeps (runHost_keeps (fun _ _ => hpinOp_keeps) h) e
  | hmhint _ => exact next_keeps (runHost_keeps (fun _ _ => hmhintOp_keeps) h) e
  | hmqry _ => exact next_keeps (runHost_keeps (fun _ _ => hmqryOp_keeps) h) e
  | htenantWrite _ _ _ => exact next_keeps (memoryInv_of_mem State.writeHtenant_mem h) e
  | safeptOverrun _ => exact next_keeps (State.raiseOverrun_keeps h) e
  | napExpiry _ => exact next_keeps (memoryInv_of_mem State.endNap_mem h) e
  | waitwPoll _ => exact next_keeps (State.pollWait_keeps h) e
  | waitwTimeout _ => exact next_keeps (memoryInv_ite (State.pollWait_keeps h) h) e
  | reggrwGrant _ => exact next_keeps (memoryInv_of_mem State.grantReggrw_mem h) e
  | blockDispatch _ => exact next_keeps (State.dispatchBlock_keeps h) e
  | gangDispatch _ _ => exact next_keeps (State.dispatchGang_keeps h) e
  | gangReserve _ _ => exact next_keeps (memoryInv_of_mem State.reserveGang_mem h) e
  | hostTaskDispatch _ => exact next_keeps (memoryInv_of_mem State.dispatchHost_mem h) e
  | nmTaskStart _ => exact next_keeps (State.startNmTask_keeps h) e
  | copyTaskStart _ _ => exact next_keeps (State.startCopyTask_keeps h) e
  | loopStart _ => exact next_keeps (State.startLoop_keeps h) e
  | taskComplete _ => exact next_keeps (State.completeTask_keeps h) e
  | taskAbort _ => exact next_keeps (memoryInv_ite (memoryInv_of_mem State.discardTask_mem h) h) e
  | strandStart _ _ => exact next_keeps (memoryInv_of_mem State.startStrand_mem h) e
  | loopCommit _ => exact next_keeps (State.commitLoop_keeps h) e
  | handlerEntry _ => exact next_keeps (State.enterHandler_keeps h) e
  | faultRecordWrite _ _ => exact next_keeps (State.writeFaultRecord_keeps h) e
  | pageWalk _ _ _ _ => exact next_keeps (State.walkPage_keeps h) e
  | homeRead _ _ | homeOwnership _ _ | homeExecute _ _ => exact next_keeps (memoryInv_of_mem State.askHome_mem h) e
  | homeDrop _ _ => exact next_keeps (memoryInv_of_mem State.dropHolder_mem h) e
  | capacityDisplacement _ => exact next_keeps (memoryInv_of_mem State.displace_mem h) e
  | cowResolution _ _ => exact next_keeps (State.resolveCow_keeps h) e
  | moveStart _ => exact next_keeps (State.startMove_keeps h) e
  | moveLineCopy _ => exact next_keeps (State.copyMoveLine_keeps h) e
  | switchOver _ => exact next_keeps (State.openCuff_keeps h) e
  | forwardingInstall _ => exact next_keeps (State.installForward_keeps h) e
  | cuffAbandon _ => exact next_keeps (State.abandonCuff_keeps h) e
  | forwardingRetire _ => exact next_keeps (State.retireMove_keeps h) e
  | handoverRequest _ _ => exact next_keeps (memoryInv_ite (State.requestFrame_keeps h) h) e
  | handoverComplete _ => exact next_keeps (State.finishHandover_keeps h) e
  | planeLoadStart _ => exact next_keeps (memoryInv_of_mem State.startLoad_mem h) e
  | planeLoadComplete _ => exact next_keeps (State.finishLoad_keeps h) e
  | arrayRunGrant _ => exact next_keeps (State.grantRun_keeps h) e
  | runEnd _ => exact next_keeps (State.endRun_keeps h) e
  | matrixOpComplete _ _ => exact next_keeps (State.completeMat_keeps h) e
  | copyStart _ => exact next_keeps (memoryInv_of_mem State.startCopy_mem h) e
  | ddwPageStep _ => exact next_keeps (memoryInv_ite (State.stepCopy_keeps h) h) e
  | copyComplete _ => exact next_keeps (State.completeCopy_keeps h) e
  | nmCommandStart _ => exact next_keeps (State.startNm_keeps h) e
  | nmCommandComplete _ => exact next_keeps (State.completeNm_keeps h) e
  | tlbinvPage _ _ | tlbinvAsid _ _ | tlbinvAll _ _ => exact next_keeps (memoryInv_of_mem State.startTlbinv_mem h) e
  | tlbinvComplete _ => exact next_keeps (memoryInv_of_mem State.endTlbinv_mem h) e
  | fstqReload _ _ => exact next_keeps (State.fstqReload_keeps h) e
  | fstqRead _ _ => exact next_keeps (State.fstqRead_keeps h) e
  | fstqWrite _ _ => exact next_keeps (State.fstqWrite_keeps h) e
  | fltresReplay _ _ | fltresUnresolved _ _ => exact next_keeps (memoryInv_of_mem State.runFltres_mem h) e
  | contextCreate _ _ | flr _ _ => exact next_keeps (memoryInv_ite (State.writeCtl_keeps h) h) e
  | flrComplete _ => exact next_keeps (memoryInv_of_mem State.endFlr_mem h) e
  | save _ _ => exact next_keeps (State.startPre_keeps (fun _ => State.startSave_keeps) h) e
  | saveBlockStop _ => exact next_keeps (State.stopBlock_keeps h) e
  | saveComplete _ => exact next_keeps (State.completeSave_keeps h) e
  | restore _ _ =>
    exact next_keeps (memoryInv_ite (memoryInv_of_mem State.placeRest_mem h) (State.startPre_keeps (fun _ => State.startRestore_keeps) h)) e
  | partitionChange _ => exact next_keeps (State.writePart_keeps h) e
  | partitionChangeComplete => exact next_keeps (memoryInv_of_mem State.endPart_mem h) e
  | cteUp _ _ => exact next_keeps (memoryInv_of_mem State.cteUp_mem h) e
  | cteDown _ _ => exact next_keeps (memoryInv_of_mem State.cteDown_mem h) e
  | circuitUp _ => exact next_keeps (memoryInv_of_mem State.circuitUp_mem h) e
  | circuitDrained _ => exact next_keeps (memoryInv_of_mem State.circuitDrained_mem h) e
  | wavelengthFailure _ _ => exact next_keeps (memoryInv_of_mem (State.updCte_mem ..) h) e
  | flitCrcError _ => exact next_keeps (memoryInv_of_mem State.flitError_mem h) e
  | linkDown _ => exact next_keeps (memoryInv_of_mem State.linkDown_mem h) e
  | poolLinkDown _ _ | poolLinkUp _ _ => exact next_keeps (memoryInv_of_mem State.setPort_mem h) e
  | channelHalfWidth _ _ _ => exact next_keeps (memoryInv_of_mem State.halfWidth_mem h) e
  | channelFullWidth _ _ => exact next_keeps (memoryInv_of_mem State.fullWidth_mem h) e
  | powerLimit _ _ | temperatureLimit _ _ | temperatureLimitCleared _ | powerLimitCleared _ =>
    exact next_keeps (memoryInv_of_mem State.setLimits_mem h) e
  | criticalTemperature _ => exact next_keeps State.critical_keeps e
  | moduleReset _ => exact next_keeps State.boot_keeps e
  | registerFileError _ => exact next_keeps (memoryInv_of_mem State.loseWave_mem h) e
  | accError _ => exact next_keeps (State.accError_keeps h) e
  | blockRestart _ => exact next_keeps (memoryInv_of_mem State.resumeBlock_mem h) e
  | modAttest _ => exact next_keeps (State.attestWrite_keeps h) e
  | modVaultrd _ => exact next_keeps (State.vaultRead_keeps h) e
  | poolAcquire _ => exact next_keeps (memoryInv_ite (State.startCmd_keeps (fun _ => State.serveAcquire_keeps) h) h) e
  | poolShare _ => exact next_keeps (memoryInv_ite (State.startCmd_keeps (fun _ => State.serveShare_keeps) h) h) e
  | htaskTake _ _ _ => exact next_keeps (memoryInv_of_mem State.takeTask_mem h) e
  | hdone _ _ => exact next_keeps (memoryInv_of_mem State.finishHostTask_mem h) e
  | evqConfigWrite _ _ => exact next_keeps (memoryInv_of_mem State.writeEvq_mem h) e
  | evqHeadWrite _ _ => exact next_keeps (memoryInv_of_mem State.writeEvqHead_mem h) e
  | perfselLoad _ _ => exact next_keeps (State.writePerfsel_keeps h) e
  | dirtyLogEnable _ _ => exact next_keeps (memoryInv_ite (memoryInv_of_mem State.writeDirty_mem h) h) e
  | visorSample _ => exact next_keeps (State.sampleCore_keeps h) e
  | pldmDiscovery => exact next_keeps (memoryInv_of_mem State.reply_mem h) e
  | pldmSensorRead _ => exact next_keeps (memoryInv_of_mem (State.reply_mem.trans State.sensor_mem) h) e
  | pldmFirmwareUpdate image => exact next_keeps (memoryInv_ite (t := { s with firmware := some image }) h h) e
  | registerWrite _ _ => exact next_keeps (State.writeRegister_keeps h) e
  | peerLinkDown _ | peerLinkUp _ => exact next_keeps (memoryInv_of_mem State.setPeer_mem h) e
  | vaultShardRelay _ _ => exact next_keeps (memoryInv_of_mem State.relayShard_mem h) e

/-! ## What a step does -/

/-- What a plan leads to, before the instruction that it runs. -/
def Plan.Keeps (p : Plan) : Prop := ∀ u, (p = .done u ∨ ∃ i, p = .run i u) → MemoryInv u

theorem Plan.keeps_done {u : State} (h : MemoryInv u) : (Plan.done u).Keeps := by
  rintro _ (e | ⟨i, e⟩)
  · exact Plan.done.inj e ▸ h
  · cases e
theorem Plan.keeps_run {i : Instr} {u : State} (h : MemoryInv u) : (Plan.run i u).Keeps := by
  rintro _ (e | ⟨j, e⟩)
  · cases e
  · exact (Plan.run.inj e).2 ▸ h
theorem Plan.keeps_stop {f : Fault} : (Plan.stop f).Keeps := by
  rintro _ (e | ⟨i, e⟩) <;> cases e
theorem Plan.keeps_refuse {r : Refusal} : (Plan.refuse r).Keeps := by
  rintro _ (e | ⟨i, e⟩) <;> cases e

theorem State.issueCohort_keeps {w : Wave} {c : Cohort} (h : MemoryInv s) : (s.issueCohort w c).Keeps := by
  unfold State.issueCohort
  extract_lets late counted
  split
  · exact Plan.keeps_done (State.stopFetch_keeps (fetchBytes_keeps.error h ‹_›))
  · exact Plan.keeps_done (State.stopFetch_keeps (fetchBytes_keeps.error h ‹_›))
  · have fetched := fetchBytes_keeps.ok h ‹_›
    have turn := fun count => memoryInv_of_mem (State.takeTurn_mem (w := w) (c := c) (count := count)) fetched
    split
    · exact Plan.keeps_done (State.allLanes_keeps (turn counted))
    · split
      · exact Plan.keeps_run (turn false)
      · exact Plan.keeps_run (turn counted)

theorem State.issueTurn_keeps {core quad : Nat} (h : MemoryInv s) : (s.issueTurn core quad).Keeps := by
  unfold State.issueTurn
  split
  · exact State.issueCohort_keeps h
  · exact Plan.keeps_done h

theorem State.hartTurn_keeps {n : Nat} (h : MemoryInv s) : (s.hartTurn n).Keeps := by
  unfold State.hartTurn
  extract_lets hart bare
  split
  · exact Plan.keeps_stop
  split
  · exact Plan.keeps_done (State.hartAccess_keeps h)
  split
  · exact Plan.keeps_refuse
  split
  · exact Plan.keeps_done (memoryInv_of_mem (State.updHart_mem ..) (hartWord_keeps.error h ‹_›))
  · exact Plan.keeps_done (memoryInv_of_mem State.hartExc_mem (hartWord_keeps.error h ‹_›))
  · exact Plan.keeps_refuse
  · have fetched := hartWord_keeps.ok h ‹_›
    split
    · exact Plan.keeps_run fetched
    · exact Plan.keeps_done (memoryInv_of_mem State.hartExc_mem fetched)
    · exact Plan.keeps_refuse

theorem State.plan_keeps {a : Act} (h : MemoryInv s) : (s.plan a).Keeps := by
  unfold State.plan
  split
  · exact Plan.keeps_done h
  split
  · exact State.issueTurn_keeps h
  · split
    · exact State.hartTurn_keeps h
    · exact Plan.keeps_done h
  · exact Plan.keeps_run h
  · exact Plan.keeps_done (State.input_keeps h)

/-- Settles O59: the choice of the act leaves memory alone, its plan and its instruction keep the form, and so does the end of the step. -/
theorem stepKeepsMemory : Obligations.StepKeepsMemory := by
  intro s t h e
  obtain ⟨s0, chosen, rfl⟩ | ⟨a, s0, u, chosen, rfl, planned⟩ := step_next e
  · exact State.pass_keeps (memoryInv_of_eq chosen (memoryInv_of_mem State.nextAct_mem h))
  · have h0 : MemoryInv s0 := memoryInv_of_eq chosen (memoryInv_of_mem State.nextAct_mem h)
    refine State.pass_keeps ?_
    obtain done | ⟨i, s1, run, next⟩ := planned
    · exact State.plan_keeps h0 u (.inl done)
    · exact exec_keeps (State.plan_keeps h0 s1 (.inr ⟨i, run⟩)) next

end Sys2Proof.Machine
end

section
/-! Saving and restoring a context (18 R386 to R396). What each command does to the state, said once; then the obligation, clause by clause. -/
namespace Sys2Proof.Machine
variable {s : State}

/-! ## Fields of a word -/

theorem bit_eq_fld (x i : Nat) : bit x i = (fld x i i == 1) := by
  rw [bit, fld, Nat.add_sub_cancel_left, Nat.pow_one]

/-- A field written: the bits below it, the new field, the bits above it. -/
theorem setFld_eq {hi lo : Nat} (x v : Nat) :
    setFld x hi lo v = 2 ^ lo * (2 ^ (hi + 1 - lo) * (x / 2 ^ lo / 2 ^ (hi + 1 - lo)) + v % 2 ^ (hi + 1 - lo)) + x % 2 ^ lo := by
  have low := Nat.div_add_mod x (2 ^ lo)
  have mid := Nat.div_add_mod (x / 2 ^ lo) (2 ^ (hi + 1 - lo))
  rw [setFld, fld, Nat.shiftRight_eq_div_pow, Nat.shiftLeft_eq, Nat.shiftLeft_eq]
  generalize x / 2 ^ lo = q at *
  generalize q / 2 ^ (hi + 1 - lo) = top at *
  generalize q % 2 ^ (hi + 1 - lo) = m at *
  generalize x % 2 ^ lo = a at *
  generalize v % 2 ^ (hi + 1 - lo) = v at *
  subst low mid
  rw [Nat.mul_add, Nat.mul_comm m, Nat.add_right_comm, Nat.add_sub_cancel]
  ring

theorem setFld_testBit {hi lo : Nat} (h : lo ≤ hi) (x v i : Nat) :
    (setFld x hi lo v).testBit i = if lo ≤ i ∧ i ≤ hi then v.testBit (i - lo) else x.testBit i := by
  rw [setFld_eq, Nat.testBit_two_pow_mul_add _ (Nat.mod_lt _ (Nat.two_pow_pos lo)),
    Nat.testBit_two_pow_mul_add _ (Nat.mod_lt _ (Nat.two_pow_pos _)), Nat.testBit_mod_two_pow, Nat.testBit_mod_two_pow, Nat.testBit_div_two_pow,
    Nat.testBit_div_two_pow]
  by_cases low : i < lo
  · simp [low, show ¬ (lo ≤ i ∧ i ≤ hi) by omega]
  by_cases mid : i ≤ hi
  · simp [low, show i - lo < hi + 1 - lo by omega, show lo ≤ i ∧ i ≤ hi by omega]
  · simp [low, show ¬ i - lo < hi + 1 - lo by omega, show ¬ (lo ≤ i ∧ i ≤ hi) by omega,
      show i - lo - (hi + 1 - lo) + (hi + 1 - lo) + lo = i by omega]

theorem setBits_testBit {hi lo : Nat} (h : lo ≤ hi) (h64 : hi < 64) (r : Dword) (v i : Nat) :
    (setBits r hi lo v).toNat.testBit i = if lo ≤ i ∧ i ≤ hi then v.testBit (i - lo) else r.toNat.testBit i := by
  rw [setBits, BitVec.toNat_ofNat, Nat.testBit_mod_two_pow, setFld_testBit h]
  by_cases hi64 : i < 64
  · simp [hi64]
  · have above : r.toNat.testBit i = false := Nat.testBit_lt_two_pow (r.isLt.trans_le (Nat.pow_le_pow_right (by decide) (by omega)))
    simp [hi64, above, show ¬ (lo ≤ i ∧ i ≤ hi) by omega]

theorem fld_testBit (x hi lo i : Nat) : (fld x hi lo).testBit i = (decide (i < hi + 1 - lo) && x.testBit (i + lo)) := by
  rw [fld, Nat.testBit_mod_two_pow, Nat.testBit_shiftRight, Nat.add_comm lo]

theorem fld_setBits_same {hi lo : Nat} (h : lo ≤ hi) (h64 : hi < 64) (r : Dword) (v : Nat) :
    fld (setBits r hi lo v).toNat hi lo = v % 2 ^ (hi + 1 - lo) := by
  refine Nat.eq_of_testBit_eq fun i => ?_
  rw [fld_testBit, setBits_testBit h h64, Nat.testBit_mod_two_pow]
  by_cases inside : i < hi + 1 - lo
  · simp [inside, show i + lo ≤ hi by omega]
  · simp [inside]

theorem fld_setBits_other {hi lo hi' lo' : Nat} (h : lo ≤ hi) (h64 : hi < 64) (apart : hi' < lo ∨ hi < lo') (r : Dword) (v : Nat) :
    fld (setBits r hi lo v).toNat hi' lo' = fld r.toNat hi' lo' := by
  refine Nat.eq_of_testBit_eq fun i => ?_
  rw [fld_testBit, fld_testBit, setBits_testBit h h64]
  by_cases inside : i < hi' + 1 - lo'
  · simp [show ¬ (lo ≤ i + lo' ∧ i + lo' ≤ hi) by omega]
  · simp [inside]

theorem bit_setBits_same {i : Nat} (h64 : i < 64) (r : Dword) (v : Nat) : bit (setBits r i i v).toNat i = (v % 2 == 1) := by
  rw [bit_eq_fld, fld_setBits_same le_rfl h64, Nat.add_sub_cancel_left, Nat.pow_one]

/-! ## A tenant changed -/

theorem State.tenant_updTenant {n : Nat} (hn : n < s.tenants.length) (f : Tenant → Tenant) : (s.updTenant n f).tenant n = f (s.tenant n) := by
  simp [State.tenant, State.updTenant, List.getD_eq_getElem?_getD, List.getElem?_eq_getElem hn]

theorem State.updTenant_tenants_length (n : Nat) (f : Tenant → Tenant) : (s.updTenant n f).tenants.length = s.tenants.length :=
  List.length_modify ..

/-! ## TMC_PRE -/

theorem State.preResult_fields {n code : Nat} (hn : n < s.tenants.length) (hc : code < 256) :
    fld ((s.preResult n code).tenant n).pre.toNat 15 8 = code ∧ bit ((s.preResult n code).tenant n).pre.toNat 0 = false := by
  rw [State.preResult, State.tenant_updTenant hn]
  constructor
  · rw [fld_setBits_other (by decide) (by decide) (by decide), fld_setBits_same (by decide) (by decide)]
    exact Nat.mod_eq_of_lt hc
  · rw [bit_setBits_same (by decide)]
    rfl

theorem State.preResult_sameRun {n code : Nat} : SameRun s (s.preResult n code) := ⟨rfl, rfl, rfl, rfl⟩

theorem State.startPre_run {n cmd : Nat} {v : Dword} {run : State → State} (idle : bit (s.tenant n).pre.toNat 0 = false)
    (busy : bit v.toNat 0 = true) (hc : fld v.toNat 3 2 = cmd) : s.startPre n cmd v run = run (s.preFields n v) := by
  simp [State.startPre, idle, busy, hc]

/-! ## SAVE -/

theorem State.preFields_tenant {n : Nat} (hn : n < s.tenants.length) (v : Dword) :
    (s.preFields n v).tenant n = { s.tenant n with
      pre := setBits (setBits (setBits (s.tenant n).pre 63 32 (fld v.toNat 63 32)) 3 2 (fld v.toNat 3 2)) 0 0 (fld v.toNat 0 0) } := by
  rw [State.preFields, State.tenant_updTenant hn]

theorem State.preFields_area {n : Nat} (hn : n < s.tenants.length) (v : Dword) :
    ((s.preFields n v).tenant n).areaBytes = fld v.toNat 63 32 * 1024 := by
  have small : fld v.toNat 63 32 < 2 ^ (63 + 1 - 32) := Nat.mod_lt _ (Nat.two_pow_pos _)
  rw [Tenant.areaBytes, State.preFields_tenant hn, fld_setBits_other (by decide) (by decide) (by decide),
    fld_setBits_other (by decide) (by decide) (by decide), fld_setBits_same (by decide) (by decide), Nat.mod_eq_of_lt small]

theorem State.preFields_busy {n : Nat} (hn : n < s.tenants.length) {v : Dword} (busy : bit v.toNat 0 = true) :
    bit ((s.preFields n v).tenant n).pre.toNat 0 = true := by
  rw [bit_eq_fld, beq_iff_eq] at busy
  rw [State.preFields_tenant hn, bit_setBits_same (by decide), busy]
  rfl

theorem State.preFields_imageSize {n : Nat} (hn : n < s.tenants.length) (v : Dword) (k : Nat) :
    (s.preFields n v).imageSize n k = s.imageSize n k := by
  have pool : (s.preFields n v).poolImage n = s.poolImage n := by
    rw [State.poolImage, State.poolImage, State.preFields_tenant hn]
    rfl
  have tid : (s.preFields n v).tidImage n = s.tidImage n := by
    rw [State.tidImage, State.tidImage, State.preFields_tenant hn]
    rfl
  have counters : ((s.preFields n v).tenant n).counterImage = (s.tenant n).counterImage := by
    rw [State.preFields_tenant hn]
    rfl
  rw [State.imageSize, pool, tid, counters, State.imageSize]

/-- A wave whose threads a save has stopped where they wait. -/
def Wave.stoppedHere (w : Wave) : Wave := { w with threads := w.threads.map (Thread.stopHere w.parked) }

theorem State.wave?_updWave_other {r r' : WaveRef} (ne : r ≠ r') {f : Wave → Wave} (hf : ∀ w, (f w).ref = w.ref) :
    (s.updWave r f).wave? r' = s.wave? r' := by
  change (s.waves.map fun w => if w.ref == r then f w else w).find? (fun w => w.ref == r') = s.waves.find? fun w => w.ref == r'
  induction s.waves with
  | nil => rfl
  | cons w ws ih =>
    rw [List.map_cons, List.find?_cons, List.find?_cons, ih]
    by_cases hw : w.ref = r
    · simp [hw, hf, beq_false_of_ne ne]
    · simp [hw]

/-- What the start of a save does about one wave. -/
def State.stopIfOf (n : Nat) (w : Wave) (s : State) : State := if s.tenantOfWave w == n then s.stopThreads w.ref else s

theorem State.stopThreads_frame (r : WaveRef) : ∃ ws, s.stopThreads r = { s with waves := ws } := by
  unfold State.stopThreads
  split
  · split
    · exact ⟨_, rfl⟩
    · exact ⟨s.waves, rfl⟩
  · exact ⟨s.waves, rfl⟩

theorem State.stopIfOf_frame (n : Nat) (w : Wave) : ∃ ws, s.stopIfOf n w = { s with waves := ws } := by
  unfold State.stopIfOf
  split
  · exact s.stopThreads_frame w.ref
  · exact ⟨s.waves, rfl⟩

theorem State.forEach_stopIfOf_frame (n : Nat) (l : List Wave) : ∃ ws, s.forEach l (State.stopIfOf n) = { s with waves := ws } := by
  induction l generalizing s with
  | nil => exact ⟨s.waves, rfl⟩
  | cons a l ih =>
    obtain ⟨ws, first⟩ := s.stopIfOf_frame n a
    obtain ⟨ws', rest⟩ := ih (s := s.stopIfOf n a)
    exact ⟨ws', by rw [State.forEach_cons, rest, first]⟩

theorem State.stopThreads_other {r r' : WaveRef} (ne : r ≠ r') : (s.stopThreads r).wave? r' = s.wave? r' := by
  unfold State.stopThreads
  split
  · split
    · exact State.wave?_updWave_other ne fun _ => rfl
    · rfl
  · rfl

theorem State.stopIfOf_other {n : Nat} {w : Wave} {r : WaveRef} (ne : w.ref ≠ r) : (s.stopIfOf n w).wave? r = s.wave? r := by
  unfold State.stopIfOf
  split
  · exact State.stopThreads_other ne
  · rfl

theorem State.forEach_stopIfOf_other {n : Nat} {l : List Wave} {r : WaveRef} (ne : ∀ w ∈ l, w.ref ≠ r) :
    (s.forEach l (State.stopIfOf n)).wave? r = s.wave? r := by
  induction l generalizing s with
  | nil => rfl
  | cons a l ih =>
    rw [State.forEach_cons, ih fun w hw => ne w (List.mem_cons_of_mem a hw), State.stopIfOf_other (ne a List.mem_cons_self)]

theorem State.stopIfOf_same {n : Nat} {w : Wave} (phase : (s.tenant n).phase = .saving) (here : s.wave? w.ref = some w) :
    (s.stopIfOf n w).wave? w.ref = some (if s.tenantOfWave w = n then w.stoppedHere else w) := by
  unfold State.stopIfOf
  by_cases h : s.tenantOfWave w = n
  · have stop : s.stopThreads w.ref = s.updWave w.ref fun w => { w with threads := w.threads.map (Thread.stopHere w.parked) } := by
      simp only [State.stopThreads, here, h, phase]
      rfl
    simp only [h, beq_self_eq_true, if_true, stop]
    exact wave?_updWave here _ rfl
  · simp [h, here]

/-- Stopping the waves of a list in turn stops each wave of the tenant. -/
theorem State.forEach_stopIfOf_wave {n : Nat} {l : List Wave} (distinct : l.Pairwise fun a b => a.ref ≠ b.ref)
    (phase : (s.tenant n).phase = .saving) (here : ∀ w ∈ l, s.wave? w.ref = some w) {w : Wave} (hw : w ∈ l) :
    (s.forEach l (State.stopIfOf n)).wave? w.ref = some (if s.tenantOfWave w = n then w.stoppedHere else w) := by
  induction l generalizing s with
  | nil => cases hw
  | cons a l ih =>
    obtain ⟨apart, distinct⟩ := List.pairwise_cons.1 distinct
    rw [State.forEach_cons]
    obtain rfl | hw := List.mem_cons.1 hw
    · rw [State.forEach_stopIfOf_other fun x hx => (apart x hx).symm, State.stopIfOf_same phase (here w List.mem_cons_self)]
    · obtain ⟨ws, frame⟩ := s.stopIfOf_frame n a
      have same : (s.stopIfOf n a).tenantOfWave w = s.tenantOfWave w := by rw [frame]; rfl
      rw [← same]
      refine ih distinct (by rw [frame]; exact phase) (fun x hx => ?_) hw
      rw [State.stopIfOf_other (apart x hx)]
      exact here x (List.mem_cons_of_mem a hx)

theorem State.wave?_mem {r : WaveRef} {w : Wave} (h : s.wave? r = some w) : w ∈ s.waves ∧ w.ref = r :=
  ⟨List.mem_of_find?_eq_some h, beq_iff_eq.1 (List.find?_some (p := fun w : Wave => w.ref == r) h)⟩

theorem State.distinct.wave? (distinct : s.distinct) {w : Wave} (hw : w ∈ s.waves) : s.wave? w.ref = some w := by
  rw [State.distinct] at distinct
  rw [State.wave?]
  generalize s.waves = ws at distinct hw
  induction ws with
  | nil => cases hw
  | cons a ws ih =>
    obtain ⟨apart, distinct⟩ := List.pairwise_cons.1 distinct
    rw [List.find?_cons]
    obtain rfl | hw := List.mem_cons.1 hw
    · simp
    · rw [beq_eq_false_iff_ne.2 (apart w hw)]
      exact ih distinct hw

/-- The state that a save of a context without loops starts from: its phase, and no gang held for its tasks. -/
def State.beginSave (s : State) (n : Nat) : State :=
  let s := s.updTenant n fun t => { t with phase := .saving, savePos := 128, saveCnt := 0 }
  { s with tasks := s.tasks.map fun t => if t.tenant == n then { t with gang := none } else t }

theorem State.startSave_begins {n : Nat}
    (hsize : s.imageSize n ((s.tenantBlocks n).map fun b => recBytes b (s.blockWaves b.id)).sum ≤ (s.tenant n).areaBytes)
    (flr : (s.tenant n).flr = false) (loops : s.tenantLoops n = []) :
    s.startSave n = (s.beginSave n).forEach s.waves (State.stopIfOf n) := by
  unfold State.startSave
  extract_lets size t s1 s2 s3
  have held : s3 = s2 := by
    have none : s2.tenantLoops n = [] := loops
    rw [show s3 = s2.forEach (s2.tenantLoops n) _ from rfl, none, State.forEach_nil]
  rw [if_neg (Nat.not_lt.2 hsize), if_neg (Bool.eq_false_iff.1 flr), held]
  rfl

theorem State.startSave_tooSmall {n : Nat}
    (hsize : (s.tenant n).areaBytes < s.imageSize n ((s.tenantBlocks n).map fun b => recBytes b (s.blockWaves b.id)).sum) :
    s.startSave n = s.preResult n 2 := by
  unfold State.startSave
  simp only [hsize, if_true]

theorem State.beginSave_tenantOfWave {n : Nat} (w : Wave) : (s.beginSave n).tenantOfWave w = s.tenantOfWave w := by
  have task : ∀ k, ((s.beginSave n).task? k).map (·.tenant) = (s.task? k).map (·.tenant) := fun k => by
    change ((s.tasks.map fun t => if t.tenant == n then { t with gang := none } else t).find? fun x => x.id == k).map _ = _
    rw [State.task?]
    induction s.tasks with
    | nil => rfl
    | cons t ts ih =>
      rw [List.map_cons, List.find?_cons, List.find?_cons]
      have id : (if t.tenant == n then { t with gang := none } else t).id = t.id := by split <;> rfl
      have tenant : (if t.tenant == n then { t with gang := none } else t).tenant = t.tenant := by split <;> rfl
      rw [id]
      split
      · exact congrArg some tenant
      · exact ih
  have block : (s.beginSave n).block? w.block = s.block? w.block := rfl
  rw [State.tenantOfWave, State.tenantOfWave, State.taskOfWave, State.taskOfWave, block]
  cases s.block? w.block with
  | none => rfl
  | some b => exact congrArg (Option.getD · 0) (task b.task)

theorem State.stopIfOf_thread {n : Nat} {l : List Wave} (distinct : s.distinct) (hl : l = s.waves) (phase : (s.tenant n).phase = .saving)
    {r : ThreadRef} {w : Wave} {t : Thread} (hw : s.wave? r.wave = some w) (ht : s.thread? r = some t) :
    (s.forEach l (State.stopIfOf n)).thread? r = some (if s.tenantOfWave w = n then t.stopHere w.parked else t) := by
  obtain ⟨mem, ref⟩ := State.wave?_mem hw
  subst hl
  have stopped := State.forEach_stopIfOf_wave (n := n) distinct phase (fun w hw => distinct.wave? hw) mem
  have lane : w.threads[r.lane]? = some t := by rw [State.thread?, hw] at ht; exact ht
  rw [ref] at stopped
  rw [State.thread?, stopped]
  split
  · change (w.threads.map (Thread.stopHere w.parked))[r.lane]? = _
    rw [List.getElem?_map, lane]
    rfl
  · exact lane

theorem State.beginSave_tenant {n : Nat} (hn : n < s.tenants.length) :
    (s.beginSave n).tenant n = { s.tenant n with phase := .saving, savePos := 128, saveCnt := 0 } := State.tenant_updTenant hn _

/-! ## The end of one block's save -/

theorem State.sweepFaults_nil (h : s.faults = []) : s.sweepFaults = s := by
  rw [State.sweepFaults, h, State.forEach_nil]

/-- A block that nothing holds up is written and dropped. -/
theorem State.stopBlock_saves {s2 : State} {b b1 : Block} {t : Task} (hb : s.block? b.id = some b) (ht : s.taskOf b = some t)
    (phase : (s.tenant t.tenant).phase = .saving) (aborting : t.aborting = false) (ready : s.preemptable b t = true) (restarting : b.restarting = 0)
    (hb1 : (s.saveMats b.id).block? b.id = some b1) (good : b1.scratchBad = []) (faults : (s.saveMats b.id).faults = [])
    (drained : (s.saveMats b.id).drained b.id = true)
    (parks : ∀ w ∈ (s.saveMats b.id).waves, w.block = b.id → ∀ x ∈ w.threads, x.unpark = x)
    (written : (s.saveMats b.id).imageWrite t.tenant ((s.saveMats b.id).tenant t.tenant).savePos
      (b1.image t.addr ((s.saveMats b.id).blockWaves b.id)) = (true, s2)) :
    s.stopBlock b.id = ((s2.updTask t.id fun t => { t with saved := t.saved + 1 }).updTenant t.tenant fun n =>
      { n with savePos := n.savePos + recBytes b1 ((s.saveMats b.id).blockWaves b.id), saveCnt := n.saveCnt + 1 }).dropBlock b.id := by
  have unparked : ((s.saveMats b.id).waves.map fun w => if w.block == b.id then { w with threads := w.threads.map Thread.unpark } else w)
      = (s.saveMats b.id).waves := by
    refine (List.map_congr_left fun w hw => ?_).trans (List.map_id _)
    split
    · have same : w.threads.map Thread.unpark = w.threads :=
        (List.map_congr_left (parks w hw (beq_iff_eq.1 ‹_›))).trans (List.map_id _)
      rw [same]
      rfl
    · rfl
  have stay : ¬((s.tenant t.tenant).phase != .saving || t.aborting || !s.preemptable b t) = true := by simp [phase, aborting, ready]
  unfold State.stopBlock
  rw [hb]
  dsimp -zeta only
  rw [ht]
  dsimp -zeta only
  rw [if_neg stay]
  extract_lets s1 left swept ended _ ws
  have left_eq : left = s1 := by
    change { s1 with waves := s1.waves.map _ } = s1
    rw [unparked]
  have swept_eq : swept = s1 := (congrArg State.sweepFaults left_eq).trans (State.sweepFaults_nil faults)
  have ended_eq : ended = s1 := (if_neg (by simp [restarting])).trans swept_eq
  have ws_eq : ws = s1.blockWaves b.id := congrArg (State.blockWaves · b.id) ended_eq
  rw [swept_eq, ended_eq, ws_eq, hb1]
  dsimp -zeta only
  rw [if_neg (by simp [s1, drained]), if_neg (by simp [restarting]), if_neg (by simp [good])]
  dsimp -zeta only [s1] at written ⊢
  rw [written]

theorem State.task?_updTask {k : Nat} {f : Task → Task} (hf : ∀ t, (f t).id = t.id) : (s.updTask k f).task? k = (s.task? k).map f := by
  change (s.tasks.map fun t => if t.id == k then f t else t).find? (fun t => t.id == k) = (s.tasks.find? fun t => t.id == k).map f
  induction s.tasks with
  | nil => rfl
  | cons t ts ih =>
    rw [List.map_cons, List.find?_cons, List.find?_cons, ih]
    by_cases ht : t.id = k
    · simp [ht, hf]
    · simp [beq_false_of_ne ht]

theorem State.block?_dropBlock {k : Nat} : (s.dropBlock k).block? k = none := by
  change (s.blocks.filter fun b => b.id != k).find? (fun b => b.id == k) = none
  rw [List.find?_eq_none]
  intro b hb
  simpa using (List.mem_filter.1 hb).2

theorem State.blockWaves_dropBlock {k : Nat} : (s.dropBlock k).blockWaves k = [] := by
  change (s.waves.filter fun w => w.block != k).filter (fun w => w.block == k) = []
  rw [List.filter_eq_nil_iff]
  intro w hw
  simpa using (List.mem_filter.1 hw).2

theorem State.mem_blocks_dropBlock {k : Nat} {b : Block} (hb : b.id ≠ k) : b ∈ (s.dropBlock k).blocks ↔ b ∈ s.blocks := by
  change b ∈ s.blocks.filter (fun b => b.id != k) ↔ _
  simp [hb]

/-! ## The end of a save -/

theorem State.settleOp_ok {α : Type} {x : Op α} {a : α} {t : State} (h : x s = .ok a t) : s.settleOp x = (some a, t) := by
  rw [State.settleOp, h]

theorem State.saveReady_of_idle {n : Nat} (phase : (s.tenant n).phase = .saving) (loops : s.tenantLoops n = []) (blocks : s.tenantBlocks n = [])
    (mats : ∀ o ∈ s.mats, o.by_.tenant ≠ n) (copies : ∀ c ∈ s.copies, c.by_.tenant ≠ n) (nms : ∀ c ∈ s.nms, c.by_.tenant ≠ n)
    (ended : ∀ t ∈ s.tenantTasks n, s.mustEnd t = false) : s.saveReady n = true := by
  have noMats : s.mats.any (fun o => o.by_.tenant == n) = false := List.any_eq_false.2 fun o ho => by simpa using mats o ho
  have noCopies : s.copies.any (fun c => c.by_.tenant == n) = false := List.any_eq_false.2 fun c hc => by simpa using copies c hc
  have noNms : s.nms.any (fun c => c.by_.tenant == n) = false := List.any_eq_false.2 fun c hc => by simpa using nms c hc
  have noTasks : (s.tenantTasks n).any s.mustEnd = false := List.any_eq_false.2 fun t ht => by simp [ended t ht]
  rw [State.saveReady, phase, blocks, loops, noMats, noCopies, noNms, noTasks]
  rfl

theorem State.completeSave_done {n : Nat} {s1 sr s2 : State} {bs : List Byte} (ready : s.saveReady n = true) (loops : s.tenantLoops n = []) :
    let t := s.tenant n
    let tidOff := t.savePos + (s.poolImage n).length
    let cntOff := tidOff + (s.tidImage n).length
    let size := cntOff + t.counterImage.length
    s.imageWrite n t.savePos (s.poolImage n ++ s.tidImage n ++ t.counterImage) = (true, s1) →
    imageRead n 128 (size - 128) s1 = .ok (some bs) sr →
    sr.imageWrite n 0 (natBytes 128 (imageHeader n 0x0200 size t.saveCnt (sr.tenantTasks n).length (sr.clockOf n) t.savePos tidOff cntOff
      (fingerprint bs))) = (true, s2) →
    s.completeSave n = ((s2.removeTenant n).updTenant n fun t => { t with phase := .idle }).preResult n 1 := by
  intro t tidOff cntOff size sections image header
  unfold State.completeSave
  extract_lets +onlyGivenNames published
  have same : published = s := by
    change (if (s.tenant n).phase == .saving then s.forEach (s.tenantLoops n) fun l s => s.publishLoop l.task else s) = s
    rw [loops, State.forEach_nil, ite_self]
  rw [same, if_neg (by simp [ready])]
  extract_lets pool tid tidOff' cntOff' size'
  rw [show s.imageWrite n t.savePos (pool ++ tid ++ t.counterImage) = (true, s1) from sections]
  dsimp -zeta only
  rw [show s1.settleOp (imageRead n 128 (size' - 128)) = (some (some bs), sr) from State.settleOp_ok image]
  dsimp -zeta only
  extract_lets words
  rw [show sr.imageWrite n 0 (natBytes 128 words) = (true, s2) from header]

/-! ## RESTORE -/

theorem Op.bind_ok {α β : Type} {x : Op α} {f : α → Op β} {b : β} {t : State} (h : (x >>= f) s = .ok b t) :
    ∃ a u, x s = .ok a u ∧ f a u = .ok b t := by
  change EStateM.bind x f s = .ok b t at h
  rw [EStateM.bind] at h
  split at h
  · exact ⟨_, _, ‹_›, h⟩
  · cases h

theorem Op.bind_run {α β : Type} {x : Op α} {f : α → Op β} {a : α} {u : State} (h : x s = .ok a u) : (x >>= f) s = f a u := by
  change EStateM.bind x f s = f a u
  rw [EStateM.bind, h]

theorem Op.get_bind {α : Type} {f : State → Op α} : (get >>= f) s = f s s := rfl

/-- A context that holds a task takes no image. -/
theorem checkImage_notEmpty {n : Nat} (live : s.tenantTasks n ≠ []) : checkImage n s = .ok (.refused 6) s := by
  have occupied : (!(s.tenantTasks n).isEmpty || !(s.tenantBlocks n).isEmpty) = true := by simp [live]
  rw [checkImage, Op.get_bind]
  rw [if_pos occupied]
  rfl

theorem checkImage_badMagic {n : Nat} {h : List Byte} {s1 : State} (tasks : s.tenantTasks n = []) (blocks : s.tenantBlocks n = [])
    (read : imageRead n 0 128 s = .ok (some h) s1) (magic : fld (leNat h) 31 0 ≠ 0x43584D49) : checkImage n s = .ok (.refused 4) s1 := by
  have empty : ¬(!(s.tenantTasks n).isEmpty || !(s.tenantBlocks n).isEmpty) = true := by simp [tasks, blocks]
  rw [checkImage, Op.get_bind]
  rw [if_neg empty, Op.bind_run read]
  dsimp only
  rw [if_pos (by simp [magic])]
  rfl

/-- Only a context that is enabled takes an image. -/
theorem checkImage_enabled {n : Nat} {p : ImageParts} {s1 : State} (ok : checkImage n s = .ok (.ok p) s1) : (s.tenant n).en = true := by
  rw [checkImage, Op.get_bind] at ok
  split at ok
  · cases ok
  obtain ⟨hb, s2, _, ok⟩ := Op.bind_ok ok
  split at ok
  · cases ok
  extract_lets h size at ok
  split at ok
  · cases ok
  obtain ⟨bs, s3, _, ok⟩ := Op.bind_ok ok
  split at ok
  · cases ok
  extract_lets q at ok
  split at ok
  · cases ok
  split at ok
  · cases ok
  · rename_i passed
    simp at passed
    exact passed.1

theorem State.startRestore_refused {n code : Nat} {s1 : State} (flr : (s.tenant n).flr = false) (h : checkImage n s = .ok (.refused code) s1) :
    s.startRestore n = s1.preResult n code := by
  unfold State.startRestore
  rw [if_neg (Bool.eq_false_iff.1 flr), State.settleOp_ok h]

theorem State.startRestore_takes {n : Nat} {p : ImageParts} {s1 s2 : State} (flr : (s.tenant n).flr = false) (h : checkImage n s = .ok (.ok p) s1)
    (taken : s1.reinstate n p = some s2) : s.startRestore n = s2.placeRest n := by
  unfold State.startRestore
  obtain ⟨reinstate, eq⟩ : ∃ f, f = State.reinstate := ⟨_, rfl⟩
  rw [← eq] at taken ⊢
  rw [if_neg (Bool.eq_false_iff.1 flr), State.settleOp_ok h]
  dsimp only
  rw [taken]

theorem SameRun.trans {a b c : State} (h : SameRun a b) (h' : SameRun b c) : SameRun a c := by
  obtain ⟨waves, blocks, mem, harts⟩ := h
  obtain ⟨waves', blocks', mem', harts'⟩ := h'
  exact ⟨waves'.trans waves, blocks'.trans blocks, mem'.trans mem, harts'.trans harts⟩

theorem State.forEach_sameRun {α : Type} {f : α → State → State} (hf : ∀ a s, SameRun s (f a s)) (l : List α) :
    SameRun s (s.forEach l f) := by
  induction l generalizing s with
  | nil => exact ⟨rfl, rfl, rfl, rfl⟩
  | cons a l ih => exact (hf a s).trans ih

theorem State.forEach_id {α : Type} {f : α → State → State} {l : List α} (hf : ∀ a ∈ l, f a s = s) : s.forEach l f = s := by
  induction l with
  | nil => rfl
  | cons a l ih => rw [State.forEach_cons, hf a List.mem_cons_self, ih fun b hb => hf b (List.mem_cons_of_mem a hb)]

theorem State.newIds_sameRun (k : Nat) : SameRun s (s.newIds k).2 := by
  induction k generalizing s with
  | zero => exact ⟨rfl, rfl, rfl, rfl⟩
  | succ k ih => exact SameRun.trans ⟨rfl, rfl, rfl, rfl⟩ (ih (s := s.newId.2))

theorem State.restTasks_sameRun (n : Nat) (ids : List Nat) (l : List (Nat × List Byte)) : SameRun s (s.restTasks n ids l) := by
  induction l generalizing s with
  | nil => exact ⟨rfl, rfl, rfl, rfl⟩
  | cons x l ih => exact SameRun.trans ⟨rfl, rfl, rfl, rfl⟩ ih

/-- A reinstated image without blocks: nothing that runs has changed, no block waits for a core, and SAVE_CLOCK and the selectors are kept. -/
theorem State.reinstate_noBlocks {n : Nat} {p : ImageParts} {s2 : State} (taken : s.reinstate n p = some s2) (none : p.f 575 544 = 0)
    (hn : n < s2.tenants.length) :
    SameRun s s2 ∧ (s2.tenant n).rest = [] ∧ (s2.tenant n).restClk = p.f 511 448
      ∧ (s2.tenant n).perfSels = (List.range 80).map fun i => bytesAt (p.bytes.drop (p.f 767 704)) (2 * i) 2 := by
  have named := fun {s n} => State.newIds_sameRun (s := s) n
  obtain ⟨reinstate, spec⟩ : ∃ f, f = State.reinstate := ⟨_, rfl⟩
  obtain ⟨settle, settle_eq⟩ : ∃ f, f = @State.settleOp (List RestBlock) := ⟨_, rfl⟩
  obtain ⟨newIds, newIds_eq⟩ : ∃ f, f = State.newIds := ⟨_, rfl⟩
  obtain ⟨read, read_eq⟩ : ∃ f, f = rdPool := ⟨_, rfl⟩
  rw [← spec] at taken
  delta State.reinstate at spec
  rw [← newIds_eq] at named
  rw [← settle_eq, ← newIds_eq, ← read_eq] at spec
  rw [spec] at taken
  beta_reduce at taken
  extract_lets k pool tail tid cnt at taken
  split at taken
  rename_i ids s1 ids_eq
  split at taken
  · cases taken
  extract_lets entries u2 u3 u4 base entry at taken
  have run : SameRun s u4 := by
    have h1 : SameRun s s1 := by
      have := named (s := s) (n := k)
      rwa [ids_eq] at this
    have h2 : SameRun s1 u2 := State.restTasks_sameRun ..
    have h3 : SameRun u2 u3 := by
      refine State.forEach_sameRun ?_ _
      exact fun _ _ => ⟨rfl, rfl, rfl, rfl⟩
    have h4 : SameRun u3 u4 := ⟨rfl, rfl, rfl, rfl⟩
    exact ((h1.trans h2).trans h3).trans h4
  split at taken
  rename_i blocks u5 settled
  have noBlocks : blocks = some [] ∧ u5 = u4 := by
    rw [none, settle_eq] at settled
    have empty : (some [], u4) = (blocks, u5) := settled
    exact ⟨(Prod.mk.inj empty).1.symm, (Prod.mk.inj empty).2.symm⟩
  obtain ⟨rfl, rfl⟩ := noBlocks
  cases taken
  rw [State.updTenant_tenants_length] at hn
  rw [State.tenant_updTenant hn]
  exact ⟨run, rfl, rfl, rfl⟩

/-- A restore with no block left to place ends with RESULT DONE and BUSY 0. -/
theorem State.placeRest_noBlocks {n : Nat} (rest : (s.tenant n).rest = []) :
    s.placeRest n = (s.updTenant n fun t => t.endRestore s.clock).preResult n 1 := by
  have placed : s.forEach (s.tenantTasks n) (fun t s =>
      let rs := (s.tenant n).rest.filter fun r => r.block.task == t.id
      if rs.isEmpty then s else s.placeTask t rs) = s :=
    State.forEach_id fun t _ => by rw [rest]; rfl
  unfold State.placeRest
  rw [placed]
  dsimp only
  rw [rest]
  rfl

/-! ## The four commands -/

theorem save_tooSmall {n : Nat} {v : Dword} (hn : n < s.tenants.length) (idle : bit (s.tenant n).pre.toNat 0 = false) (busy : bit v.toNat 0 = true)
    (cmd : fld v.toNat 3 2 = 0)
    (small : fld v.toNat 63 32 * 1024 < s.imageSize n ((s.tenantBlocks n).map fun b => recBytes b (s.blockWaves b.id)).sum) :
    exec (.save n v) s = .next ((s.preFields n v).preResult n 2) := by
  have run := State.startPre_run (run := fun s => s.startSave n) idle busy cmd
  have size := (State.preFields_imageSize hn v _).symm ▸ (State.preFields_area hn v).symm ▸ small
  exact congrArg Host.Outcome.next (run.trans (State.startSave_tooSmall size))

theorem save_begins {n : Nat} {v : Dword} (hn : n < s.tenants.length) (idle : bit (s.tenant n).pre.toNat 0 = false) (busy : bit v.toNat 0 = true)
    (cmd : fld v.toNat 3 2 = 0)
    (fits : s.imageSize n ((s.tenantBlocks n).map fun b => recBytes b (s.blockWaves b.id)).sum ≤ fld v.toNat 63 32 * 1024)
    (flr : (s.tenant n).flr = false) (loops : s.tenantLoops n = []) :
    exec (.save n v) s = .next (((s.preFields n v).beginSave n).forEach s.waves (State.stopIfOf n)) := by
  have run := State.startPre_run (run := fun s => s.startSave n) idle busy cmd
  have size := (State.preFields_imageSize hn v _).symm ▸ (State.preFields_area hn v).symm ▸ fits
  have flr' : ((s.preFields n v).tenant n).flr = false := by rw [State.preFields_tenant hn]; exact flr
  exact congrArg Host.Outcome.next (run.trans (State.startSave_begins size flr' loops))

theorem State.preResult_tenant {n code : Nat} (hn : n < s.tenants.length) :
    (s.preResult n code).tenant n = { s.tenant n with pre := setBits (setBits (s.tenant n).pre 15 8 code) 0 0 0 } := State.tenant_updTenant hn _

theorem exec_restore {n : Nat} {v : Dword} (phase : (s.tenant n).phase = .idle) (idle : bit (s.tenant n).pre.toNat 0 = false)
    (busy : bit v.toNat 0 = true) (cmd : fld v.toNat 3 2 = 1) : exec (.restore n v) s = .next ((s.preFields n v).startRestore n) := by
  have run := State.startPre_run (run := fun s => s.startRestore n) idle busy cmd
  have new : ¬((s.tenant n).phase == .restoring) = true := by simp [phase]
  exact congrArg Host.Outcome.next ((if_neg new).trans run)

/-- The clock of a context whose restore ends goes on at the later of the module's and SAVE_CLOCK. -/
theorem State.clockOf_endRestore {n : Nat} (hn : n < s.tenants.length) :
    ((s.updTenant n fun t => t.endRestore s.clock).preResult n 1).clockOf n = max s.clock (s.tenant n).restClk % 2 ^ 64 := by
  have hn' : n < (s.updTenant n fun t => t.endRestore s.clock).tenants.length := by rwa [State.updTenant_tenants_length]
  rw [State.clockOf, State.preResult_tenant hn', State.tenant_updTenant hn]
  change (s.clock + ((s.tenant n).restClk - s.clock)) % 2 ^ 64 = _
  rw [show s.clock + ((s.tenant n).restClk - s.clock) = max s.clock (s.tenant n).restClk by omega]

theorem State.removeTenant_root {n : Nat} (hn : n < s.tenants.length) : ((s.removeTenant n).tenant n).root = (s.tenant n).root := by
  unfold State.removeTenant
  extract_lets s1
  rw [State.tenant_updTenant (s := s1) hn]
  rfl

/-- Settles O49, clause by clause: SAVE, the stop of a block, the end of the save, RESTORE. -/
theorem saveAndRestore : Obligations.SaveAndRestore := by
  refine ⟨?save, ?stop, ?complete, ?restore⟩
  case save =>
    intro s n v hn idle busy size area cmd
    have hn0 : n < (s.preFields n v).tenants.length := by rwa [State.preFields, State.updTenant_tenants_length]
    refine ⟨fun small => ?_, fun fits flr loops distinct => ?_⟩
    · obtain ⟨result, notBusy⟩ := State.preResult_fields (s := s.preFields n v) (n := n) (code := 2) hn0 (by decide)
      refine ⟨_, save_tooSmall hn idle busy cmd small, ⟨rfl, rfl, rfl, rfl⟩, rfl, rfl, ?_, result, notBusy⟩
      rw [State.preResult_tenant hn0, State.preFields_tenant hn]
    · obtain ⟨ws, frame⟩ := State.forEach_stopIfOf_frame (s := (s.preFields n v).beginSave n) n s.waves
      have tenant : (((s.preFields n v).beginSave n).forEach s.waves (State.stopIfOf n)).tenant n
          = { (s.preFields n v).tenant n with phase := .saving, savePos := 128, saveCnt := 0 } := by
        rw [frame]
        exact State.beginSave_tenant hn0
      have phase : (((s.preFields n v).beginSave n).tenant n).phase = .saving := by rw [State.beginSave_tenant hn0]
      have stops : ∀ {r w t}, s.wave? r.wave = some w → s.thread? r = some t →
          (((s.preFields n v).beginSave n).forEach s.waves (State.stopIfOf n)).thread? r
            = some (if ((s.preFields n v).beginSave n).tenantOfWave w = n then t.stopHere w.parked else t) := fun hw ht =>
        State.stopIfOf_thread (s := (s.preFields n v).beginSave n) distinct rfl phase hw ht
      have owner : ∀ w, ((s.preFields n v).beginSave n).tenantOfWave w = s.tenantOfWave w := State.beginSave_tenantOfWave
      refine ⟨_, save_begins hn idle busy cmd fits flr loops, by rw [frame]; rfl, by rw [frame]; rfl, by rw [tenant], ?_,
        fun r w t hw ht own => ?_, fun r w t hw ht other => ?_⟩
      · rw [tenant]
        exact State.preFields_busy hn busy
      · exact (stops hw ht).trans (by rw [owner, if_pos own])
      · exact (stops hw ht).trans (by rw [owner, if_neg other])
  case stop =>
    intro s s2 b b1 t n s1 hb ht phase aborting ready restarting hb1 good faults drained parks hn written
    have saved := State.stopBlock_saves hb ht phase aborting ready restarting hb1 good faults drained parks written
    refine ⟨_, congrArg Host.Outcome.next saved, rfl, State.block?_dropBlock, State.blockWaves_dropBlock,
      fun x hx => State.mem_blocks_dropBlock hx, ?_, ?_, fun t2 ht2 => ?_⟩
    · exact congrArg Tenant.savePos (State.tenant_updTenant hn _)
    · exact congrArg Tenant.saveCnt (State.tenant_updTenant hn _)
    · exact (State.task?_updTask (s := s2) (f := fun t => { t with saved := t.saved + 1 }) fun _ => rfl).trans (congrArg (Option.map _) ht2)
  case complete =>
    intro s s1 sr s2 n bs phase loops blocks mats copies nms ended hn t tidOff cntOff size sections image header
    have ready := State.saveReady_of_idle phase loops blocks mats copies nms ended
    have done := State.completeSave_done ready loops sections image header
    have hn' : n < ((s2.removeTenant n).updTenant n fun t => { t with phase := .idle }).tenants.length := by
      rwa [State.updTenant_tenants_length, State.removeTenant, State.updTenant_tenants_length]
    obtain ⟨result, notBusy⟩ := State.preResult_fields (code := 1) hn' (by decide)
    have hn2 : n < (s2.removeTenant n).tenants.length := by rwa [State.removeTenant, State.updTenant_tenants_length]
    refine ⟨_, congrArg Host.Outcome.next done, rfl, rfl, rfl, ?_, result, notBusy, ?_⟩
    · rw [State.preResult_tenant hn', State.tenant_updTenant hn2]
    · rw [State.preResult_tenant hn', State.tenant_updTenant hn2]
      exact State.removeTenant_root hn
  case restore =>
    intro s n v hn phase idle flr busy cmd s0 refuses
    have hn0 : n < s0.tenants.length := by rwa [show s0.tenants.length = s.tenants.length from State.updTenant_tenants_length ..]
    have run := exec_restore phase idle busy cmd
    have flr0 : (s0.tenant n).flr = false := by rw [State.preFields_tenant hn]; exact flr
    refine ⟨fun live => ?_, fun tasks blocks h s1 read tasks1 loops1 hn1 magic => ?_, fun en p s1 ok => ?_,
      fun p s1 s2 ok taken noBlocks hn2 => ?_⟩
    · have refused := State.startRestore_refused flr0 (checkImage_notEmpty live)
      obtain ⟨result, notBusy⟩ := State.preResult_fields (code := 6) hn0 (by decide)
      exact ⟨_, run.trans (congrArg Host.Outcome.next refused), ⟨rfl, rfl, rfl, rfl⟩, rfl, rfl, result, notBusy⟩
    · have refused := State.startRestore_refused flr0 (checkImage_badMagic tasks blocks read magic)
      obtain ⟨result, notBusy⟩ := State.preResult_fields (code := 4) hn1 (by decide)
      exact ⟨_, run.trans (congrArg Host.Outcome.next refused), ⟨rfl, rfl, rfl, rfl⟩, tasks1, loops1, result, notBusy⟩
    · have enabled := checkImage_enabled ok
      rw [State.preFields_tenant hn] at enabled
      exact absurd (en.symm.trans enabled) (by decide)
    · obtain ⟨same, rest, clock, sels⟩ := State.reinstate_noBlocks taken noBlocks hn2
      have done := (State.startRestore_takes flr0 ok taken).trans (State.placeRest_noBlocks rest)
      have hn3 : n < (s2.updTenant n fun t => t.endRestore s2.clock).tenants.length := by rwa [State.updTenant_tenants_length]
      have tenant := (State.preResult_tenant (code := 1) hn3).trans (by rw [State.tenant_updTenant hn2])
      obtain ⟨result, notBusy⟩ := State.preResult_fields (code := 1) hn3 (by decide)
      refine ⟨_, run.trans (congrArg Host.Outcome.next done), same, rfl, rfl, ?_, result, notBusy, fun i hi => ?_, ?_⟩
      · rw [tenant]
        rfl
      · rw [tenant]
        change (s2.tenant n).perfSels.getD i 0 = _
        rw [sels]
        simp [hi]
      · rw [State.clockOf_endRestore hn2, clock]

end Sys2Proof.Machine
end

section
/-! SUPPORT. More laws of the lanes: an instruction that changes its cohort's wave once and completes, and one in which every active lane begins to
wait. -/
namespace Sys2Proof.Machine
variable {s : State} {c : Cohort} {v w : Wave} {x : Dev}

/-! ## The active lanes -/

theorem active_wave {l : LaneCtx} (hl : l ∈ c.active w x) : l.wave = w := lanesOf_wave c w _ l (List.mem_of_mem_filter hl)

theorem leader_wave {l : LaneCtx} {rest : List LaneCtx} (act : c.active w x = l :: rest) : l.wave = w :=
  active_wave (act ▸ List.mem_cons_self : l ∈ c.active w x)

/-- The lanes of a cohort whose threads meet a test, as numbers. -/
theorem lanesOf_filter_lane (c : Cohort) (w : Wave) (len : Nat) (p : Thread → Bool) :
    ((c.lanesOf w len).filter fun l => p l.th).map (·.lane) = c.lanes.filter fun i => (w.threads[i]?).any p := by
  unfold Cohort.lanesOf
  induction c.lanes with
  | nil => rfl
  | cons i is ih =>
    rw [List.filterMap_cons, List.filter_cons]
    cases w.threads[i]? with
    | none => exact ih
    | some t =>
      simp only [Option.map_some, Option.any_some, List.filter_cons]
      split <;> simp [ih]

theorem active_lane (c : Cohort) (w : Wave) (x : Dev) :
    (c.active w x).map (·.lane) = c.lanes.filter fun i => (w.threads[i]?).any fun t => t.guard x.guard :=
  lanesOf_filter_lane c w _ fun t => t.guard x.guard

/-- Where every lane gives the same, what becomes of the wave depends on the active lanes' numbers alone. -/
theorem Wave.after_const {act act' : List LaneCtx} (len : Nat) (o : LaneOut) (same : act.map (·.lane) = act'.map (·.lane)) :
    v.after c act len (fun _ => o) = v.after c act' len fun _ => o := by
  have found : ∀ i, (act.find? fun l => l.lane == i).map (·.lane) = (act'.find? fun l => l.lane == i).map (·.lane) := by
    have byLane : ∀ (l : List LaneCtx) (i : Nat), (l.find? fun a => a.lane == i).map (·.lane) = (l.map (·.lane)).find? (· == i) :=
      fun l i => by rw [List.find?_map]; rfl
    exact fun i => by rw [byLane, byLane, same]
  have uniform : ∀ n, act.findSome? (fun _ => o.uniform n) = act'.findSome? fun _ => o.uniform n := by
    have byLane : ∀ (l : List LaneCtx) (n : Nat), l.findSome? (fun _ => o.uniform n) = (l.map (·.lane)).findSome? fun _ => o.uniform n :=
      fun l n => by rw [List.findSome?_map]; rfl
    exact fun n => by rw [byLane, byLane, same]
  have flags : act.foldl (fun f _ => raiseFlags f o.flags) v.fstat = act'.foldl (fun f _ => raiseFlags f o.flags) v.fstat := by
    have byLane : ∀ l : List LaneCtx, l.foldl (fun f _ => raiseFlags f o.flags) v.fstat
        = (l.map (·.lane)).foldl (fun f _ => raiseFlags f o.flags) v.fstat := fun l => by rw [List.foldl_map]
    rw [byLane, byLane, same]
  unfold Wave.after
  simp only [uniform, flags, Wave.mk.injEq, true_and]
  refine congrArg (v.threads.mapIdx ·) (funext fun i => funext fun t => ?_)
  have here := found i
  cases ha : act.find? fun l => l.lane == i with
  | none =>
    rw [ha] at here
    rw [Option.map_eq_none_iff.1 here.symm]
  | some a =>
    rw [ha] at here
    obtain ⟨a', ha', -⟩ := Option.map_eq_some_iff.1 here.symm
    rw [ha']

/-! ## An instruction that changes its cohort's wave -/

/-- A change of a wave that its cohort's lanes do not see: the wave keeps its name and block, and its threads their guards and instructions. -/
structure KeepsLanes (g : Wave → Wave) : Prop where
  ref : ∀ w, (g w).ref = w.ref
  block : ∀ w, (g w).block = w.block
  threads : ∀ w, ∃ f : Thread → Thread, (g w).threads = w.threads.map f ∧ ∀ t, (f t).preds = t.preds ∧ (f t).inst = t.inst

theorem KeepsLanes.active_lane {g : Wave → Wave} (hg : KeepsLanes g) : (c.active (g w) x).map (·.lane) = (c.active w x).map (·.lane) := by
  obtain ⟨f, threads, same⟩ := hg.threads w
  rw [Machine.active_lane, Machine.active_lane, threads]
  refine List.filter_congr fun i _ => ?_
  rw [List.getElem?_map, Option.any_map]
  congr 1
  funext t
  simp only [Thread.guard, Thread.pred, (same t).1]

theorem KeepsLanes.stage {g : Wave → Wave} (hg : KeepsLanes g) (hs : Stage s c w) : Stage (s.updWave c.wave g) c (g w) := by
  obtain ⟨f, threads, same⟩ := hg.threads w
  refine ⟨hs.cur, hs.ready.updWave g (hg.ref w) (hg.block w), hs.asc, ?_, ?_⟩
  · simpa [threads] using hs.exist
  · intro i hi t ht
    rw [threads, List.getElem?_map, Option.map_eq_some_iff] at ht
    obtain ⟨t0, ht0, rfl⟩ := ht
    rw [(same t0).2]
    exact hs.fresh i hi t0 ht0

/-- The wave changed and then written by its lanes is the wave written once. -/
theorem State.updWave_issued {g : Wave → Wave} (hg : KeepsLanes g) (out : LaneCtx → LaneOut) :
    (s.updWave c.wave g).issued c v w x out = s.issued c v w x out := by
  unfold State.issued
  rw [State.updWave_waves, List.map_map]
  congr 1
  refine List.map_congr_left fun u _ => ?_
  by_cases here : u.ref = c.wave
  · simp [here, hg.ref]
  · simp [here]

/-- An instruction that acts once for its cohort, changes nothing but its wave in a way that the lanes do not see, and completes. -/
theorem runCohort_changesWave {m : List LaneCtx → Op (LaneCtx → LaneRes)} {g : Wave → Wave} (hs : Stage s c w) (hg : KeepsLanes g)
    (acts : c.active w x ≠ []) (hm : m (c.active w x) s = .ok (fun _ => .done {}) (s.updWave c.wave g)) :
    runCohort x m s = s.idle.issued c (g w) w x fun _ => {} := by
  have run := runCohort_done (out := fun _ => {}) hs acts hm (hg.stage hs) (fun _ _ => rfl) fun _ _ => ⟨rfl, rfl⟩
  have same : (g w).after c (c.active (g w) x) (lenBytes x.len) (fun _ => {}) = (g w).after c (c.active w x) (lenBytes x.len) fun _ => {} :=
    Wave.after_const _ _ hg.active_lane
  rw [run]
  refine Eq.trans ?_ (State.updWave_issued (s := s.idle) hg _)
  simp only [State.issued, same]
  rfl

/-- The same where nothing is changed. -/
theorem runCohort_nothing {m : List LaneCtx → Op (LaneCtx → LaneRes)} (hs : Stage s c w)
    (hm : c.active w x ≠ [] → m (c.active w x) s = .ok (fun _ => .done {}) s) : runCohort x m s = s.idle.issued c w w x fun _ => {} := by
  by_cases acts : c.active w x = []
  · unfold runCohort
    simp only [activeLanes_stage hs, acts, List.isEmpty_nil, if_true]
    exact runLanes_pure hs (fun _ _ => rfl) fun _ _ => ⟨rfl, rfl⟩
  · exact runCohort_done hs acts (hm acts) hs (fun _ _ => rfl) fun _ _ => ⟨rfl, rfl⟩

/-! ## Every active lane waits -/

/-- A thread that has issued an instruction and waits in it. -/
def Thread.waitsIn (wt : Wait) (len : Nat) (t : Thread) : Thread :=
  { t with status := .waiting wt (t.pc + BitVec.ofNat 60 len), watch := none, turns := 0, retry := true, again := false, inst := none, redo := none }

/-- A wave after its active lanes have begun a wait, the idle lanes of the cohort moved on. -/
def Wave.waitsIn (v : Wave) (c : Cohort) (act : List LaneCtx) (wt : Wait) (len : Nat) : Wave :=
  { v with threads := v.threads.mapIdx fun i t => if act.any fun l => l.lane == i then t.waitsIn wt len
                                                  else if c.lanes.contains i then t.skip len else t }

theorem settleLane_wait {wt : Wait} (plain : wt.dropDest = wt) (keep : Bool) (len : Nat) :
    settleLane keep len (.wait wt none) = Thread.waitsIn wt len := by
  funext t
  rw [settleLane, plain, ite_self]
  rfl

theorem raiseFlags_zero (f : Word) : raiseFlags f 0 = f := by
  rw [raiseFlags]
  simp

/-- The wave after its active lanes have all begun a wait that names no destination. -/
theorem settle_waits {wt : Wait} (asc : c.lanes.Pairwise (· < ·)) (exist : ∀ i ∈ c.lanes, i < w.threads.length)
    (fresh : ∀ l ∈ c.active w x, l.th.inst = none) (plain : wt.dropDest = wt) (id : Nat) :
    v.settle (lenBytes x.len) id (((c.lanesOf w (lenBytes x.len)).filter fun l => !l.th.guard x.guard).map (·.lane))
        ((c.active w x).map fun l => (l, .wait wt none))
      = v.waitsIn c (c.active w x) wt (lenBytes x.len) := by
  have idle := lanesOf_filter_lane c w (lenBytes x.len) fun t => !t.guard x.guard
  have lanes := active_lane c w x
  generalize ((c.lanesOf w (lenBytes x.len)).filter fun l => !l.th.guard x.guard).map (·.lane) = is at idle ⊢
  generalize c.active w x = act at lanes fresh ⊢
  have groups : instGroups (act.map fun l => (l, LaneRes.wait wt none)) = [(none, act.map fun l => (l, .wait wt none))] :=
    instGroups_fresh fun p hp => by
      obtain ⟨l, hl, rfl⟩ := List.mem_map.1 hp
      exact fresh l hl
  have writes : groupWrites (none, act.map fun l => (l, LaneRes.wait wt none)) = [] := by
    cases act with
    | nil => rfl
    | cons a as => rfl
  have flags : ∀ f, (act.map fun l => (l, LaneRes.wait wt none)).foldl (fun f (p : LaneCtx × LaneRes) => raiseFlags f p.2.flags) f = f := by
    intro f
    rw [List.foldl_map]
    exact List.foldl_fixed' (fun _ => raiseFlags_zero f) act
  have outstanding : ((act.map fun l => (l, LaneRes.wait wt none)).any fun p => p.2.outstanding) = false := by
    simp [LaneRes.outstanding]
  have distinctA : (act.map (·.lane)).Pairwise (· ≠ ·) := lanes ▸ (asc.imp Nat.ne_of_lt).filter _
  have distinctI : is.Pairwise (· ≠ ·) := idle ▸ (asc.imp Nat.ne_of_lt).filter _
  have waits := fun v : Wave => foldl_updThread (fun l : LaneCtx => l.lane) (fun _ => Thread.waitsIn wt (lenBytes x.len)) act
    (List.pairwise_map.1 distinctA) v
  have skips := fun v : Wave => foldl_updThread (fun i : Nat => i) (fun _ t => t.skip (lenBytes x.len)) is distinctI v
  unfold Wave.settle Wave.waitsIn
  simp only [groups, List.foldl_cons, List.foldl_nil, List.flatMap_cons, List.flatMap_nil, writes, instWave, outstanding, flags, List.append_nil,
    List.foldl_map, settleLane_wait plain, Option.isNone_none, Bool.not_false, Bool.and_true, if_true]
  rw [waits, skips]
  simp only [Wave.mk.injEq, true_and]
  refine List.ext_getElem (by simp) fun i h1 h2 => ?_
  simp only [List.getElem_mapIdx]
  have inAct : i ∈ act.map (·.lane) ↔ i ∈ c.lanes ∧ (w.threads[i]?).any (fun t => t.guard x.guard) = true := by rw [lanes, List.mem_filter]
  have inIdle : i ∈ is ↔ i ∈ c.lanes ∧ (w.threads[i]?).any (fun t => !t.guard x.guard) = true := by rw [idle, List.mem_filter]
  have one : i ∈ c.lanes → ((w.threads[i]?).any (fun t => !t.guard x.guard) = true
      ↔ ¬(w.threads[i]?).any (fun t => t.guard x.guard) = true) := by
    intro hi
    simp [List.getElem?_eq_getElem (exist i hi)]
  have anyAct : (act.any fun l => l.lane == i) = decide (i ∈ act.map (·.lane)) := by
    rw [Bool.eq_iff_iff]
    simp
  cases waiting : act.find? fun l => l.lane == i with
  | some a =>
    have mem : i ∈ act.map (·.lane) :=
      List.mem_map.2 ⟨a, List.mem_of_find?_eq_some waiting, by simpa using List.find?_some waiting⟩
    have rest : is.find? (fun a => a == i) = none := by
      rw [List.find?_eq_none]
      rintro j hj same
      obtain rfl : j = i := by simpa using same
      exact (one (inAct.1 mem).1).1 (inIdle.1 hj).2 (inAct.1 mem).2
    rw [rest, anyAct, decide_eq_true mem, if_pos rfl]
  | none =>
    have absent : i ∉ act.map (·.lane) := by simpa using waiting
    rw [anyAct, decide_eq_false absent, if_neg Bool.false_ne_true]
    by_cases hi : i ∈ c.lanes
    · have mem : i ∈ is := inIdle.2 ⟨hi, (one hi).2 fun g => absent (inAct.2 ⟨hi, g⟩)⟩
      obtain ⟨j, found⟩ := Option.isSome_iff_exists.1 ((List.find?_isSome (p := fun a => a == i)).2 ⟨i, mem, beq_self_eq_true i⟩)
      rw [found, if_pos (by simpa using hi)]
    · have rest : is.find? (fun a => a == i) = none := by
        rw [List.find?_eq_none]
        rintro j hj same
        obtain rfl : j = i := by simpa using same
        exact hi (inIdle.1 hj).1
      rw [rest, if_neg (by simpa using hi)]

/-- Where every active lane begins a wait that names no destination, those threads wait, the cohort's idle lanes move on, and nothing else changes. -/
theorem runLanes_waits {wt : Wait} (hs : Stage s c w) (plain : wt.dropDest = wt) :
    runLanes x.guard (lenBytes x.len) (fun _ s => (.wait wt none, s)) s = s.idle.waitingAll c w x (c.active w x) wt := by
  have wave : s.wave? c.wave = some w := hs.ready.wave
  have results : ∀ (act : List LaneCtx) (t : State),
      foldLanes (fun _ s => (.wait wt none, s)) act t = (act.map fun l => (l, .wait wt none), t) := by
    intro act t
    induction act with
    | nil => rfl
    | cons a as ih => simp only [foldLanes, ih, List.map_cons]
  have watched : ∀ l ∈ c.active w x, s.idle.fetchWatch l = none := by
    intro l hl
    have ref : l.ref = ⟨c.wave, l.lane⟩ := by rw [LaneCtx.ref, active_wave hl, hs.ready.ref]
    rw [State.fetchWatch, ref]
    exact watchHit_none hs.ready _ _ _ _
  have fresh : ∀ l ∈ c.active w x, l.th.inst = none := fun l hl =>
    let ⟨mem, thread⟩ := lanesOf_thread (List.mem_of_mem_filter hl)
    hs.fresh _ mem _ thread
  have kept : fetchWatches s.idle ((c.active w x).map fun l => (l, LaneRes.wait wt none)) = (c.active w x).map fun l => (l, .wait wt none) := by
    unfold fetchWatches
    simp only [List.map_map]
    refine List.map_congr_left fun l hl => ?_
    simp only [Function.comp, watched l hl, LaneRes.withAfter_none]
    rfl
  have outstanding : ((c.active w x).map fun l => (l, LaneRes.wait wt none)).any (fun p => p.2.outstanding) = false := by
    simp [LaneRes.outstanding]
  have faults : laneFaults ((c.active w x).map fun l => (l, LaneRes.wait wt none)) = [] := by
    simp [laneFaults, LaneRes.fault?]
  have exits : exitLanes ((c.active w x).map fun l => (l, LaneRes.wait wt none)) = [] := by
    simp [exitLanes]
  unfold runLanes runActing
  rw [hs.cur]
  simp only [wave]
  change finishLanes _ _ _ (foldLanes _ (c.active w x) s.idle).1 (foldLanes _ (c.active w x) s.idle).2 = _
  rw [results, finishLanes]
  simp only [kept, outstanding, faults, exits, Bool.false_eq_true, if_false, State.forEach_nil]
  rw [updWave_only hs.ready, settle_waits hs.asc hs.exist fresh plain]
  have ready := hs.ready.updWave (fun _ => w.waitsIn c (c.active w x) wt (lenBytes x.len)) rfl rfl
  rw [updWave_only hs.ready] at ready
  exact stopThreads_ready ready

end Sys2Proof.Machine
end

section
/-! What a step does (01 R20, R21; 06 R161; 13 R318): the choice of the next act, and the plan of an issue turn and of a hart's turn. -/
namespace Sys2Proof.Machine
variable {s : State}

/-! ## The choice of the next act -/

theorem State.nextAct_ownAct (noInput : s.nextInput s.agenda = none) : s.nextAct = s.ownAct := by
  unfold State.nextAct
  rw [noInput, ite_self]

theorem State.nextAct_overdue (inReset : s.inReset = false) (overdue : s.overdueMoves ≠ []) : s.nextAct = s.ownAct := by
  unfold State.nextAct
  rw [if_pos (by simp [inReset, overdue])]

theorem State.nextAct_input {p : Input} {rest : List Input} (calm : s.inReset = true ∨ s.overdueMoves = []) (first : s.agenda = p :: rest)
    (due : p.due ≤ s.clock) (ready : s.waits p.act = false) : s.nextAct = (some p.act, { s with agenda := rest }) := by
  have taken : s.nextInput s.agenda = some (p.act, rest) := by
    rw [first, State.nextInput, if_neg (Nat.not_lt.2 due), if_neg (Bool.eq_false_iff.1 ready)]
  unfold State.nextAct
  rw [if_neg (by obtain h | h := calm <;> simp [h]), taken]

theorem State.nextInput_none (early : ∀ p rest, s.agenda = p :: rest → s.clock < p.due) : s.nextInput s.agenda = none := by
  cases h : s.agenda with
  | nil => rfl
  | cons p rest => rw [State.nextInput, if_pos (early p rest h)]

/-- One round of the search for the oldest act. -/
def State.older (s : State) (m : Option Act) (a : Act) : Option Act :=
  match m with
  | some b => if s.age b < s.age a then some a else some b
  | none => some a

theorem State.foldl_older (l : List Act) (b : Act) : ∃ a, l.foldl s.older (some b) = some a ∧ (a = b ∨ a ∈ l) ∧ s.age b ≤ s.age a
    ∧ ∀ x ∈ l, s.age x ≤ s.age a := by
  induction l generalizing b with
  | nil => exact ⟨b, rfl, .inl rfl, le_rfl, fun x hx => absurd hx List.not_mem_nil⟩
  | cons y l ih =>
    by_cases older : s.age b < s.age y
    · obtain ⟨a, fold, mem, first, rest⟩ := ih y
      refine ⟨a, by rw [List.foldl_cons, State.older, if_pos older, fold], ?_, by omega, ?_⟩
      · exact .inr (mem.elim (fun h => h ▸ List.mem_cons_self) (List.mem_cons_of_mem y))
      · exact List.forall_mem_cons.2 ⟨first, rest⟩
    · obtain ⟨a, fold, mem, first, rest⟩ := ih b
      refine ⟨a, by rw [List.foldl_cons, State.older, if_neg older, fold], mem.imp_right (List.mem_cons_of_mem y), first, ?_⟩
      exact List.forall_mem_cons.2 ⟨by omega, rest⟩

/-- The oldest of several acts is one of them, and none of them has been passed over more often. -/
theorem State.oldest_spec {l : List Act} (ne : l ≠ []) : ∃ a ∈ l, s.oldest l = some a ∧ ∀ b ∈ l, s.age b ≤ s.age a := by
  obtain ⟨y, l, rfl⟩ := List.exists_cons_of_ne_nil ne
  obtain ⟨a, fold, mem, first, rest⟩ := s.foldl_older l y
  exact ⟨a, mem.elim (fun h => h ▸ List.mem_cons_self) (List.mem_cons_of_mem y), fold, List.forall_mem_cons.2 ⟨first, rest⟩⟩

theorem State.ownAct_one {a : Act} (one : s.enabled = [a]) : s.ownAct = (some a, { s with ages := [] }) := by
  rw [State.ownAct, one]

theorem State.ownAct_none (idle : s.enabled = []) : s.ownAct = (none, { s with ages := [] }) := by
  rw [State.ownAct, idle]

theorem State.ownAct_several (several : 2 ≤ s.enabled.length) : s.ownAct.1
    = if (s.oldest s.enabled).any fun a => decide (Config.patience < s.age a) then s.oldest s.enabled
      else s.enabled[Config.choice s.free % s.enabled.length]? := by
  unfold State.ownAct
  split
  · simp_all
  · simp_all
  · rfl

theorem State.ownAct_offers (offered : s.enabled ≠ []) : ∃ a ∈ s.enabled, s.ownAct.1 = some a := by
  by_cases several : 2 ≤ s.enabled.length
  · rw [State.ownAct_several several]
    split
    · obtain ⟨a, mem, oldest, -⟩ := s.oldest_spec offered
      exact ⟨a, mem, oldest⟩
    · have inside := Nat.mod_lt (Config.choice s.free) (List.length_pos_iff.2 offered)
      exact ⟨_, List.getElem_mem inside, List.getElem?_eq_getElem inside⟩
  · obtain ⟨a, one⟩ := List.length_eq_one_iff.1 (show s.enabled.length = 1 by have := List.length_pos_iff.2 offered; omega)
    exact ⟨a, by simp [one], by rw [State.ownAct_one one]⟩

/-- Once some act has been passed over too often, the one passed over most often comes next. -/
theorem State.ownAct_late (several : 2 ≤ s.enabled.length) (late : ∃ a ∈ s.enabled, Config.patience < s.age a) :
    ∃ a ∈ s.enabled, s.ownAct.1 = some a ∧ ∀ b ∈ s.enabled, s.age b ≤ s.age a := by
  obtain ⟨x, hx, passedOver⟩ := late
  obtain ⟨a, mem, oldest, most⟩ := s.oldest_spec (List.ne_nil_of_mem hx)
  refine ⟨a, mem, ?_, most⟩
  rw [State.ownAct_several several, oldest, if_pos (by have := most x hx; simp; omega)]

theorem State.enabled_overdue (inReset : s.inReset = false) (overdue : s.overdueMoves ≠ []) :
    s.enabled = s.overdueMoves.map fun m => .event (.cuffAbandon m.id) := by
  rw [State.enabled, if_neg (by simp [inReset]), if_pos (by simp [overdue])]

/-! ## The plan of an act -/

theorem step_act {a : Act} {s0 : State} (next : s.nextAct = (some a, s0)) : step s = runPlan (s0.plan a) := by
  rw [step, next]

theorem step_idle {s0 : State} (next : s.nextAct = (none, s0)) : step s = .next (s0.pass true) := by
  rw [step, next]

theorem State.plan_issue {core quad : Nat} (awake : s.inReset = false) : s.plan (.issue core quad) = s.issueTurn core quad := by
  rw [State.plan, if_neg (by simp [awake])]

theorem State.plan_hart {n : Nat} (awake : s.inReset = false) (hn : n < 64) : s.plan (.hart n) = s.hartTurn n := by
  rw [State.plan, if_neg (by simp [awake])]
  exact if_pos hn

theorem State.plan_event {i : Instr} (awake : s.inReset = false) : s.plan (.event i) = .run i s := by
  rw [State.plan, if_neg (by simp [awake])]

theorem decodeFor_ok {allot pc n : Nat} {bytes : List Byte} {i : Instr} (decoded : decode (32 - pc % 32) bytes = .ok (i, n))
    (within : allotFault allot i = none) : decodeFor allot pc bytes = .ok i := by
  rw [decodeFor, fetchRoom, decoded]
  simp only [within]

theorem decodeFor_error {allot pc : Nat} {bytes : List Byte} {f : DecodeFault} (decoded : decode (32 - pc % 32) bytes = .error f) :
    decodeFor allot pc bytes = .error (decodeFInfo f (32 - pc % 32) bytes) := by
  rw [decodeFor, fetchRoom, decoded]

section
variable {s1 : State} {core quad : Nat} {w : Wave} {c : Cohort} {bytes : List Byte}

/-- The turn of a cohort whose fetch answers bytes that decode within the allotment (01 R20, 18 R387). -/
theorem State.issueTurn_runs {i : Instr} (turn : s.turnOf core quad = some (w, c))
    (fetched : fetchBytes ⟨c.wave, c.lanes.headD 0⟩ c.pc.toNat s = .ok bytes s1) (decoded : decodeFor w.allot c.pc.toNat bytes = .ok i) :
    s.issueTurn core quad = if s.overrun c w = true ∧ passesSafept i w c = false
      then .run (.safeptOverrun w.ref) { s1.takeTurn w c false with cur := some c }
      else .run i { s1.takeTurn w c (c.counted w) with cur := some c } := by
  rw [State.issueTurn, turn]
  simp only [State.issueCohort, fetched, decoded, Bool.and_eq_true, Bool.not_eq_true']

theorem State.issueTurn_decodeFault {f : FInfo} (turn : s.turnOf core quad = some (w, c))
    (fetched : fetchBytes ⟨c.wave, c.lanes.headD 0⟩ c.pc.toNat s = .ok bytes s1) (faults : decodeFor w.allot c.pc.toNat bytes = .error f) :
    s.issueTurn core quad = .done ((s1.takeTurn w c (c.counted w)).allLanes c (.fault f)) := by
  rw [State.issueTurn, turn]
  simp only [State.issueCohort, fetched, faults]

end

/-- The turn of a hart that is in no access and whose word is of the host extension (22 R415). -/
theorem State.hartTurn_runs {s1 : State} {n x : Nat} {i : Instr} (sound : (s.hart n).exc = none)
    (free : ∀ op va, (s.hart n).held ≠ some (.access op va))
    (mode : (s.hart n).mode = .m ∨ (s.hart n).satpMode = 0 ∨ (s.hart n).satpMode = 14)
    (fetched : hartWord n s = .ok (some x) s1) (decoded : decodeHost (BitVec.ofNat 32 x) = .ext i) :
    s.hartTurn n = .run i { s1 with curHart := some n } := by
  have translated : ¬(!((s.hart n).mode == .m || (s.hart n).satpMode == 0) && (s.hart n).satpMode != 14) = true := by
    obtain h | h | h := mode <;> simp [h]
  cases held : (s.hart n).held with
  | none => simp only [State.hartTurn, sound, held, if_neg translated, fetched, decoded]
  | some h =>
    cases h with
    | access op va => exact absurd held (free op va)
    | ext => simp only [State.hartTurn, sound, held, if_neg translated, fetched, decoded]

/-- Settles O60, clause by clause: the inputs, the module's own acts, the overdue Cuffs, the issue turn, the hart's turn, the event. -/
theorem stepRunsDecoded : Obligations.StepRunsDecoded := by
  refine ⟨fun s p rest => State.nextAct_input, ?own, ?overdue, ?issue, ?hart, ?event, fun t => rfl⟩
  case own =>
    intro s early
    have own := State.nextAct_ownAct (State.nextInput_none early)
    refine ⟨fun a one => own.trans (State.ownAct_one one), fun idle => step_idle (own.trans (State.ownAct_none idle)), fun several => ?_⟩
    rw [own]
    exact ⟨State.ownAct_offers (List.ne_nil_of_length_pos (by omega)), State.ownAct_late several⟩
  case overdue =>
    intro s inReset overdue
    have enabled := State.enabled_overdue inReset overdue
    obtain ⟨a, mem, next⟩ := State.ownAct_offers (s := s) (by simpa [enabled] using overdue)
    rw [enabled] at mem
    obtain ⟨m, hm, rfl⟩ := List.mem_map.1 mem
    exact ⟨m, hm, by rw [State.nextAct_overdue inReset overdue, next]⟩
  case issue =>
    intro s s0 s1 core quad w c bytes next awake turn fetched room
    have run := (step_act next).trans (congrArg runPlan (State.plan_issue awake))
    refine ⟨fun i n decoded within => ?_, fun f decoded => ?_⟩
    · have plan := State.issueTurn_runs turn fetched (decodeFor_ok decoded within)
      refine ⟨fun passes => ?_, fun late stays => ?_⟩
      · rw [run, plan, if_neg (by obtain h | h := passes <;> simp [h])]
        rfl
      · rw [run, plan, if_pos ⟨late, stays⟩]
        rfl
    · rw [run, State.issueTurn_decodeFault turn fetched (decodeFor_error decoded)]
      rfl
  case hart =>
    intro s s0 s1 n x i next awake hn sound free mode fetched decoded
    rw [step_act next, State.plan_hart awake hn, State.hartTurn_runs sound free mode fetched decoded]
    rfl
  case event =>
    intro s s0 i next awake
    rw [step_act next, State.plan_event awake]
    rfl

end Sys2Proof.Machine
end

section
/-! The special registers (17 R380, R383; 01 R24 to R27): what each names, and the lanes' laws applied. -/
namespace Sys2Proof.Machine
variable {s : State} {c : Cohort} {w : Wave} {x : Dev}

theorem State.tenantOfWave_eq {b : Block} {k : Task} (hb : s.block? w.block = some b) (hk : s.task? b.task = some k) :
    s.tenantOfWave w = k.tenant := by
  rw [State.tenantOfWave, State.taskOfWave, hb, Option.bind_some, State.taskOf, hk]
  rfl

/-- The special registers of 32 bits by number (01 R24). -/
theorem specialValue_eq {b : Block} {k : Task} {l : LaneCtx} {n : Nat} (hb : s.block? w.block = some b) (hk : s.task? b.task = some k)
    (lane : l.wave = w) (hn : n < 15) (clock : n ≠ 12) :
    specialValue s l n = [l.lane, w.ref.slot, b.blockId, w.ref.core % 32 / 4, w.ref.core / 32, w.ref.core % 32 / 4, w.ref.core / 32 / 2, k.taskNum,
      k.graphId, l.th.ltid, b.strand.elim 0 (fun p => 2 ^ 31 + p.2), k.tenant, 0, w.fstat.toNat, l.th.trapinfo.toNat].getD n 0 := by
  have block : s.blockOf w = some b := hb
  have task : s.taskOf b = some k := hk
  have strand : b.strandId = b.strand.elim 0 fun p => 2 ^ 31 + p.2 := by
    rw [Block.strandId]
    cases b.strand <;> rfl
  unfold specialValue
  simp only [lane, block, Option.bind_some, task, Option.map_some, Option.getD_some, State.tenantOfWave_eq hb hk, strand]
  obtain low | rfl | rfl : n < 12 ∨ n = 13 ∨ n = 14 := by omega
  · interval_cases n <;> rfl
  · rfl
  · rfl

theorem exec_srd {b : Block} {k : Task} (hs : Stage s c w) (hb : s.block? w.block = some b) (hk : s.task? b.task = some k) (hn : x.m < 15) :
    exec (.srd x) s = .next (s.idle.issued c w w x fun l =>
      if x.m = 12 then outW x.d (s.clockOf k.tenant) .n32
      else outR x.d ([l.lane, w.ref.slot, b.blockId, w.ref.core % 32 / 4, w.ref.core / 32, w.ref.core % 32 / 4, w.ref.core / 32 / 2, k.taskNum,
        k.graphId, l.th.ltid, b.strand.elim 0 fun p => 2 ^ 31 + p.2, k.tenant, 0, w.fstat.toNat, l.th.trapinfo.toNat].getD x.m 0) .n32) := by
  refine congrArg Host.Outcome.next (runLanes_pure hs (fun l hl => ?_) fun l _ => by split <;> exact ⟨rfl, rfl⟩)
  by_cases clock : x.m = 12
  · have value : specialValue s l 12 = s.clockOf k.tenant := by
      rw [← State.tenantOfWave_eq hb hk, ← active_wave hl]
      rfl
    rw [srdLane, if_pos clock, clock, value]
    rfl
  · rw [srdLane, if_neg clock, if_neg (by simpa using clock), specialValue_eq hb hk (active_wave hl) hn clock]
    rfl

/-! ## SWR -/

/-- The bits that the lanes' values name. -/
theorem foldl_or_getLsbD (l : List LaneCtx) (v : LaneCtx → Word) (u : Word) (i : Nat) :
    (l.foldl (fun u a => u ||| v a) u).getLsbD i = (u.getLsbD i || l.any fun a => (v a).getLsbD i) := by
  induction l generalizing u with
  | nil => simp
  | cons a l ih => rw [List.foldl_cons, ih, BitVec.getLsbD_or, List.any_cons, Bool.or_assoc]

theorem clearFlags_getLsbD (f u : Word) {i : Nat} (hi : i < 32) :
    (clearFlags f u).getLsbD i = (f.getLsbD i && !([0, 1, 2, 3, 4, 6, 7, 8].contains i && u.getLsbD i)) := by
  have defined : (0x1DF : Word).getLsbD i = [0, 1, 2, 3, 4, 6, 7, 8].contains i := by
    interval_cases i <;> rfl
  rw [clearFlags, BitVec.getLsbD_and, BitVec.getLsbD_not, BitVec.getLsbD_and, defined, Bool.and_comm (u.getLsbD i)]
  simp [hi]

theorem clearFlags_zero (f : Word) : clearFlags f 0 = f := BitVec.and_allOnes

theorem keepsLanes_fstat (f : Wave → Word) : KeepsLanes fun w => { w with fstat := f w } :=
  ⟨fun _ => rfl, fun _ => rfl, fun _ => ⟨id, (List.map_id _).symm, fun _ => ⟨rfl, rfl⟩⟩⟩

theorem exec_swr {f : Word} (hs : Stage s c w) (cleared : ∀ i < 32, f.getLsbD i = (w.fstat.getLsbD i
      && !([0, 1, 2, 3, 4, 6, 7, 8].contains i && (c.active w x).any fun l => (l.src x.a).val.getLsbD i))) :
    exec (.swr x) s = .next (s.idle.issued c { w with fstat := f } w x fun _ => {}) := by
  have fstat : f = clearFlags w.fstat ((c.active w x).foldl (fun u l => u ||| (l.src x.a).val) 0) := by
    refine BitVec.eq_of_getLsbD_eq fun i hi => ?_
    rw [cleared i hi, clearFlags_getLsbD _ _ hi, foldl_or_getLsbD]
    simp
  refine congrArg Host.Outcome.next ?_
  by_cases acts : c.active w x = []
  · have same : f = w.fstat := by rw [fstat, acts, List.foldl_nil, clearFlags_zero]
    rw [same]
    exact runCohort_nothing hs fun h => absurd acts h
  · rw [fstat]
    refine runCohort_changesWave hs (keepsLanes_fstat fun v => clearFlags v.fstat _) acts ?_
    obtain ⟨l, rest, act⟩ := List.exists_cons_of_ne_nil acts
    have leader : l.wave.ref = c.wave := by rw [leader_wave act, hs.ready.ref]
    rw [act, ← leader]
    rfl

/-! ## PERF and CLK -/

theorem exec_perf {b : Block} {k : Task} (hs : Stage s c w) (hb : s.block? w.block = some b) (hk : s.task? b.task = some k) :
    exec (.perf x) s = .next (s.idle.issued c w w x fun l => outW x.d
      (perfValue (s.tenant k.tenant) (if bit x.m 0 then some (w.ref.core / 32 / 2) else none) (l.src x.a).val.toNat) .n32) := by
  refine congrArg Host.Outcome.next (runLanes_pure hs (fun l hl => ?_) fun _ _ => ⟨rfl, rfl⟩)
  rw [perfLane, active_wave hl, State.tenantOfWave_eq hb hk]
  rfl

theorem perfValue_core (t : Tenant) (n : Nat) : perfValue t none n
    = if n ≤ 15 ∧ decide (1 ≤ t.perfSels.getD n 0 ∧ t.perfSels.getD n 0 ≤ 7) then t.perfCore.getD n 0 else 0xFFFFFFFFFFFFFFF0 := by
  simp [perfValue, perfNone, and_assoc]

theorem perfValue_hub (t : Tenant) (h n : Nat) : perfValue t (some h) n
    = if n ≤ 63 ∧ decide (1 ≤ t.perfSels.getD (16 + n) 0 ∧ t.perfSels.getD (16 + n) 0 ≤ 7) then (t.perfHub.getD h []).getD n 0
      else 0xFFFFFFFFFFFFFFF0 := by
  simp [perfValue, perfNone, and_assoc]

theorem exec_clk (hs : Stage s c w) :
    let lim := s.limits (.die (Fin.ofNat 8 (w.ref.core / 32)))
    exec (.clk x) s = .next (s.idle.issued c w w x fun _ =>
      outR x.d (min (lim.thermal.getD 2500) (min (lim.power.getD 2500) 2500) + b2n lim.thermal.isSome * 65536
        + b2n lim.power.isSome * 131072) .n32) := by
  refine congrArg Host.Outcome.next (runLanes_pure hs (fun l hl => ?_) fun _ _ => ⟨rfl, rfl⟩)
  rw [clkLane, active_wave hl]
  rfl

/-- Settles O18, an instruction at a time. -/
theorem specialRegisters : Obligations.SpecialRegisters := by
  intro s c w x b k hs hb hk core tenant lim sel
  refine ⟨exec_srd hs hb hk, fun f => exec_swr hs, ?_, exec_clk hs⟩
  rw [exec_perf hs hb hk]
  congr 3
  funext l
  cases bit x.m 0
  · rw [if_neg Bool.false_ne_true, perfValue_core]
    rfl
  · rw [if_pos rfl, perfValue_hub]
    rfl

end Sys2Proof.Machine
end

section
/-! Register space (01 R31, R33; 17 R384): the operand of REGSHR and REGGRW, their three outcomes, and the grant. -/
namespace Sys2Proof.Machine
variable {s : State} {c : Cohort} {w : Wave} {x : Dev} {l : LaneCtx}

/-! ## The operand, and a wave of another allotment -/

theorem scalarTag_of_isScalar {t : Tag} (h : Tag.isScalar t) : scalarTag t = true := by
  obtain rfl | rfl := h <;> rfl

theorem sextN_toNat (v : Word) : sextN v.toNat 32 = v.toInt := by
  have small := v.isLt
  rw [sextN, BitVec.toInt_eq_toNat_cond, Nat.mod_eq_of_lt small]
  split <;> split <;> omega

theorem ival_eq_numOf (r : Reg) : ival r = numOf r := by
  simp [ival, numOf, sextN_toNat]

theorem allotOperand_scalar (h : Tag.isScalar (l.src x.a).tag) : allotOperand x l s = .ok (numOf (l.src x.a)) s := by
  rw [allotOperand]
  simp only [scalarTag_of_isScalar h, ival_eq_numOf]
  rfl

theorem Wave.setAllot_eq (w : Wave) (n : Nat) : w.setAllot n = { w with allot := n, threads := w.threads.map fun t => t.resized n } := rfl

theorem keepsLanes_setAllot (n : Nat) : KeepsLanes fun w => w.setAllot n :=
  ⟨fun _ => rfl, fun _ => rfl, fun _ => ⟨_, rfl, fun _ => ⟨rfl, rfl⟩⟩⟩

/-! ## REGSHR and REGGRW -/

section
variable {rest : List LaneCtx} (hs : Stage s c w) (act : c.active w x = l :: rest) (tag : Tag.isScalar (l.src x.a).tag)
include hs act tag

theorem exec_regshr : exec (.regshr x) s = .next (s.idle.issued c
    (if allotFor (numOf (l.src x.a)) < w.allot then w.setAllot (allotFor (numOf (l.src x.a))) else w) w x fun _ => {}) := by
  refine congrArg Host.Outcome.next ?_
  by_cases less : allotFor (numOf (l.src x.a)) < w.allot
  · rw [if_pos less]
    refine runCohort_changesWave hs (keepsLanes_setAllot _) (by simp [act]) ?_
    rw [act]
    simp only [List.head?_cons, regshrOp, Op.bind_run (allotOperand_scalar tag), leader_wave act, if_pos less, hs.ready.ref]
    rfl
  · rw [if_neg less]
    refine runCohort_nothing hs fun _ => ?_
    rw [act]
    simp only [List.head?_cons, regshrOp, Op.bind_run (allotOperand_scalar tag), leader_wave act, if_neg less]
    rfl

variable (fits : numOf (l.src x.a) ≤ 256)
include fits

theorem exec_reggrw_small (le : allotFor (numOf (l.src x.a)) ≤ w.allot) : exec (.reggrw x) s = .next (s.idle.issued c w w x fun _ => {}) := by
  refine congrArg Host.Outcome.next (runCohort_nothing hs fun _ => ?_)
  rw [act]
  simp only [List.head?_cons, reggrwOp, Op.bind_run (allotOperand_scalar tag), if_neg (Int.not_lt.2 fits), leader_wave act, if_pos le]
  rfl

theorem exec_reggrw_waits (gt : w.allot < allotFor (numOf (l.src x.a))) : exec (.reggrw x) s
    = .next ((s.idle.updCore w.ref.core fun k => { k with reggrw := k.reggrw ++ [l.ref] }).waitingAll c w x (c.active w x)
        (.reggrw (allotFor (numOf (l.src x.a))))) := by
  have queued : reggrwOp x (l :: rest) l s = .ok (fun _ => .wait (.reggrw (allotFor (numOf (l.src x.a)))))
      (s.updCore w.ref.core fun k => { k with reggrw := k.reggrw ++ [l.ref] }) := by
    simp only [reggrwOp, Op.bind_run (allotOperand_scalar tag), if_neg (Int.not_lt.2 fits), leader_wave act, if_neg (Nat.not_le.2 gt)]
    rfl
  have stage : Stage (s.updCore w.ref.core fun k => { k with reggrw := k.reggrw ++ [l.ref] }) c w :=
    ⟨hs.cur, ⟨hs.ready.wave, hs.ready.only, hs.ready.watch, hs.ready.phase⟩, hs.asc, hs.exist, hs.fresh⟩
  refine congrArg Host.Outcome.next ?_
  unfold runCohort
  simp only [activeLanes_stage hs, act, List.isEmpty_cons, Bool.false_eq_true, if_false, List.head?_cons, queued]
  rw [runLanes_waits stage rfl, act]
  rfl

end

/-! ## The grant -/

section
variable {core n : Nat} {r : ThreadRef} {rest : List ThreadRef} {t : Thread} {next : BitVec 60}

theorem State.reggrwOf_waiting (hw : s.wave? r.wave = some w) (ht : w.threads[r.lane]? = some t) (waits : t.status = .waiting (.reggrw n) next) :
    s.reggrwOf r = some (n, next) := by
  rw [State.reggrwOf, State.thread?, hw, Option.bind_some, ht, Option.map_some, waits]

theorem State.nextReggrw_first (queue : (s.core core).reggrw = r :: rest) (waits : s.reggrwOf r = some (n, next)) :
    s.nextReggrw core = some (r, n, next) := by
  rw [State.nextReggrw, queue, List.findSome?_cons, waits]
  rfl

theorem State.canGrant_room (first : s.nextReggrw core = some (r, n, next)) (hw : s.wave? r.wave = some w)
    (phase : (s.tenant (s.tenantOfWave w)).phase ≠ .saving)
    (room : 128 * (n - w.allot) + ((s.waves.filter fun v => v.ref.core == core).map fun v => 128 * v.allot).sum ≤ 524288) :
    s.canGrant core = true := by
  have space : 128 * (n - w.allot) ≤ s.regSpace core := by
    rw [State.regSpace]
    omega
  rw [State.canGrant, first]
  simp [hw, phase, space]

/-- A wave whose request is granted. -/
def Wave.granted (w : Wave) (n : Nat) (next : BitVec 60) : Wave :=
  { w with
    allot := max w.allot n
    threads := w.threads.map fun t =>
      let t' := if w.allot < n then t.resized n else t
      if t.status = .waiting (.reggrw n) next then t'.goesOn next else t' }

theorem Thread.release_waiting {wt : Wait} (waits : t.status = .waiting wt next) : t.release = t.goesOn next := by
  rw [Thread.release, waits]
  rfl

/-- The threads that waited for the grant go on. -/
theorem Thread.grant_eq (t : Thread) : (match t.status with
    | .waiting (.reggrw m) k => if m == n && k == next then t.release else t
    | _ => t) = if t.status = .waiting (.reggrw n) next then t.goesOn next else t := by
  by_cases waits : t.status = .waiting (.reggrw n) next
  · rw [if_pos waits, waits, Thread.release_waiting waits]
    simp
  · rw [if_neg waits]
    split
    · rename_i m k status
      rw [if_neg]
      intro same
      obtain ⟨rfl, rfl⟩ : m = n ∧ k = next := by simpa using same
      exact waits status
    · rfl

/-- The state after a grant: the request and what no longer waits have left the queue, and the wave is granted. -/
theorem State.grantReggrw_grants (first : s.nextReggrw core = some (r, n, next)) (can : s.canGrant core = true) :
    s.grantReggrw core = (s.updCore core fun k => { k with reggrw := k.reggrw.filter fun q => q != r && (s.reggrwOf q).isSome }).updWave r.wave
      fun w => w.granted n next := by
  rw [State.grantReggrw, first]
  simp only [can, if_true]
  simp only [State.updWave, List.map_map]
  congr 1
  refine List.map_congr_left fun u _ => ?_
  by_cases here : u.ref = r.wave
  · have sized : (if u.allot < n then u.setAllot n else u)
        = { u with allot := max u.allot n, threads := u.threads.map fun t => if u.allot < n then t.resized n else t } := by
      by_cases less : u.allot < n
      · simp only [if_pos less, Wave.setAllot_eq, Nat.max_eq_right (Nat.le_of_lt less)]
      · simp only [if_neg less, List.map_id', Nat.max_eq_left (Nat.not_lt.1 less)]
    simp only [Function.comp, here, beq_self_eq_true, if_true, sized, List.map_map, Wave.granted]
    congr 1
    refine List.map_congr_left fun t _ => ?_
    have status : (if u.allot < n then t.resized n else t).status = t.status := by split <;> rfl
    exact (Thread.grant_eq _).trans (by rw [status])
  · simp [here]

end

/-- Settles O21: the operand's three cases, and the grant. -/
theorem registerSpace : Obligations.RegisterSpace := by
  refine ⟨fun s c w x l rest hs act tag => ⟨exec_regshr hs act tag, exec_reggrw_small hs act tag, fun fits gt => ?_⟩, ?grant⟩
  · rw [← act]
    exact exec_reggrw_waits hs act tag fits gt
  case grant =>
    intro s core n r rest w t next hcore cores queue hw ht waits phase room
    have first := State.nextReggrw_first queue (State.reggrwOf_waiting hw ht waits)
    have grants := State.grantReggrw_grants first (State.canGrant_room first hw phase room)
    refine ⟨_, congrArg Host.Outcome.next grants, wave?_updWave hw _ rfl, ?_, rfl, fun v hv other => ?_⟩
    · have here : core < s.cores.length := by omega
      rw [State.core, State.updWave_cores, State.updCore_cores, List.getD_eq_getElem?_getD, List.getElem?_modify_eq, List.getElem?_eq_getElem here]
      simp
    · rw [State.updWave_waves, List.mem_map] at hv
      obtain ⟨u, hu, rfl⟩ := hv
      by_cases here : u.ref = r.wave
      · simp only [here, beq_self_eq_true, if_true] at other
        exact absurd here other
      · simpa [here] using hu

end Sys2Proof.Machine
end

section
/-! The start of a block (01 R18, R28 to R31; 06 R155; 07 R171): the header's checks, what dispatch does with them, and the block, waves and task that
a start leaves. -/
namespace Sys2Proof.Machine
variable {s s1 : State} {t : Task} {core sl h : Nat} {x : Slice}

/-! ## The header (01 R29, R31) -/

theorem headerBad_false {chosen threads : Nat} : headerBad chosen h threads = false ↔ HeaderGood chosen h threads := by
  have allot : hdrAllot h = (fld h 207 192 + 7) / 8 * 8 := rfl
  have waves : wavesOf threads = (threads + 31) / 32 := rfl
  rw [headerBad, HeaderGood, maxWaves, allot, waves]
  simp only [Bool.or_eq_false_iff, bne_eq_false_iff_eq, Bool.not_eq_false', decide_eq_false_iff_not, Nat.not_lt, beq_iff_eq, and_assoc]
  exact ⟨fun ⟨magic, ver, above, counts, flags, fields⟩ => ⟨magic, ver, flags, counts, above, fields⟩,
    fun ⟨magic, ver, flags, counts, above, fields⟩ => ⟨magic, ver, above, counts, flags, fields⟩⟩

theorem State.launchOf_misaligned (mis : t.codeVa % 256 ≠ 0) : s.launchOf t = (.refused ⟨2, 0, 0, 0⟩ false, s) := by
  unfold State.launchOf
  simp [mis]

section
variable (aligned : t.codeVa % 256 = 0) (read : s.readHeader t = (.ok h, s1))
include aligned read

theorem State.launchOf_bad (bad : ¬ HeaderGood (s1.tenant t.tenant).verHeader h t.threadsPer) :
    s.launchOf t = (.refused ⟨2, 0, 0, 0⟩ false, s1) := by
  have refuses : headerBad (s1.tenant t.tenant).verHeader h t.threadsPer = true :=
    Bool.eq_true_of_not_eq_false fun e => bad (headerBad_false.1 e)
  unfold State.launchOf
  simp [aligned, read, refuses]

theorem State.launchOf_good (good : HeaderGood (s1.tenant t.tenant).verHeader h t.threadsPer) (strand : t.strand.isSome = true → bit h 49 = true) :
    s.launchOf t = (.header h, s1) := by
  have loopOk : ¬(t.strand.isSome && !hdrStrandOk h) = true := by
    cases inLoop : t.strand.isSome <;> simp [hdrStrandOk, strand, inLoop]
  unfold State.launchOf
  simp only [aligned, read, headerBad_false.2 good, bne_self_eq_false, Bool.false_eq_true, if_false, if_neg loopOk]

end

/-! ## What dispatch does -/

theorem State.dispatchBlock_refused {e : TaskEnd} (picked : s.pickWave core = some (t, sl, x)) (launch : s.launchOf t = (.refused e false, s1)) :
    s.dispatchBlock core = s1.endTask t.id e := by
  simp only [State.dispatchBlock, picked, launch, State.refuse]
  cases t.strand <;> rfl

theorem State.dispatchBlock_starts (picked : s.pickWave core = some (t, sl, x)) (launch : s.launchOf t = (.header h, s1)) (single : t.colevel = 0) :
    s.dispatchBlock core = (s1.setSlice sl (x.charge t)).startBlock t.id core h := by
  simp only [State.dispatchBlock, picked, launch, single, bne_self_eq_false, Bool.false_eq_true, if_false]

theorem State.task?_updTask_some {k : Nat} {f : Task → Task} (hf : ∀ y, (f y).id = y.id) (ht : s.task? k = some t) :
    (s.updTask k f).task? k = some (f t) := by
  rw [State.task?_updTask hf, ht, Option.map_some]

theorem State.endTask_sameRun {k : Nat} {e : TaskEnd} : SameRun s (s.endTask k e) := ⟨rfl, rfl, rfl, rfl⟩

theorem State.endTask_task? {e : TaskEnd} (ht : s.task? t.id = some t) :
    (s.endTask t.id e).task? t.id = some { t with ending := some (t.ending.getD e), phase := .ending, gang := none } :=
  State.task?_updTask_some (fun _ => rfl) ht

/-- A block that is refused ends its task and touches nothing that runs. -/
theorem State.blockDispatch_refused (picked : s.pickWave core = some (t, sl, x)) (launch : s.launchOf t = (.refused ⟨2, 0, 0, 0⟩ false, s1))
    (ht : s1.task? t.id = some t) : ∃ u, exec (.blockDispatch core) s = .next u ∧ SameRun s1 u
      ∧ u.task? t.id = some { t with ending := some (t.ending.getD ⟨2, 0, 0, 0⟩), phase := .ending, gang := none } :=
  ⟨_, congrArg Host.Outcome.next (State.dispatchBlock_refused picked launch), State.endTask_sameRun, State.endTask_task? ht⟩

/-! ## The task that starts (15 R333, 06 R158) -/

/-- A task that runs from now on: dated and bound at its first start, unless its loop has bound it. -/
def Task.begins (s : State) (t : Task) : Task :=
  { t with
    phase := .running
    bound := if t.phase = .running ∨ t.strand.isSome = true ∨ t.guessOf.isSome = true then t.bound else s.currentBinding t.tenant
    begun := t.begun || t.phase != .running
    startClk := if t.phase = .running then t.startClk else s.clockOf t.tenant }

theorem Task.begins_running (running : t.phase = .running) : t.begins s = t := by
  cases t
  simp only at running
  subst running
  simp [Task.begins]

theorem Task.begins_first (waits : t.phase ≠ .running) : t.begins s = { t with
    phase := .running, bound := if t.strand.isSome || t.guessOf.isSome then t.bound else s.currentBinding t.tenant, begun := true
    startClk := s.clockOf t.tenant } := by
  simp [Task.begins, waits]

/-- The start of a task changes that task, and not its name or tenant. -/
theorem State.beginTask_eq {k : Nat} (ht : s.task? k = some t) : ∃ f : Task → Task, s.beginTask k = s.updTask k f ∧ f t = t.begins s
    ∧ ∀ y, (f y).id = y.id ∧ (f y).tenant = y.tenant := by
  by_cases running : t.phase = .running
  · refine ⟨id, ?_, (Task.begins_running running).symm, fun _ => ⟨rfl, rfl⟩⟩
    have same : s.updTask k id = s := by simp [State.updTask]
    rw [same, State.beginTask, ht]
    simp [running]
  · refine ⟨fun y => { y with
      phase := .running, bound := if t.strand.isSome || t.guessOf.isSome then t.bound else s.currentBinding t.tenant, begun := true
      startClk := s.clockOf y.tenant }, ?_, (Task.begins_first running).symm, fun _ => ⟨rfl, rfl⟩⟩
    rw [State.beginTask, ht]
    simp [running]

/-- Who owns a wave does not depend on what else a task's record holds. -/
theorem State.tenantOfWave_updTask {k : Nat} {f : Task → Task} (hf : ∀ y, (f y).id = y.id ∧ (f y).tenant = y.tenant) (w : Wave) :
    (s.updTask k f).tenantOfWave w = s.tenantOfWave w := by
  have owner : ∀ k', ((s.updTask k f).task? k').map (·.tenant) = (s.task? k').map (·.tenant) := by
    intro k'
    change ((s.tasks.map fun y => if y.id == k then f y else y).find? fun y => y.id == k').map _ = (s.tasks.find? fun y => y.id == k').map _
    have id : ∀ y : Task, (if y.id == k then f y else y).id = y.id := fun y => by split <;> simp [hf]
    have tenant : ∀ y : Task, (if y.id == k then f y else y).tenant = y.tenant := fun y => by split <;> simp [hf]
    simp only [List.find?_map, Option.map_map, Function.comp_def, id, tenant]
  have block : (s.updTask k f).block? w.block = s.block? w.block := rfl
  rw [State.tenantOfWave, State.tenantOfWave, State.taskOfWave, State.taskOfWave, block]
  cases s.block? w.block with
  | none => rfl
  | some b => exact congrArg (Option.getD · 0) (owner b.task)

/-- The frames of 10 R245 are free as before. -/
theorem State.freePriv_updTask {k n tenant : Nat} {f : Task → Task} (hf : ∀ y, (f y).id = y.id ∧ (f y).tenant = y.tenant) :
    (s.updTask k f).freePriv tenant n = s.freePriv tenant n := by
  simp only [State.freePriv, State.tenantOfWave_updTask hf]
  rfl

/-! ## The block and its waves -/

/-- The slots that a block of a task takes on a core: the lowest free ones. -/
def State.slotsFor (s : State) (t : Task) (core : Nat) : List Nat := (s.freeSlots core).take (wavesOf t.threadsPer)

/-- The frames (10 R245) of a block's waves, where its tenant has any. -/
def State.framesFor (s : State) (t : Task) : List Nat :=
  if (s.tenant t.tenant).privFrames == 0 then [] else s.freePriv t.tenant (wavesOf t.threadsPer)

/-- The waves of a block of a task at its start. -/
def State.wavesFor (s : State) (t : Task) (core h : Nat) : List Wave :=
  (s.slotsFor t core).mapIdx fun i slot => newWave t (s.tenant t.tenant) s.nextId ⟨core, slot⟩ i h (s.framesFor t)[i]?

/-- A block of a task at its start. -/
def State.blockFor (s : State) (t : Task) (core h : Nat) : Block := { newBlock t s.nextId core h with slots := s.slotsFor t core }

/-- What a start leaves: one block more with its waves, and the task running with one block more. -/
theorem State.startBlock_spec (ht : s.task? t.id = some t) : ∃ u, s.startBlock t.id core h = u
    ∧ u.blocks = s.blocks ++ [s.blockFor t core h] ∧ u.waves = s.waves ++ s.wavesFor t core h ∧ u.mem = s.mem ∧ u.tenants = s.tenants
    ∧ u.slices = s.slices ∧ u.task? t.id = some { t.begins s with nextBlk := t.nextBlk + 1, started := t.started + 1 } := by
  obtain ⟨f, begun, ft, hf⟩ := State.beginTask_eq ht
  have task : (s.updTask t.id f).task? t.id = some (t.begins s) := ft ▸ State.task?_updTask_some (fun y => (hf y).1) ht
  refine ⟨_, rfl, ?_⟩
  rw [State.startBlock, begun]
  simp only [task, State.freePriv_updTask hf]
  exact ⟨rfl, rfl, rfl, rfl, rfl, State.task?_updTask_some (fun _ => rfl) task⟩

/-! ## What the block and its waves hold -/

theorem State.fits_room (fits : s.fits core t h = true) : wavesOf t.threadsPer ≤ (s.freeSlots core).length
    ∧ ((s.tenant t.tenant).privFrames = 0 ∨ (s.freePriv t.tenant (wavesOf t.threadsPer)).length = wavesOf t.threadsPer) := by
  simp only [State.fits, Bool.and_eq_true, Bool.or_eq_true, decide_eq_true_eq, beq_iff_eq] at fits
  obtain ⟨⟨⟨⟨⟨⟨slots, -⟩, -⟩, -⟩, -⟩, -⟩, frames⟩ := fits
  exact ⟨slots, frames⟩

theorem State.freeSlots_free {i : Nat} (hi : i ∈ s.freeSlots core) : i < 64 ∧ ∀ b ∈ s.blocks, b.core = core → i ∉ b.slots := by
  obtain ⟨range, free⟩ := List.mem_filter.1 hi
  refine ⟨List.mem_range.1 range, fun b hb here held => ?_⟩
  have used : i ∈ (s.blocks.filter fun b => b.core == core).flatMap (·.slots) :=
    List.mem_flatMap.2 ⟨b, List.mem_filter.2 ⟨hb, by simp [here]⟩, held⟩
  simp [used] at free

theorem State.freePriv_free {tenant n f : Nat} (hf : f ∈ s.freePriv tenant n) :
    f < (s.tenant tenant).privFrames ∧ ∀ w ∈ s.waves, s.tenantOfWave w = tenant → w.frame ≠ some f := by
  obtain ⟨range, free⟩ := List.mem_filter.1 (List.mem_of_mem_take hf)
  refine ⟨lt_of_lt_of_le (List.mem_range.1 range) (Nat.min_le_left ..), fun w hw own held => ?_⟩
  have used : f ∈ (s.waves.filter fun w => s.tenantOfWave w == tenant).filterMap (·.frame) :=
    List.mem_filterMap.2 ⟨w, List.mem_filter.2 ⟨hw, by simp [own]⟩, held⟩
  simp [used] at free

theorem State.slotsFor_length (room : wavesOf t.threadsPer ≤ (s.freeSlots core).length) : (s.slotsFor t core).length = wavesOf t.threadsPer := by
  rw [State.slotsFor, List.length_take, Nat.min_eq_left room]

theorem State.wavesFor_length : (s.wavesFor t core h).length = (s.slotsFor t core).length := List.length_mapIdx

theorem State.wavesFor_slots : (s.wavesFor t core h).map (fun w => w.ref.slot) = s.slotsFor t core := by
  refine List.ext_getElem (by simp [State.wavesFor]) fun i _ _ => ?_
  simp only [State.wavesFor, List.getElem_map, List.getElem_mapIdx]
  rfl

theorem State.wavesFor_get {i : Nat} {w : Wave} (hw : (s.wavesFor t core h)[i]? = some w) : ∃ slot, (s.slotsFor t core)[i]? = some slot
    ∧ slot ∈ s.freeSlots core ∧ w = newWave t (s.tenant t.tenant) s.nextId ⟨core, slot⟩ i h (s.framesFor t)[i]? := by
  rw [State.wavesFor, List.getElem?_mapIdx, Option.map_eq_some_iff] at hw
  obtain ⟨slot, found, rfl⟩ := hw
  exact ⟨slot, found, List.mem_of_mem_take (List.mem_of_getElem? found), rfl⟩

/-- The frame of a wave: none where its tenant has none, and else one that no live wave holds (10 R244, R245). -/
theorem State.framesFor_get {i slot : Nat} (frames : (s.tenant t.tenant).privFrames = 0
      ∨ (s.freePriv t.tenant (wavesOf t.threadsPer)).length = wavesOf t.threadsPer) (found : (s.slotsFor t core)[i]? = some slot) :
    if (s.tenant t.tenant).privFrames = 0 then (s.framesFor t)[i]? = none
    else ∃ f, (s.framesFor t)[i]? = some f ∧ f < (s.tenant t.tenant).privFrames
      ∧ ∀ v ∈ s.waves, s.tenantOfWave v = t.tenant → v.frame ≠ some f := by
  by_cases none : (s.tenant t.tenant).privFrames = 0
  · rw [if_pos none, State.framesFor, if_pos (by simp [none])]
    rfl
  · have inside : i < (s.freePriv t.tenant (wavesOf t.threadsPer)).length := by
      obtain ⟨hi, -⟩ := List.getElem?_eq_some_iff.1 found
      rw [State.slotsFor, List.length_take] at hi
      rw [frames.resolve_left none]
      omega
    rw [if_neg none, State.framesFor, if_neg (by simp [none])]
    obtain ⟨below, unheld⟩ := State.freePriv_free (List.getElem_mem inside)
    exact ⟨_, List.getElem?_eq_getElem inside, below, unheld⟩

section
variable {ten : Tenant} {blk i : Nat} {ref : WaveRef} {frame : Option Nat}

theorem newWave_threads_length : (newWave t ten blk ref i h frame).threads.length = min 32 (t.threadsPer - 32 * i) := by
  simp [newWave]

theorem newWave_threads_get {k : Nat} {th : Thread} (found : (newWave t ten blk ref i h frame).threads[k]? = some th) :
    th = newThread (32 * i + k) (hdrAllot h) (t.codeVa + hdrEntry h) := by
  obtain ⟨j, hj, rfl⟩ := Option.map_eq_some_iff.1 (List.getElem?_map.symm.trans found)
  obtain ⟨_, rfl⟩ := List.getElem?_eq_some_iff.1 hj
  rw [List.getElem_range]

end

/-! ## The charge (06 R154) -/

theorem lookupD_setKey (l : List (Nat × Nat)) (k v d : Nat) : lookupD (setKey l k v) k d = v := by
  simp [lookupD, setKey]

theorem State.slice_setSlice {y : Slice} (hsl : sl < s.slices.length) :
    (s.setSlice sl y).slice sl = { y with nextSeq := (s.slice sl).nextSeq } := by
  simp [State.slice, State.setSlice, List.getD_eq_getElem?_getD, hsl]

/-- Settles O37: what the header's checks answer, and what a start leaves. -/
theorem blocksStart : Obligations.BlocksStart := by
  intro s s1 core sl h t x picked ht single
  refine ⟨fun mis => State.blockDispatch_refused picked (State.launchOf_misaligned mis) ht, fun aligned read ht1 _ => ?_⟩
  intro ten n allot room
  refine ⟨fun bad => State.blockDispatch_refused picked (State.launchOf_bad aligned read bad) ht1, fun good strand fits hsl => ?_⟩
  have starts := State.dispatchBlock_starts picked (State.launchOf_good aligned read good strand) single
  obtain ⟨u, started, blocks, waves, mem, tenants, slices, task⟩ :=
    State.startBlock_spec (s := s1.setSlice sl (x.charge t)) (core := core) (h := h) ht1
  obtain ⟨slots, frames⟩ := State.fits_room fits
  refine ⟨u, s1.blockFor t core h, s1.wavesFor t core h, congrArg Host.Outcome.next (starts.trans started), blocks, waves, mem, tenants,
    State.wavesFor_length.trans (State.slotsFor_length slots), ?block, fun i w hw => ?wave, task, ?charge⟩
  case block =>
    rw [State.wavesFor_slots, State.blockFor, newBlock]
    simp only [beq_iff_eq]
    rfl
  case wave =>
    obtain ⟨slot, found, free, rfl⟩ := State.wavesFor_get hw
    obtain ⟨small, unheld⟩ := State.freeSlots_free free
    refine ⟨rfl, rfl, rfl, small, unheld, rfl, rfl, rfl, rfl, rfl, rfl, rfl, State.framesFor_get frames found, newWave_threads_length,
      fun k th hth => ?_⟩
    obtain rfl := newWave_threads_get hth
    exact ⟨rfl, rfl, rfl, rfl, rfl, rfl, rfl, rfl⟩
  case charge =>
    rw [State.slice, slices]
    refine (congrArg (fun y : Slice => lookupD y.deficits _ 0) (State.slice_setSlice hsl)).trans ?_
    exact lookupD_setKey ..

end Sys2Proof.Machine
end

section
/-! The encoding (03 R65 to R70, R76, R77; 22 R418): the fields of an encoded word, read back, and the instruction that they decode to. -/
namespace Sys2Proof

/-! ## Bytes and words -/

theorem leNat_natBytes_append (n x : Nat) (rest : List Byte) : leNat (natBytes n x ++ rest) = x % 256 ^ n + 256 ^ n * leNat rest := by
  induction n generalizing x with
  | zero => simp [natBytes, Nat.mod_one]
  | succ n ih =>
    have head : (BitVec.ofNat 8 x).toNat = x % 256 := BitVec.toNat_ofNat ..
    rw [natBytes, List.cons_append, leNat, ih, head, Nat.pow_succ', Nat.mod_mul]
    ring

/-- What is read back of a word of n bytes, whatever follows it in memory. -/
theorem natBytes_window {n x : Nat} (most : n ≤ 16) (fits : x < 256 ^ n) (rest : List Byte) :
    (BitVec.ofNat 128 (leNat (natBytes n x ++ rest))).toNat % 256 ^ n = x := by
  have inside : 256 ^ n ∣ 2 ^ 128 := pow_dvd_pow 256 most
  rw [BitVec.toNat_ofNat, Nat.mod_mod_of_dvd _ inside, leNat_natBytes_append, Nat.add_mul_mod_self_left, Nat.mod_mod, Nat.mod_eq_of_lt fits]

theorem toNat_append_eq_add {n m : Nat} (x : BitVec n) (y : BitVec m) : (x ++ y).toNat = 2 ^ m * x.toNat + y.toNat := by
  rw [BitVec.toNat_append, ← Nat.shiftLeft_add_eq_or_of_lt y.isLt, Nat.shiftLeft_eq, Nat.mul_comm]

/-- A field of a word is a quotient and a remainder of its number. -/
theorem extractLsb'_eq {k n start : Nat} {w : BitVec k} {v : BitVec n} (same : w.toNat / 2 ^ start % 2 ^ n = v.toNat) :
    w.extractLsb' start n = v := by
  rw [← BitVec.toNat_inj, BitVec.extractLsb'_toNat, Nat.shiftRight_eq_div_pow, same]

/-! ## Operands under their classes -/

theorem Operand.code_lt (o : Operand) : o.code < 344 := by
  cases o with
  | k c => cases c <;> decide
  | _ => simp only [Operand.code]; omega

theorem Operand.ofCode_code {o : Operand} (used : o ≠ .unused) : Operand.ofCode o.code = o := by
  cases o with
  | unused => exact absurd rfl used
  | v n =>
    rw [Operand.code, Operand.ofCode, if_pos n.isLt]
    exact congrArg Operand.v (Fin.ext (Nat.mod_eq_of_lt n.isLt))
  | s n =>
    rw [Operand.code, Operand.ofCode, if_neg (by omega), if_pos (by omega), Nat.add_sub_cancel_left]
    exact congrArg Operand.s (Fin.ext (Nat.mod_eq_of_lt n.isLt))
  | p n =>
    rw [Operand.code, Operand.ofCode, if_neg (by omega), if_neg (by omega), if_pos (by omega), Nat.add_sub_cancel_left]
    exact congrArg Operand.p (Fin.ext (Nat.mod_eq_of_lt n.isLt))
  | k c => cases c <;> rfl

theorem FieldClass.holds_unused {o : Operand} (held : FieldClass.unused.holds o = true) : o = .unused := by
  cases o with
  | unused => rfl
  | _ => cases held

theorem FieldClass.holds_used {c : FieldClass} {o : Operand} (used : c ≠ .unused) (held : c.holds o = true) :
    o ≠ .unused ∧ c.accepts o.code = true := by
  cases c with
  | unused => exact absurd rfl used
  | _ =>
    cases o with
    | unused => cases held
    | _ => exact ⟨nofun, held⟩

/-- A field that holds an operand of its class decodes to it. -/
theorem decodeField_code {c : FieldClass} {o : Operand} (held : c.holds o = true) : decodeField c o.code = .good o := by
  by_cases used : c = .unused
  · subst used
    rw [FieldClass.holds_unused held]
    rfl
  · obtain ⟨names, accepted⟩ := FieldClass.holds_used used held
    have unfolded : decodeField c o.code
        = if 344 ≤ o.code then .range else if c.accepts o.code then .good (Operand.ofCode o.code) else .wrong := by
      cases c with
      | unused => exact absurd rfl used
      | _ => rfl
    rw [unfolded, if_neg (Nat.not_le.2 o.code_lt), if_pos accepted, Operand.ofCode_code names]

/-! ## The fields of an encoded word -/

theorem encodeLow_toNat {opc : Nat} (x : Dev) (lc : BitVec 2) (small : opc < 2 ^ 10) : (encodeLow opc x lc).toNat
    = 2 ^ 52 * x.mod.toNat + 2 ^ 43 * x.c.code + 2 ^ 34 * x.b.code + 2 ^ 25 * x.a.code + 2 ^ 16 * x.d.code
      + 2 ^ 15 * x.guard.neg.toNat + 2 ^ 12 * x.guard.p.val + 2 ^ 2 * opc + lc.toNat := by
  have hc := x.c.code_lt
  have hb := x.b.code_lt
  have ha := x.a.code_lt
  have hd := x.d.code_lt
  refine (toNat_append_eq_add ..).trans ?_
  simp only [toNat_append_eq_add, BitVec.toNat_ofNat, BitVec.toNat_ofBool]
  omega

theorem rawOf_encodeLow {opc : Nat} (x : Dev) (lc : BitVec 2) (small : opc < 2 ^ 10) :
    rawOf (encodeLow opc x lc) = ⟨x.mod, x.c.code, x.b.code, x.a.code, x.d.code, x.guard.neg, x.guard.p, opc⟩ := by
  have word := encodeLow_toNat x lc small
  have hc := x.c.code_lt
  have hb := x.b.code_lt
  have ha := x.a.code_lt
  have hd := x.d.code_lt
  have hm := x.mod.isLt
  have hn := x.guard.neg.toNat_lt
  simp only [rawOf, Raw.mk.injEq, BitVec.extractLsb'_toNat, Nat.shiftRight_eq_div_pow, ← BitVec.toNat_inj, word]
  refine ⟨by omega, by omega, by omega, by omega, by omega, ?neg, ?p, by omega⟩
  case neg =>
    have sign : (encodeLow opc x lc).extractLsb' 15 1 = BitVec.ofBool x.guard.neg := by
      rw [← BitVec.toNat_inj, BitVec.extractLsb'_toNat, Nat.shiftRight_eq_div_pow, word, BitVec.toNat_ofBool]
      omega
    rw [sign]
    cases x.guard.neg <;> rfl
  case p =>
    refine Fin.ext ?_
    simp only [Fin.val_ofNat]
    omega

/-! ## A well-formed device instruction under the table of its opcode -/

/-- What well-formedness says of the fields of a device instruction under a form (03 R67, R70, R74). -/
structure Dev.Fits (opc : Nat) (x : Dev) (fm : Form) : Prop where
  form : formOf opc x.mod.toNat x.xmod.toNat = some fm
  ok   : fm.ok = true
  len  : fm.base.bytes ≤ x.len.bytes
  imm  : immFits opc fm.base x.imm.toNat = true
  xmod : fm.base = .l128x ∨ x.xmod = 0
  d    : fm.d.holds x.d = true
  a    : fm.a.holds x.a = true
  b    : fm.b.holds x.b = true
  c    : fm.c.holds x.c = true
  e    : fm.e.holds x.e = true
  f    : fm.f.holds x.f = true
  g    : fm.g.holds x.g = true
  h    : fm.h.holds x.h = true

theorem Dev.fits_of_wf {opc : Nat} {x : Dev} (wf : x.wf opc = true) : ∃ fm, x.Fits opc fm := by
  unfold Dev.wf at wf
  split at wf
  · cases wf
  next fm form =>
    simp only [Form.classes, Dev.operands, List.zip_cons_cons, List.zip_nil_right, List.all_cons, List.all_nil, Bool.and_true, Bool.and_eq_true,
      Bool.or_eq_true, beq_iff_eq, decide_eq_true_eq] at wf
    obtain ⟨⟨⟨⟨ok, len⟩, imm⟩, xmod⟩, d, a, b, c, e, f, g, h⟩ := wf
    exact ⟨fm, form, ok, len, imm, xmod, d, a, b, c, e, f, g, h⟩

section
variable {i : Instr} {opc : Nat} {x : Dev} {fm : Form}

/-- The opcode map names each device instruction (03 R79). -/
theorem Instr.mkDev_of_dev? (device : i.dev? = some (opc, x)) : ∃ mk, mkDev opc = some mk ∧ mk x = i ∧ opc < 2 ^ 10 := by
  cases i <;> cases device <;> exact ⟨_, rfl, rfl, by decide⟩

theorem Instr.wf_of_dev? (device : i.dev? = some (opc, x)) : i.wf = x.wf opc := by
  cases i <;> cases device <;> rfl

/-- The form that an opcode's MOD gives has the base form of the opcode, and the extended fields only in the extended layout (03 R67, R68). -/
theorem formOf_base {m xm : Nat} (device : i.dev? = some (opc, x)) (form : formOf opc m xm = some fm) :
    fm.base = baseOf opc ∧ (fm.base ≠ .l128x → fm.e = .unused ∧ fm.f = .unused ∧ fm.g = .unused ∧ fm.h = .unused) := by
  cases i <;> cases device <;> cases form <;> exact ⟨rfl, by simp⟩

theorem Dev.Fits.base (fits : x.Fits opc fm) (device : i.dev? = some (opc, x)) : fm.base = baseOf opc := (formOf_base device fits.form).1

/-- Outside the extended layout the extended fields name nothing. -/
theorem Dev.Fits.unextended (fits : x.Fits opc fm) (device : i.dev? = some (opc, x)) (plain : fm.base ≠ .l128x) :
    x.xmod = 0 ∧ x.e = .unused ∧ x.f = .unused ∧ x.g = .unused ∧ x.h = .unused := by
  obtain ⟨e, f, g, h⟩ := (formOf_base device fits.form).2 plain
  exact ⟨fits.xmod.resolve_left plain, FieldClass.holds_unused (e ▸ fits.e), FieldClass.holds_unused (f ▸ fits.f),
    FieldClass.holds_unused (g ▸ fits.g), FieldClass.holds_unused (h ▸ fits.h)⟩

/-! ## The bits above [63:0] -/

theorem encodeHigh_extended (extended : baseOf opc = .l128x) : (encodeHigh opc x).toNat
    = 2 ^ 36 * x.xmod.toNat + 2 ^ 27 * x.h.code + 2 ^ 18 * x.g.code + 2 ^ 9 * x.f.code + x.e.code := by
  have he := x.e.code_lt
  have hf := x.f.code_lt
  have hg := x.g.code_lt
  have hh := x.h.code_lt
  rw [encodeHigh, extended]
  refine (toNat_append_eq_add ..).trans ?_
  simp only [toNat_append_eq_add, BitVec.toNat_ofNat]
  omega

theorem encodeHigh_plain (plain : baseOf opc ≠ .l128x) : encodeHigh opc x = x.imm := by
  unfold encodeHigh
  split
  · contradiction
  · rfl

theorem Dev.Fits.imm_eq_zero (fits : x.Fits opc fm) (base : fm.base = .l64 ∨ fm.base = .l128x) : x.imm = 0 := by
  have imm := fits.imm
  rw [← BitVec.toNat_inj]
  rcases base with base | base <;> simpa [base, immFits] using imm

theorem Dev.Fits.imm_lt (fits : x.Fits opc fm) (base : fm.base = .l96) : x.imm.toNat < 2 ^ 32 := by
  have imm := fits.imm
  simp only [base, immFits, Bool.and_eq_true, decide_eq_true_eq] at imm
  exact imm.1

/-- The bits above [63:0] fit into the instruction's length (03 R67). -/
theorem Dev.Fits.high_lt (fits : x.Fits opc fm) (device : i.dev? = some (opc, x)) :
    2 ^ 64 * (encodeHigh opc x).toNat + 2 ^ 64 ≤ 256 ^ x.len.bytes := by
  have base := fits.base device
  have enough := fits.len
  cases long : x.len with
  | l128 =>
    have := (encodeHigh opc x).isLt
    simp only [Len.bytes]
    omega
  | l96 =>
    have small : x.imm.toNat < 2 ^ 32 := by
      cases form : fm.base with
      | l64 => simp [fits.imm_eq_zero (.inl form)]
      | l96 => exact fits.imm_lt form
      | _ => simp [form, long, Len.bytes, BaseForm.bytes] at enough
    rw [encodeHigh_plain fun extended => by simp [base, extended, long, Len.bytes, BaseForm.bytes] at enough]
    simp only [Len.bytes]
    omega
  | l64 =>
    have form : fm.base = .l64 := by
      cases form : fm.base with
      | l64 => rfl
      | _ => simp [form, long, Len.bytes, BaseForm.bytes] at enough
    rw [encodeHigh_plain fun extended => by simp [base, extended] at form, fits.imm_eq_zero (.inl form)]
    simp [Len.bytes]

/-- The bits above [63:0] decode to what the instruction holds there. -/
theorem Dev.Fits.highOf (fits : x.Fits opc fm) (device : i.dev? = some (opc, x)) : highOf (baseOf opc) (encodeHigh opc x)
    = some (x.imm, x.xmod, x.e.code, x.f.code, x.g.code, x.h.code) := by
  have base := fits.base device
  by_cases extended : baseOf opc = .l128x
  · have high := encodeHigh_extended (x := x) extended
    have he := x.e.code_lt
    have hf := x.f.code_lt
    have hg := x.g.code_lt
    have hh := x.h.code_lt
    have hx := x.xmod.isLt
    have unused : (encodeHigh opc x).extractLsb' 48 16 = 0 := extractLsb'_eq (by
      simp only [high, BitVec.ofNat_eq_ofNat, BitVec.toNat_ofNat]
      omega)
    have xmod : (encodeHigh opc x).extractLsb' 36 12 = x.xmod := extractLsb'_eq (by omega)
    simp only [extended, Sys2Proof.highOf, unused, xmod, fits.imm_eq_zero (.inr (base.trans extended)), beq_self_eq_true, if_true,
      BitVec.extractLsb'_toNat, Nat.shiftRight_eq_div_pow, high, Option.some.injEq, Prod.mk.injEq, true_and]
    exact ⟨by omega, by omega, by omega, by omega⟩
  · obtain ⟨xmod, e, f, g, h⟩ := fits.unextended device (base ▸ extended)
    rw [encodeHigh_plain extended, xmod, e, f, g, h]
    cases form : baseOf opc with
    | l64 => simp [Sys2Proof.highOf, fits.imm_eq_zero (.inl (base.trans form)), Operand.code]
    | l96 =>
      have small := fits.imm_lt (base.trans form)
      have unused : x.imm.extractLsb' 32 32 = 0 := extractLsb'_eq (by simp only [BitVec.ofNat_eq_ofNat, BitVec.toNat_ofNat]; omega)
      simp [Sys2Proof.highOf, unused, Operand.code]
    | l128 => rfl
    | l128x => exact absurd form extended

/-! ## Decoding what was encoded -/

theorem Dev.Fits.decodeFields (fits : x.Fits opc fm) : decodeFields opc x.len
    ⟨x.mod, x.c.code, x.b.code, x.a.code, x.d.code, x.guard.neg, x.guard.p, opc⟩ x.imm x.xmod x.e.code x.f.code x.g.code x.h.code = .ok x := by
  simp [Sys2Proof.decodeFields, fits.form, fits.ok, fits.imm, decodeField_code fits.d, decodeField_code fits.a, decodeField_code fits.b,
    decodeField_code fits.c, decodeField_code fits.e, decodeField_code fits.f, decodeField_code fits.g, decodeField_code fits.h, FieldFate.operand]

/-- A single instruction decodes from its bits. -/
theorem Dev.Fits.decodeSingle (fits : x.Fits opc fm) (device : i.dev? = some (opc, x)) (lc : BitVec 2) :
    decodeSingle x.len (encodeHigh opc x ++ encodeLow opc x lc) = .ok i := by
  obtain ⟨mk, found, rfl, small⟩ := Instr.mkDev_of_dev? device
  have low : (encodeHigh opc x ++ encodeLow opc x lc).extractLsb' 0 64 = encodeLow opc x lc := BitVec.extractLsb'_append_eq_right
  have high : (encodeHigh opc x ++ encodeLow opc x lc).extractLsb' 64 64 = encodeHigh opc x := BitVec.extractLsb'_append_eq_left
  have long : ¬x.len.bytes < (baseOf opc).bytes := Nat.not_lt.2 (fits.base device ▸ fits.len)
  simp only [Sys2Proof.decodeSingle, low, high, rawOf_encodeLow x lc small, found, long, if_false, fits.highOf device, fits.decodeFields]

end

/-- The bits of a single instruction of a length, at an address with room for it, are what its bytes say whatever follows them (03 R65, R66). -/
theorem decode_single {len : Len} {bits : BitVec 128} {i : Instr} {room : Nat} (rest : List Byte) (fits : bits.toNat < 256 ^ len.bytes)
    (code : bits.extractLsb' 0 2 = len.lc) (single : decodeSingle len bits = .ok i) (inside : len.bytes ≤ room) :
    decode room (natBytes len.bytes bits.toNat ++ rest) = .ok (i, len.bytes) := by
  have window := natBytes_window (by cases len <;> decide) fits rest
  unfold decode
  generalize BitVec.ofNat 128 (leNat (natBytes len.bytes bits.toNat ++ rest)) = w at window
  have lc : w.extractLsb' 0 2 = len.lc := code ▸ extractLsb'_eq (by
    rw [BitVec.extractLsb'_toNat, ← window]
    cases len <;> simp only [Len.bytes] <;> omega)
  have low : (w.extractLsb' 0 (8 * len.bytes)).setWidth 128 = bits := by
    rw [← BitVec.toNat_inj, BitVec.toNat_setWidth, BitVec.extractLsb'_toNat, Nat.pow_mul, Nat.shiftRight_zero]
    exact (congrArg (· % 2 ^ 128) window).trans (Nat.mod_eq_of_lt bits.isLt)
  have answer : decodeBits w = (.ok i, len.bytes) := by
    rw [← single, ← low]
    cases len <;> simp [decodeBits, lc, Len.lc, Len.bytes]
  simp [answer, Nat.not_lt.2 inside]

/-! ## Pairs (03 R76, R77) -/

/-- A pairable operation is a device instruction of an L64 form under its opcode. -/
theorem PairOp.device (op : PairOp) (x : Dev) : ∃ i : Instr, i.dev? = some (op.opcode, x) := by
  have pairable : ∃ mk, mkDev op.opcode = some mk ∧ (mk x).dev? = some (op.opcode, x) := by
    cases op <;> exact ⟨_, rfl, rfl⟩
  obtain ⟨mk, -, device⟩ := pairable
  exact ⟨mk x, device⟩

theorem PairOp.baseOf_opcode (op : PairOp) : baseOf op.opcode = .l64 := by cases op <;> rfl

theorem PairOp.ofOpcode?_opcode (op : PairOp) : PairOp.ofOpcode? op.opcode = some op := by cases op <;> rfl

theorem PairOp.opcode_lt (op : PairOp) : op.opcode < 2 ^ 10 := by cases op <;> decide

section
variable {t : Slot} {fm : Form}

/-- A slot holds neither an immediate nor extended fields. -/
theorem Slot.fits_short (fits : t.x.Fits t.op.opcode fm) :
    t.x.imm = 0 ∧ t.x.xmod = 0 ∧ t.x.e = .unused ∧ t.x.f = .unused ∧ t.x.g = .unused ∧ t.x.h = .unused := by
  obtain ⟨i, device⟩ := t.op.device t.x
  have base : fm.base = .l64 := (fits.base device).trans t.op.baseOf_opcode
  exact ⟨fits.imm_eq_zero (.inl base), fits.unextended device (by rw [base]; nofun)⟩

theorem Slot.decodeSlot_encodeLow (fits : t.x.Fits t.op.opcode fm) (len : t.x.len = .l64) (lc : BitVec 2) :
    decodeSlot (encodeLow t.op.opcode t.x lc) = .good t := by
  obtain ⟨imm, xmod, e, f, g, h⟩ := Slot.fits_short fits
  have fields := fits.decodeFields
  rw [len, imm, xmod, e, f, g, h] at fields
  simp only [decodeSlot, rawOf_encodeLow t.x lc t.op.opcode_lt, t.op.ofOpcode?_opcode]
  rw [show decodeFields t.op.opcode .l64 _ 0 0 0 0 0 0 = .ok t.x from fields]

/-- The registers of a slot are judged by the slot itself. -/
theorem Slot.slotRangeDev_encodeLow (fits : t.x.Fits t.op.opcode fm) (len : t.x.len = .l64) (lc : BitVec 2) :
    slotRangeDev (encodeLow t.op.opcode t.x lc) = some (t.op.opcode, fm, t.x) := by
  obtain ⟨imm, xmod, e, f, g, h⟩ := Slot.fits_short fits
  have whole : t.x = ⟨t.x.guard, .l64, t.x.mod, t.x.d, t.x.a, t.x.b, t.x.c, .unused, .unused, .unused, .unused, 0, 0⟩ := by
    generalize t.x = x at len imm xmod e f g h
    cases x
    simp_all only
  have form := fits.form
  rw [xmod] at form
  simp only [slotRangeDev, rawOf_encodeLow t.x lc t.op.opcode_lt, show formOf t.op.opcode t.x.mod.toNat 0 = some fm from form,
    decodeField_code fits.d, decodeField_code fits.a, decodeField_code fits.b, decodeField_code fits.c, FieldFate.operand]
  exact congrArg (fun x => some (t.op.opcode, fm, x)) whole.symm
end

/-- A legal pair decodes from its bits. -/
theorem decodePair_encode {a b : Slot} (wf : pairWf a b = true) :
    decodePair (encodeLow b.op.opcode b.x 0 ++ encodeLow a.op.opcode a.x 3) = .ok (.pair a b) := by
  simp only [pairWf, Bool.and_eq_true, beq_iff_eq] at wf
  obtain ⟨⟨⟨⟨lenA, lenB⟩, wfA⟩, wfB⟩, legal⟩ := wf
  obtain ⟨fa, fitsA⟩ := Dev.fits_of_wf wfA
  obtain ⟨fb, fitsB⟩ := Dev.fits_of_wf wfB
  simp only [fitsA.form, fitsB.form] at legal
  have low : (encodeLow b.op.opcode b.x 0 ++ encodeLow a.op.opcode a.x 3).extractLsb' 0 64 = encodeLow a.op.opcode a.x 3 :=
    BitVec.extractLsb'_append_eq_right
  have high : (encodeLow b.op.opcode b.x 0 ++ encodeLow a.op.opcode a.x 3).extractLsb' 64 64 = encodeLow b.op.opcode b.x 0 :=
    BitVec.extractLsb'_append_eq_left
  have reserved : (encodeLow b.op.opcode b.x 0 ++ encodeLow a.op.opcode a.x 3).extractLsb' 64 2 = 0 := extractLsb'_eq (by
    have word := encodeLow_toNat b.x 0 b.op.opcode_lt
    rw [toNat_append_eq_add]
    simp only [BitVec.ofNat_eq_ofNat, BitVec.toNat_ofNat] at word ⊢
    omega)
  simp only [decodePair, low, high, reserved, Slot.decodeSlot_encodeLow fitsA lenA, Slot.decodeSlot_encodeLow fitsB lenB,
    Slot.slotRangeDev_encodeLow fitsA lenA, Slot.slotRangeDev_encodeLow fitsB lenB, legal]
  rfl

/-- A legal pair decodes from its bytes, whatever follows them (03 R65, R66). -/
theorem decode_pair {a b : Slot} {room : Nat} (rest : List Byte) (wf : pairWf a b = true) (inside : 16 ≤ room) :
    decode room (natBytes 16 (encodeLow b.op.opcode b.x 0 ++ encodeLow a.op.opcode a.x 3).toNat ++ rest) = .ok (.pair a b, 16) := by
  have pair := decodePair_encode wf
  have code : (encodeLow b.op.opcode b.x 0 ++ encodeLow a.op.opcode a.x 3).extractLsb' 0 2 = 3 := extractLsb'_eq (by
    have word := encodeLow_toNat a.x 3 a.op.opcode_lt
    rw [toNat_append_eq_add]
    simp only [BitVec.ofNat_eq_ofNat, BitVec.toNat_ofNat] at word ⊢
    omega)
  generalize encodeLow b.op.opcode b.x 0 ++ encodeLow a.op.opcode a.x 3 = bits at pair code ⊢
  have same : BitVec.ofNat 128 (leNat (natBytes 16 bits.toNat ++ rest)) = bits :=
    BitVec.eq_of_toNat_eq ((Nat.mod_eq_of_lt (BitVec.isLt _)).symm.trans (natBytes_window (Nat.le_refl 16) bits.isLt rest))
  have answer : decodeBits bits = (.ok (.pair a b), 16) := by
    simp [decodeBits, code, pair]
  simp [decode, same, answer, Nat.not_lt.2 inside]

/-! ## The host extension (22 R418) -/

theorem encodeHost_toNat (f3 : BitVec 3) (h : HostOp) : (encodeHost f3 h).toNat
    = 2 ^ 25 * h.taff.val + 2 ^ 20 * h.rs2.val + 2 ^ 15 * h.rs1.val + 2 ^ 12 * f3.toNat + 2 ^ 7 * h.rd.val + 0b0001011 := by
  refine (toNat_append_eq_add ..).trans ?_
  simp only [toNat_append_eq_add, BitVec.toNat_ofNat]
  omega

/-- The fields of a word of the host extension. -/
theorem encodeHost_fields (f3 : BitVec 3) (h : HostOp) : (encodeHost f3 h).extractLsb' 0 7 = 0b0001011#7
    ∧ ((encodeHost f3 h).extractLsb' 7 5).toNat = h.rd.val ∧ ((encodeHost f3 h).extractLsb' 12 3).toNat = f3.toNat
    ∧ ((encodeHost f3 h).extractLsb' 15 5).toNat = h.rs1.val ∧ ((encodeHost f3 h).extractLsb' 20 5).toNat = h.rs2.val
    ∧ ((encodeHost f3 h).extractLsb' 25 7).toNat = h.taff.val := by
  have word := encodeHost_toNat f3 h
  have hf := f3.isLt
  refine ⟨extractLsb'_eq (by rw [word, BitVec.toNat_ofNat]; omega), ?_⟩
  simp only [BitVec.extractLsb'_toNat, Nat.shiftRight_eq_div_pow, word]
  exact ⟨by omega, by omega, by omega, by omega, by omega⟩

/-- The funct3 and the fields of an instruction of the host extension. -/
def Instr.host? (i : Instr) : Option (BitVec 3 × HostOp) :=
  match i with
  | .hsubmit h => some (0, h)
  | .hwait h => some (1, h)
  | .hpin h => some (2, h)
  | .hunpin h => some (3, h)
  | .hmhint h => some (4, h)
  | .hmqry h => some (5, h)
  | _ => none

/-- A well-formed instruction of the host extension decodes from its word. -/
theorem decodeHost_encodeHost {i : Instr} {f3 : BitVec 3} {h : HostOp} (host : i.host? = some (f3, h)) (wf : i.wf = true) :
    decodeHost (encodeHost f3 h) = .ext i := by
  obtain ⟨opcode, rd, funct3, rs1, rs2, funct7⟩ := encodeHost_fields f3 h
  unfold decodeHost
  simp only [opcode, rd, funct3, rs1, rs2, funct7, Fin.ofNat_val_eq_self, bne_self_eq_false, Bool.false_eq_true, if_false]
  cases i <;> cases host
  case hmhint => exact if_pos h.taff.isLt
  all_goals
    simp only [Instr.wf, HostOp.wf, Bool.false_or, Bool.true_or, Bool.true_and, Bool.and_eq_true, beq_iff_eq] at wf
    exact if_pos (by simp [wf])

/-! ## What has an encoding -/

/-- What has an encoding is a pair, an instruction of the host extension or a single device instruction. -/
theorem encode_cases {i : Instr} {bits : BitVec 128} {n : Nat} (enc : encode i = some (bits, n)) :
    (∃ a b, i = .pair a b ∧ bits = encodeLow b.op.opcode b.x 0 ++ encodeLow a.op.opcode a.x 3 ∧ n = 16)
    ∨ (∃ f3 h, i.host? = some (f3, h) ∧ bits = (encodeHost f3 h).setWidth 128 ∧ n = 4)
    ∨ ∃ opc x, i.dev? = some (opc, x) ∧ bits = encodeHigh opc x ++ encodeLow opc x x.len.lc ∧ n = x.len.bytes := by
  unfold encode at enc
  split at enc
  case h_1 a b =>
    cases enc
    exact .inl ⟨a, b, rfl, rfl, rfl⟩
  case h_8 =>
    split at enc
    next opc x device =>
      cases enc
      exact .inr (.inr ⟨opc, x, device, rfl, rfl⟩)
    next => cases enc
  all_goals
    cases enc
    exact .inr (.inl ⟨_, _, rfl, rfl, rfl⟩)

/-- A well-formed single device instruction decodes from its bytes. -/
theorem decode_device {i : Instr} {opc room : Nat} {x : Dev} (rest : List Byte) (device : i.dev? = some (opc, x)) (wf : x.wf opc = true)
    (inside : x.len.bytes ≤ room) :
    decode room (natBytes x.len.bytes (encodeHigh opc x ++ encodeLow opc x x.len.lc).toNat ++ rest) = .ok (i, x.len.bytes) := by
  obtain ⟨fm, fits⟩ := Dev.fits_of_wf wf
  obtain ⟨-, -, -, small⟩ := Instr.mkDev_of_dev? device
  have size := toNat_append_eq_add (encodeHigh opc x) (encodeLow opc x x.len.lc)
  have below := (encodeLow opc x x.len.lc).isLt
  have high := fits.high_lt device
  have low := encodeLow_toNat x x.len.lc small
  have lc := x.len.lc.isLt
  refine decode_single rest ?_ (extractLsb'_eq ?_) (fits.decodeSingle device _) inside
  · rw [size]; omega
  · rw [size]; omega

end Sys2Proof

namespace Sys2Proof.Machine

/-- Settles O58: the bytes of a pair, of a single device instruction and the word of a host instruction each decode to it. -/
theorem encodeDecode : Obligations.EncodeDecode := by
  intro i bits n room rest wf enc
  obtain ⟨a, b, rfl, rfl, rfl⟩ | ⟨f3, h, host, rfl, rfl⟩ | ⟨opc, x, device, rfl, rfl⟩ := encode_cases enc
  · exact ⟨fun _ inside => decode_pair rest wf inside, nofun⟩
  · refine ⟨fun ne => absurd rfl ne, fun _ => ?_⟩
    rw [BitVec.setWidth_setWidth_of_le _ (by decide), BitVec.setWidth_eq]
    exact decodeHost_encodeHost host wf
  · refine ⟨fun _ inside => decode_device rest device (Instr.wf_of_dev? device ▸ wf) inside, fun short => ?_⟩
    cases len : x.len <;> rw [len] at short <;> cases short

/-- Settles O57: each word is decoded as written. -/
theorem decodeWords : Obligations.DecodeWords := by
  unfold Obligations.DecodeWords
  refine ⟨?_, ?_, ?_, ?_, ?_, ?_, ?_, ?_, ?_⟩ <;> decide +kernel

end Sys2Proof.Machine
end

section
/-! A pair of operations (03 R76 to R78): where each of the pairable operations completes, and what a pair of them leaves. -/
namespace Sys2Proof.Machine

/-! ## Lanes that complete with registers, predicates and conditions -/

/-- A lane that completes the instruction, and writes no more than registers, predicates and conditions. -/
def LaneRes.Writes (r : LaneRes) : Prop := ∃ regs preds flags, r = .done { regs := regs, preds := preds, flags := flags }

section
variable {l : LaneCtx} {x : Dev} {d o p q r : Operand} {fl : Flags} {t : Tag} {P : Tag → Prop}

theorem result_writes {v : Word} : (result d v t fl).Writes := ⟨_, _, _, rfl⟩
theorem resultW_writes {v : Nat} {lo hi : Tag} : (resultW d v lo hi fl).Writes := ⟨_, _, _, rfl⟩
theorem resultP_writes {b : Bool} : (resultP d b fl).Writes := ⟨_, _, _, rfl⟩
theorem resultN_writes {n : Nat} : (resultN d n).Writes := ⟨_, _, _, rfl⟩
theorem resultCarry_writes {v : Word} {n : Nat} {b : Bool} : (resultCarry d v t n b).Writes := ⟨_, _, _, rfl⟩
theorem copyRes_writes {wide : Bool} : (copyRes wide d l o).Writes := ⟨_, _, _, rfl⟩
theorem scalarResult_writes {y : Int} : (scalarResult x t y).Writes := ⟨_, _, _, rfl⟩
theorem packedResult_writes {w n : Nat} {sg : Bool} {f : Nat → Int} : (packedResult x t w n sg f).Writes := ⟨_, _, _, rfl⟩
theorem bits1_writes {f : Word → Word} : (bits1 f x l).Writes := ⟨_, _, _, rfl⟩
theorem bits2_writes {f : Word → Word → Word} : (bits2 f x l).Writes := ⟨_, _, _, rfl⟩
theorem bits3_writes {f : Word → Word → Word → Word} : (bits3 f x l).Writes := ⟨_, _, _, rfl⟩

/-! ## Tags that an operation takes -/

theorem LaneCtx.tags_one (h : l.tags x [p] P) : tchkFails x.m [(l.src p).tag] = false ∧ P (l.src p).tag :=
  ⟨h.1, h.2 p (by simp)⟩

theorem LaneCtx.tags_two (h : l.tags x [p, q] P) :
    tchkFails x.m [(l.src p).tag, (l.src q).tag] = false ∧ P (l.src p).tag ∧ P (l.src q).tag :=
  ⟨h.1, h.2 p (by simp), h.2 q (by simp)⟩

theorem LaneCtx.tags_three (h : l.tags x [p, q, r] P) :
    tchkFails x.m [(l.src p).tag, (l.src q).tag, (l.src r).tag] = false ∧ P (l.src p).tag ∧ P (l.src q).tag ∧ P (l.src r).tag :=
  ⟨h.1, h.2 p (by simp), h.2 q (by simp), h.2 r (by simp)⟩

theorem packedInt_of_packedShape (packed : (packedShape t).isSome) : ∃ w n sg, packedInt t = some (w, n, sg) ∧ scalarTag t = false := by
  cases t with
  | i16x2 | i8x4 | n8x4 => exact ⟨_, _, _, rfl, rfl⟩
  | _ => cases packed

theorem floatClass_of_floatShape (float : (floatShape t).isSome) : ∃ f w n, floatClass t = some (f, w, n) := by
  cases t with
  | f32 | bf16x2 | f16x2 => exact ⟨_, _, _, rfl⟩
  | _ => cases float

theorem LaneCtx.wideSign_srcW (wide : l.wideTags o) : ∃ sg, wideSign (l.srcW o) = some sg := by
  obtain ⟨same, tag⟩ := wide
  rcases tag with tag | tag | tag | tag <;> simp [wideSign, LaneCtx.srcW, same, tag]

/-! ## Integer operations -/

/-- Scalar sources pass the check of an operation on two of them. -/
theorem LaneCtx.scalars_pass (takes : l.tags x [p, q] Tag.isScalar) :
    (tchkFails x.m [(l.src p).tag, (l.src q).tag] || !(scalarTag (l.src p).tag && scalarTag (l.src q).tag)) = false := by
  obtain ⟨check, a, b⟩ := LaneCtx.tags_two takes
  simp [check, scalarTag_of_isScalar a, scalarTag_of_isScalar b]

theorem arith2_writes {f : Int → Int → Int} (takes : l.tags x [x.a, x.b] Tag.isScalar) : (arith2 f x l).Writes := by
  simp only [arith2, LaneCtx.scalars_pass takes]
  exact scalarResult_writes

theorem arith3_writes {f : Int → Int → Int → Int} (takes : l.tags x [x.a, x.b, x.c] Tag.isScalar) : (arith3 f x l).Writes := by
  obtain ⟨check, a, b, c⟩ := LaneCtx.tags_three takes
  simp [arith3, check, scalarTag_of_isScalar a, scalarTag_of_isScalar b, scalarTag_of_isScalar c, scalarResult_writes]

theorem arith1p_writes {f : Int → Int} (takes : intSources x l [x.a]) : (arith1p f x l).Writes := by
  rcases takes with scalar | ⟨t, packed, same⟩
  · obtain ⟨check, a⟩ := LaneCtx.tags_one scalar
    simp [arith1p, check, scalarTag_of_isScalar a, scalarResult_writes]
  · obtain ⟨w, n, sg, shape, other⟩ := packedInt_of_packedShape packed
    obtain ⟨check, a⟩ := LaneCtx.tags_one same
    simp only [a] at check
    simp [arith1p, check, a, other, shape, packedResult_writes]

theorem arith2p_writes {f : Int → Int → Int} (takes : intSources x l [x.a, x.b]) : (arith2p f x l).Writes := by
  rcases takes with scalar | ⟨t, packed, same⟩
  · obtain ⟨check, a, b⟩ := LaneCtx.tags_two scalar
    simp [arith2p, check, scalarTag_of_isScalar a, scalarTag_of_isScalar b, scalarResult_writes]
  · obtain ⟨w, n, sg, shape, other⟩ := packedInt_of_packedShape packed
    obtain ⟨check, a, b⟩ := LaneCtx.tags_two same
    simp only [a, b] at check
    simp [arith2p, check, a, b, other, shape, packedResult_writes]

theorem imulhLane_writes (takes : l.tags x [x.a, x.b] Tag.isScalar) : (imulhLane x l).Writes := by
  simp only [imulhLane, LaneCtx.scalars_pass takes]
  exact result_writes

theorem iaddcLane_writes (takes : l.tags x [x.a, x.b] Tag.isScalar) : (iaddcLane x l).Writes := by
  simp only [iaddcLane, LaneCtx.scalars_pass takes]
  exact resultCarry_writes

theorem isubbLane_writes (takes : l.tags x [x.a, x.b] Tag.isScalar) : (isubbLane x l).Writes := by
  simp only [isubbLane, LaneCtx.scalars_pass takes]
  exact resultCarry_writes

theorem icmpLane_writes (takes : l.tags x [x.a, x.b] Tag.isScalar) : (icmpLane x l).Writes := by
  simp only [icmpLane, LaneCtx.scalars_pass takes]
  exact resultP_writes

theorem idp4Lane_writes (check : tchkFails x.m [(l.src x.a).tag, (l.src x.b).tag, (l.src x.c).tag] = false)
    (a : (l.src x.a).tag = .i8x4 ∨ (l.src x.a).tag = .n8x4) (b : (l.src x.b).tag = .i8x4 ∨ (l.src x.b).tag = .n8x4)
    (c : Tag.isScalar (l.src x.c).tag) : (idp4Lane x l).Writes := by
  have byteA : byteTag (l.src x.a).tag = true := by simpa [byteTag] using a
  have byteB : byteTag (l.src x.b).tag = true := by simpa [byteTag] using b
  simp [idp4Lane, check, byteA, byteB, scalarTag_of_isScalar c, scalarResult_writes]

theorem selLane_writes (a : (l.src x.a).tag = (l.src x.b).tag)
    (high : bit x.m 1 = true → (l.src (x.a.plus 1)).tag = (l.src (x.b.plus 1)).tag) : (selLane x l).Writes := by
  have same : ((l.src x.a).tag != (l.src x.b).tag || (bit x.m 1 && (l.src (x.a.plus 1)).tag != (l.src (x.b.plus 1)).tag)) = false := by
    simpa [a] using high
  simp only [selLane, same]
  exact copyRes_writes

theorem cmp64Lane_writes (a : l.wideTags x.a) (b : l.wideTags x.b) : (cmp64Lane x l).Writes := by
  obtain ⟨sa, signA⟩ := LaneCtx.wideSign_srcW a
  obtain ⟨sb, signB⟩ := LaneCtx.wideSign_srcW b
  simp [cmp64Lane, signA, signB, resultP_writes]

theorem arith64_writes {f : Int → Int → Int} (a : l.wideTags x.a) (b : l.wideTags x.b) (fx : (l.src x.a).tag = .fx ↔ (l.src x.b).tag = .fx) :
    (arith64 f x l).Writes := by
  obtain ⟨sa, signA⟩ := LaneCtx.wideSign_srcW a
  obtain ⟨sb, signB⟩ := LaneCtx.wideSign_srcW b
  have both : ((l.srcW x.a).1.tag == .fx) = ((l.srcW x.b).1.tag == .fx) := by
    rw [Bool.eq_iff_iff, beq_iff_eq, beq_iff_eq]
    exact fx
  simp [arith64, signA, signB, both, resultW_writes]

theorem pmovLane_writes : (pmovLane x l).Writes := by
  unfold pmovLane
  split
  · exact resultP_writes
  · exact resultN_writes
  · exact ⟨_, _, _, rfl⟩

/-! ## Floating-point operations -/

theorem floatOp_writes {f : Dev → Fmt → List Nat → Nat × Flags} {os : List Operand} (source : o ∈ os)
    (takes : ∃ t, (floatShape t).isSome ∧ l.tags x os (· = t)) : (floatOp os f x l).Writes := by
  obtain ⟨t, float, check, same⟩ := takes
  obtain ⟨fm, w, n, shape⟩ := floatClass_of_floatShape float
  have head : ((os.map l.src).headD Reg.zero).tag = t := by
    cases os with
    | nil => cases source
    | cons p ps => exact same p (by simp)
  have alike : ((os.map l.src).any fun r => r.tag != t) = false := by simpa using same
  have checked : tchkFails x.m ((os.map l.src).map (·.tag)) = false := by rwa [List.map_map]
  simp only [floatOp, checked, head, shape, alike]
  exact result_writes

theorem fcmpLane_writes (takes : l.tags x [x.a, x.b] (· = .f32)) : (fcmpLane x l).Writes := by
  obtain ⟨check, a, b⟩ := LaneCtx.tags_two takes
  simp only [a, b] at check
  simp [fcmpLane, check, a, b, resultP_writes]

/-! ## The pairable operations -/

/-- An operation of a pair completes with the operands that it takes. -/
theorem pairLane_writes {op : PairOp} (takes : pairTakes op x l) : (pairLane op x l).Writes := by
  cases op <;> dsimp only [pairLane, pairTakes] at takes ⊢
  case iadd | isub | imin | imax => exact arith2p_writes takes
  case iabs | ineg => exact arith1p_writes takes
  case imul => exact arith2_writes takes
  case imulh => exact imulhLane_writes takes
  case iaddc => exact iaddcLane_writes takes
  case isubb => exact isubbLane_writes takes
  case imad | isad => exact arith3_writes takes
  case icmp => exact icmpLane_writes takes.1
  case idp4 =>
    obtain ⟨check, a, b, c⟩ := takes
    exact idp4Lane_writes check a b c
  case sel => exact selLane_writes takes.1 takes.2
  case add64 | sub64 =>
    obtain ⟨a, b, fx⟩ := takes
    exact arith64_writes a b fx
  case cmp64 =>
    obtain ⟨a, b, -⟩ := takes
    exact cmp64Lane_writes a b
  case pmov => exact pmovLane_writes
  case fadd | fsub | fmul | fmin | fmax | ffma => exact floatOp_writes (List.mem_cons_self ..) takes
  case fcmp => exact fcmpLane_writes takes
  case not | brev => exact bits1_writes
  case and | or | xor | andn | shl | shr | sar | rotl | bfe => exact bits2_writes
  case lop3 | shf | bfi | prmt => exact bits3_writes
  case popc | clz | ctz => exact resultN_writes
  case mov => exact copyRes_writes
  case lea => exact resultW_writes
  case plop => exact resultP_writes

end

/-! ## Lanes that do not act -/

section
variable {s : State} {c : Cohort} {v w : Wave} {ls : List LaneCtx} {acts : LaneCtx → Bool} {out : LaneCtx → LaneOut} {len : Nat}

theorem findSome?_filter_of_none {α β : Type} {p : α → Bool} {f : α → Option β} {l : List α} (skipped : ∀ a ∈ l, p a = false → f a = none) :
    (l.filter p).findSome? f = l.findSome? f := by
  rw [← List.head?_filterMap, ← List.head?_filterMap, List.filterMap_filter]
  refine congrArg List.head? (List.filterMap_congr fun a ha => ?_)
  cases pa : p a with
  | true => rfl
  | false => exact (skipped a ha pa).symm

theorem foldl_filter_of_id {α β : Type} {p : α → Bool} {f : β → α → β} {l : List α} (skipped : ∀ a ∈ l, p a = false → ∀ b, f b a = b) (b : β) :
    (l.filter p).foldl f b = l.foldl f b := by
  rw [List.foldl_filter]
  refine List.foldl_ext _ _ _ fun b a ha => ?_
  cases pa : p a with
  | true => rfl
  | false => exact (skipped a ha pa b).symm

/-- A lane that has completed, in its wave. -/
def Wave.completeLane (out : LaneCtx → LaneOut) (len : Nat) (w : Wave) (l : LaneCtx) : Wave := w.updThread l.lane fun t => t.complete (out l) len

theorem Wave.completeLane_comm {a b : LaneCtx} (differ : a.lane ≠ b.lane) (w : Wave) :
    (w.completeLane out len a).completeLane out len b = (w.completeLane out len b).completeLane out len a := by
  simp only [Wave.completeLane, Wave.updThread, List.modify_modify_ne _ _ _ differ]

/-- To complete with nothing written is only to move on (03 R72). -/
theorem Thread.complete_nothing (t : Thread) (len : Nat) : t.complete {} len = t.skip len := rfl

/-- A wave after lanes that begin and complete their instruction, and lanes that only move on. -/
theorem Wave.settle_completes (fresh : ∀ l ∈ ls, l.th.inst = none) (id : Nat) (idle : List Nat) :
    v.settle len id idle (ls.map fun l => (l, .done (out l)))
      = { idle.foldl (fun w i => w.updThread i fun t => t.skip len) (ls.foldl (Wave.completeLane out len) v) with
          sregs := v.sregs.mapIdx fun n r => (ls.findSome? fun l => (out l).uniform n).getD r
          fstat := ls.foldl (fun f l => raiseFlags f (out l).flags) v.fstat } := by
  have groups : instGroups (ls.map fun l => (l, LaneRes.done (out l))) = [(none, ls.map fun l => (l, .done (out l)))] :=
    instGroups_fresh fun p hp => by
      obtain ⟨l, hl, rfl⟩ := List.mem_map.1 hp
      exact fresh l hl
  have outstanding : ((ls.map fun l => (l, LaneRes.done (out l))).any fun p => p.2.outstanding) = false := by
    simp [LaneRes.outstanding]
  have uniform : (groupWrites (none, ls.map fun l => (l, LaneRes.done (out l)))).foldl (fun l (p : Fin 64 × Reg) => l.set p.1.val p.2) v.sregs
      = v.sregs.mapIdx fun n r => (ls.findSome? fun l => (out l).uniform n).getD r := by
    cases none : ls with
    | nil => exact List.ext_getElem (by simp [groupWrites, groupWriter]) (by simp [groupWrites, groupWriter])
    | cons a as => exact uniformWrites_done (a :: as) out v.sregs (List.cons_ne_nil a as)
  unfold Wave.settle
  simp only [groups, List.foldl_cons, List.foldl_nil, List.flatMap_cons, List.flatMap_nil, List.append_nil, instWave, outstanding, uniform,
    List.foldl_map, foldl_updThread_sregs, foldl_updThread_fstat, Option.isNone_none, Bool.not_false, Bool.and_true, if_true]
  rfl

/-- Lanes that do not act settle as lanes that complete with nothing written. -/
theorem Wave.settle_idle (distinct : (ls.map (·.lane)).Nodup) (fresh : ∀ l ∈ ls, l.th.inst = none)
    (nothing : ∀ l ∈ ls, acts l = false → out l = {}) (id : Nat) :
    v.settle len id ((ls.filter fun l => !acts l).map (·.lane)) ((ls.filter acts).map fun l => (l, .done (out l)))
      = v.settle len id [] (ls.map fun l => (l, .done (out l))) := by
  have uniform : ∀ n, (ls.filter acts).findSome? (fun l => (out l).uniform n) = ls.findSome? fun l => (out l).uniform n := fun n =>
    findSome?_filter_of_none fun l hl idle => by rw [nothing l hl idle]; rfl
  have flags := foldl_filter_of_id (p := acts) (f := fun f l => raiseFlags f (out l).flags) (l := ls)
    (fun l hl idle f => by rw [nothing l hl idle]; exact raiseFlags_zero f) v.fstat
  have skips : ∀ u : Wave, ((ls.filter fun l => !acts l).map (·.lane)).foldl (fun w i => w.updThread i fun t => t.skip len) u
      = (ls.filter fun l => !acts l).foldl (Wave.completeLane out len) u := fun u => by
    rw [List.foldl_map]
    refine List.foldl_ext _ _ _ fun w l hl => ?_
    obtain ⟨mem, idle⟩ := List.mem_filter.1 hl
    rw [Wave.completeLane, nothing l mem (by simpa using idle)]
    simp only [Thread.complete_nothing]
  have order : (ls.filter acts ++ ls.filter fun l => !acts l).foldl (Wave.completeLane out len) v = ls.foldl (Wave.completeLane out len) v :=
    ((List.filter_append_perm acts ls).symm.foldl_eq' (fun a ha b hb w => by
      by_cases same : a.lane = b.lane
      · rw [List.inj_on_of_nodup_map distinct ha hb same]
      · exact Wave.completeLane_comm same w) v).symm
  rw [Wave.settle_completes (fun l hl => fresh l (List.mem_of_mem_filter hl)), Wave.settle_completes fresh, skips, ← List.foldl_append, order]
  simp only [uniform, flags, List.foldl_nil]

theorem finishLanes_done {idle : List LaneCtx} (ready : Ready s c w) (lanes : ∀ l ∈ ls, l.wave.ref = c.wave)
    (plain : ∀ l ∈ ls, (out l).after = none ∧ (out l).exits = false) :
    finishLanes c.wave len idle (ls.map fun l => (l, .done (out l))) s
      = (s.updWave c.wave fun w => w.settle len 0 (idle.map (·.lane)) (ls.map fun l => (l, .done (out l)))).stopThreads c.wave := by
  have watched : ∀ l ∈ ls, s.fetchWatch l = none := fun l hl => by
    rw [State.fetchWatch, LaneCtx.ref, lanes l hl]
    exact watchHit_none ready _ _ _ _
  have kept : fetchWatches s (ls.map fun l => (l, LaneRes.done (out l))) = ls.map fun l => (l, .done (out l)) := by
    unfold fetchWatches
    simp only [List.map_map]
    refine List.map_congr_left fun l hl => ?_
    simp only [Function.comp, watched l hl, LaneRes.withAfter_none]
    rfl
  have outstanding : ((ls.map fun l => (l, LaneRes.done (out l))).any fun p => p.2.outstanding) = false := by
    simp [LaneRes.outstanding]
  have faults : laneFaults (ls.map fun l => (l, LaneRes.done (out l))) = [] := by
    rw [laneFaults, List.filterMap_map, List.filterMap_eq_nil_iff]
    intro l hl
    simp [LaneRes.fault?, (plain l hl).1]
  have exits : exitLanes (ls.map fun l => (l, LaneRes.done (out l))) = [] := by
    rw [exitLanes, List.filterMap_map, List.filterMap_eq_nil_iff]
    intro l hl
    simp [(plain l hl).2]
  unfold finishLanes
  simp only [kept, outstanding, faults, exits, Bool.false_eq_true, if_false, State.forEach_nil]

/-- An instruction whose lanes act under a test of their own, where the acting lanes complete and the others would complete with nothing written:
as if every lane of the cohort acted. -/
theorem runActing_done {x : Dev} {acts : Thread → Bool} {f : LaneCtx → LaneRes} (hs : Stage s c w) (always : x.guard = ⟨false, 7⟩)
    (done : ∀ l ∈ c.active w x, f l = .done (out l)) (nothing : ∀ l ∈ c.active w x, acts l.th = false → out l = {})
    (plain : ∀ l ∈ c.active w x, (out l).after = none ∧ (out l).exits = false) :
    runActing acts (lenBytes x.len) (fun l s => (f l, s)) s = s.idle.issued c w w x out := by
  have all : ∀ t : Thread, t.guard x.guard = true := fun t => by rw [always]; rfl
  have every : c.active w x = c.lanesOf w (lenBytes x.len) := List.filter_eq_self.2 fun l _ => all l.th
  have wave : s.wave? c.wave = some w := hs.ready.wave
  have numbers : (c.lanesOf w (lenBytes x.len)).map (·.lane) = c.lanes := lanesOf_lane c w _ hs.exist
  have refs : ∀ l ∈ c.lanesOf w (lenBytes x.len), l.wave.ref = c.wave := fun l hl => by rw [lanesOf_wave c w _ l hl, hs.ready.ref]
  have settled : ∀ v : Wave, v.settle (lenBytes x.len) 0 (((c.lanesOf w (lenBytes x.len)).filter fun l => !acts l.th).map (·.lane))
      (((c.lanesOf w (lenBytes x.len)).filter fun l => acts l.th).map fun l => (l, .done (out l)))
      = v.settle (lenBytes x.len) 0 [] ((c.lanesOf w (lenBytes x.len)).map fun l => (l, .done (out l))) := fun v =>
    Wave.settle_idle (acts := fun l => acts l.th) (numbers ▸ hs.asc.imp Nat.ne_of_lt) (fun l hl => by
      obtain ⟨mem, thread⟩ := lanesOf_thread hl
      exact hs.fresh _ mem _ thread) (every ▸ nothing) 0
  rw [← runLanes_pure hs done plain]
  rw [every] at done plain
  unfold runLanes runActing
  rw [hs.cur]
  simp only [wave, all, Bool.not_true, List.filter_true, List.filter_false]
  rw [foldLanes_pure f out _ _ done, foldLanes_pure f out _ _ fun l hl => done l (List.mem_of_mem_filter hl)]
  have acting := finishLanes_done (idle := (c.lanesOf w (lenBytes x.len)).filter fun l => !acts l.th) (len := lenBytes x.len) hs.ready
    (fun l hl => refs l (List.mem_of_mem_filter hl)) fun l (hl : l ∈ (c.lanesOf w (lenBytes x.len)).filter fun l => acts l.th) =>
      plain l (List.mem_of_mem_filter hl)
  have whole := finishLanes_done (idle := []) (len := lenBytes x.len) hs.ready refs plain
  simp only [settled] at acting
  exact acting.trans whole.symm

end

/-! ## Pairs -/

/-- What a lane that completes writes. -/
def LaneRes.out (r : LaneRes) : LaneOut :=
  match r with
  | .done o => o
  | _ => {}

theorem LaneRes.Writes.done {r : LaneRes} (writes : r.Writes) : r = .done r.out := by
  obtain ⟨regs, preds, flags, rfl⟩ := writes
  rfl

/-- What a slot of a pair writes in a lane: nothing where its guard is false (03 R78). -/
def slotOut (t : Slot) (l : LaneCtx) : LaneOut := if l.th.guard t.x.guard then (pairLane t.op t.x l).out else {}

theorem slotRes_writes {t : Slot} {l : LaneCtx} (takes : l.th.guard t.x.guard = true → pairTakes t.op t.x l) :
    (slotRes t l).Writes ∧ (slotRes t l).out = slotOut t l := by
  unfold slotRes slotOut
  split
  next acts => exact ⟨pairLane_writes (takes acts), rfl⟩
  next => exact ⟨⟨_, _, _, rfl⟩, rfl⟩

/-- Two slots that complete do so together, with the writes of both. -/
theorem pairRes_writes {r q : LaneRes} (first : r.Writes) (second : q.Writes) : pairRes r q = .done (r.out.both q.out) := by
  obtain ⟨_, _, _, rfl⟩ := first
  obtain ⟨_, _, _, rfl⟩ := second
  rfl

theorem pairInstr_done {a b : Slot} {l : LaneCtx} (takes : ∀ t ∈ [a, b], l.th.guard t.x.guard = true → pairTakes t.op t.x l) :
    pairInstr a b l = .done ((slotOut a l).both (slotOut b l)) := by
  obtain ⟨writesA, outA⟩ := slotRes_writes (takes a (by simp))
  obtain ⟨writesB, outB⟩ := slotRes_writes (takes b (by simp))
  rw [pairInstr, pairRes_writes writesA writesB, outA, outB]

/-- A pairable operation alone does in its lanes what it does in a slot. -/
theorem exec_pairable {op : PairOp} {x : Dev} {i : Instr} (alone : (mkDev op.opcode).map (fun f => f x) = some i) (s : State) :
    exec i s = .next (runPure x (pairLane op) s) := by
  cases op <;> cases alone <;> rfl

/-- Settles O4: a slot's lane function is that of its instruction, and a lane whose guards are both false completes with nothing written. -/
theorem pairs : Obligations.Pairs := by
  refine ⟨fun op x i s alone => exec_pairable alone s, fun op x l => (pairLane op x l).out, fun op x l takes => (pairLane_writes takes).done, ?_⟩
  intro s c w a b x hs always long takes
  have len : lenBytes x.len = 16 := by rw [long]; rfl
  have active : ∀ l ∈ c.active w x, l ∈ c.lanesOf w 16 := fun l hl => len ▸ List.mem_of_mem_filter hl
  have run := runActing_done (acts := pairActs a b) (out := fun l => (slotOut a l).both (slotOut b l)) hs always
    (fun l hl => pairInstr_done (takes l (active l hl)))
    (fun l _ idle => by
      obtain ⟨idleA, idleB⟩ := Bool.or_eq_false_iff.1 idle
      simp only [slotOut, idleA, idleB, Bool.false_eq_true, if_false]
      rfl)
    fun _ _ => ⟨rfl, rfl⟩
  rw [len] at run
  exact congrArg Host.Outcome.next run

end Sys2Proof.Machine
end

section
/-! Integers and their formats (04 R87 to R89): the model's readings of a word and its narrowing against those of the statements, and the law of
an instruction that only its own lane's registers decide. -/
namespace Sys2Proof.Machine

/-! ## Numbers of a width -/

theorem fld_eq_div_mod (x hi lo : Nat) : fld x hi lo = x / 2 ^ lo % 2 ^ (hi + 1 - lo) := by
  rw [fld, Nat.shiftRight_eq_div_pow]

/-- Two's complement of the low bits of a number (00 R8). -/
theorem sextN_eq_toInt {w : Nat} (pos : 0 < w) (n : Nat) : sextN n w = (BitVec.ofNat w n).toInt := by
  have half : 2 * 2 ^ (w - 1) = 2 ^ w := by rw [← Nat.pow_succ', Nat.succ_eq_add_one, Nat.sub_add_cancel pos]
  rw [sextN, BitVec.toInt_eq_toNat_cond, BitVec.toNat_ofNat]
  split <;> split <;> omega

theorem wrapN_eq (y : Int) (w : Nat) : wrapN y w = (y % (2 : Int) ^ w).toNat := by
  rw [wrapN, Nat.cast_pow, Nat.cast_ofNat]

/-- Integer saturation (00 R8) is the nearest number of a range. -/
theorem satI_eq_max_min {y lo hi : Int} (range : lo ≤ hi) : satI y lo hi = max lo (min y hi) := by
  unfold satI
  split
  · omega
  · split <;> omega

theorem intRange_not (w : Nat) (unsigned : Bool) : intRange w (!unsigned)
    = (if unsigned then 0 else -(2 : Int) ^ (w - 1), if unsigned then (2 : Int) ^ w - 1 else (2 : Int) ^ (w - 1) - 1) := by
  cases unsigned <;> simp [intRange]

/-- An exact result saturated (04 R88). -/
theorem narrowInt_saturates {w : Nat} {signed : Bool} {y lo hi : Int} (range : intRange w signed = (lo, hi)) :
    narrowInt true w signed y = ((max lo (min y hi) % (2 : Int) ^ w).toNat, if max lo (min y hi) = y then 0 else fSAT) := by
  have pos : ∀ n : Nat, (0 : Int) < (2 : Int) ^ n := fun n => Int.pow_pos (by decide)
  have ordered : lo ≤ hi := by
    have full := pos w
    have half := pos (w - 1)
    rw [← Bool.not_not signed, intRange_not, Prod.mk.injEq] at range
    obtain ⟨rfl, rfl⟩ := range
    split <;> omega
  unfold narrowInt
  simp only [if_true, range, satI_eq_max_min ordered, wrapN_eq, flagIf, bne_iff_ne, ite_not]

/-- The narrowing of R88, by saturation or by wrapping. -/
theorem narrowInt_eq_narrowed (x : Dev) (w : Nat) (unsigned : Bool) (y : Int) :
    narrowInt (Dev.sat x) w (!unsigned) y = narrowed x w unsigned y := by
  unfold narrowed Dev.sat
  cases bit x.m 3
  · exact Prod.ext (wrapN_eq y w) rfl
  · exact narrowInt_saturates (intRange_not w unsigned)

/-! ## Scalar and packed sources and results -/

theorem elemI_eq_elemOf {w : Nat} (pos : 0 < w) (v : Word) (i : Nat) (unsigned : Bool) : elemI v.toNat w i (!unsigned) = elemOf v w i unsigned := by
  have elem : v.extractLsb' (w * i) w = BitVec.ofNat w (fld v.toNat (w * i + w - 1) (w * i)) := by
    refine BitVec.eq_of_toNat_eq ?_
    rw [BitVec.extractLsb'_toNat, BitVec.toNat_ofNat, fld, show w * i + w - 1 + 1 - w * i = w by omega, Nat.mod_mod]
  have small : fld v.toNat (w * i + w - 1) (w * i) < 2 ^ w := by
    rw [fld, show w * i + w - 1 + 1 - w * i = w by omega]
    exact Nat.mod_lt _ (Nat.two_pow_pos w)
  rw [elemI, elemOf, elem, BitVec.toNat_ofNat, Nat.mod_eq_of_lt small, sextN_eq_toInt pos]
  cases unsigned <;> rfl

theorem packedInt_eq_packedShape (t : Tag) : packedInt t = (packedShape t).map fun p => (p.1, p.2.1, !p.2.2) := by
  cases t <;> rfl

theorem scalarTag_of_packed {t : Tag} (packed : (packedShape t).isSome) : scalarTag t = false := by
  obtain ⟨-, -, -, -, other⟩ := packedInt_of_packedShape packed
  exact other

theorem packedShape_of_isScalar {t : Tag} (scalar : Tag.isScalar t) : packedShape t = none := by
  obtain rfl | rfl := scalar <;> rfl

theorem scalarResult_eq (x : Dev) (t : Tag) (y : Int) : scalarResult x t y = .done (scalarOut x t y) := by
  have unsigned : (t != .n32) = !decide (t = .n32) := by cases t <;> rfl
  unfold scalarResult
  rw [unsigned, narrowInt_eq_narrowed]
  rfl

/-- Elements written one above the other, each with its conditions. -/
theorem foldl_elements (w : Nat) (e : Nat → Nat × Flags) (l : List Nat) (acc : Nat × Flags) :
    l.foldl (fun acc i => (acc.1 + (e i).1 * 2 ^ (w * i), acc.2 ||| (e i).2)) acc
      = (acc.1 + (l.map fun i => (e i).1 * 2 ^ (w * i)).sum, (l.map fun i => (e i).2).foldl (· ||| ·) acc.2) := by
  induction l generalizing acc with
  | nil => rfl
  | cons i l ih => simp only [List.foldl_cons, List.map_cons, List.sum_cons, ih, Nat.add_assoc]

/-- A packed result is what R89 writes, element by element. -/
theorem packedResult_eq {x : Dev} {t : Tag} {w n : Nat} {unsigned : Bool} (shape : packedShape t = some (w, n, unsigned)) {f : Nat → Int}
    {g : Nat → Bool → Nat → Int} (same : ∀ i, f i = g w unsigned i) : packedResult x t w n (!unsigned) f = .done (packedOut x t g) := by
  unfold packedResult packedOut
  simp only [shape, narrowInt_eq_narrowed, same, foldl_elements, Nat.zero_add]
  rfl

theorem packedShape_pos {t : Tag} {w n : Nat} {unsigned : Bool} (shape : packedShape t = some (w, n, unsigned)) : 0 < w := by
  cases t with
  | i16x2 | i8x4 | n8x4 => cases shape; decide
  | _ => cases shape

/-! ## Instructions that only their own lane's registers decide -/

/-- What completes and no more: no fault after it, and no exit. -/
def LaneOut.plain (o : LaneOut) : Prop := o.after = none ∧ o.exits = false

theorem scalarOut_plain (x : Dev) (t : Tag) (y : Int) : (scalarOut x t y).plain := ⟨rfl, rfl⟩

theorem packedOut_plain (x : Dev) (t : Tag) (f : Nat → Bool → Nat → Int) : (packedOut x t f).plain := by
  unfold packedOut
  split <;> exact ⟨rfl, rfl⟩

/-- An instruction of one function of its lane does in every lane what the function answers. -/
theorem lanesDo_of_lane {i : Dev → Instr} {f : Dev → LaneCtx → LaneRes} {normal : Dev → LaneCtx → Prop} {out : Dev → LaneCtx → LaneOut}
    (run : ∀ x s, exec (i x) s = .next (runPure x f s)) (done : ∀ x l, normal x l → f x l = .done (out x l))
    (plain : ∀ x l, (out x l).plain) : LanesDo i normal out := fun s c w x hs takes => by
  rw [run, runPure_done hs (fun l hl => done x l (takes l hl)) fun l _ => plain x l]

end Sys2Proof.Machine
end

section
/-! Integer arithmetic, scalar and packed (04 R88, R89, R91). -/
namespace Sys2Proof.Machine
variable {x : Dev} {l : LaneCtx}

theorem intOut1_plain (f : Int → Int) (x : Dev) (l : LaneCtx) : (intOut1 f x l).plain := by
  unfold intOut1
  dsimp only
  split
  · exact packedOut_plain _ _ _
  · exact scalarOut_plain _ _ _

theorem intOut2_plain (f : Int → Int → Int) (x : Dev) (l : LaneCtx) : (intOut2 f x l).plain := by
  unfold intOut2
  dsimp only
  split
  · exact packedOut_plain _ _ _
  · exact scalarOut_plain _ _ _

theorem arith1p_done {f : Int → Int} (takes : intSources x l [x.a]) : arith1p f x l = .done (intOut1 f x l) := by
  unfold arith1p intOut1
  rcases takes with scalar | ⟨t, packed, same⟩
  · obtain ⟨check, a⟩ := LaneCtx.tags_one scalar
    simp [check, scalarTag_of_isScalar a, packedShape_of_isScalar a, scalarResult_eq, ival_eq_numOf]
  · obtain ⟨check, rfl⟩ := LaneCtx.tags_one same
    obtain ⟨⟨w, n, u⟩, shape⟩ := Option.isSome_iff_exists.1 packed
    simp only [check, scalarTag_of_packed packed, packedInt_eq_packedShape, shape, Option.map_some, Option.isSome_some, Bool.false_eq_true,
      if_false, if_true]
    exact packedResult_eq shape fun i => by rw [elemI_eq_elemOf (packedShape_pos shape)]

theorem arith2p_done {f : Int → Int → Int} (takes : intSources x l [x.a, x.b]) : arith2p f x l = .done (intOut2 f x l) := by
  unfold arith2p intOut2
  rcases takes with scalar | ⟨t, packed, same⟩
  · obtain ⟨check, a, b⟩ := LaneCtx.tags_two scalar
    simp [check, scalarTag_of_isScalar a, scalarTag_of_isScalar b, packedShape_of_isScalar a, scalarResult_eq, ival_eq_numOf]
  · obtain ⟨check, rfl, b⟩ := LaneCtx.tags_two same
    obtain ⟨⟨w, n, u⟩, shape⟩ := Option.isSome_iff_exists.1 packed
    rw [b] at check
    simp only [check, b, scalarTag_of_packed packed, packedInt_eq_packedShape, shape, Option.map_some, Option.isSome_some, Bool.false_and,
      Bool.false_eq_true, beq_self_eq_true, if_false, if_true]
    exact packedResult_eq shape fun i => by simp only [elemI_eq_elemOf (packedShape_pos shape)]

theorem arith2_done {f : Int → Int → Int} (takes : l.tags x [x.a, x.b] Tag.isScalar) :
    arith2 f x l = .done (scalarOut x (l.src x.a).tag (f (numOf (l.src x.a)) (numOf (l.src x.b)))) := by
  simp only [arith2, LaneCtx.scalars_pass takes, scalarResult_eq, ival_eq_numOf, Bool.false_eq_true, if_false]

/-- Scalar sources pass the check of an operation on three of them. -/
theorem LaneCtx.three_scalars_pass (takes : l.tags x [x.a, x.b, x.c] Tag.isScalar) :
    (tchkFails x.m [(l.src x.a).tag, (l.src x.b).tag, (l.src x.c).tag]
      || !(scalarTag (l.src x.a).tag && scalarTag (l.src x.b).tag && scalarTag (l.src x.c).tag)) = false := by
  obtain ⟨check, a, b, c⟩ := LaneCtx.tags_three takes
  simp [check, scalarTag_of_isScalar a, scalarTag_of_isScalar b, scalarTag_of_isScalar c]

theorem arith3_done {f : Int → Int → Int → Int} (takes : l.tags x [x.a, x.b, x.c] Tag.isScalar) :
    arith3 f x l = .done (scalarOut x (l.src x.a).tag (f (numOf (l.src x.a)) (numOf (l.src x.b)) (numOf (l.src x.c)))) := by
  simp only [arith3, LaneCtx.three_scalars_pass takes, scalarResult_eq, ival_eq_numOf, Bool.false_eq_true, if_false]

theorem lanesDo_arith1p {i : Dev → Instr} {f : Int → Int} (run : ∀ x s, exec (i x) s = .next (runPure x (arith1p f) s)) :
    LanesDo i (fun x l => intSources x l [x.a]) (intOut1 f) :=
  lanesDo_of_lane run (fun _ _ takes => arith1p_done takes) (intOut1_plain f)

theorem lanesDo_arith2p {i : Dev → Instr} {f : Int → Int → Int} (run : ∀ x s, exec (i x) s = .next (runPure x (arith2p f) s)) :
    LanesDo i (fun x l => intSources x l [x.a, x.b]) (intOut2 f) :=
  lanesDo_of_lane run (fun _ _ takes => arith2p_done takes) (intOut2_plain f)

/-- Settles O1: each instruction's lane function is one of the four shapes of integer arithmetic. -/
theorem intArithmetic : Obligations.IntArithmetic := by
  have abs : (fun a : Int => |a|) = fun a => (a.natAbs : Int) := funext Int.abs_eq_natAbs
  refine ⟨lanesDo_arith2p fun _ _ => rfl, lanesDo_arith2p fun _ _ => rfl, ?imul, ?imad, lanesDo_arith2p fun _ _ => rfl,
    lanesDo_arith2p fun _ _ => rfl, abs ▸ lanesDo_arith1p fun _ _ => rfl, lanesDo_arith1p fun _ _ => rfl, ?isad⟩
  case imul => exact lanesDo_of_lane (fun _ _ => rfl) (fun _ _ takes => arith2_done takes) fun _ _ => scalarOut_plain _ _ _
  case imad => exact lanesDo_of_lane (fun _ _ => rfl) (fun _ _ takes => arith3_done takes) fun _ _ => scalarOut_plain _ _ _
  case isad =>
    simp only [Int.abs_eq_natAbs]
    exact lanesDo_of_lane (fun _ _ => rfl) (fun _ _ takes => arith3_done takes) fun _ _ => scalarOut_plain _ _ _

end Sys2Proof.Machine
end

section
/-! High products, division, carries, comparisons, selection, moves, 64-bit addresses and predicates (04 R92 to R97, R102 to R107). -/
namespace Sys2Proof.Machine
variable {x : Dev} {l : LaneCtx} {o : Operand}

/-! ## Products and division -/

theorem imulhLane_done (takes : l.tags x [x.a, x.b] Tag.isScalar) : imulhLane x l
    = .done (outR x.d (numOf (l.src x.a) * numOf (l.src x.b) % 2 ^ 64 / 2 ^ 32).toNat (l.src x.a).tag) := by
  have high : wrapN (numOf (l.src x.a) * numOf (l.src x.b)) 64 / 2 ^ 32
      = (numOf (l.src x.a) * numOf (l.src x.b) % 2 ^ 64 / 2 ^ 32).toNat := by
    rw [wrapN_eq]
    omega
  simp only [imulhLane, LaneCtx.scalars_pass takes, ival_eq_numOf, high, Bool.false_eq_true, if_false]
  rfl

theorem int64_eq_wideNum (signed : Bool) (n : Nat) : int64 signed n = wideNum signed n := by
  cases signed
  · rfl
  · exact sextN_eq_toInt (by decide) n

theorem imadwLane_done (takes : l.tags x [x.a, x.b, x.c] Tag.isScalar) (halves : (l.src (x.c.plus 1)).tag = (l.src x.c).tag) :
    imadwLane x l = .done (
      let t := (l.src x.c).tag
      let y := numOf (l.src x.a) * numOf (l.src x.b) + wideNum (t ≠ .n32) (l.srcWN x.c)
      outW x.d (narrowed x 64 (t = .n32) y).1 t (narrowed x 64 (t = .n32) y).2) := by
  obtain ⟨check, a, b, c⟩ := LaneCtx.tags_three takes
  have check4 : tchkFails x.m [(l.src x.a).tag, (l.src x.b).tag, (l.src x.c).tag, (l.src x.c).tag] = false := by
    simpa [tchkFails] using check
  have unsigned : ((l.src x.c).tag != .n32) = !decide ((l.src x.c).tag = .n32) := by cases (l.src x.c).tag <;> rfl
  simp only [imadwLane, LaneCtx.srcW, halves, check4, scalarTag_of_isScalar a, scalarTag_of_isScalar b, scalarTag_of_isScalar c, ival_eq_numOf,
    int64_eq_wideNum, unsigned, narrowInt_eq_narrowed, decide_not, bne_self_eq_false, Bool.and_self, Bool.not_true, Bool.or_self, Bool.false_eq_true,
    if_false]
  rfl

/-- IDIV and IREM, by zero and otherwise (04 R93). -/
theorem divLane_done (rem : Bool) (takes : l.tags x [x.a, x.b] Tag.isScalar) : divLane rem x l = .done (
    if (l.src x.b).val = 0 then outR x.d (if rem then (l.src x.a).val.toNat else 0xFFFFFFFF) (l.src x.a).tag fDZ
    else scalarOut x (l.src x.a).tag (if rem then (numOf (l.src x.a)).tmod (numOf (l.src x.b)) else (numOf (l.src x.a)).tdiv (numOf (l.src x.b)))) := by
  have remainder : numOf (l.src x.a) - (numOf (l.src x.a)).tdiv (numOf (l.src x.b)) * numOf (l.src x.b)
      = (numOf (l.src x.a)).tmod (numOf (l.src x.b)) := by rw [Int.tmod_def, Int.mul_comm]
  simp only [divLane, LaneCtx.scalars_pass takes, ival_eq_numOf, remainder, scalarResult_eq, Bool.false_eq_true, if_false, beq_iff_eq]
  split
  · cases rem
    · rfl
    · simp [result, outR]
  · rfl

theorem divOut_plain {d : Operand} {n : Nat} {t : Tag} {y : Int} {zero : Prop} [Decidable zero] :
    (if zero then outR d n t fDZ else scalarOut x t y).plain := by
  split <;> exact ⟨rfl, rfl⟩

theorem idp4Lane_done (check : tchkFails x.m [(l.src x.a).tag, (l.src x.b).tag, (l.src x.c).tag] = false)
    (a : (l.src x.a).tag = .i8x4 ∨ (l.src x.a).tag = .n8x4) (b : (l.src x.b).tag = .i8x4 ∨ (l.src x.b).tag = .n8x4)
    (c : Tag.isScalar (l.src x.c).tag) : idp4Lane x l = .done (scalarOut x (l.src x.c).tag (numOf (l.src x.c)
        + ((List.range 4).map fun i => elemOf (l.src x.a).val 8 i ((l.src x.a).tag = .n8x4)
            * elemOf (l.src x.b).val 8 i ((l.src x.b).tag = .n8x4)).sum)) := by
  have byteA : byteTag (l.src x.a).tag = true := by simpa [byteTag] using a
  have byteB : byteTag (l.src x.b).tag = true := by simpa [byteTag] using b
  have signed : ∀ {t : Tag}, t = .i8x4 ∨ t = .n8x4 → (t == .i8x4) = !decide (t = .n8x4) := by rintro _ (rfl | rfl) <;> rfl
  simp only [idp4Lane, check, byteA, byteB, scalarTag_of_isScalar c, signed a, signed b, ival_eq_numOf, scalarResult_eq, Bool.and_self, Bool.not_true,
    Bool.or_self, Bool.false_eq_true, if_false, elemI_eq_elemOf (show 0 < 8 by decide)]
  congr 2
  simp only [List.range_succ, List.range_zero, List.nil_append, List.cons_append, List.map_cons, List.map_nil, List.sum_cons, List.sum_nil]
  omega

/-! ## Carries, comparisons and selection -/

theorem iaddcLane_done (takes : l.tags x [x.a, x.b] Tag.isScalar) : iaddcLane x l = .done (
    let s := (l.src x.a).val.toNat + (l.src x.b).val.toNat + b2n (l.pred x.c ^^ bit x.m 9)
    { regs := [(x.d, ⟨BitVec.ofNat 32 s, (l.src x.a).tag⟩)], preds := [(fld x.m 2 0, decide (2 ^ 32 ≤ s))] }) := by
  simp only [iaddcLane, LaneCtx.scalars_pass takes, Bool.false_eq_true, if_false, ← Bool.bne_eq_xor]
  rfl

theorem isubbLane_done (takes : l.tags x [x.a, x.b] Tag.isScalar) : isubbLane x l = .done (
    let cin := l.pred x.c ^^ bit x.m 9
    { regs := [(x.d, ⟨(l.src x.a).val - (l.src x.b).val - BitVec.ofNat 32 (b2n cin), (l.src x.a).tag⟩)]
      preds := [(fld x.m 2 0, decide ((l.src x.a).val.toNat < (l.src x.b).val.toNat + b2n cin))] }) := by
  have difference : ∀ (a b : Word) (n : Nat), BitVec.ofNat 32 (wrapN ((a.toNat : Int) - (b.toNat : Int) - (n : Int)) 32) = a - b - BitVec.ofNat 32 n := by
    intro a b n
    refine BitVec.eq_of_toNat_eq ?_
    rw [wrapN_eq, BitVec.toNat_ofNat, BitVec.toNat_sub, BitVec.toNat_sub, BitVec.toNat_ofNat]
    omega
  have borrow : ∀ a b n : Nat, decide ((a : Int) - b - n < 0) = decide (a < b + n) := fun a b n => decide_eq_decide.2 (by omega)
  simp only [isubbLane, LaneCtx.scalars_pass takes, Bool.false_eq_true, if_false, ← Bool.bne_eq_xor, difference, borrow]
  rfl

theorem condInt_eq_ordered {n : Nat} (code : n ≤ 5) (a b : Int) : condInt n a b = ordered n a b := by
  interval_cases n <;> simp [condInt, ordered] <;> rfl

theorem combine_eq_joined (x : Dev) (t p : Bool) : combine (fld x.m 10 9) t p = joined x t p := by
  have code : fld x.m 10 9 < 4 := Nat.mod_lt _ (by decide)
  unfold joined
  interval_cases fld x.m 10 9 <;> cases t <;> cases p <;> rfl

theorem icmpLane_done (takes : l.tags x [x.a, x.b] Tag.isScalar) (code : fld x.m 2 0 ≤ 5) : icmpLane x l
    = .done (outP x.d (joined x (ordered (fld x.m 2 0) (numOf (l.src x.a)) (numOf (l.src x.b))) (l.pred x.c))) := by
  simp only [icmpLane, LaneCtx.scalars_pass takes, ival_eq_numOf, condInt_eq_ordered code, combine_eq_joined, Bool.false_eq_true, if_false]
  rfl

theorem wideSign_eq (wide : l.wideTags o) : wideSign (l.srcW o) = some (decide ((l.src o).tag = .i32 ∨ (l.src o).tag = .fx)) := by
  obtain ⟨same, tag⟩ := wide
  rcases tag with tag | tag | tag | tag <;> simp [wideSign, LaneCtx.srcW, same, tag]

theorem cmp64Lane_done (a : l.wideTags x.a) (b : l.wideTags x.b) (code : fld x.m 2 0 ≤ 5) : cmp64Lane x l
    = .done (outP x.d (joined x (ordered (fld x.m 2 0) (l.wideOf x.a) (l.wideOf x.b)) (l.pred x.c))) := by
  simp only [cmp64Lane, wideSign_eq a, wideSign_eq b, int64_eq_wideNum, condInt_eq_ordered code, combine_eq_joined]
  rfl

theorem selLane_done (same : (l.src x.a).tag = (l.src x.b).tag)
    (high : bit x.m 1 = true → (l.src (x.a.plus 1)).tag = (l.src (x.b.plus 1)).tag) : selLane x l = .done (
      let o := if (l.pred x.c ^^ bit x.m 0) = true then x.a else x.b
      { regs := (x.d, l.src o) :: (if bit x.m 1 then [(x.d.plus 1, l.src (o.plus 1))] else []) }) := by
  have check : ((l.src x.a).tag != (l.src x.b).tag || (bit x.m 1 && (l.src (x.a.plus 1)).tag != (l.src (x.b.plus 1)).tag)) = false := by
    simpa [same] using high
  simp only [selLane, check, Bool.false_eq_true, if_false, ← Bool.bne_eq_xor]
  rfl

/-! ## Moves and 64-bit addresses -/

theorem rtag_code {n : Nat} {t : Tag} (code : n = t.code) : rtag n = t := by
  subst code
  cases t <;> rfl

/-- An index scaled and added modulo 2^64, wrapped before or after (04 R104). -/
theorem scaledSum_eq {i : Int} {n : Nat} (index : (n : Int) ≡ i [ZMOD 2 ^ 64]) (a k : Nat) :
    (a + n <<< k) % 2 ^ 64 = (((a : Int) + i * 2 ^ k) % 2 ^ 64).toNat := by
  have sum : (((a + n <<< k) % 2 ^ 64 : Nat) : Int) = ((a : Int) + i * 2 ^ k) % 2 ^ 64 := by
    rw [Nat.shiftLeft_eq]
    push_cast
    exact Int.ModEq.add_left _ (index.mul_right _)
  omega

theorem leaLane_done (x : Dev) (l : LaneCtx) : leaLane x l = .done (
    let i : Int := if bit x.m 9 then (l.src x.b).val.toNat else (l.src x.b).val.toInt
    outW x.d (((l.srcWN x.a : Int) + i * 2 ^ fld x.m 2 0) % 2 ^ 64).toNat .n32) := by
  have signed : ((wrapN (sextN (l.src x.b).val.toNat 32) 64 : Nat) : Int) ≡ (l.src x.b).val.toInt [ZMOD 2 ^ 64] := by
    rw [wrapN_eq, sextN_toNat, Int.toNat_of_nonneg (Int.emod_nonneg _ (by decide))]
    exact Int.mod_modEq _ _
  unfold leaLane
  dsimp only [LaneCtx.srcN]
  cases bit x.m 9
  · rw [if_neg Bool.false_ne_true, if_neg Bool.false_ne_true, scaledSum_eq signed]
    rfl
  · rw [if_pos rfl, if_pos rfl, scaledSum_eq Int.ModEq.rfl]
    rfl

/-- ADD64 and SUB64 in the format of A's tag (04 R103). -/
def sum64Out (f : Int → Int → Int) (x : Dev) (l : LaneCtx) : LaneOut :=
  let t := (l.src x.a).tag
  if t = .fx then
    let y := f (BitVec.ofNat 64 (l.srcWN x.a)).toInt (BitVec.ofNat 64 (l.srcWN x.b)).toInt
    let z := max (-(2 : Int) ^ 63) (min y ((2 : Int) ^ 63 - 1))
    outW x.d (z % 2 ^ 64).toNat t (if z = y then 0 else fSAT)
  else outW x.d (f (l.srcWN x.a) (l.srcWN x.b) % 2 ^ 64).toNat t

theorem sum64Out_plain (f : Int → Int → Int) (x : Dev) (l : LaneCtx) : (sum64Out f x l).plain := by
  unfold sum64Out
  dsimp only
  split <;> exact ⟨rfl, rfl⟩

/-- A signed 64-bit reading is the number itself modulo 2^64. -/
theorem sextN_modEq (n : Nat) : sextN n 64 ≡ n [ZMOD 2 ^ 64] := by
  unfold sextN Int.ModEq
  dsimp only
  split <;> omega

theorem arith64_done {f : Int → Int → Int} (a : l.wideTags x.a) (b : l.wideTags x.b) (fx : (l.src x.a).tag = .fx ↔ (l.src x.b).tag = .fx)
    (congr : ∀ {a a' b b' : Int}, a ≡ a' [ZMOD 2 ^ 64] → b ≡ b' [ZMOD 2 ^ 64] → f a b ≡ f a' b' [ZMOD 2 ^ 64]) :
    arith64 f x l = .done (sum64Out f x l) := by
  have both : ((l.src x.a).tag == .fx) = ((l.src x.b).tag == .fx) := by
    rw [Bool.eq_iff_iff, beq_iff_eq, beq_iff_eq]
    exact fx
  have pass : ((wideSign (l.srcW x.a)).isNone || (wideSign (l.srcW x.b)).isNone || ((l.srcW x.a).1.tag == .fx) != ((l.srcW x.b).1.tag == .fx)) = false := by
    rw [wideSign_eq a, wideSign_eq b, show ((l.srcW x.a).1.tag == .fx) = ((l.srcW x.b).1.tag == .fx) from both, bne_self_eq_false]
    rfl
  unfold arith64 sum64Out
  simp only [pass, Bool.false_eq_true, if_false]
  by_cases t : (l.src x.a).tag = .fx
  · rw [if_pos t, sextN_eq_toInt (by decide), sextN_eq_toInt (by decide), show ((l.srcW x.a).1.tag == .fx) = true from beq_iff_eq.2 t,
      narrowInt_saturates rfl]
    rfl
  · rw [if_neg t, show ((l.srcW x.a).1.tag == .fx) = false from beq_eq_false_iff_ne.2 t,
      ← (congr (sextN_modEq (l.srcWN x.a)) (sextN_modEq (l.srcWN x.b)) : _ % _ = _ % _), ← wrapN_eq]
    rfl

/-! ## Predicates -/

theorem pmovLane_tests (mode : fld x.m 1 0 = 0) : pmovLane x l = .done (outP x.d (decide ((l.src x.a).val ≠ 0))) := by
  have test : ((l.src x.a).val != 0) = decide ((l.src x.a).val ≠ 0) := by rw [decide_not]; rfl
  simp only [pmovLane, mode, test]
  rfl

theorem pmovLane_packs (mode : fld x.m 1 0 = 1) : pmovLane x l = .done (outR x.d (128 + l.th.preds.toNat) .n32) := by
  simp only [pmovLane, mode, Nat.add_comm]
  rfl

theorem pmovLane_unpacks (mode : fld x.m 1 0 = 2) :
    pmovLane x l = .done { preds := (List.range 7).map fun i => (i, (l.src x.a).val.getLsbD i) } := by
  simp only [pmovLane, mode]

/-- Settles O2, a family of instructions at a time. -/
theorem productsComparisonsMoves : Obligations.ProductsComparisonsMoves := by
  refine ⟨⟨?imulh, ?imadw, ?idiv, ?irem, ?idp4⟩, ⟨?iaddc, ?isubb, ?icmp, ?cmp64, ?sel⟩, ⟨?mov, ?movi, ?movw, ?lea, ?add64, ?sub64⟩,
    ?plop, ?tests, ?packs, ?unpacks⟩
  case imulh => exact lanesDo_of_lane (fun _ _ => rfl) (fun _ _ takes => imulhLane_done takes) fun _ _ => ⟨rfl, rfl⟩
  case imadw => exact lanesDo_of_lane (fun _ _ => rfl) (fun _ _ takes => imadwLane_done takes.1 takes.2) fun _ _ => ⟨rfl, rfl⟩
  case idiv => exact lanesDo_of_lane (fun _ _ => rfl) (fun _ _ takes => divLane_done false takes) fun _ _ => divOut_plain
  case irem => exact lanesDo_of_lane (fun _ _ => rfl) (fun _ _ takes => divLane_done true takes) fun _ _ => divOut_plain
  case idp4 => exact lanesDo_of_lane (fun _ _ => rfl) (fun _ _ ⟨check, a, b, c⟩ => idp4Lane_done check a b c) fun _ _ => scalarOut_plain _ _ _
  case iaddc => exact lanesDo_of_lane (fun _ _ => rfl) (fun _ _ takes => iaddcLane_done takes) fun _ _ => ⟨rfl, rfl⟩
  case isubb => exact lanesDo_of_lane (fun _ _ => rfl) (fun _ _ takes => isubbLane_done takes) fun _ _ => ⟨rfl, rfl⟩
  case icmp => exact lanesDo_of_lane (fun _ _ => rfl) (fun _ _ takes => icmpLane_done takes.1 takes.2) fun _ _ => ⟨rfl, rfl⟩
  case cmp64 => exact lanesDo_of_lane (fun _ _ => rfl) (fun _ _ ⟨a, b, code⟩ => cmp64Lane_done a b code) fun _ _ => ⟨rfl, rfl⟩
  case sel => exact lanesDo_of_lane (fun _ _ => rfl) (fun _ _ takes => selLane_done takes.1 takes.2) fun _ _ => ⟨rfl, rfl⟩
  case mov => exact lanesDo_of_lane (f := movLane) (fun _ _ => rfl) (fun _ _ _ => rfl) fun _ _ => ⟨rfl, rfl⟩
  case movi =>
    intro t
    refine lanesDo_of_lane (f := moviLane) (fun _ _ => rfl) (fun x l code => ?_) fun _ _ => ⟨rfl, rfl⟩
    have word : x.imm.setWidth 32 = BitVec.ofNat 32 (x.imm.toNat % 2 ^ 32) := BitVec.eq_of_toNat_eq (by simp)
    rw [moviLane, rtag_code code, word]
    rfl
  case movw =>
    intro t
    refine lanesDo_of_lane (f := movwLane) (fun _ _ => rfl) (fun x l code => ?_) fun _ _ => ⟨rfl, rfl⟩
    rw [movwLane, rtag_code code]
    rfl
  case lea => exact lanesDo_of_lane (fun _ _ => rfl) (fun x l _ => leaLane_done x l) fun _ _ => ⟨rfl, rfl⟩
  case add64 => exact lanesDo_of_lane (fun _ _ => rfl) (fun _ _ ⟨a, b, fx⟩ => arith64_done a b fx Int.ModEq.add) (sum64Out_plain _)
  case sub64 => exact lanesDo_of_lane (fun _ _ => rfl) (fun _ _ ⟨a, b, fx⟩ => arith64_done a b fx Int.ModEq.sub) (sum64Out_plain _)
  case plop => exact lanesDo_of_lane (f := plopLane) (fun _ _ => rfl) (fun _ _ _ => rfl) fun _ _ => ⟨rfl, rfl⟩
  case tests => exact lanesDo_of_lane (fun _ _ => rfl) (fun _ _ mode => pmovLane_tests mode) fun _ _ => ⟨rfl, rfl⟩
  case packs => exact lanesDo_of_lane (fun _ _ => rfl) (fun _ _ mode => pmovLane_packs mode) fun _ _ => ⟨rfl, rfl⟩
  case unpacks => exact lanesDo_of_lane (fun _ _ => rfl) (fun _ _ mode => pmovLane_unpacks mode) fun _ _ => ⟨rfl, rfl⟩

end Sys2Proof.Machine
end

section
/-! Logic on 32 bits, bit counts, shifts, bit fields and byte permutation (04 R98 to R101). -/
namespace Sys2Proof.Machine

/-! ## Bits of a word -/

/-- A number added up of bits has those bits. -/
theorem foldl_bits (p : Nat → Bool) (n : Nat) :
    (List.range n).foldl (fun m i => m + b2n (p i) * 2 ^ i) 0 < 2 ^ n
      ∧ ∀ i, ((List.range n).foldl (fun m i => m + b2n (p i) * 2 ^ i) 0).testBit i = (decide (i < n) && p i) := by
  induction n with
  | zero => simp
  | succ n ih =>
    obtain ⟨small, bits⟩ := ih
    rw [List.range_succ, List.foldl_append, List.foldl_cons, List.foldl_nil]
    generalize (List.range n).foldl (fun m i => m + b2n (p i) * 2 ^ i) 0 = m at small bits ⊢
    refine ⟨?_, fun i => ?_⟩
    · rw [Nat.pow_succ]
      cases p n <;> simp [b2n] <;> omega
    · rw [Nat.add_comm m, Nat.mul_comm, Nat.testBit_two_pow_mul_add _ small]
      split
      next below => rw [bits i, decide_eq_true below, decide_eq_true (Nat.lt_succ_of_lt below)]
      next above =>
        obtain rfl | beyond := Nat.eq_or_lt_of_not_lt above
        · cases p i <;> simp [b2n]
        · have zero : (b2n (p n)).testBit (i - n) = false := by
            refine Nat.testBit_eq_false_of_lt (lt_of_lt_of_le (b := 2 ^ 1) ?_ (Nat.pow_le_pow_right (by decide) (by omega)))
            cases p n <;> decide
          rw [zero, decide_eq_false (by omega), Bool.false_and]

theorem foldl_or_if_getLsbD {q : Nat → Bool} {m : Nat → Word} (l : List Nat) (v : Word) (i : Nat) :
    (l.foldl (fun v j => if q j then v ||| m j else v) v).getLsbD i = (v.getLsbD i || l.any fun j => q j && (m j).getLsbD i) := by
  induction l generalizing v with
  | nil => simp
  | cons j l ih =>
    rw [List.foldl_cons, ih, List.any_cons]
    cases q j <;> simp [Bool.or_assoc]

/-- The words that a table picks, or-ed, hold in each position the table's bit for the position. -/
theorem lut3_eq_minterms (lut : Nat) (a b c : Word) : lut3 lut a b c = minterms lut a b c := by
  refine BitVec.eq_of_getLsbD_eq fun i hi => ?_
  rw [lut3, BitVec.getLsbD_ofNat, (foldl_bits _ 32).2, minterms, foldl_or_if_getLsbD]
  simp only [hi, decide_true, Bool.true_and, BitVec.getLsbD_and]
  have pick : ∀ (x : Word) (y : Bool), (if y then x else ~~~x).getLsbD i = (x.getLsbD i == y) := by
    intro x y
    cases y <;> simp [hi]
  simp only [pick]
  cases a.getLsbD i <;> cases b.getLsbD i <;> cases c.getLsbD i <;> simp [List.range_succ, b2n, bit]

theorem popcount_eq_length (a : Word) : popcount a = ((List.range 32).filter fun i => a.getLsbD i).length := by
  have count : ∀ (l : List Nat) (n : Nat), l.foldl (fun n i => n + b2n (a.getLsbD i)) n = n + (l.filter fun i => a.getLsbD i).length := by
    intro l
    induction l with
    | nil => exact fun n => rfl
    | cons i l ih =>
      intro n
      rw [List.foldl_cons, ih, List.filter_cons]
      cases a.getLsbD i <;> simp [b2n]
      omega
  rw [popcount, count, Nat.zero_add]

/-- The length of the numbers below n, from 0 up, that a test lets pass. -/
theorem length_takeWhile_range {n k : Nat} {p : Nat → Bool} (le : k ≤ n) (below : ∀ i < k, p i = true) (stop : k < n → p k = false) :
    ((List.range n).takeWhile p).length = k := by
  have first : (List.range n).findIdx (fun a => !p a) = k := by
    obtain inside | rfl := Nat.lt_or_eq_of_le le
    · refine (List.findIdx_eq (by simpa using inside)).2 ⟨by simp [stop inside], fun j hj => by simp [below j hj]⟩
    · have none := (List.findIdx_eq_length (p := fun a => !p a) (xs := List.range k)).2 fun i hi => by simp [below i (List.mem_range.1 hi)]
      rwa [List.length_range] at none
  rw [List.takeWhile_eq_take_findIdx_not, first, List.length_take, List.length_range, Nat.min_eq_left le]

theorem ctz32_eq_length (a : Word) : ctz32 a = ((List.range 32).takeWhile fun i => !a.getLsbD i).length := by
  unfold ctz32
  cases lowest : (List.range 32).find? fun i => a.getLsbD i with
  | none =>
    rw [List.find?_range_eq_none] at lowest
    exact (length_takeWhile_range le_rfl lowest (absurd · (lt_irrefl _))).symm
  | some k =>
    obtain ⟨one, inside, below⟩ := List.find?_range_eq_some.1 lowest
    exact (length_takeWhile_range (List.mem_range.1 inside).le below fun _ => by simp [one]).symm

theorem clz32_eq_length (a : Word) : clz32 a = ((List.range 32).takeWhile fun i => !a.getLsbD (31 - i)).length := by
  unfold clz32
  by_cases zero : a = 0
  · subst zero
    exact (length_takeWhile_range le_rfl (fun i _ => by simp) (absurd · (lt_irrefl _))).symm
  · have nonzero : a.toNat ≠ 0 := fun h => zero (BitVec.eq_of_toNat_eq h)
    have highest : a.toNat.log2 < 32 := (Nat.log2_lt nonzero).2 a.isLt
    rw [if_neg (by simpa using zero)]
    refine (length_takeWhile_range (by omega) (fun i hi => ?_) fun _ => ?_).symm
    · have above : a.toNat < 2 ^ (31 - i) := (Nat.log2_lt nonzero).1 (by omega)
      rw [BitVec.getLsbD, Nat.testBit_eq_false_of_lt above]
      rfl
    · rw [show 31 - (31 - a.toNat.log2) = a.toNat.log2 by omega, BitVec.getLsbD, Nat.testBit_log2 nonzero]
      rfl

/-! ## Shifts -/

theorem shl_eq (a n : Word) : (if n.toNat < 32 then a <<< n.toNat else 0)
    = BitVec.ofNat 32 (if n.toNat < 32 then a.toNat * 2 ^ n.toNat % 2 ^ 32 else 0) := by
  split
  · exact BitVec.eq_of_toNat_eq (by simp [Nat.shiftLeft_eq])
  · rfl

theorem shr_eq (a n : Word) : a >>> n.toNat = BitVec.ofNat 32 (if n.toNat < 32 then a.toNat / 2 ^ n.toNat else 0) := by
  refine BitVec.eq_of_toNat_eq ?_
  have small : a.toNat / 2 ^ n.toNat < 2 ^ 32 := lt_of_le_of_lt (Nat.div_le_self _ _) a.isLt
  rw [BitVec.toNat_ushiftRight, Nat.shiftRight_eq_div_pow, BitVec.toNat_ofNat]
  split
  · rw [Nat.mod_eq_of_lt small]
  next all =>
    rw [Nat.div_eq_of_lt (lt_of_lt_of_le a.isLt (Nat.pow_le_pow_right (by decide) (by omega)))]

theorem sar_eq (a n : Word) : a.sshiftRight n.toNat = BitVec.ofNat 32
    (if n.toNat < 32 then (a.toInt / 2 ^ n.toNat % 2 ^ 32).toNat else if a.msb then 0xFFFFFFFF else 0) := by
  split
  · refine BitVec.eq_of_toNat_eq ?_
    rw [BitVec.sshiftRight_eq, BitVec.toNat_ofInt, Int.shiftRight_eq_div_pow, BitVec.toNat_ofNat]
    push_cast
    have fits := Int.emod_lt_of_pos (a.toInt / 2 ^ n.toNat) (show (0 : Int) < 4294967296 by decide)
    omega
  next all =>
    refine BitVec.eq_of_getLsbD_eq fun i hi => ?_
    rw [BitVec.getLsbD_sshiftRight, if_neg (by omega), decide_eq_false (by omega)]
    cases a.msb
    · simp
    · have ones : (BitVec.ofNat 32 0xFFFFFFFF : Word) = BitVec.allOnes 32 := rfl
      simp only [if_true, ones, BitVec.getLsbD_allOnes, hi]
      rfl

theorem rotl_eq (a n : Word) : a.rotateLeft (n.toNat % 32)
    = BitVec.ofNat 32 ((a <<< (n.toNat % 32)) ||| (a >>> (32 - n.toNat % 32))).toNat := by
  rw [BitVec.rotateLeft_def, Nat.mod_mod, BitVec.ofNat_toNat, BitVec.setWidth_eq]

theorem funnel_eq (left : Bool) (a b c : Word) : funnel left a b c = BitVec.ofNat 32 (
    let h := b.toNat * 2 ^ 32 + a.toNat
    let n := min c.toNat 32
    if left then h * 2 ^ n / 2 ^ 32 % 2 ^ 32 else h / 2 ^ n % 2 ^ 32) := by
  refine BitVec.eq_of_toNat_eq ?_
  cases left <;> simp [funnel, Nat.shiftRight_eq_div_pow, Nat.shiftLeft_eq]

/-! ## Bit fields and bytes -/

theorem fld_byte (n i : Nat) : fld n (8 * i + 7) (8 * i) = n / 256 ^ i % 256 := by
  rw [fld_eq_div_mod, show 8 * i + 7 + 1 - 8 * i = 8 by omega, Nat.pow_mul]
  rfl

/-- A field of no more than the bits above its position (04 R100). -/
theorem bfe_eq (signed : Bool) (a ctl : Word) : bfeWord signed a ctl = BitVec.ofNat 32 (
    let pos := ctl.toNat % 256
    let len := min (ctl.toNat / 256 % 256) (32 - pos)
    let f := a.toNat / 2 ^ pos % 2 ^ len
    if len = 0 then 0 else if signed = true ∧ 2 ^ (len - 1) ≤ f then 2 ^ 32 - 2 ^ len + f else f) := by
  have low : fld ctl.toNat 7 0 = ctl.toNat % 256 := by simpa using fld_byte ctl.toNat 0
  have high : fld ctl.toNat 15 8 = ctl.toNat / 256 % 256 := by simpa using fld_byte ctl.toNat 1
  unfold bfeWord
  simp only [low, high, Nat.shiftRight_eq_div_pow]
  generalize ctl.toNat % 256 = pos
  generalize ctl.toNat / 256 % 256 = len
  by_cases empty : 32 ≤ pos ∨ len = 0
  · rw [if_pos (by simpa using empty), if_pos (by omega)]
    rfl
  · rw [if_neg (by simpa using empty)]
    have some : 0 < min len (32 - pos) := by omega
    have most : min len (32 - pos) ≤ 32 := by omega
    generalize min len (32 - pos) = k at some most
    have small : a.toNat / 2 ^ pos % 2 ^ k < 2 ^ k := Nat.mod_lt _ (Nat.two_pow_pos k)
    generalize a.toNat / 2 ^ pos % 2 ^ k = f at small
    have within : 2 ^ k ≤ 2 ^ 32 := Nat.pow_le_pow_right (by decide) most
    rw [if_neg some.ne']
    cases signed
    · simp
    · simp only [if_true, true_and, wrapN, sextN, Nat.mod_eq_of_lt small]
      congr 1
      split <;> split <;> omega

theorem bfi_eq (a b ctl : Word) : bfiWord a b ctl = BitVec.ofNat 32 (
    let pos := ctl.toNat % 256
    let len := min (ctl.toNat / 256 % 256) (32 - pos)
    let m : Word := BitVec.ofNat 32 ((2 ^ len - 1) * 2 ^ pos)
    (a &&& ~~~m) ||| ((b <<< pos) &&& m)).toNat := by
  have low : fld ctl.toNat 7 0 = ctl.toNat % 256 := by simpa using fld_byte ctl.toNat 0
  have high : fld ctl.toNat 15 8 = ctl.toNat / 256 % 256 := by simpa using fld_byte ctl.toNat 1
  unfold bfiWord
  simp only [low, high, Nat.shiftLeft_eq, BitVec.ofNat_toNat, BitVec.setWidth_eq]
  generalize ctl.toNat % 256 = pos
  generalize ctl.toNat / 256 % 256 = len
  by_cases empty : 32 ≤ pos ∨ len = 0
  · rw [if_pos (by simpa using empty), show min len (32 - pos) = 0 by omega]
    simp only [Nat.pow_zero, Nat.sub_self, Nat.zero_mul, BitVec.and_zero, BitVec.or_zero]
    exact BitVec.and_allOnes.symm
  · rw [if_neg (by simpa using empty)]

theorem xor_ones_byte {y : Nat} (byte : y < 256) : y ^^^ 255 = 0xFF - y := by
  have complement := BitVec.toNat_not (x := BitVec.ofNat 8 y)
  rwa [← BitVec.xor_allOnes, BitVec.toNat_xor, BitVec.toNat_allOnes, BitVec.toNat_ofNat, Nat.mod_eq_of_lt (show y < 2 ^ 8 from byte)] at complement

theorem prmtByte_eq_permuted (x s : Nat) : prmtByte x s = permuted x s := by
  have top : ∀ b : Nat, b < 256 → (bit b 7 = true ↔ 128 ≤ b) := fun b small => by
    rw [bit, beq_iff_eq, Nat.shiftRight_eq_div_pow]
    omega
  unfold prmtByte permuted
  rw [fld_byte]
  have byte : x / 256 ^ (s % 8) % 256 < 256 := Nat.mod_lt _ (by decide)
  generalize x / 256 ^ (s % 8) % 256 = b at byte
  simp only [top b byte]
  have taken : (if bit s 4 = true then 0 else if bit s 5 = true then if 128 ≤ b then 255 else 0 else b) < 256 := by
    split_ifs <;> omega
  rw [xor_ones_byte taken]

theorem prmt_eq (a b c : Word) : prmtWord a b c = BitVec.ofNat 32 ((List.range 4).map fun i =>
    permuted (a.toNat + 2 ^ 32 * b.toNat) (c.toNat / 256 ^ i % 256) * 256 ^ i).sum := by
  have bytes : b.toNat * 2 ^ 32 + a.toNat = a.toNat + 2 ^ 32 * b.toNat := by omega
  have scale : ∀ i, 2 ^ (8 * i) = 256 ^ i := fun i => Nat.pow_mul 2 8 i
  rw [prmtWord, List.sum_eq_foldl_nat, List.foldl_map]
  simp only [bytes, fld_byte, scale, prmtByte_eq_permuted]

/-! ## Lanes that write one word with A's tag -/

section
variable {x : Dev} {l : LaneCtx} {v : Nat}

theorem bits2_done {f : Word → Word → Word} (word : f (l.src x.a).val (l.src x.b).val = BitVec.ofNat 32 v) :
    bits2 f x l = .done (outR x.d v (l.src x.a).tag) := by
  rw [bits2, word]
  rfl

theorem bits3_done {f : Word → Word → Word → Word} (word : f (l.src x.a).val (l.src x.b).val (l.src x.c).val = BitVec.ofNat 32 v) :
    bits3 f x l = .done (outR x.d v (l.src x.a).tag) := by
  rw [bits3, word]
  rfl

end

/-- Settles O3: each instruction's word is a function of its sources' words, and its number is the one that the statement names. -/
theorem logicAndShifts : Obligations.LogicAndShifts := by
  refine ⟨⟨?and, ?or, ?xor, ?andn, ?not, ?lop3, ?brev, ?popc, ?clz, ?ctz⟩, ?shl, ?shr, ?sar, ?rotl, ?shf, ?bfe, ?bfi, ?prmt⟩
  case and => exact lanesDo_of_lane (f := andLane) (fun _ _ => rfl) (fun _ _ _ => rfl) fun _ _ => ⟨rfl, rfl⟩
  case or => exact lanesDo_of_lane (f := orLane) (fun _ _ => rfl) (fun _ _ _ => rfl) fun _ _ => ⟨rfl, rfl⟩
  case xor => exact lanesDo_of_lane (f := xorLane) (fun _ _ => rfl) (fun _ _ _ => rfl) fun _ _ => ⟨rfl, rfl⟩
  case andn => exact lanesDo_of_lane (f := andnLane) (fun _ _ => rfl) (fun _ _ _ => rfl) fun _ _ => ⟨rfl, rfl⟩
  case not => exact lanesDo_of_lane (f := notLane) (fun _ _ => rfl) (fun _ _ _ => rfl) fun _ _ => ⟨rfl, rfl⟩
  case lop3 =>
    refine lanesDo_of_lane (f := lop3Lane) (fun _ _ => rfl) (fun x l _ => ?_) fun _ _ => ⟨rfl, rfl⟩
    rw [lop3Lane, bits3, lut3_eq_minterms]
    rfl
  case brev => exact lanesDo_of_lane (f := brevLane) (fun _ _ => rfl) (fun _ _ _ => rfl) fun _ _ => ⟨rfl, rfl⟩
  case popc => exact lanesDo_of_lane (fun _ _ => rfl) (fun x l _ => by rw [popcLane, popcount_eq_length]; rfl) fun _ _ => ⟨rfl, rfl⟩
  case clz => exact lanesDo_of_lane (fun _ _ => rfl) (fun x l _ => by rw [clzLane, clz32_eq_length]; rfl) fun _ _ => ⟨rfl, rfl⟩
  case ctz => exact lanesDo_of_lane (fun _ _ => rfl) (fun x l _ => by rw [ctzLane, ctz32_eq_length]; rfl) fun _ _ => ⟨rfl, rfl⟩
  case shl => exact lanesDo_of_lane (f := shlLane) (fun _ _ => rfl) (fun _ _ _ => bits2_done (shl_eq _ _)) fun _ _ => ⟨rfl, rfl⟩
  case shr => exact lanesDo_of_lane (f := shrLane) (fun _ _ => rfl) (fun _ _ _ => bits2_done (shr_eq _ _)) fun _ _ => ⟨rfl, rfl⟩
  case sar => exact lanesDo_of_lane (f := sarLane) (fun _ _ => rfl) (fun _ _ _ => bits2_done (sar_eq _ _)) fun _ _ => ⟨rfl, rfl⟩
  case rotl => exact lanesDo_of_lane (f := rotlLane) (fun _ _ => rfl) (fun _ _ _ => bits2_done (rotl_eq _ _)) fun _ _ => ⟨rfl, rfl⟩
  case shf => exact lanesDo_of_lane (f := shfLane) (fun _ _ => rfl) (fun _ _ _ => bits3_done (funnel_eq _ _ _ _)) fun _ _ => ⟨rfl, rfl⟩
  case bfe => exact lanesDo_of_lane (f := bfeLane) (fun _ _ => rfl) (fun _ _ _ => bits2_done (bfe_eq _ _ _)) fun _ _ => ⟨rfl, rfl⟩
  case bfi => exact lanesDo_of_lane (f := bfiLane) (fun _ _ => rfl) (fun _ _ _ => bits3_done (bfi_eq _ _ _)) fun _ _ => ⟨rfl, rfl⟩
  case prmt => exact lanesDo_of_lane (f := prmtLane) (fun _ _ => rfl) (fun _ _ _ => bits3_done (prmt_eq _ _ _)) fun _ _ => ⟨rfl, rfl⟩

end Sys2Proof.Machine
end

section
/-! What running an instruction over its cohort comes to when its lanes exit, begin a wait or fault (01 R15; 04 R113; 17 R363): the driver with nothing
watched, and with one active lane. -/
namespace Sys2Proof.Machine
variable {s s1 : State} {c : Cohort} {v w : Wave} {x : Dev} {l : LaneCtx} {g : Guard} {len : Nat}

/-! ## Results that no watch changes -/

theorem lanesOf_ref (hs : Stage s c w) (hl : l ∈ c.lanesOf w len) : l.ref = ⟨c.wave, l.lane⟩ := by
  rw [LaneCtx.ref, lanesOf_wave c w len l hl, hs.ready.ref]

theorem active_ref (hs : Stage s c w) (hl : l ∈ c.active w x) : l.ref = ⟨c.wave, l.lane⟩ := lanesOf_ref hs (List.mem_of_mem_filter hl)

theorem lanesOf_fresh (hs : Stage s c w) (hl : l ∈ c.lanesOf w len) : l.th.inst = none :=
  let ⟨mem, thread⟩ := lanesOf_thread hl
  hs.fresh _ mem _ thread

theorem active_fresh (hs : Stage s c w) (hl : l ∈ c.active w x) : l.th.inst = none := lanesOf_fresh hs (List.mem_of_mem_filter hl)

theorem OneLane.mem (hs : OneLane s c w x l) : l ∈ c.active w x := hs.act ▸ List.mem_singleton_self l

theorem OneLane.ref (hs : OneLane s c w x l) : l.ref = ⟨c.wave, l.lane⟩ := active_ref hs.toStage hs.mem

theorem OneLane.thread (hs : OneLane s c w x l) : w.threads[l.lane]? = some l.th := (lanesOf_thread (List.mem_of_mem_filter hs.mem)).2

/-- A result that keeps no watch: it is no wait that raises one. -/
def LaneRes.unwatched (r : LaneRes) : Prop := ∀ wt f, r ≠ .wait wt (some f)

theorem LaneRes.unwatched.placeWait {r : LaneRes} (h : r.unwatched) (l : LaneCtx) (m : Nat) : r.placeWait l m = r := by
  cases r with
  | wait wt f =>
    cases f with
    | none => rfl
    | some f => exact absurd rfl (h wt f)
  | _ => rfl

/-- The lanes of a cohort whose guard is true. -/
def Cohort.acting (c : Cohort) (w : Wave) (g : Guard) (len : Nat) : List LaneCtx := (c.lanesOf w len).filter fun l => l.th.guard g

/-- The lanes of a cohort whose guard is false, as numbers. -/
def Cohort.idling (c : Cohort) (w : Wave) (g : Guard) (len : Nat) : List Nat := ((c.lanesOf w len).filter fun l => !l.th.guard g).map (·.lane)

theorem active_eq_acting (c : Cohort) (w : Wave) (x : Dev) : c.active w x = c.acting w x.guard (lenBytes x.len) := rfl

/-- The lanes' results take effect: on the wave, then the faults, then the exits. -/
def State.takeResults (s : State) (c : Cohort) (len : Nat) (idle : List Nat) (rs : List (LaneCtx × LaneRes)) : State :=
  let settled := s.updWave c.wave fun u => u.settle len 0 idle rs
  let raised := settled.forEach (laneFaults rs) fun p s => s.raiseFault p.1.ref p.2 ((laneFaults rs).any fun p => p.2.replay)
  (raised.forEach (exitLanes rs) fun l s => s.exitThread l.ref).stopThreads c.wave

/-- Where nothing is watched and no lane is left outstanding, an instruction is what its lanes' results leave. -/
theorem runLanes_results {f : LaneCtx → State → LaneRes × State} {r : LaneCtx → LaneRes} (hs : Stage s c w) (ready : Ready s1 c v)
    (answers : foldLanes f (c.acting w g len) s.idle = ((c.acting w g len).map fun l => (l, r l), s1))
    (performed : ∀ l ∈ c.acting w g len, (r l).outstanding = false) (unwatched : ∀ l ∈ c.acting w g len, (r l).unwatched) :
    runLanes g len f s = s1.takeResults c len (c.idling w g len) ((c.acting w g len).map fun l => (l, r l)) := by
  have wave : s.wave? c.wave = some w := hs.ready.wave
  have kept : fetchWatches s1 ((c.acting w g len).map fun l => (l, r l)) = (c.acting w g len).map fun l => (l, r l) := by
    unfold fetchWatches
    simp only [List.map_map]
    refine List.map_congr_left fun l hl => ?_
    have silent : s1.fetchWatch l = none := by
      rw [State.fetchWatch, lanesOf_ref hs (List.mem_of_mem_filter hl)]
      exact watchHit_none ready _ _ _ _
    simp only [Function.comp, silent, LaneRes.withAfter_none, (unwatched l hl).placeWait]
  have outstanding : ((c.acting w g len).map fun l => (l, r l)).any (fun p => p.2.outstanding) = false := by
    rw [List.any_map, List.any_eq_false]
    exact fun l hl => by simp [performed l hl]
  unfold runLanes runActing
  rw [hs.cur]
  simp only [wave]
  change finishLanes _ _ _ (foldLanes f (c.acting w g len) s.idle).1 (foldLanes f (c.acting w g len) s.idle).2 = _
  rw [answers, finishLanes]
  simp only [kept, outstanding, Bool.false_eq_true, if_false]
  rfl

/-! ## One active lane that does not complete -/

/-- A result with which a lane neither completes nor is held: it has begun a wait, or it faults. -/
def LaneRes.stays (r : LaneRes) : Prop := (∃ wt, r = .wait wt none) ∨ ∃ f, r = .fault f ∧ f.replay = false

theorem LaneRes.stays.performed {r : LaneRes} (h : r.stays) : r.outstanding = false := by
  obtain ⟨wt, rfl⟩ | ⟨f, rfl, once⟩ := h
  · rfl
  · exact once

theorem LaneRes.stays.unwatched {r : LaneRes} (h : r.stays) : r.unwatched := by
  obtain ⟨wt, rfl⟩ | ⟨f, rfl, -⟩ := h <;> simp [LaneRes.unwatched]

theorem LaneRes.stays.exits {r : LaneRes} (h : r.stays) : exitLanes [(l, r)] = [] := by
  obtain ⟨wt, rfl⟩ | ⟨f, rfl, -⟩ := h <;> rfl

/-- The lanes of a cohort beside its one acting lane are those that only move on. -/
theorem mem_idling (hs : Stage s c w) (act : c.acting w g len = [l]) (i : Nat) : i ∈ c.idling w g len ↔ i ∈ c.lanes ∧ i ≠ l.lane := by
  have acts : i ∈ c.lanes ∧ (w.threads[i]?).any (fun t => t.guard g) = true ↔ i = l.lane := by
    have listed : i ∈ c.lanes.filter (fun i => (w.threads[i]?).any fun t => t.guard g) ↔ i ∈ [l].map (·.lane) := by
      rw [← lanesOf_filter_lane c w len fun t => t.guard g, ← act]
      rfl
    rwa [List.mem_filter, List.map_singleton, List.mem_singleton] at listed
  rw [Cohort.idling, lanesOf_filter_lane c w len fun t => !t.guard g, List.mem_filter]
  refine and_congr_right fun mem => ?_
  rw [ne_eq, ← acts]
  simp [mem, List.getElem?_eq_getElem (hs.exist i mem)]

/-- What a lane that stays settles in its wave: its own thread, and the idle lanes of the cohort move on. -/
theorem settle_one {r : LaneRes} (hs : Stage s c w) (act : c.acting w g len = [l]) (stays : r.stays) :
    v.settle len 0 (c.idling w g len) [(l, r)]
      = { v with threads := v.threads.mapIdx fun i t => if i == l.lane then settleLane r.completes len r t
                                                        else if c.lanes.contains i then t.skip len else t } := by
  have mem := mem_idling hs act
  have distinct : (c.idling w g len).Pairwise (· ≠ ·) := by
    rw [Cohort.idling, lanesOf_filter_lane c w len fun t => !t.guard g]
    exact (hs.asc.imp Nat.ne_of_lt).filter _
  generalize c.idling w g len = idle at mem distinct ⊢
  have fresh : l.th.inst = none := lanesOf_fresh hs (List.mem_of_mem_filter (act ▸ List.mem_singleton_self l : l ∈ c.acting w g len))
  have groups : instGroups [(l, r)] = [(none, [(l, r)])] := instGroups_fresh (by simpa using fresh)
  have writer : (groupWriter (none, [(l, r)]) == some l.lane) = r.completes := by
    obtain ⟨wt, rfl⟩ | ⟨f, rfl, -⟩ := stays <;> simp [groupWriter, LaneRes.completes]
  have writes : groupWrites (none, [(l, r)]) = [] := by
    obtain ⟨wt, rfl⟩ | ⟨f, rfl, -⟩ := stays <;> rfl
  have flags : raiseFlags v.fstat r.flags = v.fstat := by
    obtain ⟨wt, rfl⟩ | ⟨f, rfl, -⟩ := stays <;> exact raiseFlags_zero v.fstat
  have skips := fun u : Wave => foldl_updThread (fun i : Nat => i) (fun _ t => t.skip len) idle distinct u
  unfold Wave.settle
  simp only [groups, List.foldl_cons, List.foldl_nil, List.flatMap_cons, List.flatMap_nil, writes, instWave, stays.performed, List.append_nil, List.any_cons,
     List.any_nil, writer, Bool.or_false, Option.isNone_none, Bool.not_false, Bool.and_true, if_true]
  rw [skips]
  simp only [Wave.updThread, flags, Wave.mk.injEq, true_and]
  refine List.ext_getElem (by simp) fun i h1 h2 => ?_
  simp only [List.getElem_mapIdx, List.getElem_modify, beq_iff_eq]
  by_cases own : i = l.lane
  · have absent : idle.find? (fun a => a == i) = none := by
      rw [List.find?_eq_none]
      rintro j hj same
      exact ((mem j).1 hj).2 ((beq_iff_eq.1 same).trans own)
    rw [absent, if_pos own, if_pos own.symm]
  · rw [if_neg own, if_neg (Ne.symm own)]
    by_cases hi : i ∈ c.lanes
    · obtain ⟨j, found⟩ := Option.isSome_iff_exists.1 ((List.find?_isSome (p := fun a => a == i)).2 ⟨i, (mem i).2 ⟨hi, own⟩, beq_self_eq_true i⟩)
      rw [found, if_pos (by simpa using hi)]
    · have absent : idle.find? (fun a => a == i) = none := by
        rw [List.find?_eq_none]
        rintro j hj same
        exact hi (beq_iff_eq.1 same ▸ ((mem j).1 hj).1)
      rw [absent, if_neg (by simpa using hi)]

theorem runLanes_stays {f : LaneCtx → State → LaneRes × State} {r : LaneRes} (hs : Stage s c w) (act : c.acting w g len = [l])
    (ready : Ready s1 c v) (stays : r.stays) (answers : f l s.idle = (r, s1)) : runLanes g len f s
      = ((s1.lanesTo c v len (· == l.lane) (settleLane r.completes len r)).forEach (laneFaults [(l, r)])
          fun p s => s.raiseFault p.1.ref p.2 ((laneFaults [(l, r)]).any fun p => p.2.replay)).stopThreads c.wave := by
  rw [runLanes_results (r := fun _ => r) hs ready (by simp [act, foldLanes, answers]) (fun _ _ => stays.performed) fun _ _ => stays.unwatched, act]
  simp only [State.takeResults, List.map_singleton, updWave_only ready, settle_one hs act stays, stays.exits, State.forEach_nil]
  rfl

theorem Ready.lanesTo (ready : Ready s c v) (len : Nat) (p : Nat → Bool) (f : Thread → Thread) :
    Ready (s.lanesTo c v len p f) c
      { v with threads := v.threads.mapIdx fun i t => if p i then f t else if c.lanes.contains i then t.skip len else t } := by
  have h := ready.updWave (fun _ => { v with threads := v.threads.mapIdx fun i t => if p i then f t else if c.lanes.contains i then t.skip len else t })
    rfl rfl
  rwa [updWave_only ready] at h

/-- The one active lane begins a wait: its thread waits, and it is the lane whose wait writes a uniform destination. -/
theorem runLanes_waitsOne {f : LaneCtx → State → LaneRes × State} {wt : Wait} (hs : OneLane s c w x l) (ready : Ready s1 c v)
    (answers : f l s.idle = (.wait wt none, s1)) : runLanes x.guard (lenBytes x.len) f s = s1.waiting c v x l wt := by
  have own : (fun i => [l].any fun l => l.lane == i) = fun i => i == l.lane := funext fun i => by
    rw [List.any_cons, List.any_nil, Bool.or_false, Bool.beq_comm]
  rw [runLanes_stays hs.toStage hs.act ready (.inl ⟨wt, rfl⟩) answers, State.waiting, State.waitingAll, own]
  exact stopThreads_ready (ready.lanesTo _ _ _)

/-- A thread at whose instruction a fault is about to be taken: it has not moved. -/
def Thread.unmoved (t : Thread) : Thread := { t with turns := 0, again := false }

/-- A wave in which one lane of a cohort is about to take its fault, and the cohort's idle lanes have moved on. -/
def Wave.faultingAt (v : Wave) (c : Cohort) (len lane : Nat) : Wave :=
  { v with threads := v.threads.mapIdx fun i t => if i == lane then t.unmoved else if c.lanes.contains i then t.skip len else t }

/-- The state with such a wave. -/
def State.faultingAt (s : State) (c : Cohort) (v : Wave) (len lane : Nat) : State := s.lanesTo c v len (· == lane) Thread.unmoved

theorem Ready.faultingAt (ready : Ready s c v) (len lane : Nat) : Ready (s.faultingAt c v len lane) c (v.faultingAt c len lane) :=
  ready.lanesTo len (· == lane) Thread.unmoved

theorem Wave.faultingAt_thread {t : Thread} {i : Nat} (thread : v.threads[i]? = some t) (c : Cohort) (len : Nat) :
    (v.faultingAt c len i).threads[i]? = some t.unmoved := by
  rw [Wave.faultingAt, List.getElem?_mapIdx, thread, Option.map_some, beq_self_eq_true, if_pos rfl]

/-- The one acting lane faults with no replay: its thread has not moved, and the fault goes where 17 R363 sends it. -/
theorem runLanes_faultsOne {f : LaneCtx → State → LaneRes × State} {q : FInfo} (hs : Stage s c w) (act : c.acting w g len = [l])
    (ready : Ready s1 c v) (once : q.replay = false) (answers : f l s.idle = (.fault q, s1)) : runLanes g len f s
      = ((s1.faultingAt c v len l.lane).raiseFault l.ref (q.place l (.fault q) (faultMask [(l, .fault q)])) false).stopThreads c.wave := by
  have faults : laneFaults [(l, .fault q)] = [(l, q.place l (.fault q) (faultMask [(l, .fault q)]))] := rfl
  have replay : (q.place l (.fault q) (faultMask [(l, .fault q)])).replay = false := once
  rw [runLanes_stays hs act ready (.inr ⟨q, rfl, once⟩) answers, faults]
  simp only [State.forEach_cons, State.forEach_nil, List.any_cons, List.any_nil, replay, Bool.or_false]
  rfl

end Sys2Proof.Machine
end

section
/-! Control (04 R109 to R115, R120; 17 R385): jumps, calls and returns, and the exit of threads with the end of their wave and block. -/
namespace Sys2Proof.Machine
variable {x : Dev} {l : LaneCtx}

/-! ## Targets -/

theorem relTarget_eq (l : LaneCtx) (i : Int) : relTarget l i = (l.th.pc + BitVec.ofInt 60 i).toNat := by
  rw [relTarget, wrapN, ← BitVec.toNat_ofInt, BitVec.ofInt_add, BitVec.ofInt_natCast, BitVec.ofNat_toNat, BitVec.setWidth_eq]

theorem ofNat_relTarget (l : LaneCtx) (i : Int) : BitVec.ofNat 60 (relTarget l i) = l.th.pc + BitVec.ofInt 60 i := by
  rw [relTarget_eq, BitVec.ofNat_toNat, BitVec.setWidth_eq]

/-- A relative transfer to an aligned target (04 R112). -/
theorem indirect_relative {regs : List (Operand × Reg)} (aligned : (l.th.pc + BitVec.ofInt 60 (BitVec.ofNat 64 (l.srcWN x.a)).toInt).toNat % 4 = 0) :
    indirect true x l regs = .done { regs := regs, pc := some (l.th.pc + BitVec.ofInt 60 (BitVec.ofNat 64 (l.srcWN x.a)).toInt) } := by
  rw [← relTarget_eq] at aligned
  simp only [indirect, jumpTo, sextN_eq_toInt (show 0 < 64 by decide), aligned, ofNat_relTarget, Bool.not_true, Bool.false_and, Bool.false_eq_true,
    if_false, if_true, bne_self_eq_false]

theorem indirect_absolute {regs : List (Operand × Reg)} (small : l.srcWN x.a < 2 ^ 60) (aligned : l.srcWN x.a % 4 = 0) :
    indirect false x l regs = .done { regs := regs, pc := some (BitVec.ofNat 60 (l.srcWN x.a)) } := by
  simp only [indirect, jumpTo, show canonical (l.srcWN x.a) = true from decide_eq_true small, aligned, Bool.not_false, Bool.not_true,
    Bool.and_false, Bool.false_eq_true, if_false, bne_self_eq_false]

theorem braLane_done (aligned : (l.th.pc + BitVec.ofInt 60 x.imm32).toNat % 4 = 0) :
    braLane x l = .done { pc := some (l.th.pc + BitVec.ofInt 60 x.imm32) } := by
  rw [← relTarget_eq] at aligned
  simp only [braLane, jumpTo, aligned, ofNat_relTarget, bne_self_eq_false, Bool.false_eq_true, if_false]

theorem callLane_done (aligned : (l.th.pc + BitVec.ofInt 60 x.imm32).toNat % 4 = 0) :
    callLane x l = .done { regs := linkRegs x l, pc := some (l.th.pc + BitVec.ofInt 60 x.imm32) } := by
  rw [← relTarget_eq] at aligned
  simp only [callLane, jumpTo, aligned, ofNat_relTarget, bne_self_eq_false, Bool.false_eq_true, if_false]

/-! ## What the end of a thread leaves of waves and blocks -/

/-- A state that differs from another in no more than the threads and registers of its waves and the barriers of its blocks: waves and blocks keep
their names, places and tasks. -/
structure State.SamePlaces (s t : State) : Prop where
  rest : t = { s with waves := t.waves, blocks := t.blocks }
  waves : (t.waves.map fun w => (w.ref, w.block)) = s.waves.map fun w => (w.ref, w.block)
  blocks : (t.blocks.map fun b => (b.id, b.task)) = s.blocks.map fun b => (b.id, b.task)

section
variable {s t u : State}

theorem State.SamePlaces.refl (s : State) : s.SamePlaces s := ⟨rfl, rfl, rfl⟩

theorem State.SamePlaces.trans (h : s.SamePlaces t) (k : t.SamePlaces u) : s.SamePlaces u :=
  ⟨by rw [k.rest, h.rest], k.waves.trans h.waves, k.blocks.trans h.blocks⟩

theorem State.SamePlaces.forEach {α : Type} {f : α → State → State} (hf : ∀ a (u : State), u.SamePlaces (f a u)) (l : List α) : s.SamePlaces (s.forEach l f) :=
  State.forEach_keeps (fun u => s.SamePlaces u) f (fun a u h => h.trans (hf a u)) l s (.refl s)

theorem State.samePlaces_updWave {r : WaveRef} {f : Wave → Wave} (hf : ∀ w, (f w).ref = w.ref ∧ (f w).block = w.block) : s.SamePlaces (s.updWave r f) := by
  refine ⟨rfl, ?_, rfl⟩
  rw [State.updWave_waves, List.map_map]
  refine List.map_congr_left fun w _ => ?_
  simp only [Function.comp]
  split
  · rw [(hf w).1, (hf w).2]
  · rfl

theorem State.samePlaces_updThread {r : ThreadRef} {f : Thread → Thread} : s.SamePlaces (s.updThread r f) :=
  State.samePlaces_updWave fun _ => ⟨rfl, rfl⟩

theorem State.samePlaces_writeDest {r : ThreadRef} {o : Operand} {v : Reg} : s.SamePlaces (s.writeDest r o v) := by
  unfold State.writeDest
  split
  · exact State.samePlaces_updWave fun _ => ⟨rfl, rfl⟩
  · exact State.samePlaces_updThread

theorem State.samePlaces_updBlock {k : Nat} {f : Block → Block} (hf : ∀ b, (f b).id = b.id ∧ (f b).task = b.task) : s.SamePlaces (s.updBlock k f) := by
  refine ⟨rfl, rfl, ?_⟩
  rw [State.updBlock_blocks, List.map_map]
  refine List.map_congr_left fun b _ => ?_
  simp only [Function.comp]
  split
  · rw [(hf b).1, (hf b).2]
  · rfl

theorem State.samePlaces_releaseIf {p : ThreadRef → Wait → Option (Operand × Reg)} : s.SamePlaces (s.releaseIf p) := by
  refine State.SamePlaces.forEach (fun a u => ?_) _
  dsimp only
  split
  · split
    · exact State.samePlaces_writeDest.trans State.samePlaces_updThread
    · exact .refl u
  · exact .refl u

theorem State.samePlaces_setBarrier {k i : Nat} {b : Barrier} : s.SamePlaces (s.setBarrier k i b) := by
  have put : s.SamePlaces (s.updBlock k fun x => { x with barriers := x.barriers.set i b }) := State.samePlaces_updBlock fun _ => ⟨rfl, rfl⟩
  rw [State.setBarrier]
  refine put.trans ?_
  unfold State.releaseBarrier
  split
  · exact .refl _
  · exact State.samePlaces_releaseIf

theorem State.samePlaces_exitBarriers {k : Nat} : s.SamePlaces (s.exitBarriers k) := by
  unfold State.exitBarriers
  split
  · exact .refl s
  · refine State.SamePlaces.forEach (fun i u => ?_) _
    split
    · split
      · exact .refl u
      · exact State.samePlaces_setBarrier
    · exact .refl u

/-- The task of a block by name. -/
theorem State.SamePlaces.block?_task (h : s.SamePlaces t) (k : Nat) : (t.block? k).map (·.task) = (s.block? k).map (·.task) := by
  have byName : ∀ l : List Block, (l.find? fun b => b.id == k).map (·.task) = ((l.map fun b => (b.id, b.task)).find? fun p => p.1 == k).map (·.2) := by
    intro l
    rw [List.find?_map, Option.map_map]
    rfl
  rw [State.block?, State.block?, byName, byName, h.blocks]

theorem State.SamePlaces.wave (h : s.SamePlaces t) {v : Wave} (hv : v ∈ t.waves) : ∃ v0 ∈ s.waves, v0.ref = v.ref ∧ v0.block = v.block := by
  have mem : (v.ref, v.block) ∈ s.waves.map fun w => (w.ref, w.block) := h.waves ▸ List.mem_map.2 ⟨v, hv, rfl⟩
  obtain ⟨v0, hv0, same⟩ := List.mem_map.1 mem
  exact ⟨v0, hv0, Prod.mk.inj same⟩

theorem State.tenantOfWave_eq_of_task {v w : Wave} (tasks : t.tasks = s.tasks) (same : (t.block? v.block).map (·.task) = (s.block? w.block).map (·.task)) :
    t.tenantOfWave v = s.tenantOfWave w := by
  have byTask : ∀ (s : State) (w : Wave), s.taskOfWave w = ((s.block? w.block).map (·.task)).bind s.task? := fun s w => by
    rw [State.taskOfWave, Option.bind_map]
    rfl
  have found : t.task? = s.task? := funext fun k => by rw [State.task?, State.task?, tasks]
  rw [State.tenantOfWave, State.tenantOfWave, byTask, byTask, same, found]

end

/-! ## Exits -/

section
variable {s t : State} {c : Cohort} {w : Wave}

/-- A thread that exits: its open batch is sealed (04 R113). -/
def Thread.exit (t : Thread) : Thread := { t.seal with status := .exited }

theorem State.exitThread_of_wave {r : ThreadRef} (found : s.wave? r.wave = some w) :
    s.exitThread r = (((s.updThread r Thread.exit).exitBarriers w.block).endWaves w.block).endBlock w.block := by
  rw [State.exitThread, found]
  rfl

theorem State.exitThread_of_none {r : ThreadRef} (gone : s.wave? r.wave = none) : s.exitThread r = s := by
  rw [State.exitThread, gone]

/-- What every round of a loop over its members keeps, the loop keeps. -/
theorem State.forEach_keeps_mem {α : Type} {p : State → Prop} {f : α → State → State} {l : List α} (hf : ∀ a ∈ l, ∀ s, p s → p (f a s)) {s : State}
    (h : p s) : p (s.forEach l f) := by
  induction l generalizing s with
  | nil => exact h
  | cons a l ih => exact ih (fun b hb => hf b (List.mem_cons_of_mem a hb)) (hf a List.mem_cons_self s h)

/-- What exits of a cohort's threads leave for the next: its wave, where it has not ended, is of the same block, and the block of the same task. -/
structure Exiting (s : State) (c : Cohort) (w : Wave) (t : State) : Prop where
  tenants : t.tenants = s.tenants
  tasks : t.tasks = s.tasks
  here : ∀ v ∈ t.waves, v.ref = c.wave → v.block = w.block ∧ (t.block? w.block).map (·.task) = (s.block? w.block).map (·.task)

theorem Exiting.exitThread (h : Exiting s c w t) {r : ThreadRef} (hr : r.wave = c.wave) : Exiting s c w (t.exitThread r) := by
  cases found : t.wave? r.wave with
  | none => rwa [State.exitThread_of_none found]
  | some v =>
    obtain ⟨mem, ref⟩ := State.wave?_mem found
    obtain ⟨block, -⟩ := h.here v mem (ref.trans hr)
    have same : t.SamePlaces ((t.updThread r Thread.exit).exitBarriers w.block) := State.samePlaces_updThread.trans State.samePlaces_exitBarriers
    rw [State.exitThread_of_wave found, block]
    generalize (t.updThread r Thread.exit).exitBarriers w.block = u at same ⊢
    have places : ∀ v ∈ (u.endWaves w.block).waves, v.ref = c.wave →
        v.block = w.block ∧ (u.block? w.block).map (·.task) = (s.block? w.block).map (·.task) := by
      intro v hv href
      obtain ⟨v0, hv0, ref0, block0⟩ := same.wave (List.mem_of_mem_filter hv)
      obtain ⟨blk, task⟩ := h.here v0 hv0 (ref0.trans href)
      exact ⟨block0.symm.trans blk, (same.block?_task _).trans task⟩
    have tenants : u.tenants = s.tenants := by rw [same.rest]; exact h.tenants
    have tasks : u.tasks = s.tasks := by rw [same.rest]; exact h.tasks
    unfold State.endBlock
    split
    next ended =>
      refine ⟨tenants, tasks, fun v hv href => ?_⟩
      have nobody : ((u.endWaves w.block).blockWaves w.block).isEmpty = true := (Bool.and_eq_true_iff.1 ended).1
      have here := (places v hv href).1
      rw [State.blockWaves, List.isEmpty_iff, List.filter_eq_nil_iff] at nobody
      exact absurd (beq_iff_eq.2 here) (nobody v hv)
    next => exact ⟨tenants, tasks, places⟩

/-- Threads of a wave that is still there stop for no save where its tenant is not being saved. -/
theorem Exiting.stopThreads (h : Exiting s c w t) (phase : (s.tenant (s.tenantOfWave w)).phase ≠ .saving) : t.stopThreads c.wave = t := by
  unfold State.stopThreads
  split
  next v found =>
    obtain ⟨mem, ref⟩ := State.wave?_mem found
    obtain ⟨block, task⟩ := h.here v mem ref
    have tenant : t.tenantOfWave v = s.tenantOfWave w := State.tenantOfWave_eq_of_task h.tasks (block ▸ task)
    have record : t.tenant (s.tenantOfWave w) = s.tenant (s.tenantOfWave w) := by rw [State.tenant, State.tenant, h.tenants]
    rw [tenant, record, if_neg (by simpa using phase)]
  next => rfl

theorem exiting_issued (x : Dev) (out : LaneCtx → LaneOut) : Exiting s c w (s.issued c w w x out) := by
  refine ⟨rfl, rfl, fun v hv href => ⟨?_, rfl⟩⟩
  obtain ⟨u, hu, rfl⟩ := List.mem_map.1 hv
  by_cases here : u.ref = c.wave
  · simp only [here, beq_self_eq_true, if_true]
    rfl
  · simp only [here, beq_iff_eq, if_false] at href

/-- EXIT (04 R113): every active lane completes, and then their threads exit in ascending order. -/
theorem exec_exit (hs : Stage s c w) : exec (.exit x) s
    = .next (State.forEach (c.active w x) (fun l t => t.exitThread l.ref) (s.idle.issued c w w x fun _ => { exits := true })) := by
  refine congrArg Host.Outcome.next ?_
  have run := runLanes_results (g := x.guard) (len := lenBytes x.len) (r := fun _ => .done { exits := true }) hs hs.ready
    (foldLanes_pure (exitLane x) _ _ s.idle fun _ _ => rfl)
    (fun _ _ => rfl) fun _ _ => by simp [LaneRes.unwatched]
  have faults : laneFaults ((c.active w x).map fun l => (l, LaneRes.done { exits := true })) = [] := by
    rw [laneFaults, List.filterMap_map, List.filterMap_eq_nil_iff]
    exact fun _ _ => rfl
  have exits : exitLanes ((c.active w x).map fun l => (l, LaneRes.done { exits := true })) = c.active w x := by
    rw [exitLanes, List.filterMap_map]
    exact List.filterMap_some
  have exiting : Exiting s.idle c w (State.forEach (c.active w x) (fun l t => t.exitThread l.ref)
      (s.idle.issued c w w x fun _ => { exits := true })) :=
    State.forEach_keeps_mem (fun l hl t h => h.exitThread (by rw [active_ref hs hl])) (exiting_issued x _)
  refine run.trans ?_
  rw [← active_eq_acting]
  simp only [State.takeResults, faults, exits, State.forEach_nil, Cohort.idling]
  rw [updWave_only hs.ready, settle_done hs.asc hs.exist (fun l hl => active_fresh hs hl) 0]
  exact exiting.stopThreads hs.ready.phase

/-! ## The last thread of a block -/

/-- The one wave of a block, with all its threads exited, as it stands before the wave and the block end. -/
structure LastWave (t : State) (c : Cohort) (w : Wave) : Prop where
  place : ∀ v ∈ t.waves, v.ref = c.wave ↔ v.block = w.block
  exited : ∀ v ∈ t.waves, v.ref = c.wave → ∀ th ∈ v.threads, th.status = .exited

theorem State.mem_threads {r : ThreadRef} {v : Wave} {th : Thread} (h : (r, v, th) ∈ s.threads) : v ∈ s.waves ∧ r.wave = v.ref ∧ th ∈ v.threads := by
  obtain ⟨u, hu, mem⟩ := List.mem_flatMap.1 h
  obtain ⟨i, inside, same⟩ := List.mem_mapIdx.1 mem
  simp only [Prod.mk.injEq] at same
  obtain ⟨rfl, rfl, rfl⟩ := same
  exact ⟨hu, rfl, List.getElem_mem inside⟩

theorem State.releaseIf_none {p : ThreadRef → Wait → Option (Operand × Reg)}
    (stay : ∀ r v th wt next, (r, v, th) ∈ s.threads → th.status = .waiting wt next → p r wt = none) : s.releaseIf p = s := by
  refine State.forEach_id fun ⟨r, v, th⟩ mem => ?_
  dsimp only
  split
  next wt next waits => rw [stay r v th wt next mem waits]
  next => rfl

/-- No thread of a block whose threads have all exited waits at a barrier. -/
theorem LastWave.releaseBarrier (h : LastWave t c w) (i : Nat) : t.releaseBarrier w.block i = t := by
  unfold State.releaseBarrier
  split
  · rfl
  next b _ =>
    refine State.releaseIf_none fun r v th wt next mem waits => ?_
    obtain ⟨hv, ref, hth⟩ := State.mem_threads mem
    have elsewhere : (t.wave? r.wave).any (fun v => v.block == w.block) = false := by
      cases found : t.wave? r.wave with
      | none => rfl
      | some u =>
        obtain ⟨hu, href⟩ := State.wave?_mem found
        rw [Option.any_some, beq_eq_false_iff_ne]
        intro block
        have own : v.ref = c.wave := by rw [← ref, ← href, (h.place u hu).2 block]
        rw [h.exited v hv own th hth] at waits
        cases waits
    cases wt <;> simp [elsewhere]

theorem LastWave.exitBarriers (h : LastWave t c w) : (t.exitBarriers w.block).waves = t.waves := by
  unfold State.exitBarriers
  split
  · rfl
  next b _ =>
    refine State.forEach_keeps (fun u => u.waves = t.waves) _ (fun i u same => ?_) _ _ rfl
    split
    · split
      · exact same
      next x _ _ =>
        have last : LastWave (u.updBlock w.block fun y => { y with barriers := y.barriers.set i (Barrier.settle { x with expected := x.expected - 1 }) }) c w :=
          ⟨fun v hv => h.place v (same ▸ hv), fun v hv => h.exited v (same ▸ hv)⟩
        rw [State.setBarrier, last.releaseBarrier]
        exact same
    · exact same

/-- With the last thread of a block its wave and the block end (04 R114). -/
theorem LastWave.ends (h : LastWave t c w) (posted : ∀ o ∈ t.mats, o.by_.block ≠ some w.block) :
    let u := ((t.exitBarriers w.block).endWaves w.block).endBlock w.block
    u.wave? c.wave = none ∧ u.block? w.block = none ∧ u.mem = t.mem := by
  have same : t.SamePlaces (t.exitBarriers w.block) := State.samePlaces_exitBarriers
  have waves := h.exitBarriers
  have mats : (t.exitBarriers w.block).mats = t.mats := by rw [same.rest]
  have mem : (t.exitBarriers w.block).mem = t.mem := by rw [same.rest]
  generalize t.exitBarriers w.block = u at waves mats mem
  have gone : ∀ v ∈ (u.endWaves w.block).waves, v.ref ≠ c.wave ∧ v.block ≠ w.block := by
    intro v hv
    obtain ⟨hv, stays⟩ := List.mem_filter.1 hv
    rw [waves] at hv
    have elsewhere : v.ref ≠ c.wave := fun ref => by
      have exited : (v.threads.all fun th => th.status == .exited) = true := List.all_eq_true.2 fun th hth => beq_iff_eq.2 (h.exited v hv ref th hth)
      simp [(h.place v hv).1 ref, exited] at stays
    exact ⟨elsewhere, fun block => elsewhere ((h.place v hv).2 block)⟩
  have empty : ((u.endWaves w.block).blockWaves w.block).isEmpty = true := by
    rw [State.blockWaves, List.isEmpty_iff, List.filter_eq_nil_iff]
    exact fun v hv => by simpa using (gone v hv).2
  have done : ((u.endWaves w.block).mats.any fun o => o.by_.block == some w.block) = false := by
    rw [List.any_eq_false]
    exact fun o ho => by simpa using posted o (mats ▸ ho)
  have ended : (u.endWaves w.block).endBlock w.block = { u.endWaves w.block with blocks := u.blocks.filter fun b => b.id != w.block } := by
    rw [State.endBlock, empty, done]
    rfl
  rw [ended]
  refine ⟨List.find?_eq_none.2 fun v hv => by simpa using (gone v hv).1, List.find?_eq_none.2 fun b hb => ?_, mem⟩
  simpa using (List.mem_filter.1 hb).2

/-- The last live thread of a wave that is alone in its block. -/
structure OnlyThread (s : State) (c : Cohort) (w : Wave) (lane : Nat) : Prop where
  wave : ∀ v ∈ s.waves, v.block = w.block → v = w
  others : ∀ i t, w.threads[i]? = some t → i ≠ lane → t.status = .exited
  cohort : c.lanes = [lane]

/-- Once that thread has exited, the block has one wave and no live thread. -/
theorem OnlyThread.lastWave (only : OnlyThread s c w l.lane) (hs : OneLane s c w x l) :
    LastWave ((s.idle.issued c w w x fun _ => { exits := true }).updThread l.ref Thread.exit) c w := by
  have issued : Ready (s.idle.issued c w w x fun _ => { exits := true }) c (w.after c [l] (lenBytes x.len) fun _ => { exits := true }) := by
    rw [State.issued, hs.act, ← updWave_only hs.ready fun _ => w.after c [l] (lenBytes x.len) fun _ => { exits := true }]
    exact hs.ready.updWave _ rfl rfl
  have same := State.samePlaces_updThread (s := s.idle.issued c w w x fun _ => { exits := true }) (r := l.ref) (f := Thread.exit)
  rw [hs.ref] at same ⊢
  have ready := issued.updWave (fun w => w.updThread l.lane Thread.exit) rfl rfl
  refine ⟨fun v hv => ?_, fun v hv here th hth => ?_⟩
  · obtain ⟨v0, hv0, ref0, block0⟩ := same.wave hv
    rw [← ref0, ← block0]
    obtain ⟨u, hu, rfl⟩ := List.mem_map.1 hv0
    by_cases here : u.ref = c.wave
    · rw [if_pos (beq_iff_eq.2 here)]
      exact ⟨fun _ => rfl, fun _ => hs.ready.ref⟩
    · rw [if_neg (by simpa using here)]
      exact ⟨fun h => absurd h here, fun block => only.wave u hu block ▸ hs.ready.ref⟩
  · obtain rfl := ready.only v hv here
    obtain ⟨i, inside, rfl⟩ := List.mem_iff_getElem.1 hth
    simp only [Wave.updThread, Wave.after, List.getElem_modify, List.getElem_mapIdx]
    split
    next => rfl
    next apart =>
      have threads : i < w.threads.length := by simpa [Wave.updThread, Wave.after] using inside
      have idle : ([l].find? fun l => l.lane == i) = none := by simpa using apart
      simp only [idle, only.cohort]
      rw [if_neg (by simpa using Ne.symm apart)]
      exact only.others i _ (List.getElem?_eq_getElem threads) (Ne.symm apart)

theorem OnlyThread.exec_exit (only : OnlyThread s c w l.lane) (hs : OneLane s c w x l) (posted : ∀ o ∈ s.mats, o.by_.block ≠ some w.block) :
    ∃ t, exec (.exit x) s = .next t ∧ t.wave? c.wave = none ∧ t.block? w.block = none ∧ t.mem = s.mem := by
  refine ⟨_, Machine.exec_exit hs.toStage, ?_⟩
  have found : (s.idle.issued c w w x fun _ => { exits := true }).wave? l.ref.wave
      = some (w.after c (c.active w x) (lenBytes x.len) fun _ => { exits := true }) := by
    rw [hs.ref]
    exact find_map_ref hs.ready.wave (fun _ => w.after c (c.active w x) (lenBytes x.len) fun _ => { exits := true }) rfl
  rw [hs.act, State.forEach_cons, State.forEach_nil, State.exitThread_of_wave found]
  exact (only.lastWave hs).ends posted

end

/-- Settles O14: the jumps by their targets, EXIT by what its exits leave. -/
theorem controlAndExit : Obligations.ControlAndExit := by
  refine ⟨⟨?nop, ?yield, ?isync, ?bra, ?call, ?brxRel, ?brxAbs, ?callxRel, ?callxAbs, ?ret⟩, ?exit⟩
  case nop => exact lanesDo_of_lane (f := nopLane) (fun _ _ => rfl) (fun _ _ _ => rfl) fun _ _ => ⟨rfl, rfl⟩
  case yield => exact lanesDo_of_lane (f := yieldLane) (fun _ _ => rfl) (fun _ _ _ => rfl) fun _ _ => ⟨rfl, rfl⟩
  case isync => exact lanesDo_of_lane (f := isyncLane) (fun _ _ => rfl) (fun _ _ _ => rfl) fun _ _ => ⟨rfl, rfl⟩
  case bra => exact lanesDo_of_lane (fun _ _ => rfl) (fun _ _ aligned => braLane_done aligned) fun _ _ => ⟨rfl, rfl⟩
  case call => exact lanesDo_of_lane (fun _ _ => rfl) (fun _ _ aligned => callLane_done aligned) fun _ _ => ⟨rfl, rfl⟩
  case brxRel =>
    refine lanesDo_of_lane (f := brxLane) (fun _ _ => rfl) (fun x l takes => ?_) fun _ _ => ⟨rfl, rfl⟩
    rw [brxLane, takes.1, indirect_relative takes.2]
  case brxAbs =>
    refine lanesDo_of_lane (f := brxLane) (fun _ _ => rfl) (fun x l takes => ?_) fun _ _ => ⟨rfl, rfl⟩
    rw [brxLane, takes.1, indirect_absolute takes.2.1 takes.2.2]
  case callxRel =>
    refine lanesDo_of_lane (f := callxLane) (fun _ _ => rfl) (fun x l takes => ?_) fun _ _ => ⟨rfl, rfl⟩
    rw [callxLane, takes.1, indirect_relative takes.2]
    rfl
  case callxAbs =>
    refine lanesDo_of_lane (f := callxLane) (fun _ _ => rfl) (fun x l takes => ?_) fun _ _ => ⟨rfl, rfl⟩
    rw [callxLane, takes.1, indirect_absolute takes.2.1 takes.2.2]
    rfl
  case ret => exact lanesDo_of_lane (f := retLane) (fun _ _ => rfl) (fun _ _ takes => indirect_absolute takes.1 takes.2) fun _ _ => ⟨rfl, rfl⟩
  case exit =>
    intro s c w x hs
    exact ⟨exec_exit hs, fun l act alone others cohort _ posted => OnlyThread.exec_exit ⟨alone, others, cohort⟩ ⟨hs, act⟩ posted⟩

end Sys2Proof.Machine
end

section
/-! Taking an exception (17 R363, R370, R371), and the safe points (04 R119; 18 R387). -/
namespace Sys2Proof.Machine
variable {s : State} {c : Cohort} {v w : Wave} {x : Dev} {l : LaneCtx} {r : ThreadRef} {f : FInfo} {t : Thread} {b : Block}

/-! ## Where a fault goes -/

theorem State.self_strand (found : s.wave? r.wave = some v) : (s.self r).strand = s.strandOf v := by
  simp only [State.self, found, Option.bind_some]
  rfl

/-- A fault that is not replayed, outside strands, is taken. -/
theorem State.raiseFault_takes (found : s.wave? r.wave = some v) (strand : s.strandOf v = none) (once : f.replay = false) :
    s.raiseFault r f false = s.takeFault r f := by
  rw [State.raiseFault, State.self_strand found, strand, once]
  rfl

theorem State.noteFault_unkept {n : Nat} (plain : f.code ≠ cBKPT ∧ f.code ≠ cWATCH) : s.noteFault n r f = s := by
  unfold State.noteFault
  rw [if_neg (by simp [plain])]

/-- Without a way into the handler the task's abort is recorded (17 R371). -/
theorem State.takeFault_aborts (found : s.wave? r.wave = some v) (thread : v.threads[r.lane]? = some t)
    (block : (s.noteFault (s.tenantOfWave v) r f).block? v.block = some b)
    (closed : f.code = cSAFEPT_OVERRUN ∨ canEnter (s.noteFault (s.tenantOfWave v) r f) v t = false) :
    s.takeFault r f = (s.noteFault (s.tenantOfWave v) r f).markAbort b.task (faultEnd f f.pc) := by
  have here : s.thread? r = some t := by rw [State.thread?, found, Option.bind_some, thread]
  have shut : (f.code == cSAFEPT_OVERRUN || !canEnter (s.noteFault (s.tenantOfWave v) r f) v t) = true := by
    obtain h | h := closed <;> simp [h]
  rw [State.takeFault, found, here]
  dsimp only
  rw [if_pos shut, State.blockOf, block]
  rfl

theorem State.task?_markAbort (s : State) (n k : Nat) (e : TaskEnd) : (s.markAbort n e).task? k
    = (s.task? k).map fun y => if k = n then { y with ending := some (y.ending.getD e), phase := .ending, aborting := true } else y := by
  rw [State.markAbort, State.updTask, State.task?, State.task?, List.find?_map]
  have names : ((fun y : Task => y.id == k) ∘ fun y : Task =>
      if y.id == n then { y with ending := some (y.ending.getD e), phase := .ending, aborting := true }
      else y) = fun y => y.id == k := funext fun y => by
    simp only [Function.comp]
    split <;> rfl
  rw [names]
  cases found : s.tasks.find? fun y => y.id == k with
  | none => rfl
  | some y =>
    obtain rfl : y.id = k := by simpa using List.find?_some found
    simp only [Option.map_some, beq_iff_eq]

theorem Ready.markAbort (ready : Ready s c v) (n : Nat) (e : TaskEnd) : Ready (s.markAbort n e) c v := by
  have tenant : (s.markAbort n e).tenantOfWave v = s.tenantOfWave v := by
    rw [State.markAbort]
    exact State.tenantOfWave_updTask (s := s) (k := n)
      (f := fun t => { t with ending := some (t.ending.getD e), phase := .ending, aborting := true }) (fun _ => ⟨rfl, rfl⟩) v
  refine ⟨ready.wave, ready.only, ?_, ?_⟩
  · rw [tenant]
    exact ready.watch
  · rw [tenant]
    exact ready.phase

/-! ## Safe points -/

/-- The overrun of a cohort of one lane records its task's abort (18 R387; 17 R371). -/
theorem exec_safeptOverrun (hs : OneLane s c w x l) (cohort : c.lanes = [l.lane]) (block : s.block? w.block = some b) (late : s.overrun c w = true)
    (strand : s.strandOf w = none) : exec (.safeptOverrun c.wave) s
      = .next ((s.idle.faultingAt c w 0 l.lane).markAbort b.task { status := 3, fault := 14, faultPc := l.th.pc.toNat, faultAddr := 0 }) := by
  have wave : s.wave? c.wave = some w := hs.ready.wave
  have whole : ({ s with cur := some c } : State) = s := by rw [← hs.cur]
  have act : c.acting w guardAlways 0 = [⟨l.lane, l.th, w, 0⟩] := by
    have always : l.th.guard guardAlways = true := rfl
    simp [Cohort.acting, Cohort.lanesOf, cohort, hs.thread, always]
  have ref : (⟨l.lane, l.th, w, 0⟩ : LaneCtx).ref = ⟨c.wave, l.lane⟩ := by rw [LaneCtx.ref, hs.ready.ref]
  have ready := hs.ready.faultingAt 0 l.lane
  let q : FInfo := { code := cSAFEPT_OVERRUN, pc := l.th.pc.toNat, resume := l.th.pc.toNat, lanes := 0 }
  have unkept : ∀ (u : State) n r, u.noteFault n r q = u := fun u n r =>
    State.noteFault_unkept (show cSAFEPT_OVERRUN ≠ cBKPT ∧ cSAFEPT_OVERRUN ≠ cWATCH by decide)
  have taken : (s.idle.faultingAt c w 0 l.lane).raiseFault ⟨c.wave, l.lane⟩ q false
      = (s.idle.faultingAt c w 0 l.lane).markAbort b.task { status := 3, fault := 14, faultPc := l.th.pc.toNat, faultAddr := 0 } := by
    rw [State.raiseFault_takes (r := ⟨c.wave, l.lane⟩) (f := q) ready.wave strand rfl,
      State.takeFault_aborts (r := ⟨c.wave, l.lane⟩) (f := q) (b := b) ready.wave (Wave.faultingAt_thread hs.thread c 0)
        (by rw [unkept]; exact block) (.inl rfl), unkept]
    rfl
  refine congrArg Host.Outcome.next ?_
  rw [State.raiseOverrun, wave]
  simp only [hs.cur, beq_self_eq_true, if_true, late, State.allLanes, whole]
  rw [runLanes_faultsOne hs.toStage act hs.ready rfl rfl, ref]
  exact (congrArg (State.stopThreads · c.wave) taken).trans (stopThreads_ready (ready.markAbort _ _))

/-- SAFEPT without an active lane (04 R119). -/
theorem exec_safept_idle (hs : Stage s c w) (idle : c.active w x = []) : exec (.safept x) s = .next (s.idle.issued c w w x fun _ => {}) := by
  refine congrArg Host.Outcome.next ?_
  have run : runPure x nopLane s = s.idle.issued c w w x fun _ => {} := runPure_done hs (fun _ _ => rfl) fun _ _ => ⟨rfl, rfl⟩
  unfold runSafept
  simp only [activeLanes_stage hs, idle, List.head?_nil, run]

theorem exec_safept_acts (hs : Stage s c w) (block : s.block? w.block = some b) (acts : c.active w x ≠ []) :
    let s2 := (s.idle.issued c w w x fun _ => {}).perfCoreEvent (s.tenantOfWave w) 5 1
    exec (.safept x) s = .next (if b.safeDist = 0 then s2
      else (s2.updWave c.wave fun v => { v with safeCnt := 0 }).updBlock b.id fun b => { b with restarts := 0 }) := by
  refine congrArg Host.Outcome.next ?_
  have run : runPure x nopLane s = s.idle.issued c w w x fun _ => {} := runPure_done hs (fun _ _ => rfl) fun _ _ => ⟨rfl, rfl⟩
  obtain ⟨l, rest, act⟩ := List.exists_cons_of_ne_nil acts
  have lives : s.blockOf w = some b := block
  have phase : ((s.tenant (s.tenantOfWave w)).phase == .saving) = false := beq_eq_false_iff_ne.2 hs.ready.phase
  unfold runSafept
  simp only [activeLanes_stage hs, act, List.head?_cons, leader_wave act, lives, run, phase, hs.ready.ref, Bool.false_eq_true, if_false, beq_iff_eq]

/-- Settles O17. -/
theorem safePoints : Obligations.SafePoints := by
  refine ⟨fun s c w x b hs block => ⟨exec_safept_idle hs, exec_safept_acts hs block⟩, fun s c w x l b hs _ cohort block late strand => ?_⟩
  refine ⟨_, exec_safeptOverrun hs cohort block late strand, fun k => ?_, rfl, rfl⟩
  exact State.task?_markAbort _ _ _ _

end Sys2Proof.Machine
end

section
/-! NAP, and the waits on words and on records (04 R116-R118; 07 R182). -/
namespace Sys2Proof.Machine
variable {s s1 : State} {c : Cohort} {w : Wave} {x : Dev} {l : LaneCtx} {r : ThreadRef} {t : Thread} {next : BitVec 60} {ea cond t0 limit lv v : Nat}
  {b : Word} {d : Operand}

/-! ## Waits that end -/

theorem State.updThread_congr {f g : Thread → Thread}
    (same : ∀ u ∈ s.waves, u.ref = r.wave → ∀ t, u.threads[r.lane]? = some t → f t = g t) : s.updThread r f = s.updThread r g := by
  rw [State.updThread, State.updThread, State.updWave, State.updWave]
  congr 1
  refine List.map_congr_left fun u mem => ?_
  by_cases here : u.ref = r.wave
  · have threads : u.threads.modify r.lane f = u.threads.modify r.lane g := by
      refine List.ext_getElem? fun i => ?_
      rw [List.getElem?_modify, List.getElem?_modify]
      by_cases own : r.lane = i
      · subst own
        simp only [if_true]
        exact Option.map_congr (same u mem here)
      · simp only [own, if_false]
    simp only [here, beq_self_eq_true, if_true, Wave.updThread, threads]
  · simp [here]

theorem Thread.write_status (t : Thread) (o : Operand) (q : Reg) : (t.write o q).status = t.status := by
  cases o with
  | p n =>
    rw [Thread.write]
    split <;> rfl
  | _ => rfl

/-- A property of the statuses of a thread's waves is kept where a register of the thread is written. -/
theorem State.writeDest_status {p : TStatus → Prop} (d : Operand) (q : Reg)
    (holds : ∀ u ∈ s.waves, u.ref = r.wave → ∀ t, u.threads[r.lane]? = some t → p t.status) :
    ∀ u ∈ (s.writeDest r d q).waves, u.ref = r.wave → ∀ t, u.threads[r.lane]? = some t → p t.status := by
  have thread : ∀ u ∈ (s.updThread r fun t => t.write d q).waves, u.ref = r.wave → ∀ t, u.threads[r.lane]? = some t → p t.status := by
    rw [State.updThread_waves]
    intro u mem here t found
    obtain ⟨u, mem', rfl⟩ := List.mem_map.1 mem
    split at here
    case isFalse other => exact absurd (beq_iff_eq.2 here) other
    case isTrue own =>
      rw [if_pos own, Wave.updThread, List.getElem?_modify_eq, Option.map_eq_map] at found
      obtain ⟨t, old, rfl⟩ := Option.map_eq_some_iff.1 found
      rw [Thread.write_status]
      exact holds u mem' here t old
  cases d with
  | s n =>
    intro u mem here t found
    obtain ⟨u, mem', rfl⟩ := List.mem_map.1 mem
    split at here
    case isFalse other => exact absurd (beq_iff_eq.2 here) other
    case isTrue own =>
      rw [if_pos own] at found
      exact holds u mem' here t found
  | _ => exact thread

/-! ## NAP -/

theorem satI_nap (n : Int) : (satI n 0 1048575).toNat = (min n 1048575).toNat := by
  rw [satI_eq_max_min (by decide)]
  omega

theorem napLane_scalar (scalar : Tag.isScalar (l.src x.a).tag) : napLane x s l = if numOf (l.src x.a) ≤ 0 then .done {}
    else .wait (.nap (s.clock + (min (numOf (l.src x.a)) 1048575).toNat)) := by
  unfold napLane
  simp only [scalarTag_of_isScalar scalar, Bool.not_true, Bool.false_eq_true, if_false, satI_nap, ival_eq_numOf, beq_iff_eq]
  split <;> split
  · rfl
  · omega
  · omega
  · rfl

theorem exec_nap_none (hs : Stage s c w) (normal : ∀ l ∈ c.active w x, Tag.isScalar (l.src x.a).tag ∧ numOf (l.src x.a) ≤ 0) :
    exec (.nap x) s = .next (s.idle.issued c w w x fun _ => {}) := by
  refine congrArg Host.Outcome.next (runLanes_done hs hs.ready ?_ fun _ _ => ⟨rfl, rfl⟩)
  generalize s.idle = u
  generalize c.active w x = act at normal
  induction act with
  | nil => rfl
  | cons l rest ih =>
    obtain ⟨scalar, none⟩ := normal l List.mem_cons_self
    simp only [foldLanes, ih fun l hl => normal l (List.mem_cons_of_mem _ hl), napLane_scalar scalar, if_pos none, List.map_cons]

theorem exec_nap_waits (hs : OneLane s c w x l) (scalar : Tag.isScalar (l.src x.a).tag) (some : 0 < numOf (l.src x.a)) :
    exec (.nap x) s = .next (s.idle.waiting c w x l (.nap (s.clock + (min (numOf (l.src x.a)) 1048575).toNat))) := by
  refine congrArg Host.Outcome.next (runLanes_waitsOne hs hs.ready ?_)
  rw [napLane_scalar scalar, if_neg (Int.not_le.2 some)]
  rfl

theorem exec_napExpiry {wake : Nat} (thread : s.thread? r = some t) (waits : t.status = .waiting (.nap wake) next) (past : wake ≤ s.clock)
    (alone : Alone s r) : exec (.napExpiry r) s = .next (s.updThread r fun _ => t.goesOn next) := by
  refine congrArg Host.Outcome.next ?_
  rw [State.endNap, thread]
  simp only [waits, if_pos past]
  refine State.updThread_congr fun u mem here t' found => ?_
  rw [State.thread?, alone u mem here, Option.bind_some, found, Option.some.injEq] at thread
  rw [thread, Thread.release_waiting waits]

/-! ## The loop of a wait -/

theorem bne_eq_decide (m n : Nat) : (m != n) = decide (m ≠ n) := by rw [bne, beq_eq_decide, decide_not]

/-- What the condition of a wait is, by its number. -/
theorem waitMet_eq (known : cond ≤ 3) (v b : Nat) :
    waitMet cond v b = [decide (v = b), decide (v ≠ b), decide (b ≤ v), decide (v ≠ 0)].getD cond false := by
  obtain rfl | rfl | rfl | rfl : cond = 0 ∨ cond = 1 ∨ cond = 2 ∨ cond = 3 := by omega
  · exact beq_eq_decide v b
  · exact bne_eq_decide v b
  · rfl
  · exact bne_eq_decide v 0

/-- The number with which a pass of a wait ends it. -/
def waitEnd (cond v : Nat) (met late : Bool) : Option Nat :=
  if met then some (if cond = 3 then v else 1) else if late then some 0 else none

theorem waitPass_run {a : Self} {n : Nat} (read : readVa { a with who := { a.who with level := lv } } .load ea (waitBytes cond) s = .ok v s1) :
    waitPass a ea cond n t0 limit lv s = .ok (waitEnd cond v (waitMet cond v n) (decide (limit ≤ s1.clockOf a.who.tenant - t0))) s1 := by
  rw [waitPass, Op.bind_run read]
  cases met : waitMet cond v n with
  | true =>
    rw [if_pos rfl, waitEnd, if_pos rfl]
    simp only [beq_iff_eq]
    rfl
  | false =>
    rw [if_neg Bool.false_ne_true, waitEnd, if_neg Bool.false_ne_true, Op.get_bind]
    simp only [decide_eq_true_eq]
    split <;> rfl

/-- The answer of the issue of a wait: it completes in its first pass, or the lane waits. -/
theorem waitLane_run (ready : Ready s1 c w) (ref : l.ref = ⟨c.wave, l.lane⟩)
    (read : readVa { s.self l.ref with who := { (s.self l.ref).who with level := lv } } .load ea (waitBytes cond) s = .ok v s1) :
    waitLane d ea cond b limit lv l s = .ok
      (match waitEnd cond v (waitMet cond v b.toNat)
          (decide (limit ≤ s1.clockOf (s.self l.ref).who.tenant - s.clockOf (s.self l.ref).who.tenant)) with
        | some n => .done (outR d n .n32)
        | none => .wait (.waitw ea cond b (s.clockOf (s.self l.ref).who.tenant) limit lv d) none) s1 := by
  rw [waitLane, Op.get_bind, Op.bind_run (waitPass_run read)]
  cases waitEnd cond v (waitMet cond v b.toNat)
      (decide (limit ≤ s1.clockOf (s.self l.ref).who.tenant - s.clockOf (s.self l.ref).who.tenant)) with
  | some n =>
    dsimp only
    rw [Op.get_bind, ref, watchHit_none ready]
    rfl
  | none => rfl

/-! ## The issue of WAITW and TWAIT -/

theorem waitwOp_run (aligned : l.srcWN x.a % 4 = 0) (canon : l.srcWN x.a < 2 ^ 60) : waitwOp x l
    = waitLane x.d (l.srcWN x.a) (fld x.m 10 9) (l.src x.b).val (l.srcN x.c) (acquireLevel (Dev.sem x) (Dev.scope x)) l := by
  have canonical : canonical (l.srcWN x.a) = true := decide_eq_true canon
  rw [waitwOp]
  simp only [canonical, aligned]
  rfl

theorem twaitOp_run (aligned : l.srcWN x.a % 64 = 0) (canon : l.srcWN x.a < 2 ^ 60) :
    twaitOp x l = waitLane x.d (l.srcWN x.a) 3 0 (l.srcN x.b) 2 l := by
  have canonical : canonical (l.srcWN x.a) = true := decide_eq_true canon
  rw [twaitOp]
  simp only [canonical, aligned]
  rfl

theorem State.self_tenant (found : s.wave? r.wave = some w) : (s.self r).who.tenant = s.tenantOfWave w := by
  simp only [State.self, found]
  rfl

/-- The three ends of the issue of a wait (04 R117). -/
theorem runOp_wait {f : LaneCtx → Op LaneRes} (hs : OneLane s c w x l) (is : f l = waitLane x.d ea cond b limit lv l)
    (read : readVa { s.idle.self l.ref with who := { (s.idle.self l.ref).who with level := lv } } .load ea (waitBytes cond) s.idle = .ok v s1)
    (ready : Ready s1 c w) : runOp x f s
      = match waitEnd cond v (waitMet cond v b.toNat) (decide (limit ≤ s1.clockOf (s.tenantOfWave w) - s.clockOf (s.tenantOfWave w))) with
        | some n => s1.issued c w w x fun _ => outR x.d n .n32
        | none => s1.waiting c w x l (.waitw ea cond b (s.clockOf (s.tenantOfWave w)) limit lv x.d) := by
  have found : s.idle.wave? l.ref.wave = some w := hs.ref ▸ hs.ready.wave
  have run := waitLane_run (d := x.d) (b := b) (limit := limit) ready hs.ref read
  rw [State.self_tenant found] at run
  change waitLane _ _ _ _ _ _ _ _ = .ok (match waitEnd _ _ _ (decide (limit ≤ s1.clockOf (s.tenantOfWave w) - s.clockOf (s.tenantOfWave w))) with
    | some n => _
    | none => .wait (.waitw ea cond b (s.clockOf (s.tenantOfWave w)) limit lv x.d) none) s1 at run
  cases ended : waitEnd cond v (waitMet cond v b.toNat) (decide (limit ≤ s1.clockOf (s.tenantOfWave w) - s.clockOf (s.tenantOfWave w))) with
  | some n =>
    rw [ended] at run
    exact runOp_one hs (is ▸ run) ready rfl rfl
  | none =>
    rw [ended] at run
    exact runLanes_waitsOne hs ready (by simp only [laneOp, is, run])

/-! ## A wait that goes on -/

/-- A thread whose wait ends with a number. -/
def State.endsWait (s : State) (r : ThreadRef) (d : Operand) (next : BitVec 60) (n : Nat) : State :=
  (s.writeDest r d ⟨BitVec.ofNat 32 n, .n32⟩).updThread r fun t => t.goesOn next

theorem pollWait_run (wave : s.wave? r.wave = some w) (thread : s.thread? r = some t) (waits : t.status = .waiting (.waitw ea cond b t0 limit lv d) next)
    (same : r.wave = c.wave)
    (read : readVa { s.self r with who := { (s.self r).who with level := lv } } .load ea (waitBytes cond) s = .ok v s1) (ready : Ready s1 c w) :
    s.pollWait r = match waitEnd cond v (waitMet cond v b.toNat) (decide (limit ≤ s1.clockOf (s.tenantOfWave w) - t0)) with
      | some n => s1.endsWait r d next n
      | none => s1 := by
  have pass := waitPass_run (t0 := t0) (limit := limit) (n := b.toNat) read
  rw [State.self_tenant wave] at pass
  have unwatched : s1.watchHit r 62 ea (waitBytes cond) = none := by
    have h := watchHit_none ready r.lane 62 ea (waitBytes cond)
    rwa [← same] at h
  have still : ∀ u ∈ s1.waves, u.ref = r.wave → ∀ t, u.threads[r.lane]? = some t → t.status = .waiting (.waitw ea cond b t0 limit lv d) next := by
    intro u mem here t' found
    obtain rfl := ready.only u mem (here.trans same)
    rw [State.thread?, wave, Option.bind_some, found, Option.some.injEq] at thread
    rw [thread, waits]
  rw [State.pollWait, thread]
  simp only [waits, pass]
  cases waitEnd cond v (waitMet cond v b.toNat) (decide (limit ≤ s1.clockOf (s.tenantOfWave w) - t0)) with
  | none => rfl
  | some n =>
    simp only [unwatched, Option.map_none]
    refine State.updThread_congr fun u mem here t' found => ?_
    have kept : firstWatch t'.watch none = t'.watch := by cases t'.watch <;> rfl
    rw [kept]
    have waiting : t'.status = .waiting (.waitw ea cond b t0 limit lv d) next :=
      State.writeDest_status (p := (· = .waiting (.waitw ea cond b t0 limit lv d) next)) d _ still u mem here t' found
    exact Thread.release_waiting waiting

theorem waitTimedOut_eq (wave : s.wave? r.wave = some w) (thread : s.thread? r = some t)
    (waits : t.status = .waiting (.waitw ea cond b t0 limit lv d) next) :
    s.waitTimedOut r = decide (limit ≤ s.clockOf (s.tenantOfWave w) - t0) := by
  rw [State.waitTimedOut, thread]
  simp only [waits, State.self_tenant wave]

/-! ## The obligation -/

/-- Settles O16: a wait is one pass of its loop, at its issue, at a poll and at its timeout. -/
theorem waits : Obligations.Waits := by
  refine ⟨⟨fun s c w x hs normal => exec_nap_none hs normal, fun s c w x l hs => exec_nap_waits hs,
    fun s r t wake next thread waits past alone => exec_napExpiry thread waits past alone⟩, ?_, ?_⟩
  · intro s c w x l i n cond limit lv b hs which canon v s1 read ready
    have issue : cond ≤ 3 ∧ exec (i x) s
        = .next (match waitEnd cond v (waitMet cond v b.toNat) (decide (limit ≤ s1.clockOf (s.tenantOfWave w) - s.clockOf (s.tenantOfWave w))) with
          | some n => s1.issued c w w x fun _ => outR x.d n .n32
          | none => s1.waiting c w x l (.waitw (l.srcWN x.a) cond b (s.clockOf (s.tenantOfWave w)) limit lv x.d)) := by
      obtain ⟨rfl, aligned, rfl, is, le, rfl, rfl, rfl⟩ | ⟨rfl, aligned, rfl, rfl, rfl, rfl, rfl⟩ := which
      · have bytes : waitBytes cond = 4 := if_neg (by rw [beq_iff_eq]; omega)
        subst is
        exact ⟨by omega, congrArg Host.Outcome.next (runOp_wait hs (waitwOp_run aligned canon) (bytes ▸ read) ready)⟩
      · exact ⟨le_rfl, congrArg Host.Outcome.next (runOp_wait hs (twaitOp_run aligned canon) read ready)⟩
    obtain ⟨known, run⟩ := issue
    rw [waitMet_eq known] at run
    refine ⟨fun met => ?_, fun met late => ?_, fun met early => ?_⟩
    · rw [run, met]
      rfl
    · rw [run, met, decide_eq_true late]
      rfl
    · rw [run, met, decide_eq_false (Nat.not_le.2 early)]
      rfl
  · intro s r c w t ea cond t0 limit lv b d next v s1 same wave thread waits known read ready met late ends clock
    have poll : s.pollWait r = match waitEnd cond v met late with
        | some n => s1.endsWait r d next n
        | none => s1 := by
      have bytes : waitBytes cond = if cond = 3 then 1 else 4 := by simp only [waitBytes, beq_iff_eq]
      rw [pollWait_run wave thread waits same (bytes ▸ read) ready, clock, waitMet_eq known]
    refine ⟨fun yes => ?_, fun no past => ?_, fun no early => ?_⟩
    · refine congrArg Host.Outcome.next ?_
      rw [poll, yes]
      rfl
    · have ended : s.pollWait r = ends 0 := by
        rw [poll, no, past]
        rfl
      have timed : s.waitTimedOut r = true := (waitTimedOut_eq wave thread waits).trans past
      refine ⟨congrArg Host.Outcome.next ended, congrArg Host.Outcome.next ?_⟩
      rw [if_pos timed, ended]
    · refine congrArg Host.Outcome.next ?_
      rw [poll, no, early]
      rfl

end Sys2Proof.Machine
end

section
/-! What a record written to a tenant's ring leaves alone (18 R397): blocks and tasks stand as they did, so a wave keeps its block, its task and its
tenant. One lemma for each function on the way of a record to memory, in the order of the model's files. -/
namespace Sys2Proof.Machine
variable {s t : State}

/-- The work of the machine: its blocks and its tasks. -/
def State.work (s : State) : List Block × List Task := (s.blocks, s.tasks)

theorem State.block?_of_work (same : t.work = s.work) (n : Nat) : t.block? n = s.block? n := by
  have blocks : t.blocks = s.blocks := congrArg Prod.fst same
  rw [State.block?, State.block?, blocks]

theorem State.tenantOfWave_of_work (same : t.work = s.work) (w : Wave) : t.tenantOfWave w = s.tenantOfWave w := by
  have tasks : t.tasks = s.tasks := congrArg Prod.snd same
  have taskOf : t.taskOf = s.taskOf := funext fun b => by rw [State.taskOf, State.taskOf, State.task?, State.task?, tasks]
  rw [State.tenantOfWave, State.tenantOfWave, State.taskOfWave, State.taskOfWave, State.block?_of_work same, taskOf]

theorem State.work_of_eq {α : Type} {p : α × State} {a : α} (is : p = (a, t)) (kept : p.2.work = s.work) : t.work = s.work := by
  rwa [is] at kept

/-! ## Operations -/

/-- An operation leaves the work alone, whether it ends or stops. -/
def Op.KeepsWork {α : Type} (x : Op α) : Prop := ∀ s : State, (x.attempt s).2.work = s.work

theorem Op.keepsWork_bind {α β : Type} {x : Op α} {f : α → Op β} (hx : Op.KeepsWork x) (hf : ∀ a, Op.KeepsWork (f a)) : Op.KeepsWork (x >>= f) := by
  intro s
  have first := hx s
  rw [Op.attempt] at first ⊢
  change (match EStateM.bind x f s with | .ok a u => ((.ok a, u) : Except Stop β × State) | .error e u => (.error e, u)).2.work = s.work
  rw [EStateM.bind]
  cases run : x s with
  | ok a u =>
    rw [run] at first
    exact (hf a u).trans first
  | error e u =>
    rw [run] at first
    exact first

theorem Op.attempt_get {α : Type} (f : State → Op α) (s : State) : Op.attempt (get >>= f) s = Op.attempt (f s) s := rfl

theorem State.forEach_work {α : Type} {l : List α} {f : α → State → State} (hf : ∀ a s, (f a s).work = s.work) : (s.forEach l f).work = s.work := by
  induction l generalizing s with
  | nil => rfl
  | cons a l ih => rw [State.forEach_cons, ih, hf]

/-! ## What changes a part of the state that is no work -/

@[simp] theorem State.updTenant_work (n : Nat) (f : Tenant → Tenant) : (s.updTenant n f).work = s.work := rfl
@[simp] theorem State.updHub_work (n : Nat) (f : Hub → Hub) : (s.updHub n f).work = s.work := rfl
@[simp] theorem State.updMove_work (n : Nat) (f : Move → Move) : (s.updMove n f).work = s.work := rfl
@[simp] theorem State.poke_work (pa : Nat) (bs : List Byte) : (s.poke pa bs).work = s.work := rfl
@[simp] theorem State.setPoison_work (l : Nat) (b : Bool) : (s.setPoison l b).work = s.work := rfl
@[simp] theorem State.recall_work (l : Nat) : (s.recall l).work = s.work := rfl
@[simp] theorem State.newId_work : s.newId.2.work = s.work := rfl
@[simp] theorem State.perfHubEvent_work (tenant hub ev n : Nat) : (s.perfHubEvent tenant hub ev n).work = s.work := rfl

/-! ## Home -/

@[simp] theorem State.hubError_work (h unit pa : Nat) : (s.hubError h unit pa).work = s.work := rfl
@[simp] theorem State.dieError_work (d unit pa : Nat) : (s.dieError d unit pa).work = s.work := rfl
@[simp] theorem State.lostError_work (pa : Nat) : (s.lostError pa).work = s.work := rfl
@[simp] theorem State.setFrame_work (f : FrameState) : (s.setFrame f).work = s.work := rfl
@[simp] theorem State.countError_work (p : ErrPlace) : (s.countError p).work = s.work := by
  unfold State.countError
  grind [State.hubError_work, State.dieError_work]
@[simp] theorem State.findErrors_work (p : ErrPlace → Bool) : (s.findErrors p).work = s.work := by
  unfold State.findErrors
  split
  · rfl
  · exact State.forEach_work fun p s => s.countError_work p
@[simp] theorem State.updFrame_work (ppn : Nat) (g : FrameState → FrameState) : (s.updFrame ppn g).work = s.work := by
  grind [State.updFrame, State.setFrame_work]
@[simp] theorem trigger_work (f : FrameState) (die : Option Nat) : (trigger s f die).work = s.work := by
  unfold trigger
  extract_lets
  split <;> rfl
@[simp] theorem countAt_work (die : Option Nat) (pa : Nat) : (countAt die pa s).work = s.work := by
  grind [countAt, State.updMove_work, State.setFrame_work, State.updFrame_work, trigger_work]
@[simp] theorem State.markDirty_work (tenant pa : Nat) : (s.markDirty tenant pa).work = s.work := by
  grind [State.markDirty, State.poke_work]
@[simp] theorem State.markDirtyAll_work (pa : Nat) : (s.markDirtyAll pa).work = s.work := State.forEach_work fun n s => s.markDirty_work n pa
@[simp] theorem State.loseResv_work (line : Nat) : (s.loseResv line).work = s.work := by
  unfold State.loseResv
  split <;> rfl
@[simp] theorem State.put_work (tenant pa : Nat) (bs : List Byte) : (s.put tenant pa bs).work = s.work := by
  grind [State.put, State.lostError_work, State.markDirtyAll_work, State.markDirty_work, State.loseResv_work, State.poke_work]
@[simp] theorem State.setBad_work (pa : Nat) (b : Bool) : (s.setBad pa b).work = s.work := by
  grind [State.setBad, State.setPoison_work]
@[simp] theorem State.putLine_work (tenant pa : Nat) (bs : List Byte) : (s.putLine tenant pa bs).work = s.work := by
  grind [State.putLine, State.lostError_work, State.put_work, State.setBad_work]
@[simp] theorem State.noteRead_work (pa n : Nat) : (s.noteRead pa n).work = s.work := by
  grind [State.noteRead, State.forEach_work, State.findErrors_work, State.setBad_work]
@[simp] theorem State.copyLine_work (src dst : Nat) : (s.copyLine src dst).work = s.work := by
  grind [State.copyLine, State.lostError_work, State.setPoison_work, State.markDirtyAll_work, State.noteRead_work, State.poke_work]
@[simp] theorem State.putPte_work (tenant pa e : Nat) : (s.putPte tenant pa e).work = s.work := by
  rw [State.putPte, State.put_work, State.recall_work]
@[simp] theorem State.putNow_work (tenant pa : Nat) (count : Bool) (bs : List Byte) : (s.putNow tenant pa count bs).work = s.work := by
  grind [State.putNow, countAt_work, State.recall_work, State.put_work, State.putLine_work]
@[simp] theorem State.putHome_work (tenant pa : Nat) (count : Bool) (bs : List Byte) : (s.putHome tenant pa count bs).work = s.work := by
  grind [State.putHome, State.updMove_work, State.recall_work, State.putNow_work]

/-! ## Walk -/

@[simp] theorem State.noteWalk_work (root va : Nat) : (s.noteWalk root va).work = s.work := by
  grind [State.noteWalk, State.lostError_work, State.noteRead_work]
@[simp] theorem State.touchLeaf_work (tenant : Nat) (a : Access) (l : Leaf) : (s.touchLeaf tenant a l).2.work = s.work := by
  grind [State.touchLeaf, State.putPte_work]
@[simp] theorem State.shootPage_work (asid va : Nat) : (s.shootPage asid va).work = s.work := rfl
@[simp] theorem State.recordFault_work (hub tenant asid : Nat) (f : FInfo) (engine : Bool) :
    (s.recordFault hub tenant asid f engine).2.work = s.work := by
  unfold State.recordFault
  split <;> rfl
@[simp] theorem State.devLookAt_work (root tenant hub : Nat) (a : Access) (va : Nat) : (s.devLookAt root tenant hub a va).2.work = s.work := by
  have unpaged : ∀ (u : State) pages, ({ u with badPages := pages } : State).work = u.work := fun _ _ => rfl
  grind [State.devLookAt, State.noteWalk_work, State.touchLeaf_work, State.recordFault_work]
@[simp] theorem State.devLook_work (tenant hub : Nat) (a : Access) (va : Nat) : (s.devLook tenant hub a va).2.work = s.work := State.devLookAt_work ..

/-! ## Frames -/

@[simp] theorem State.badFrame_work (hub : Nat) : (s.badFrame hub).work = s.work := rfl
@[simp] theorem State.takeRing_work (hub place size dpa fuel : Nat) : (s.takeRing hub place size dpa fuel).2.work = s.work := by
  induction fuel generalizing s with
  | zero => rfl
  | succ n ih => grind [State.takeRing, State.poke_work, State.badFrame_work]
@[simp] theorem State.takeFrame_work (hub place size : Nat) : (s.takeFrame hub place size).2.work = s.work := by
  grind [State.takeFrame, State.takeRing_work]
@[simp] theorem State.initFrame_work (f : FrameState) : (s.initFrame f).work = s.work := by
  grind [State.initFrame, State.poke_work, State.setFrame_work]
@[simp] theorem State.countReq_work (w : Who) (pa : Nat) : (s.countReq w pa).work = s.work := by
  grind [State.countReq, State.perfHubEvent_work, countAt_work]
@[simp] theorem State.countLines_work (w : Who) (pa n : Nat) : (s.countLines w pa n).work = s.work :=
  State.forEach_work fun l s => s.countReq_work w (64 * l)
@[simp] theorem State.putDdwEntry_work (w : Who) (pa i e : Nat) : (s.putDdwEntry w pa i e).work = s.work := by
  rw [State.putDdwEntry, State.putHome_work, State.countReq_work]
@[simp] theorem State.readBucket_work (w : Who) (pa : Nat) : (s.readBucket w pa).2.work = s.work := by
  grind [State.readBucket, State.lostError_work, State.noteRead_work, State.countLines_work]
@[simp] theorem State.copyFrame_work (src dst : Nat) : (s.copyFrame src dst).work = s.work := State.forEach_work fun _ s => s.copyLine_work _ _
@[simp] theorem State.cowDone_work (w : Who) (l : Leaf) (ppn : Nat) : (s.cowDone w l ppn).work = s.work := by
  rw [State.cowDone, State.shootPage_work, State.putPte_work]
@[simp] theorem State.cowLarge_work (w : Who) (l : Leaf) : (s.cowLarge w l).work = s.work := by
  unfold State.cowLarge
  extract_lets
  rw [State.shootPage_work]
  exact State.forEach_work fun _ s => s.putPte_work _ _ _

/-! ## Copy-on-write resolution -/

theorem cowCopy_keepsWork (w : Who) (l : Leaf) : Op.KeepsWork (cowCopy w l) := by
  intro s
  rw [cowCopy, Op.attempt_get]
  extract_lets ppn h
  split
  · rename_i u taken
    exact State.work_of_eq taken (s.takeFrame_work ..)
  · rename_i n u taken
    have found : u.work = s.work := State.work_of_eq taken (s.takeFrame_work ..)
    change (State.cowDone _ w l n).work = s.work
    rw [State.cowDone_work]
    split <;> simp only [State.initFrame_work, State.copyFrame_work, found]

theorem cowResolve_keepsWork (w : Who) (l : Leaf) : Op.KeepsWork (cowResolve w l) := by
  intro s
  rw [cowResolve, Op.attempt_get]
  extract_lets ppn r s1 fp va
  have read : s1.work = s.work := State.noteRead_work ..
  clear_value s1 fp va
  split
  · rfl
  split
  · exact State.cowLarge_work w l
  split
  · exact State.cowDone_work w l ppn
  split
  · exact State.lostError_work _
  split
  case h_1 id u looked => exact (State.work_of_eq looked (State.devLook_work ..)).trans read
  case h_2 f u looked => exact (cowCopy_keepsWork w l u).trans ((State.work_of_eq looked (State.devLook_work ..)).trans read)
  case h_3 bl u looked =>
    have leaf : u.work = s.work := (State.work_of_eq looked (State.devLook_work ..)).trans read
    extract_lets pa
    split
    case h_1 u' bucket => exact (cowCopy_keepsWork w l u').trans ((State.work_of_eq bucket (State.readBucket_work ..)).trans leaf)
    case h_2 b u' bucket =>
      have found : u'.work = s.work := (State.work_of_eq bucket (State.readBucket_work ..)).trans leaf
      split
      case h_1 none => exact (State.cowDone_work w l ppn).trans found
      case h_2 i entry =>
        extract_lets e
        have lowered : Op.KeepsWork (modify fun s => s.putDdwEntry w pa i (setFld e 187 172 (fld e 187 172 - 1))) :=
          fun s => State.putDdwEntry_work w pa i _
        split
        · exact (Op.keepsWork_bind (cowCopy_keepsWork w l) (fun _ => lowered) u').trans found
        · exact (State.cowDone_work w l ppn).trans ((State.putDdwEntry_work ..).trans found)

/-! ## Records -/

@[simp] theorem State.devStore_work (tenant va : Nat) (bs : List Byte) : (s.devStore tenant va bs).2.work = s.work := by
  unfold State.devStore
  extract_lets w
  split
  · exact State.noteWalk_work ..
  · rename_i l _
    have cow : Op.KeepsWork (if bit l.pte 2 then pure () else cowResolve w l) := by
      split
      · exact fun _ => rfl
      · exact cowResolve_keepsWork w l
    have resolved := cow s
    revert resolved
    generalize Op.attempt _ s = p
    grind [State.touchLeaf_work, State.lostError_work, State.putHome_work]
@[simp] theorem State.devWrite_work (tenant va : Nat) (bs : List Byte) : (s.devWrite tenant va bs).2.work = s.work := by
  grind [State.devWrite, State.devStore_work]

theorem State.visWrite_work (r : ThreadRef) (v : VisRec) : (s.visWrite r v).work = s.work := by
  unfold State.visWrite
  split
  · split
    · rfl
    extract_lets tenant t reg sid tail head size s1
    generalize ((tail + 2 ^ 32 - head) % 2 ^ 32 == size) = full
    grind [State.updTenant_work, State.devWrite_work]
  · rfl

end Sys2Proof.Machine
end

section
/-! TRAP and BKPT: the entry into the handler, or the abort of the task (04 R115; 17 R369-R371; 18 R397). -/
namespace Sys2Proof.Machine
variable {s s1 s2 : State} {c : Cohort} {u v w : Wave} {x : Dev} {l : LaneCtx} {r : ThreadRef} {f : FInfo} {t : Thread} {code : Nat}

/-! ## The entry into the handler -/

theorem trapFrame_eq_frameBits (v : Wave) (t : Thread) (f : FInfo) : trapFrame v t f = frameBits v t f := by
  have tags : ∀ a b : Nat, a * 2 ^ 64 + b * 2 ^ 68 = (a + 16 * b) * 2 ^ 64 := fun a b => by omega
  unfold trapFrame frameBits FInfo.dataAddr
  simp only [Nat.add_assoc, tags, Bool.or_eq_true, beq_iff_eq, or_assoc, decide_eq_true_eq, cWATCH]

theorem Tenant.handlerPc_eq (t : Tenant) : t.handlerPc = BitVec.ofNat 60 (t.trap.toNat % 2 ^ 60 / 4 * 4) := by
  rw [Tenant.handlerPc, fld_eq_div_mod]
  congr 2
  omega

theorem canEnter_eq (s : State) (v : Wave) (t : Thread) : canEnter s v t = true
    ↔ bit (s.tenant (s.tenantOfWave v)).trap.toNat 0 = true ∧ t.trapinfo = 0 ∧ v.frame.isSome ∧ 64 ≤ v.privBytes := by
  simp only [canEnter, Bool.and_eq_true, beq_iff_eq, decide_eq_true_eq, and_assoc]

/-- A thread at its handler's first instruction. -/
def Thread.entered (t : Thread) (info : Word) (pc : BitVec 60) : Thread :=
  { t with status := .run, trapinfo := info, pc := pc, turns := 0, retry := false, again := false, inst := none, redo := none }

/-- A fault that is not of the abort class enters the handler of a thread that may enter it, once the trap frame is written (17 R370). -/
theorem State.takeFault_enters (found : s.wave? r.wave = some v) (thread : v.threads[r.lane]? = some t) (entering : f.code ≠ cSAFEPT_OVERRUN)
    (noted : s.noteFault (s.tenantOfWave v) r f = s1) (enter : canEnter s1 v t = true)
    (frame : writeFrameTo (s1.self r) v r.lane (frameBits v t f) s1 = .ok () s2) :
    s.takeFault r f = s2.updThread r fun t => t.entered f.trapinfo (s2.tenant (s.tenantOfWave v)).handlerPc := by
  have here : s.thread? r = some t := by rw [State.thread?, found, Option.bind_some, thread]
  have wide : (f.code == cSAFEPT_OVERRUN || !canEnter s1 v t) = false := by simp [entering, enter]
  have written : writeFrameTo (s1.self r) v r.lane (trapFrame v t { f with noted := true }) s1 = .ok () s2 := by
    rw [trapFrame_eq_frameBits]
    exact frame
  rw [State.takeFault, found, here]
  dsimp only
  rw [noted, wide, if_neg Bool.false_ne_true, written]
  rfl

/-! ## TRAP and BKPT -/

/-- The fault of TRAP (code 11) and BKPT (code 12), with their immediate as its operand, at the instruction and to be resumed after it. -/
def LaneCtx.trapFault (l : LaneCtx) (x : Dev) (code : Nat) : FInfo :=
  { code, operand := x.m % 256, after := true, pc := l.th.pc.toNat, resume := l.nextPc.toNat, lanes := 0 }

theorem LaneCtx.trapFault_trapinfo (known : code = 11 ∨ code = 12) :
    (l.trapFault x code).trapinfo = BitVec.ofNat 32 (code * 2 ^ 24 + 3 * 2 ^ 8 + x.m % 256) := by
  have byte : code % 256 = code := by omega
  simp [FInfo.trapinfo, LaneCtx.trapFault, byte, b2n]

/-- One active lane's TRAP or BKPT is its fault, taken. -/
theorem exec_trapOrBkpt {i : Dev → Instr} (hs : OneLane s c w x l) (strand : s.strandOf w = none) (which : i = .trap ∧ code = 11 ∨ i = .bkpt ∧ code = 12) :
    exec (i x) s = .next (((s.idle.faulting c w x l).takeFault l.ref (l.trapFault x code)).stopThreads c.wave) := by
  have operand : fld x.m 7 0 = x.m % 256 := by
    rw [fld_eq_div_mod, pow_zero, Nat.div_one]
    rfl
  let raised : FInfo := { code, operand := fld x.m 7 0, after := true }
  have placed : raised.place l (.fault raised) (faultMask [(l, .fault raised)]) = l.trapFault x code :=
    congrArg (fun n => ({ l.trapFault x code with operand := n } : FInfo)) operand
  have ready := hs.ready.faultingAt (lenBytes x.len) l.lane
  have run : runLanes x.guard (lenBytes x.len) (fun _ u => (.fault raised, u)) s
      = ((s.idle.faulting c w x l).takeFault l.ref (l.trapFault x code)).stopThreads c.wave := by
    rw [runLanes_faultsOne (q := raised) hs.toStage hs.act hs.ready rfl rfl, placed, hs.ref,
      State.raiseFault_takes (r := ⟨c.wave, l.lane⟩) (f := l.trapFault x code) ready.wave strand rfl]
    rfl
  obtain ⟨rfl, rfl⟩ | ⟨rfl, rfl⟩ := which <;> exact congrArg Host.Outcome.next run

/-- What is kept of a TRAP or BKPT: the record of a BKPT where Visor keeps breakpoints (18 R397). -/
theorem State.noteFault_trapFault (known : code = 11 ∨ code = 12) (s : State) (n : Nat) (r : ThreadRef) : s.noteFault n r (l.trapFault x code)
    = if code = 12 ∧ bit (s.tenant n).vis.toNat 2 = true then s.visWrite r { type := 3, pc := l.th.pc.toNat, code := x.m % 256 } else s := by
  obtain rfl | rfl := known
  · rw [State.noteFault_unkept (by simp [LaneCtx.trapFault, cBKPT, cWATCH]), if_neg (by simp)]
  · unfold State.noteFault
    simp only [LaneCtx.trapFault, cBKPT, cWATCH, beq_self_eq_true, Bool.true_or, Bool.and_true, Bool.not_false, true_and, if_true]
    rfl

theorem State.noteFault_work (s : State) (n : Nat) (r : ThreadRef) (f : FInfo) : (s.noteFault n r f).work = s.work := by
  unfold State.noteFault
  split
  · exact State.visWrite_work ..
  · rfl

/-- Settles O15: the lane's fault is taken, and a record of it leaves its tenant and its block alone. -/
theorem trapsEnterTheHandler : Obligations.TrapsEnterTheHandler := by
  intro s c w x l i code hs strand which f s0 s1 v wave ready
  have known : code = 11 ∨ code = 12 := which.imp And.right And.right
  have ready0 : Ready s0 c (w.faultingAt c (lenBytes x.len) l.lane) := hs.ready.faultingAt _ _
  obtain rfl : w.faultingAt c (lenBytes x.len) l.lane = v := Option.some.inj (ready0.wave.symm.trans wave)
  have thread : (w.faultingAt c (lenBytes x.len) l.lane).threads[l.ref.lane]? = some l.th.unmoved := by
    rw [hs.ref]
    exact Wave.faultingAt_thread hs.thread ..
  have found : s0.wave? l.ref.wave = some (w.faultingAt c (lenBytes x.len) l.lane) := hs.ref ▸ wave
  have noted : s0.noteFault (s0.tenantOfWave (w.faultingAt c (lenBytes x.len) l.lane)) l.ref f = s1 := State.noteFault_trapFault known ..
  have work : s1.work = s.work := noted ▸ State.noteFault_work ..
  have tenant : s1.tenantOfWave (w.faultingAt c (lenBytes x.len) l.lane) = s.tenantOfWave w := State.tenantOfWave_of_work work w
  rw [exec_trapOrBkpt hs strand which]
  refine ⟨fun handler outside frames room s2 u frame ready2 => congrArg Host.Outcome.next ?_,
    fun closed b block => congrArg Host.Outcome.next ?_⟩
  · have enter : canEnter s1 (w.faultingAt c (lenBytes x.len) l.lane) l.th.unmoved = true :=
      (canEnter_eq ..).2 ⟨tenant ▸ handler, outside, frames, room⟩
    have entering : code ≠ 14 := by omega
    have entered := State.takeFault_enters (f := f) found thread entering noted enter frame
    have ready3 := ready2.updWave (fun u => u.updThread l.lane fun t => t.entered f.trapinfo (s2.tenant (s.tenantOfWave w)).handlerPc) rfl rfl
    have info : f.trapinfo = BitVec.ofNat 32 (code * 2 ^ 24 + 3 * 2 ^ 8 + x.m % 256) := LaneCtx.trapFault_trapinfo (l := l) known
    have stopped : (s2.updThread l.ref fun t => t.entered f.trapinfo (s2.tenant (s.tenantOfWave w)).handlerPc).stopThreads c.wave
        = s2.updThread l.ref fun t => t.entered f.trapinfo (s2.tenant (s.tenantOfWave w)).handlerPc := by
      rw [hs.ref]
      exact stopThreads_ready ready3
    refine (congrArg (State.stopThreads · c.wave) entered).trans (stopped.trans ?_)
    rw [info, Tenant.handlerPc_eq]
    rfl
  · have shut : canEnter s1 (w.faultingAt c (lenBytes x.len) l.lane) l.th.unmoved = false := by
      rw [← Bool.not_eq_true, canEnter_eq, tenant]
      rintro ⟨handler, outside, -⟩
      obtain without | inside := closed
      · exact Bool.false_ne_true (without.symm.trans handler)
      · exact inside outside
    have lives : s1.block? w.block = some b := (State.block?_of_work work _).trans block
    have aborted := State.takeFault_aborts (f := f) (b := b) found thread (noted.symm ▸ lives) (.inr (noted.symm ▸ shut))
    rw [noted] at aborted
    have ending : faultEnd f f.pc = { status := 3, fault := code, faultPc := l.th.pc.toNat, faultAddr := 0 } := by
      obtain rfl | rfl := known <;> rfl
    rw [ending] at aborted
    exact (congrArg (State.stopThreads · c.wave) aborted).trans (stopThreads_ready (ready.markAbort _ _))

end Sys2Proof.Machine
end

section
/-! Floating-point sources and results (05 R121, R122): the elements of a word against the codes of the statements, and the law of an operation
that works element by element. -/
namespace Sys2Proof.Machine
variable {x : Dev} {l : LaneCtx} {o : Operand} {t : Tag} {f : Fmt} {w n : Nat}

/-! ## Elements of a word -/

theorem elemN_eq_code (pos : 0 < w) (l : LaneCtx) (o : Operand) (i : Nat) : elemN (l.src o).val.toNat w i = l.code w o i := by
  rw [elemN, LaneCtx.code, fld_eq_div_mod, show w * i + w - 1 + 1 - w * i = w by omega]

theorem LaneCtx.code_word (l : LaneCtx) (o : Operand) : l.code 32 o 0 = (l.src o).val.toNat := by
  rw [LaneCtx.code, Nat.mul_zero, Nat.pow_zero, Nat.div_one, Nat.mod_eq_of_lt (l.src o).val.isLt]

/-- The value of a source of tag F32 (02 R43). -/
theorem LaneCtx.elem_word (x : Dev) (l : LaneCtx) (o : Operand) (f : Fmt) :
    l.elem x f 32 o 0 = f.value (f.flush (Dev.ftz x) (l.src o).val.toNat) := by
  rw [LaneCtx.elem, LaneCtx.code_word]

theorem floatClass_eq_floatShape (t : Tag) : floatClass t = floatShape t := by
  cases t <;> rfl

theorem elemsOf_pos (shape : elemsOf t = some (f, w, n)) : 0 < w := by
  cases t with
  | f32 | bf16x2 | f16x2 | e4m3x4 | e5m2x4 | e3m2x5 | e2m1x8 => cases shape; decide
  | _ => cases shape

/-- The floating class is one of the tags whose words hold elements (01 R16, 05 R121). -/
theorem elemsOf_of_floatShape (shape : floatShape t = some (f, w, n)) : elemsOf t = some (f, w, n) := by
  cases t with
  | f32 | bf16x2 | f16x2 => exact shape
  | _ => cases shape

/-! ## A word built of elements -/

theorem buildElems_eq (w n : Nat) (e : Nat → Nat × Flags) : buildElems w n e
    = (((List.range n).map fun i => (e i).1 * 2 ^ (w * i)).sum, ((List.range n).map fun i => (e i).2).foldl (· ||| ·) 0) := by
  rw [buildElems, foldl_elements, Nat.zero_add]

theorem elemsOut_congr {e e' : Nat → Nat × Flags} (same : ∀ i < n, e i = e' i) : elemsOut x t w n e = elemsOut x t w n e' := by
  have values : ((List.range n).map fun i => (e i).1 * 2 ^ (w * i)) = (List.range n).map fun i => (e' i).1 * 2 ^ (w * i) :=
    List.map_congr_left fun i hi => by rw [same i (List.mem_range.1 hi)]
  have flags : ((List.range n).map fun i => (e i).2) = (List.range n).map fun i => (e' i).2 :=
    List.map_congr_left fun i hi => by rw [same i (List.mem_range.1 hi)]
  rw [elemsOut, elemsOut, values, flags]

/-- A result built of elements is the one that the statements name, where the elements are. -/
theorem result_buildElems {e e' : Nat → Nat × Flags} (same : ∀ i < n, e i = e' i) :
    result x.d (BitVec.ofNat 32 (buildElems w n e).1) t (buildElems w n e).2 = .done (elemsOut x t w n e') := by
  rw [← elemsOut_congr same, buildElems_eq]
  rfl

/-- A per-element operation on sources of one tag of the floating class gives each element its function of the sources' codes (05 R121). -/
theorem floatOp_done {os : List Operand} {g : Dev → Fmt → List Nat → Nat × Flags} {e : Nat → Nat × Flags} (shape : floatShape t = some (f, w, n))
    (takes : l.tags x (o :: os) (· = t)) (elem : ∀ i, g x f ((o :: os).map fun o => l.code w o i) = e i) :
    floatOp (o :: os) g x l = .done (elemsOut x t w n e) := by
  obtain ⟨check, same⟩ := takes
  have head : (((o :: os).map l.src).headD Reg.zero).tag = t := same o (List.mem_cons_self ..)
  have alike : (((o :: os).map l.src).any fun r => r.tag != t) = false := by simpa using same
  have checked : tchkFails x.m (((o :: os).map l.src).map (·.tag)) = false := by rwa [List.map_map]
  have codes : ∀ i, ((o :: os).map l.src).map (fun r => elemN r.val.toNat w i) = (o :: os).map fun o => l.code w o i := fun i => by
    rw [List.map_map]
    exact List.map_congr_left fun o _ => elemN_eq_code (elemsOf_pos (elemsOf_of_floatShape shape)) l o i
  simp only [floatOp, checked, head, floatClass_eq_floatShape, shape, alike, codes, Bool.false_eq_true, if_false]
  exact result_buildElems fun i _ => elem i

end Sys2Proof.Machine
end

section
/-! Order, classes, rounding and scaling (05 R125 to R129). -/
namespace Sys2Proof.Machine
variable {x : Dev} {l : LaneCtx} {t : Tag} {f : Fmt} {w n : Nat}

/-! ## Order and classes -/

/-- The choice of FMIN and FMAX is by one order, with −0 before +0 (05 R125). -/
theorem minMaxCode_eq_lesser (f : Fmt) (greater ftz : Bool) (a b : Nat) :
    minMaxCode f greater ftz a b = lesser f greater (f.flush ftz a) (f.flush ftz b) := by
  unfold minMaxCode lesser below
  dsimp only
  generalize f.value (f.flush ftz a) = u
  generalize f.value (f.flush ftz b) = v
  cases u.isNan <;> cases v.isNan
  case false.false => cases cmpVal u v <;> cases greater <;> cases u.sign <;> rfl
  all_goals rfl

theorem classMask_eq (f : Fmt) (c : Nat) : classMask f c = 2 ^ classBit f c := by
  unfold classMask classBit
  cases f.value c with
  | nan signalling => cases signalling <;> rfl
  | inf neg => cases neg <;> rfl
  | fin neg m e =>
    by_cases zero : m = 0
    · cases neg <;> simp [zero]
    · cases f.isSubnormal c <;> cases neg <;> simp [zero]

theorem fclassLane_done (shape : floatShape t = some (f, w, n)) (takes : l.tags x [x.a] (· = t)) : fclassLane x l
    = .done (outR x.d ((List.range n).map fun i => 2 ^ classBit f (l.code w x.a i) * 2 ^ (16 * i)).sum .n32) := by
  obtain ⟨check, a⟩ := LaneCtx.tags_one takes
  simp only [a] at check
  simp only [fclassLane, a, check, floatClass_eq_floatShape, shape, classMask_eq, elemN_eq_code (elemsOf_pos (elemsOf_of_floatShape shape)),
    List.sum_eq_foldl_nat, List.foldl_map, Bool.false_eq_true, if_false]
  rfl

/-- COND of a comparison of floats (05 R126). -/
theorem condFloat_eq {k : Nat} (code : k < 8) (u v : FVal) : condFloat k u v
    = (let o := !(u.isNan || v.isNan)
       let c := cmpVal u v
       [o && c == .eq, !o || c != .eq, o && c == .lt, o && c != .gt, o && c == .gt, o && c != .lt, !o, o].getD k false) := by
  interval_cases k <;> rfl

theorem fcmpLane_done (takes : l.tags x [x.a, x.b] (· = .f32)) : fcmpLane x l = .done (
    let u := l.elem x fmtF32 32 x.a 0
    let v := l.elem x fmtF32 32 x.b 0
    let o := !(u.isNan || v.isNan)
    let k := cmpVal u v
    outP x.d ([o && k == .eq, !o || k != .eq, o && k == .lt, o && k != .gt, o && k == .gt, o && k != .lt, !o, o].getD (fld x.m 11 9) false)
      (if u.isSnan || v.isSnan then fNV else 0)) := by
  obtain ⟨check, a, b⟩ := LaneCtx.tags_two takes
  simp only [a, b] at check
  have code : fld x.m 11 9 < 8 := Nat.mod_lt _ (by decide)
  simp only [fcmpLane, a, b, check, bne_self_eq_false, Bool.or_self, Bool.false_eq_true, if_false, condFloat_eq code, LaneCtx.elem_word]
  rfl

/-! ## Rounding and scaling -/

theorem frintElem_eq_integral (x : Dev) (f : Fmt) (cs : List Nat) :
    frintElem x f cs = integral f (Dev.rm x) (bit x.m 9) (opVal x f cs 0) := by
  unfold frintElem integral
  cases opVal x f cs 0 with
  | nan | inf => rfl
  | fin s m e =>
    simp only [Bool.or_eq_true, decide_eq_true_eq, beq_iff_eq]
    cases bit x.m 9 <;> cases (roundInt (Dev.rm x) s m e).2 <;> rfl

theorem fld_and (a m hi lo : Nat) : fld (a &&& m) hi lo = fld a hi lo &&& fld m hi lo := by
  refine Nat.eq_of_testBit_eq fun i => ?_
  simp only [Nat.testBit_and, fld_testBit]
  cases decide (i < hi + 1 - lo) <;> simp

/-- A mask keeps a field where it is all ones. -/
theorem fld_and_ones {hi lo m : Nat} (ones : fld m hi lo = 2 ^ (hi + 1 - lo) - 1) (a : Nat) : fld (a &&& m) hi lo = fld a hi lo := by
  have small : fld a hi lo < 2 ^ (hi + 1 - lo) := Nat.mod_lt _ (Nat.two_pow_pos _)
  rw [fld_and, ones, Nat.and_two_pow_sub_one_of_lt_two_pow small]

/-- FSCALE has no TCHK (05 R123): its float operation runs with that bit clear, and RM and FTZ as they are. -/
theorem Dev.scaleMode (x : Dev) : bit (x.mod &&& 0xEFF).toNat 8 = false ∧ Dev.rm { x with mod := x.mod &&& 0xEFF } = Dev.rm x
    ∧ Dev.ftz { x with mod := x.mod &&& 0xEFF } = Dev.ftz x := by
  have bits : (x.mod &&& 0xEFF).toNat = x.mod.toNat &&& 0xEFF := BitVec.toNat_and ..
  simp only [Dev.rm, Dev.ftz, Dev.m, bit_eq_fld, bits]
  refine ⟨?_, congrArg Rm.ofCode (fld_and_ones rfl _), by rw [fld_and_ones rfl]⟩
  rw [fld_and, show fld 0xEFF 8 8 = 0 from rfl, Nat.and_zero]
  rfl

/-- An element times 2^k, rounded once (05 R129). -/
def scaledVal (f : Fmt) (rm : Rm) (ftz : Bool) (k : Int) (v : FVal) : Nat × Flags :=
  match v with
  | .fin s m e => roundVal f rm ftz (.fin s m (e + k))
  | v => roundVal f .rne false v

theorem fscaleLane_done (shape : floatShape t = some (f, w, n)) (a : (l.src x.a).tag = t) (b : Tag.isScalar (l.src x.b).tag) :
    fscaleLane x l = .done (elemsOut x t w n fun i =>
      scaledVal f (Dev.rm x) (Dev.ftz x) (numOf (l.src x.b)) (l.elem x f w x.a i)) := by
  obtain ⟨check, rm, ftz⟩ := Dev.scaleMode x
  have takes : l.tags { x with mod := x.mod &&& 0xEFF } [x.a] (· = t) := ⟨by rw [tchkFails, Dev.m, check, Bool.false_and], by simpa using a⟩
  unfold fscaleLane
  simp only [scalarTag_of_isScalar b, Bool.not_true, Bool.false_eq_true, if_false]
  refine floatOp_done shape takes fun i => ?_
  have value : opVal { x with mod := x.mod &&& 0xEFF } f ([x.a].map fun o => l.code w o i) 0 = l.elem x f w x.a i := by
    rw [opVal, ftz]
    rfl
  rw [value, ftz, rm, ival_eq_numOf]
  cases l.elem x f w x.a i <;> rfl

/-- Settles O9: FMIN, FMAX, FRINT and FSCALE element by element, FCLASS and FCMP by their tables. -/
theorem floatOrderAndRounding : Obligations.FloatOrderAndRounding := by
  refine ⟨⟨fun t f w n shape => ⟨?fmin, ?fmax, ?fclass⟩, ?fcmp⟩, fun t f w n shape => ⟨?frint, ?fscale⟩⟩
  case fmin | fmax =>
    exact lanesDo_of_lane (fun _ _ => rfl) (fun _ _ takes => floatOp_done shape takes fun i => minMaxCode_eq_lesser ..) fun _ _ => ⟨rfl, rfl⟩
  case fclass => exact lanesDo_of_lane (fun _ _ => rfl) (fun _ _ takes => fclassLane_done shape takes) fun _ _ => ⟨rfl, rfl⟩
  case fcmp => exact lanesDo_of_lane (fun _ _ => rfl) (fun _ _ takes => fcmpLane_done takes) fun _ _ => ⟨rfl, rfl⟩
  case frint =>
    exact lanesDo_of_lane (fun _ _ => rfl) (fun _ _ takes => floatOp_done shape takes fun i => frintElem_eq_integral ..) fun _ _ => ⟨rfl, rfl⟩
  case fscale => exact lanesDo_of_lane (fun _ _ => rfl) (fun _ _ ⟨a, b⟩ => fscaleLane_done shape a b) fun _ _ => ⟨rfl, rfl⟩

end Sys2Proof.Machine
end

section
/-! Dot products (05 R130). -/
namespace Sys2Proof.Machine
variable {x : Dev} {l : LaneCtx} {ta tb : Tag} {fa fb : Fmt} {w n v m : Nat}

theorem dotTags_of_dotShape (pair : dotShape ta tb = true) : dotTags ta tb = true := by
  have listed := List.contains_iff_mem.1 pair
  simp only [List.mem_cons, Prod.mk.injEq, List.not_mem_nil, or_false] at listed
  obtain ⟨rfl, rfl⟩ | ⟨rfl, rfl⟩ | ⟨rfl, rfl⟩ | ⟨rfl, rfl⟩ | ⟨rfl, rfl⟩ | ⟨rfl, rfl⟩ | ⟨rfl, rfl⟩ | ⟨rfl, rfl⟩ := listed <;> rfl

/-- The value of an element where FTZ leaves the formats below 16 bits alone (05 R130, R134). -/
theorem LaneCtx.dotElem_eq (x : Dev) (l : LaneCtx) (f : Fmt) (o : Operand) (i : Nat) (pos : 0 < w) :
    f.value (f.flushWide (Dev.ftz x) (elemN (l.src o).val.toNat w i)) = l.dotElem x f w o i := by
  rw [elemN_eq_code pos]
  rfl

/-- FDOT, and with an addend FDOTA: one rounding of the exact sum. -/
theorem dotLane_done (acc : Bool) (pair : dotShape ta tb = true) (shapeA : elemsOf ta = some (fa, w, n)) (shapeB : elemsOf tb = some (fb, v, m))
    (a : (l.src x.a).tag = ta) (b : (l.src x.b).tag = tb) (c : acc = true → (l.src x.c).tag = .f32) : dotLane acc x l = .done (
      let r := dotResult (Dev.ftz x) ((List.range n).map fun i => (l.dotElem x fa w x.a i, l.dotElem x fb w x.b i))
        (if acc then [l.elem x fmtF32 32 x.c 0] else [])
      outR x.d r.1 .f32 r.2) := by
  have pass : (!dotTags ta tb || (acc && (l.src x.c).tag != .f32)) = false := by
    rw [dotTags_of_dotShape pair]
    simpa using c
  simp only [dotLane, a, b, shapeA, shapeB, pass, Bool.false_eq_true, if_false, LaneCtx.dotElem_eq x l _ _ _ (elemsOf_pos shapeA),
    LaneCtx.elem_word]
  rfl

/-- Settles O10: both instructions are one lane function, and the example is computed. -/
theorem dotProducts : Obligations.DotProducts := by
  refine ⟨fun ta tb fa fb w n v m pair shapeA shapeB => ⟨?fdot, ?fdota⟩, ?once, ?first⟩
  case fdot =>
    exact lanesDo_of_lane (fun _ _ => rfl) (fun _ _ ⟨a, b⟩ => dotLane_done false pair shapeA shapeB a b (by simp)) fun _ _ => ⟨rfl, rfl⟩
  case fdota =>
    exact lanesDo_of_lane (fun _ _ => rfl) (fun _ _ ⟨a, b, c⟩ => dotLane_done true pair shapeA shapeB a b fun _ => c) fun _ _ => ⟨rfl, rfl⟩
  case once => decide +kernel
  case first => decide +kernel

end Sys2Proof.Machine
end

section
/-! Special functions and CVT, target by target (05 R131, R132). -/
namespace Sys2Proof.Machine
variable {x : Dev} {l : LaneCtx} {o : Operand} {t u : Tag} {f g : Fmt}

/-! ## Functions of F32 sources -/

theorem special1_done {F : Dev → Nat → Nat × Flags} (takes : l.tags x [x.a] (· = .f32)) :
    special1 F x l = .done (outR x.d (F x (l.src x.a).val.toNat).1 .f32 (F x (l.src x.a).val.toNat).2) := by
  obtain ⟨check, a⟩ := LaneCtx.tags_one takes
  simp only [a] at check
  simp only [special1, a, check, bne_self_eq_false, Bool.or_self, Bool.false_eq_true, if_false]
  rfl

theorem fdivLane_done (takes : l.tags x [x.a, x.b] (· = .f32)) : fdivLane x l = .done (
    let r := divCode fmtF32 (Dev.rm x) (Dev.ftz x) (l.src x.a).val.toNat (l.src x.b).val.toNat
    outR x.d r.1 .f32 r.2) := by
  obtain ⟨check, a, b⟩ := LaneCtx.tags_two takes
  simp only [a, b] at check
  simp only [fdivLane, a, b, check, bne_self_eq_false, Bool.or_self, Bool.false_eq_true, if_false]
  rfl

/-! ## Scalar sources -/

theorem tag_of_packable (scalar : packable t) (other : t ≠ .f32) : Tag.isScalar t := scalar.resolve_left other

theorem scalarVal_eq (scalar : packable (l.src o).tag) : scalarVal x (l.src o) = some (l.scalarElem x o) := by
  unfold scalarVal LaneCtx.scalarElem
  by_cases float : (l.src o).tag = .f32
  · rw [if_pos (beq_iff_eq.2 float), if_pos float, LaneCtx.elem_word]
  · rw [if_neg (by simpa using float), if_neg float, scalarTag_of_isScalar (tag_of_packable scalar float), if_pos rfl, ival_eq_numOf]

/-- A word copied under a tag. -/
theorem result_word (d : Operand) (v : Word) (t : Tag) : result d v t = .done (outR d v.toNat t) := by
  rw [outR, BitVec.ofNat_toNat, BitVec.setWidth_eq]
  rfl

/-- An integer result of a conversion: from F32 by rounding, from an integer saturated or copied (05 R132). -/
def LaneCtx.asInt (l : LaneCtx) (x : Dev) (lo hi : Int) (t : Tag) : LaneOut :=
  if (l.src x.a).tag = .f32 then
    let r := toIntRange (Dev.rm x) lo hi (l.elem x fmtF32 32 x.a 0)
    outR x.d (r.1 % 2 ^ 32).toNat t r.2
  else if bit x.m 3 then outR x.d (l.src x.a).val.toNat t
  else
    let y := numOf (l.src x.a)
    let z := max lo (min y hi)
    outR x.d (z % 2 ^ 32).toNat t (if z = y then 0 else fSAT)

theorem LaneCtx.asInt_plain (l : LaneCtx) (x : Dev) (lo hi : Int) (t : Tag) : (l.asInt x lo hi t).plain := by
  unfold LaneCtx.asInt
  dsimp only
  split
  · exact ⟨rfl, rfl⟩
  · split <;> exact ⟨rfl, rfl⟩

theorem cvtInt_done (signed : Bool) (scalar : packable (l.src x.a).tag) : cvtInt x (l.src x.a) signed
    = .done (l.asInt x (intRange 32 signed).1 (intRange 32 signed).2 (if signed then .i32 else .n32)) := by
  have ordered : (intRange 32 signed).1 ≤ (intRange 32 signed).2 := by cases signed <;> decide
  unfold cvtInt LaneCtx.asInt
  by_cases float : (l.src x.a).tag = .f32
  · simp only [float, beq_self_eq_true, if_true, LaneCtx.elem_word, wrapN_eq]
    rfl
  · have other : ((l.src x.a).tag == .f32) = false := beq_eq_false_iff_ne.2 float
    simp only [float, other, scalarTag_of_isScalar (tag_of_packable scalar float), Dev.satOvf, if_true, if_false, Bool.false_eq_true]
    rcases Bool.eq_false_or_eq_true (bit x.m 3) with copied | saturated
    · simp only [copied, Bool.not_true, if_true, Bool.false_eq_true, if_false, result_word]
    · simp only [saturated, Bool.not_false, if_true, Bool.false_eq_true, if_false, wrapN_eq, satI_eq_max_min ordered, ival_eq_numOf, flagIf,
        bne_iff_ne, ite_not]
      rfl

theorem fxBits_eq (r : Reg) : fxBits r = min (numOf r).toNat 62 := by
  rw [fxBits, ival_eq_numOf]

/-! ## Packed sources -/

/-- The value of an element of a packed source of CVT: a float after FTZ, or an integer (05 R132). -/
def LaneCtx.pairElem (l : LaneCtx) (x : Dev) (i : Nat) : FVal :=
  match floatShape (l.src x.a).tag with
  | some (g, _, _) => l.elem x g 16 x.a i
  | none => intVal (elemOf (l.src x.a).val 16 i false) 0

theorem LaneCtx.pairElem_float (a : (l.src x.a).tag = u) {w n : Nat} (shape : floatShape u = some (g, w, n)) (i : Nat) :
    l.pairElem x i = l.elem x g 16 x.a i := by
  simp only [LaneCtx.pairElem, a, shape]

theorem LaneCtx.pairElem_int (a : (l.src x.a).tag = .i16x2) (i : Nat) :
    l.pairElem x i = intVal (elemOf (l.src x.a).val 16 i false) 0 := by
  simp only [LaneCtx.pairElem, a]
  rfl

/-- Tags of two elements of 16 bits. -/
def pairTag (u : Tag) : Prop := u = .i16x2 ∨ ∃ g, floatShape u = some (g, 16, 2)

theorem pairVal_eq (pair : pairTag (l.src x.a).tag) (i : Nat) : pairVal x (l.src x.a) i = some (l.pairElem x i) := by
  have code := elemN_eq_code (w := 16) (by decide) l x.a i
  obtain int | ⟨g, shape⟩ := pair
  · rw [LaneCtx.pairElem_int int, ← elemI_eq_elemOf (by decide)]
    simp only [pairVal, int]
    rfl
  · rw [LaneCtx.pairElem_float rfl shape, LaneCtx.elem, ← code]
    revert shape
    unfold pairVal
    cases (l.src x.a).tag with
    | bf16x2 | f16x2 => rintro ⟨⟩; rfl
    | _ => rintro ⟨⟩

theorem cvtPair_done {F : FVal → Nat × Flags} (pair : pairTag (l.src x.a).tag) :
    cvtPair x (l.src x.a) t F = .done (elemsOut x t 16 2 fun i => F (l.pairElem x i)) := by
  simp only [cvtPair, pairVal_eq pair]
  refine result_buildElems fun i hi => ?_
  interval_cases i <;> rfl

/-! ## CVT by its targets -/

theorem cvtLane_f32 (target : fld x.m 11 9 = 0) (takes : l.tags x [x.a] packable) : cvtLane x l = .done (
    let r := roundVal fmtF32 (Dev.rm x) (Dev.ftz x) (l.scalarElem x x.a)
    outR x.d r.1 .f32 r.2) := by
  obtain ⟨check, a⟩ := LaneCtx.tags_one takes
  simp only [cvtLane, Dev.sel, target, check, Bool.and_false, Bool.false_eq_true, if_false, cvtF32, scalarVal_eq a]
  rfl

theorem cvtLane_i32 (target : fld x.m 11 9 = 1) (takes : l.tags x [x.a] packable) :
    cvtLane x l = .done (l.asInt x (-2 ^ 31) (2 ^ 31 - 1) .i32) := by
  obtain ⟨check, a⟩ := LaneCtx.tags_one takes
  simp only [cvtLane, Dev.sel, target, check, Bool.and_false, Bool.false_eq_true, if_false, cvtInt_done true a]
  rfl

theorem cvtLane_n32 (target : fld x.m 11 9 = 2) (takes : l.tags x [x.a] packable) :
    cvtLane x l = .done (l.asInt x 0 (2 ^ 32 - 1) .n32) := by
  obtain ⟨check, a⟩ := LaneCtx.tags_one takes
  simp only [cvtLane, Dev.sel, target, check, Bool.and_false, Bool.false_eq_true, if_false, cvtInt_done false a]
  rfl

theorem cvtLane_toFx (target : fld x.m 11 9 = 3) (a : packable (l.src x.a).tag) (b : Tag.isScalar (l.src x.b).tag) : cvtLane x l = .done (
    let r := toFx (min (numOf (l.src x.b)).toNat 62) (l.scalarElem x x.a)
    outW x.d (r.1 % 2 ^ 64).toNat .fx r.2) := by
  simp only [cvtLane, Dev.sel, target, bne_self_eq_false, Bool.false_and, Bool.false_eq_true, if_false, cvtToFx, scalarVal_eq a,
    scalarTag_of_isScalar b, Bool.not_true, fxBits_eq, wrapN_eq]
  rfl

theorem cvtLane_fromFx (target : fld x.m 11 9 = 4) (low : (l.src x.a).tag = .fx) (high : (l.src (x.a.plus 1)).tag = .fx)
    (b : Tag.isScalar (l.src x.b).tag) : cvtLane x l = .done (
    let r := roundVal fmtF32 .rne (Dev.ftz x)
      (intVal (BitVec.ofNat 64 (l.srcWN x.a)).toInt (-((min (numOf (l.src x.b)).toNat 62 : Nat) : Int)))
    outR x.d r.1 .f32 r.2) := by
  simp only [cvtLane, Dev.sel, target, bne_self_eq_false, Bool.false_and, Bool.and_false, Bool.false_eq_true, if_false, cvtFromFx, LaneCtx.srcW,
    low, high, scalarTag_of_isScalar b, Bool.not_true, Bool.or_self, fxBits_eq, sextN_eq_toInt (show 0 < 64 by decide)]
  rfl

theorem cvtLane_i16_copies (target : fld x.m 11 9 = 5) (takes : l.tags x [x.a] (· = .i16x2)) :
    cvtLane x l = .done (outR x.d (l.src x.a).val.toNat .i16x2) := by
  obtain ⟨check, a⟩ := LaneCtx.tags_one takes
  simp only [a] at check
  simp only [cvtLane, Dev.sel, target, a, check, Bool.and_false, Bool.false_eq_true, if_false, cvtI16, beq_self_eq_true, if_true, result_word]

theorem cvtLane_i16 (target : fld x.m 11 9 = 5) (shape : floatShape u = some (g, 16, 2)) (takes : l.tags x [x.a] (· = u)) :
    cvtLane x l = .done (elemsOut x .i16x2 16 2 fun i =>
      let r := toIntRange (Dev.rm x) (-32768) 32767 (l.elem x g 16 x.a i)
      ((r.1 % 2 ^ 16).toNat, r.2)) := by
  obtain ⟨check, a⟩ := LaneCtx.tags_one takes
  have float : ((l.src x.a).tag == .i16x2) = false := beq_eq_false_iff_ne.2 fun int => by
    rw [← a, int] at shape
    cases shape
  simp only [cvtLane, Dev.sel, target, check, Bool.and_false, Bool.false_eq_true, if_false, cvtI16, float, cvtPair_done (.inr ⟨g, a ▸ shape⟩),
    LaneCtx.pairElem_float a shape, wrapN_eq]

/-- The two targets of two floats of 16 bits (05 R132). -/
def halfTarget (k : Nat) (t : Tag) (f : Fmt) : Prop := k = 6 ∧ t = .f16x2 ∧ f = fmtF16 ∨ k = 7 ∧ t = .bf16x2 ∧ f = fmtBF16

theorem cvtLane_half {k : Nat} (half : halfTarget k t f) (target : fld x.m 11 9 = k) (pair : pairTag u) (takes : l.tags x [x.a] (· = u)) :
    cvtLane x l = .done (elemsOut x t 16 2 fun i => narrowVal f (Dev.rm x) (!bit x.m 3) (Dev.ftz x) (l.pairElem x i)) := by
  obtain ⟨check, a⟩ := LaneCtx.tags_one takes
  rw [← a] at pair
  obtain ⟨rfl, rfl, rfl⟩ | ⟨rfl, rfl, rfl⟩ := half <;>
  · simp only [cvtLane, Dev.sel, target, check, Bool.and_false, Bool.false_eq_true, if_false, cvtPair_done pair]
    rfl

/-- Settles O11: a function of an F32 source, FDIV, and CVT by its target and source tags. -/
theorem functionsAndConversions : Obligations.FunctionsAndConversions := by
  refine ⟨⟨?frcp, ?frsq, ?fsqrt, ?fexp2, ?flog2, ?fsin, ?fcos, ?ftanh, ?fdiv⟩, ?f32, ?i32, ?n32, ?toFx, ?fromFx, ?copies, ?i16, ?half⟩
  case frcp | frsq | fsqrt | fexp2 | flog2 | fsin | fcos | ftanh =>
    exact lanesDo_of_lane (fun _ _ => rfl) (fun _ _ takes => special1_done takes) fun _ _ => ⟨rfl, rfl⟩
  case fdiv => exact lanesDo_of_lane (fun _ _ => rfl) (fun _ _ takes => fdivLane_done takes) fun _ _ => ⟨rfl, rfl⟩
  case f32 => exact lanesDo_of_lane (fun _ _ => rfl) (fun _ _ ⟨target, takes⟩ => cvtLane_f32 target takes) fun _ _ => ⟨rfl, rfl⟩
  case i32 => exact lanesDo_of_lane (fun _ _ => rfl) (fun _ _ ⟨target, takes⟩ => cvtLane_i32 target takes) fun _ _ => LaneCtx.asInt_plain ..
  case n32 => exact lanesDo_of_lane (fun _ _ => rfl) (fun _ _ ⟨target, takes⟩ => cvtLane_n32 target takes) fun _ _ => LaneCtx.asInt_plain ..
  case toFx => exact lanesDo_of_lane (fun _ _ => rfl) (fun _ _ ⟨target, a, b⟩ => cvtLane_toFx target a b) fun _ _ => ⟨rfl, rfl⟩
  case fromFx =>
    exact lanesDo_of_lane (fun _ _ => rfl) (fun _ _ ⟨target, low, high, b⟩ => cvtLane_fromFx target low high b) fun _ _ => ⟨rfl, rfl⟩
  case copies => exact lanesDo_of_lane (fun _ _ => rfl) (fun _ _ ⟨target, takes⟩ => cvtLane_i16_copies target takes) fun _ _ => ⟨rfl, rfl⟩
  case i16 =>
    intro t f shape
    exact lanesDo_of_lane (fun _ _ => rfl) (fun _ _ ⟨target, takes⟩ => cvtLane_i16 target shape takes) fun _ _ => ⟨rfl, rfl⟩
  case half =>
    intro t u f g k half shape
    refine ⟨lanesDo_of_lane (fun _ _ => rfl) (fun x l ⟨target, takes⟩ => ?_) fun _ _ => ⟨rfl, rfl⟩,
      lanesDo_of_lane (fun _ _ => rfl) (fun x l ⟨target, takes⟩ => ?_) fun _ _ => ⟨rfl, rfl⟩⟩
    · rw [cvtLane_half half target (.inr ⟨g, shape⟩) takes]
      simp only [LaneCtx.pairElem_float (LaneCtx.tags_one takes).2 shape]
    · rw [cvtLane_half half target (.inl rfl) takes]
      simp only [LaneCtx.pairElem_int (LaneCtx.tags_one takes).2]

end Sys2Proof.Machine
end

section
/-! Packing, unpacking, tags and scales (05 R133, R134, R137 to R139). -/
namespace Sys2Proof.Machine
variable {x : Dev} {l : LaneCtx} {o : Operand} {t : Tag} {f : Fmt} {w n : Nat}

/-! ## PACK -/

/-- A result tag of PACK with the width and the count of its elements (05 R133). -/
def packShape (t : Tag) (w n : Nat) : Prop :=
  (∃ f, elemsOf t = some (f, w, n) ∧ t ≠ .f32) ∨ packedShape t = some (w, n, true) ∧ t = .n8x4 ∨ packedShape t = some (w, n, false) ∧ t = .i8x4

theorem packShape_pos (shape : packShape t w n) : 0 < w := by
  obtain ⟨f, floats, -⟩ | ⟨ints, -⟩ | ⟨ints, -⟩ := shape
  · exact elemsOf_pos floats
  · exact packedShape_pos ints
  · exact packedShape_pos ints

theorem packTarget_eq (target : packTag (Dev.sel x) = t) (shape : packShape t w n) : packTarget (Dev.sel x) = (t, w, n) := by
  have code : Dev.sel x < 8 := Nat.mod_lt _ (by decide)
  subst target
  generalize Dev.sel x = k at code shape ⊢
  unfold packShape at shape
  interval_cases k <;> obtain ⟨f, ⟨⟩, -⟩ | ⟨⟨⟩, ⟨⟩⟩ | ⟨⟨⟩, ⟨⟩⟩ := shape <;> rfl

/-- One scalar converted to the element of a result tag of PACK. -/
theorem packConv_eq (target : packTag (Dev.sel x) = t) (shape : packShape t w n) (scalar : packable (l.src o).tag) :
    packConv x (l.src o) = some (l.packed x t o) := by
  unfold packConv LaneCtx.packed
  simp only [packTarget_eq target shape, scalarVal_eq scalar]
  cases format : elemsOf t with
  | some p => rfl
  | none =>
    have range : intRange 8 (t == .i8x4) = (if t = .i8x4 then -128 else 0, if t = .i8x4 then 127 else 255) := by
      obtain ⟨f, floats, -⟩ | ⟨-, rfl⟩ | ⟨-, rfl⟩ := shape
      · cases floats.symm.trans format
      · rfl
      · rfl
    have ordered : (if t = .i8x4 then -128 else 0 : Int) ≤ if t = .i8x4 then 127 else 255 := by split <;> decide
    by_cases float : (l.src o).tag = .f32
    · simp only [range, float, beq_self_eq_true, if_true, LaneCtx.elem_word, wrapN_eq]
    · have other : ((l.src o).tag == .f32) = false := beq_eq_false_iff_ne.2 float
      simp only [range, float, other, scalarTag_of_isScalar (tag_of_packable scalar float), Dev.satOvf, if_true, if_false, Bool.false_eq_true]
      rcases Bool.eq_false_or_eq_true (bit x.m 3) with wrapped | saturated
      · simp only [wrapped, Bool.not_true, if_true, Bool.false_eq_true, if_false, wrapN_eq, ival_eq_numOf]
      · simp only [saturated, Bool.not_false, if_true, Bool.false_eq_true, if_false, wrapN_eq, satI_eq_max_min ordered, ival_eq_numOf, flagIf,
          bne_iff_ne, ite_not]

theorem packLane_done (shape : packShape t w n) (target : packTag (Dev.sel x) = t) (a : packable (l.src x.a).tag) (b : packable (l.src x.b).tag)
    (c : 2 ≤ Dev.sel x → (l.src x.c).tag = t ∨ x.c = .k .zero) : packLane x l = .done (elemsOut x t w n fun i =>
      if i = 0 then l.packed x t x.a else if i = 1 then l.packed x t x.b else (l.code w x.c (i - 2), 0)) := by
  have pass : (decide (2 ≤ Dev.sel x) && (l.src x.c).tag != t && x.c != .k .zero) = false := by
    rw [Bool.and_assoc, Bool.and_eq_false_imp, decide_eq_true_eq]
    intro wide
    obtain same | none := c wide
    · rw [same, bne_self_eq_false, Bool.false_and]
    · rw [none, bne_self_eq_false, Bool.and_false]
  simp only [packLane, packTarget_eq target shape, pass, Bool.false_eq_true, if_false, packConv_eq target shape a, packConv_eq target shape b]
  exact result_buildElems fun i _ => by simp only [beq_iff_eq, elemN_eq_code (packShape_pos shape)]

/-! ## UNPK and DQNT -/

theorem unpkLane_float (shape : elemsOf t = some (f, w, n)) (word : t ≠ .f32) (takes : l.tags x [x.a] (· = t)) (inside : Dev.sel x < n) :
    unpkLane x l = .done (
      let r := roundVal fmtF32 .rne false (l.dotElem x f w x.a (Dev.sel x))
      outR x.d r.1 .f32 r.2) := by
  obtain ⟨check, a⟩ := LaneCtx.tags_one takes
  rw [a] at check
  simp only [unpkLane, a, check, beq_eq_false_iff_ne.2 word, shape, Bool.or_self, Nat.not_le.2 inside, Bool.false_eq_true, if_false,
    LaneCtx.dotElem_eq x l _ _ _ (elemsOf_pos shape)]
  rfl

theorem unpkLane_int {unsigned : Bool} (shape : packedShape t = some (w, n, unsigned)) (takes : l.tags x [x.a] (· = t))
    (inside : Dev.sel x < n) : unpkLane x l
      = .done (outR x.d (elemOf (l.src x.a).val w (Dev.sel x) unsigned % 2 ^ 32).toNat (if unsigned then .n32 else .i32)) := by
  obtain ⟨check, a⟩ := LaneCtx.tags_one takes
  obtain ⟨noFloats, word⟩ : elemsOf t = none ∧ (t == .f32) = false := by
    cases t with
    | i16x2 | i8x4 | n8x4 => exact ⟨rfl, rfl⟩
    | _ => cases shape
  rw [a] at check
  simp only [unpkLane, a, check, word, noFloats, packedInt_eq_packedShape, shape, Option.map_some, Nat.not_le.2 inside, Bool.or_self,
    Bool.false_eq_true, if_false, elemI_eq_elemOf (packedShape_pos shape), wrapN_eq]
  cases unsigned <;> rfl

theorem dqntLane_done (shape : elemsOf t = some (f, w, n)) (narrow : w < 16) (a : (l.src x.a).tag = t) (b : (l.src x.b).tag = .sc10x3)
    (inside : Dev.sel x < n) : dqntLane x l = .done (
      let e := f.value (l.code w x.a (Dev.sel x))
      let r := roundVal fmtF32 (Dev.rm x) (Dev.ftz x) (scaleBySc ((l.src x.b).val.toNat % 1024) e)
      outR x.d r.1 .f32 (r.2 ||| if e.isSnan then fNV else 0)) := by
  have scale : fld (l.src x.b).val.toNat 9 0 = (l.src x.b).val.toNat % 1024 := by rw [fld_eq_div_mod, Nat.pow_zero, Nat.div_one]; rfl
  have pass : (decide (16 ≤ w) || (l.src x.b).tag != .sc10x3 || decide (n ≤ Dev.sel x)) = false := by simp [narrow, b, inside]
  simp only [dqntLane, a, shape, pass, Bool.false_eq_true, if_false, elemN_eq_code (elemsOf_pos shape), scale]
  rfl

/-! ## SCLX -/

theorem sclxLane_toScale (op : Dev.sel x = 0) (a : (l.src x.a).tag = .f32) : sclxLane x l = .done (
    let r := scOf (l.elem x fmtF32 32 x.a 0)
    outR x.d r.1 .sc10x3 r.2) := by
  simp only [sclxLane, op, a, LaneCtx.elem_word]
  rfl

theorem sclxLane_fromScale (low : 1 ≤ Dev.sel x) (high : Dev.sel x ≤ 3) (a : (l.src x.a).tag = .sc10x3) : sclxLane x l = .done (
    let r := roundVal fmtF32 .rne (Dev.ftz x) (scaleBySc (l.code 10 x.a (Dev.sel x - 1)) (.fin false 1 0))
    outR x.d r.1 .f32 r.2) := by
  simp only [sclxLane, low, high, a, decide_true, Bool.and_self, if_true, bne_self_eq_false, Bool.false_eq_true, if_false,
    elemN_eq_code (show 0 < 10 by decide)]
  rfl

theorem sclxLane_setsScale (low : 4 ≤ Dev.sel x) (a : (l.src x.a).tag = .f32) (b : (l.src x.b).tag = .sc10x3) : sclxLane x l = .done (
    let r := scOf (l.elem x fmtF32 32 x.a 0)
    let i := Dev.sel x - 4
    outR x.d (setFld ((l.src x.b).val.toNat % 2 ^ 30) (10 * i + 9) (10 * i) r.1) .sc10x3 r.2) := by
  have reads : (decide (1 ≤ Dev.sel x) && decide (Dev.sel x ≤ 3)) = false := by simp; omega
  have field : (Dev.sel x == 0) = false := by simp; omega
  simp only [sclxLane, reads, field, a, b, bne_self_eq_false, Bool.false_eq_true, if_false, LaneCtx.elem_word]
  rfl

/-! ## Tags -/

theorem tagOfCode_code (t : Tag) : Tag.ofCode? t.code = some t := by
  cases t <;> rfl

theorem tagrdLane_done (check : tchkFails x.m [(l.src x.a).tag] = false) : tagrdLane x l = .done (outR x.d (l.src x.a).tag.code .n32) := by
  simp only [tagrdLane, check, Bool.false_eq_true, if_false]
  rfl

theorem retagLane_done (code : (l.src x.b).val.toNat % 16 = t.code) : retagLane x l = .done { regs := [(x.d, ⟨(l.src x.a).val, t⟩)] } := by
  have field : fld (l.srcN x.b) 3 0 = t.code := by
    rw [fld_eq_div_mod, Nat.pow_zero, Nat.div_one]
    exact code
  simp only [retagLane, field, tagOfCode_code]
  rfl

/-- Settles O12, an instruction at a time, and UNPK and SCLX by their operands. -/
theorem packAndUnpack : Obligations.PackAndUnpack := by
  refine ⟨fun t w n shape => ?pack, fun t f w n shape word => ?unpkFloat, fun t w n unsigned shape => ?unpkInt, fun t f w n shape narrow => ?dqnt,
    ?toScale, ?fromScale, ?setsScale, ?tagrd, fun t => ?retag⟩
  case pack => exact lanesDo_of_lane (fun _ _ => rfl) (fun _ _ ⟨target, a, b, c⟩ => packLane_done shape target a b c) fun _ _ => ⟨rfl, rfl⟩
  case unpkFloat =>
    exact lanesDo_of_lane (fun _ _ => rfl) (fun _ _ ⟨takes, inside⟩ => unpkLane_float shape word takes inside) fun _ _ => ⟨rfl, rfl⟩
  case unpkInt => exact lanesDo_of_lane (fun _ _ => rfl) (fun _ _ ⟨takes, inside⟩ => unpkLane_int shape takes inside) fun _ _ => ⟨rfl, rfl⟩
  case dqnt =>
    exact lanesDo_of_lane (fun _ _ => rfl) (fun _ _ ⟨a, b, inside⟩ => dqntLane_done shape narrow a b inside) fun _ _ => ⟨rfl, rfl⟩
  case toScale => exact lanesDo_of_lane (fun _ _ => rfl) (fun _ _ ⟨op, a⟩ => sclxLane_toScale op a) fun _ _ => ⟨rfl, rfl⟩
  case fromScale => exact lanesDo_of_lane (fun _ _ => rfl) (fun _ _ ⟨low, high, a⟩ => sclxLane_fromScale low high a) fun _ _ => ⟨rfl, rfl⟩
  case setsScale => exact lanesDo_of_lane (fun _ _ => rfl) (fun _ _ ⟨low, _, a, b⟩ => sclxLane_setsScale low a b) fun _ _ => ⟨rfl, rfl⟩
  case tagrd => exact lanesDo_of_lane (fun _ _ => rfl) (fun _ _ check => tagrdLane_done check) fun _ _ => ⟨rfl, rfl⟩
  case retag => exact lanesDo_of_lane (fun _ _ => rfl) (fun _ _ code => retagLane_done code) fun _ _ => ⟨rfl, rfl⟩

end Sys2Proof.Machine
end

section
/-! Block quantisation over the cohort (05 R135, R136). -/
namespace Sys2Proof.Machine
variable {s : State} {c : Cohort} {v : Wave} {x : Dev} {l : LaneCtx}

theorem qntValue_done (takes : l.tags x [x.a] (· = .f32)) : qntValue x l = some (l.elem x fmtF32 32 x.a 0) := by
  obtain ⟨check, a⟩ := LaneCtx.tags_one takes
  rw [a] at check
  simp only [qntValue, a, check, bne_self_eq_false, Bool.or_self, Bool.false_eq_true, if_false, LaneCtx.elem_word]

/-- The value of a position of the block: the active lane's, or +0 (05 R136). -/
def blockValue (x : Dev) (act : List LaneCtx) (i : Nat) : FVal :=
  match act.find? fun l => l.lane == i with
  | some l => l.elem x fmtF32 32 x.a 0
  | none => .fin false 0 0

theorem qntValue_find {act : List LaneCtx} (takes : ∀ l ∈ act, l.tags x [x.a] (· = .f32)) (i : Nat) :
    ((act.find? fun l => l.lane == i).bind (qntValue x)).getD (.fin false 0 0) = blockValue x act i := by
  unfold blockValue
  cases found : act.find? fun l => l.lane == i with
  | none => rfl
  | some l => rw [Option.bind_some, qntValue_done (takes l (List.mem_of_find?_eq_some found)), Option.getD_some]

/-- Codes laid one above the other, the first lowest, from the top down or summed place by place. -/
theorem foldr_codes (w : Nat) (code : Nat → Nat) (n : Nat) :
    ((List.range n).map code).foldr (fun c m => m * 2 ^ w + c) 0 = ((List.range n).map fun i => code i * 2 ^ (w * i)).sum := by
  induction n generalizing code with
  | zero => rfl
  | succ n ih =>
    have place : ∀ i, code (i + 1) * 2 ^ (w * (i + 1)) = code (i + 1) * 2 ^ (w * i) * 2 ^ w := fun i => by
      rw [Nat.mul_succ, Nat.pow_add, Nat.mul_assoc]
    simp only [List.range_succ_eq_map, List.map_cons, List.map_map, List.foldr_cons, List.sum_cons, Function.comp_def, place, ih,
      List.sum_map_mul_right, Nat.mul_zero, Nat.pow_zero, Nat.mul_one]
    exact Nat.add_comm ..

/-- What QNT writes in a lane of a cohort (05 R135, R136). -/
def qntOut (x : Dev) (act : List LaneCtx) (l : LaneCtx) : LaneOut :=
  let q := qntFormat (fld x.m 11 9)
  let scale := blockScale q.2.1 (amaxOf ((List.range 32).map (blockValue x act)))
  let code := fun v => quantise q.1 (!bit x.m 3) (Dev.ftz x) scale v
  let image := ((List.range 32).map fun i => (code (blockValue x act i)).1 * 2 ^ (q.1.width * i)).sum
  { regs := [(x.d, if l.lane < q.2.2.1 then ⟨BitVec.ofNat 32 (image / 2 ^ (32 * l.lane)), q.2.2.2⟩ else ⟨0, .raw⟩),
             (x.d.plus 1, ⟨BitVec.ofNat 32 scale, .sc10x3⟩)]
    flags := (code (l.elem x fmtF32 32 x.a 0)).2 }

theorem qntLane_done {act : List LaneCtx} (takes : ∀ l ∈ act, l.tags x [x.a] (· = .f32)) (active : l ∈ act) :
    qntLane x act l = .done (qntOut x act l) := by
  simp only [qntLane, qntOut, Dev.sel, Dev.satOvf, qntValue_find takes, qntValue_done (takes l active), List.map_map, Function.comp_def, foldr_codes,
    Nat.shiftRight_eq_div_pow]

/-- Settles O13: each lane computes the block's scale and image from the same values of the cohort. -/
theorem quantisation : Obligations.Quantisation := by
  intro s c w x hs takes _
  have run : runLanes x.guard (lenBytes x.len) (fun l s' => (qntLane x (activeLanes x.guard (lenBytes x.len) s) l, s')) s
      = s.idle.issued c w w x (qntOut x (c.active w x)) := by
    rw [activeLanes_stage hs]
    exact runLanes_pure hs (fun l active => qntLane_done takes active) fun _ _ => ⟨rfl, rfl⟩
  exact congrArg Host.Outcome.next run

end Sys2Proof.Machine
end

section
/-! The task instructions outside strands (07 R176, R179-R183; 06 R150, R152): the shape of one, the states that they leave, and their codes. -/
namespace Sys2Proof.Machine
variable {s u : State} {c : Cohort} {w : Wave} {x : Dev} {l : LaneCtx} {t : Task} {n k : Nat}

/-! ## States in which a cohort is still ready -/

/-- A cohort stays ready where its waves, their owner, and what the owner watches and does are as they were. -/
theorem Ready.of_same (ready : Ready s c w) (waves : u.waves = s.waves) (owner : u.tenantOfWave w = s.tenantOfWave w)
    (watch : (u.tenant (s.tenantOfWave w)).watch = (s.tenant (s.tenantOfWave w)).watch)
    (phase : (u.tenant (s.tenantOfWave w)).phase = (s.tenant (s.tenantOfWave w)).phase) : Ready u c w := by
  refine ⟨?_, ?_, ?_, ?_⟩
  · rw [State.wave?, waves]
    exact ready.wave
  · rw [waves]
    exact ready.only
  · rw [owner, watch]
    exact ready.watch
  · rw [owner, phase]
    exact ready.phase

theorem Ready.updTask (ready : Ready s c w) {f : Task → Task} (same : ∀ y, (f y).id = y.id ∧ (f y).tenant = y.tenant) :
    Ready (s.updTask k f) c w :=
  ready.of_same rfl (State.tenantOfWave_updTask same w) rfl rfl

/-- What a change of a tenant leaves of it, it leaves of every tenant. -/
theorem State.updTenant_keeps {α : Type} (g : Tenant → α) {f : Tenant → Tenant} (same : ∀ t, g (f t) = g t) (n k : Nat) :
    g ((s.updTenant n f).tenant k) = g (s.tenant k) := by
  simp only [State.tenant, State.updTenant, List.getD_eq_getElem?_getD, List.getElem?_modify]
  cases s.tenants[k]? with
  | none => rfl
  | some t => by_cases here : n = k <;> simp [here, same]

theorem Ready.updTenant (ready : Ready s c w) {f : Tenant → Tenant} (watch : ∀ t, (f t).watch = t.watch) (phase : ∀ t, (f t).phase = t.phase) :
    Ready (s.updTenant k f) c w :=
  ready.of_same rfl rfl (State.updTenant_keeps (·.watch) watch ..) (State.updTenant_keeps (·.phase) phase ..)

/-! ## The shape of a task instruction -/

theorem badRecordAddr_iff (a : Nat) : badRecordAddr a = true ↔ a % 128 ≠ 0 ∨ 2 ^ 60 ≤ a := by
  simp [badRecordAddr, canonical]

theorem badRecordAddr_false {a : Nat} (good : ¬(a % 128 ≠ 0 ∨ 2 ^ 60 ≤ a)) : badRecordAddr a = false :=
  Bool.eq_false_iff.2 fun bad => good ((badRecordAddr_iff a).1 bad)

theorem savingHold_run {self : Self} (phase : (s.tenant self.who.tenant).phase ≠ .saving) : savingHold self s = .ok () s := by
  rw [savingHold, Op.get_bind, if_neg (by simpa using phase)]
  rfl

theorem awaitHead_none (s : State) : awaitHead none s = .ok () s := rfl

section
variable (hs : OneLane s c w x l)
include hs

theorem OneLane.self_tenant : (s.idle.self l.ref).who.tenant = s.tenantOfWave w := by
  rw [hs.ref]
  exact State.self_tenant (s := s.idle) (r := ⟨c.wave, l.lane⟩) hs.ready.wave

theorem OneLane.self_strand (outside : s.strandOf w = none) : (s.idle.self l.ref).strand = none := by
  rw [hs.ref]
  exact (State.self_strand (s := s.idle) (r := ⟨c.wave, l.lane⟩) hs.ready.wave).trans outside

/-- Outside strands, and with no save under way, the two waits of a task instruction let it go on. -/
theorem OneLane.taskWaits (outside : s.strandOf w = none) : savingHold (s.idle.self l.ref) s.idle = .ok () s.idle
    ∧ awaitHead (s.idle.self l.ref).strand s.idle = .ok () s.idle := by
  refine ⟨savingHold_run ?_, ?_⟩
  · rw [hs.self_tenant]
    exact hs.ready.phase
  · rw [hs.self_strand outside]
    exact awaitHead_none _

/-- A task instruction of one lane leaves what its operation leaves, and writes its code. -/
theorem runOp_taskOp {m : Self → LaneCtx → Op Nat} (outside : s.strandOf w = none) (run : m (s.idle.self l.ref) l s.idle = .ok n u)
    (ready : Ready u c w) : runOp x (taskOp x m) s = u.issued c w w x fun _ => outR x.d n .n32 := by
  refine runOp_one hs ?_ ready rfl rfl
  obtain ⟨saving, head⟩ := hs.taskWaits outside
  rw [taskOp, Op.get_bind, Op.bind_run saving, Op.bind_run head, Op.bind_run run]
  rfl

end

/-! ## TDEP and TFIRE (07 R179, R180) -/

section
variable {self : Self}

theorem tdepCode_bad (bad : badRecordAddr (l.srcWN x.a) = true ∨ badRecordAddr (l.srcWN x.b) = true) : tdepCode x self l s = .ok 4 s := by
  rw [tdepCode, Op.get_bind]
  simp only [Bool.or_eq_true, bad, if_true]
  rfl

theorem tdepCode_run (a : badRecordAddr (l.srcWN x.a) = false) (b : badRecordAddr (l.srcWN x.b) = false) : tdepCode x self l s
    = match s.liveTask? self.who.tenant (l.srcWN x.a), s.liveTask? self.who.tenant (l.srcWN x.b) with
      | some t, some v =>
        if v.phase ≠ .waiting then .ok 8 s
        else if 64 ≤ t.added.length then .ok 9 s
        else .ok 0 ((s.updTask t.id fun t => { t with added := t.added ++ [l.srcWN x.b] }).updTask v.id fun t => { t with count := t.count + 1 })
      | _, _ => .ok 7 s := by
  rw [tdepCode, Op.get_bind]
  simp only [a, b, Bool.or_self, Bool.false_eq_true, if_false]
  cases s.liveTask? self.who.tenant (l.srcWN x.a) with
  | none => rfl
  | some t =>
    cases s.liveTask? self.who.tenant (l.srcWN x.b) with
    | none => rfl
    | some v =>
      simp only [bne_iff_ne]
      split
      · rfl
      · split <;> rfl

theorem tfireCode_bad (bad : badRecordAddr (l.srcWN x.a) = true) : tfireCode x self l s = .ok 4 s := by
  rw [tfireCode, Op.get_bind]
  simp only [bad, if_true]
  rfl

theorem tfireCode_live (a : badRecordAddr (l.srcWN x.a) = false) (live : s.liveTask? self.who.tenant (l.srcWN x.a) = some t) :
    tfireCode x self l s = .ok 0 (s.updTask t.id fun t => t.signalled s.clock) := by
  rw [tfireCode, Op.get_bind]
  simp only [a, live, State.signalAddr, State.signalTask, Option.isSome_some, Bool.not_true, Bool.false_and, Bool.false_eq_true, if_false]
  rfl

theorem tfireCode_early (a : badRecordAddr (l.srcWN x.a) = false) (none : s.liveTask? self.who.tenant (l.srcWN x.a) = none)
    (room : (s.tenant self.who.tenant).early.length < 16384) : tfireCode x self l s
      = .ok 11 (s.updTenant self.who.tenant fun t => { t with early := l.srcWN x.a :: t.early }) := by
  have fits : decide (16384 ≤ (s.tenant self.who.tenant).early.length) = false := decide_eq_false (by omega)
  rw [tfireCode, Op.get_bind]
  simp only [a, none, fits, State.signalAddr, Option.isSome_none, Bool.and_false, Bool.false_eq_true, if_false]
  rfl

end

/-- A signal to a task, field by field. -/
theorem Task.signalled_eq (t : Task) (clock : Nat) : t.signalled clock = { t with
    count := t.count - 1
    phase := if t.phase = .waiting ∧ t.count - 1 = 0 ∧ t.evWait = false then .ready else t.phase
    readyAt := if t.phase = .waiting ∧ t.count - 1 = 0 ∧ t.evWait = false then clock else t.readyAt } := by
  simp only [Task.signalled, Task.tryReady, Bool.and_eq_true, beq_iff_eq, Bool.not_eq_true', and_assoc]
  split <;> rfl

/-! ## TCNCL (07 R181) -/

theorem State.task?_of_mem (named : s.tasks.Pairwise fun p q => p.id ≠ q.id) (mem : t ∈ s.tasks) : s.task? t.id = some t := by
  rw [State.task?]
  generalize s.tasks = ts at named mem
  induction ts with
  | nil => cases mem
  | cons a ts ih =>
    obtain ⟨first, rest⟩ := List.pairwise_cons.1 named
    obtain rfl | mem := List.mem_cons.1 mem
    · exact List.find?_cons_of_pos (beq_self_eq_true t.id)
    · rw [List.find?_cons_of_neg (by simpa using first t mem)]
      exact ih rest mem

theorem State.cancelTask_unstarted {status : Nat} (found : s.task? t.id = some t) (going : t.ending = none)
    (unstarted : t.phase = .waiting ∨ t.phase = .ready) :
    s.cancelTask t.id status = s.updTask t.id fun t => { t with ending := some ⟨status, 0, 0, 0⟩, phase := .ending } := by
  rw [State.cancelTask, found]
  obtain phase | phase := unstarted <;> simp [going, phase]

theorem State.liveTask?_some {tn a : Nat} (live : s.liveTask? tn a = some t) :
    t ∈ s.tasks ∧ t.tenant = tn ∧ t.addr = a ∧ t.strand = none ∧ t.guessOf = none := by
  refine ⟨List.mem_of_find?_eq_some live, ?_⟩
  simpa [and_assoc] using List.find?_some live

section
variable {self : Self}

theorem tcnclCode_bad (bad : badRecordAddr (l.srcWN x.a) = true) : tcnclCode x self l s = .ok 4 s := by
  rw [tcnclCode, Op.get_bind]
  simp only [bad, if_true]
  rfl

theorem tcnclCode_run (a : badRecordAddr (l.srcWN x.a) = false) : tcnclCode x self l s
    = match s.liveTask? self.who.tenant (l.srcWN x.a) with
      | none => .ok 7 s
      | some t => if s.completing t then .ok 10 s else .ok 0 (s.cancelTask t.id 4) := by
  rw [tcnclCode, Op.get_bind]
  simp only [a, Bool.false_eq_true, if_false]
  cases s.liveTask? self.who.tenant (l.srcWN x.a) with
  | none => rfl
  | some t =>
    dsimp only
    split <;> rfl

end

theorem State.completing_unstarted (unstarted : t.phase = .waiting ∨ t.phase = .ready) : s.completing t = false := by
  obtain phase | phase := unstarted <;> simp [State.completing, phase]

theorem State.hasBlocks_false (blocks : ∀ b ∈ s.blocks, b.task ≠ t.id) (rest : ∀ r ∈ (s.tenant t.tenant).rest, r.block.task ≠ t.id) :
    s.hasBlocks t = false := by
  rw [State.hasBlocks, Bool.or_eq_false_iff, List.any_eq_false, List.any_eq_false]
  exact ⟨fun b hb => by simpa using blocks b hb, fun r hr => by simpa using rest r hr⟩

/-! ## TEVT (07 R183) -/

theorem OneLane.self_task (hs : OneLane s c w x l) {task : Task} (owner : s.taskOfWave w = some task) :
    s.idle.taskName (s.idle.self l.ref).who = (task.graphId, task.taskNum) := by
  have wave : s.idle.wave? l.ref.wave = some w := hs.ref ▸ hs.ready.wave
  obtain ⟨b, block, found⟩ := Option.bind_eq_some_iff.1 owner
  have block' : s.idle.blockOf w = some b := block
  have found' : s.idle.task? b.task = some task := found
  simp only [State.taskName, State.self, wave, Option.bind_some, block', Option.map_some, Option.getD_none, State.nameOf, found']

theorem exec_tevt (hs : OneLane s c w x l) (outside : s.strandOf w = none) {task : Task} (owner : s.taskOfWave w = some task)
    (posted : s.idle.postEvent (s.tenantOfWave w) 3 (l.srcWN x.b) task.graphId task.taskNum ((l.src x.a).val.toNat % 65536) = u)
    (ready : Ready u c w) : exec (.tevt x) s = .next (u.issued c w w x fun _ => {}) := by
  refine congrArg Host.Outcome.next (runOp_one hs ?_ ready rfl rfl)
  obtain ⟨saving, head⟩ := hs.taskWaits outside
  rw [tevtOp, Op.get_bind, Op.bind_run saving, Op.bind_run head, Op.get_bind]
  simp only [hs.self_task owner, hs.self_tenant]
  exact congrArg (EStateM.Result.ok (LaneRes.done {})) posted

/-! ## The obligation -/

/-- Settles O31: each instruction's operation is run to its code, and the cohort is ready in the state that it leaves. -/
theorem taskSignals : Obligations.TaskSignals := by
  intro s c w x l hs outside a b tn bad code
  have tenant : (s.idle.self l.ref).who.tenant = tn := hs.self_tenant
  have answers : ∀ {i : Dev → Instr} {m : Self → LaneCtx → Op Nat} {n u}, (exec (i x) s = .next (runOp x (taskOp x m) s)) →
      m (s.idle.self l.ref) l s.idle = .ok n u → Ready u c w → code i u n :=
    fun meaning run ready => meaning.trans (congrArg Host.Outcome.next (runOp_taskOp hs outside run ready))
  have live : ∀ v, s.idle.liveTask? (s.idle.self l.ref).who.tenant v = s.liveTask? tn v := fun v => by rw [tenant]; rfl
  refine ⟨fun which => ?tdepBad, fun isBad => ⟨?tfireBad, ?tcnclBad⟩, fun goodA goodB => ?tdep, fun good absent room => ?tfireEarly,
    fun good t found => ?tfire, fun good absent => ?tcnclAbsent, fun good t found named going => ?tcncl, fun k owner => ?tevt⟩
  case tdepBad =>
    exact answers rfl (tdepCode_bad (which.imp (badRecordAddr_iff _).2 (badRecordAddr_iff _).2)) hs.ready
  case tfireBad => exact answers rfl (tfireCode_bad ((badRecordAddr_iff _).2 isBad)) hs.ready
  case tcnclBad => exact answers rfl (tcnclCode_bad ((badRecordAddr_iff _).2 isBad)) hs.ready
  case tdep =>
    have run := tdepCode_run (self := s.idle.self l.ref) (s := s.idle) (badRecordAddr_false goodA) (badRecordAddr_false goodB)
    rw [live, live] at run
    refine ⟨fun absent => answers rfl (run.trans ?_) hs.ready, fun t v foundA foundB => ?_⟩
    · obtain none | none := absent
      · rw [none]
      · rw [none]
        cases s.liveTask? tn (l.srcWN x.a) <;> rfl
    rw [foundA, foundB] at run
    refine ⟨fun started => answers rfl (run.trans ?_) hs.ready, fun waits full => answers rfl (run.trans ?_) hs.ready,
      fun waits room => answers rfl (run.trans ?_) ?_⟩
    · exact if_pos started
    · dsimp only
      rw [if_neg (not_not.2 waits), if_pos full]
    · dsimp only
      rw [if_neg (not_not.2 waits), if_neg (by omega)]
    · refine Ready.updTask (Ready.updTask hs.ready ?_) ?_ <;> exact fun _ => ⟨rfl, rfl⟩
  case tfireEarly =>
    have run := tfireCode_early (self := s.idle.self l.ref) (s := s.idle) (badRecordAddr_false good) ((live _).trans absent) (by rw [tenant]; exact room)
    rw [tenant] at run
    exact answers rfl run (hs.ready.updTenant (fun _ => rfl) fun _ => rfl)
  case tfire =>
    have run := tfireCode_live (self := s.idle.self l.ref) (s := s.idle) (badRecordAddr_false good) ((live _).trans found)
    simp only [Task.signalled_eq] at run
    exact answers rfl run (hs.ready.updTask fun _ => ⟨rfl, rfl⟩)
  case tcnclAbsent =>
    have run := tcnclCode_run (self := s.idle.self l.ref) (s := s.idle) (badRecordAddr_false good)
    rw [live, absent] at run
    exact answers rfl run hs.ready
  case tcncl =>
    have run := tcnclCode_run (self := s.idle.self l.ref) (s := s.idle) (badRecordAddr_false good)
    rw [live, found] at run
    obtain ⟨mem, own, -⟩ := State.liveTask?_some found
    refine ⟨fun unstarted => answers rfl (run.trans ?_) (hs.ready.updTask fun _ => ⟨rfl, rfl⟩),
      fun running kernel blocks rest done => answers rfl (run.trans (if_pos ?_)) hs.ready⟩
    · have task : s.idle.task? t.id = some t := State.task?_of_mem (s := s.idle) named mem
      dsimp only
      rw [State.completing_unstarted unstarted, if_neg Bool.false_ne_true, State.cancelTask_unstarted task going unstarted]
    · have empty : s.idle.hasBlocks t = false := State.hasBlocks_false (s := s.idle) blocks (own.symm ▸ rest)
      simp [State.completing, running, kernel, empty, done]
  case tevt => exact fun ready => exec_tevt hs outside owner rfl ready

end Sys2Proof.Machine
end

section
/-! The starts of gangs (06 R156) and of host, near-memory and copy tasks (15 R338, R343, R350-R352; 22 R420). -/
namespace Sys2Proof.Machine
variable {s s1 u : State} {t : Task} {x : Slice} {sl h n inst c0 : Nat} {cores rest : List Nat}

/-! ## Gangs -/

/-- What the start of n blocks of a task on some cores leaves: blocks and waves after those that were there, and the task's counts. -/
structure GangStarted (s u : State) (t : Task) (cores : List Nat) (n : Nat) : Prop where
  mem    : u.mem = s.mem
  blocks : ∃ bs, u.blocks = s.blocks ++ bs ∧ bs.length = n
    ∧ ∀ i b, bs[i]? = some b → b.task = t.id ∧ b.blockId = t.nextBlk + i ∧ b.core ∈ cores
  waves  : ∃ ws, u.waves = s.waves ++ ws
  task   : ∃ t', u.task? t.id = some t' ∧ t'.nextBlk = t.nextBlk + n ∧ t'.started = t.started + n

theorem placeGang_started (ht : s.task? t.id = some t) (placed : placeGang t.id h cores n s = some u) : GangStarted s u t cores n := by
  induction n generalizing s t with
  | zero =>
    obtain rfl : s = u := Option.some.inj placed
    exact ⟨rfl, ⟨[], (List.append_nil _).symm, rfl, fun i b hb => by simp at hb⟩, ⟨[], (List.append_nil _).symm⟩, t, ht, rfl, rfl⟩
  | succ n ih =>
    rw [placeGang, ht] at placed
    dsimp only at placed
    split at placed
    · cases placed
    rename_i core room
    obtain ⟨s1, started, blocks, waves, mem, -, -, task⟩ := State.startBlock_spec (core := core) (h := h) ht
    rw [started] at placed
    obtain ⟨mem', ⟨bs, blocks', length, each⟩, ⟨ws, waves'⟩, t', task', next, count⟩ :=
      ih (s := s1) (t := { t.begins s with nextBlk := t.nextBlk + 1, started := t.started + 1 }) task placed
    refine ⟨mem'.trans mem, ⟨s.blockFor t core h :: bs, ?_, congrArg (· + 1) length, fun i b hb => ?_⟩,
      ⟨s.wavesFor t core h ++ ws, ?_⟩, t', task', ?_, ?_⟩
    · rw [blocks', blocks, List.append_assoc, List.singleton_append]
    · cases i with
      | zero =>
        obtain rfl : s.blockFor t core h = b := Option.some.inj hb
        exact ⟨rfl, rfl, List.mem_of_find?_eq_some room⟩
      | succ i =>
        obtain ⟨own, number, there⟩ := each i b hb
        exact ⟨own, number.trans (Nat.add_right_comm ..), there⟩
    · rw [waves', waves, List.append_assoc]
    · exact next.trans (Nat.add_right_comm ..)
    · exact count.trans (Nat.add_right_comm ..)

section
variable (ht : s.task? t.id = some t) (gang : t.colevel ≠ 0) (level : levelCores t.colevel inst = c0 :: rest) (picked : s.pickWave c0 = some (t, sl, x))
  (launch : s.launchOf t = (.header h, s1))
include ht gang level picked launch

theorem State.dispatchGang_tooBig (big : gangTooBig t h = true) : s.dispatchGang t.id inst = s1.endTask t.id ⟨2, 0, 0, 0⟩ := by
  simp [State.dispatchGang, ht, gang, level, picked, launch, big]

theorem State.dispatchGang_placed (small : gangTooBig t h = false) (placed : placeGang t.id h (c0 :: rest) t.blocks s1 = some u) :
    s.dispatchGang t.id inst = (u.updTask t.id fun t => { t with gang := none }).setSlice sl (x.charge t) := by
  simp [State.dispatchGang, ht, gang, level, picked, launch, small, placed]

end

/-- A gang of the right kind that has waited long enough reserves its slots, where no other gang waits for them. -/
theorem State.reserveGang_reserves (ht : s.task? t.id = some t) (kernel : t.kind = 0) (gang : t.colevel ≠ 0) (ready : t.phase = .ready)
    (going : t.ending = none) (free : t.gang = none) (long : 65536 ≤ s.clock - t.readyAt)
    (mine : ∃ c ∈ (levelCores t.colevel inst).head?, t.slice ∈ s.dieSlices (dieOfCore c))
    (unreserved : ∀ c ∈ levelCores t.colevel inst, s.reserved c t.id = false) :
    s.reserveGang t.id inst = s.updTask t.id fun t => { t with gang := some inst } := by
  obtain ⟨c, first, own⟩ := mine
  have near : ((levelCores t.colevel inst).head?.any fun c => decide (t.slice ∈ s.dieSlices (dieOfCore c))) = true := by
    rw [first, Option.any_some, decide_eq_true own]
  have alone : ((levelCores t.colevel inst).any fun c => s.reserved c t.id) = false := by
    rw [List.any_eq_false]
    exact fun c hc => by simp [unreserved c hc]
  simp [State.reserveGang, ht, kernel, gang, ready, going, free, long, near, alone]

/-! ## The start of a task that is no wave kernel -/

/-- A task charged and started: it runs, dated by its tenant's clock; nothing else that the hubs, threads or memory hold has changed. -/
theorem State.chargeBegin_spec (ht : s.task? t.id = some t) (ready : t.phase = .ready) :
    ∃ u t', (s.setSlice sl (x.charge t)).beginTask t.id = u ∧ SameRun s u ∧ u.tenants = s.tenants ∧ u.nms = s.nms ∧ u.copies = s.copies
      ∧ u.irqs = s.irqs ∧ u.task? t.id = some t' ∧ t'.phase = .running ∧ t'.startClk = s.clockOf t.tenant ∧ t'.id = t.id ∧ t'.tenant = t.tenant
      ∧ t'.strand = t.strand := by
  obtain ⟨f, begun, ft, hf⟩ := State.beginTask_eq (s := s.setSlice sl (x.charge t)) (k := t.id) ht
  have waits : t.phase ≠ .running := by rw [ready]; decide
  refine ⟨_, _, begun, ⟨rfl, rfl, rfl, rfl⟩, rfl, rfl, rfl, rfl, State.task?_updTask_some (fun y => (hf y).1) ht, ?_⟩
  rw [ft, Task.begins_first waits]
  exact ⟨rfl, rfl, rfl, rfl, rfl⟩

theorem State.hostDispatch_spec (picked : s.pickKind sl 1 (fun _ => true) = some (t, x)) (held : s.holds t) (ready : t.phase = .ready) :
    ∃ u, s.dispatchHost sl = u ∧ SameRun s u ∧ (u.tenant t.tenant).hostQ = (s.tenant t.tenant).hostQ ++ [t.addr]
      ∧ u.irqs = (if fld (s.tenant t.tenant).ctl.toNat 46 36 = 0 then [] else [.hostTask t.tenant (fld (s.tenant t.tenant).ctl.toNat 46 36)]) ++ s.irqs
      ∧ ∃ t', u.task? t.id = some t' ∧ t'.phase = .running ∧ t'.startClk = s.clockOf t.tenant := by
  obtain ⟨ht, own⟩ := held
  obtain ⟨u, t', begun, same, tenants, -, -, irqs, task, running, clock, -, -⟩ := State.chargeBegin_spec (sl := sl) (x := x) ht ready
  have queue : ∀ k, u.tenant k = s.tenant k := fun k => by rw [State.tenant, State.tenant, tenants]
  have queued : (u.updTenant t.tenant fun n => { n with hostQ := n.hostQ ++ [t.addr] }).tenant t.tenant
      = { s.tenant t.tenant with hostQ := (s.tenant t.tenant).hostQ ++ [t.addr] } := by
    rw [State.tenant_updTenant (tenants ▸ own), queue]
  simp only [State.dispatchHost, picked, begun, queued, beq_iff_eq]
  by_cases silent : fld (s.tenant t.tenant).ctl.toNat 46 36 = 0
  · rw [if_pos silent, if_pos silent]
    exact ⟨_, rfl, same, congrArg Tenant.hostQ queued, irqs, t', task, running, clock⟩
  · rw [if_neg silent, if_neg silent]
    exact ⟨_, rfl, same, congrArg Tenant.hostQ queued, congrArg (_ :: ·) irqs, t', task, running, clock⟩

/-! ## Near-memory tasks -/

theorem lowCode_eq (code : Nat) {p : Prop} [Decidable p] : lowCode code (decide p) = if code = 0 ∧ p then 4 else code := by
  simp [lowCode]

theorem State.endTask_detailed {detail : Nat} {e : TaskEnd} (ht : s.task? t.id = some t) :
    (((s.setSlice sl x).updTask t.id fun t => { t with detail := detail }).endTask t.id e).task? t.id
      = some { t with detail := detail, ending := some (t.ending.getD e), phase := .ending, gang := none } := by
  have found : (s.setSlice sl x).task? t.id = some t := ht
  simp only [State.endTask, State.task?_updTask, implies_true, found, Option.map_some]

theorem nmDetail_refusal (code : Nat) : nmDetail 3 code 0 0 = 3 * 2 ^ 56 + code * 2 ^ 32 := by
  simp [nmDetail]

section
variable {r : Nat} (picked : s.pickKind sl 2 s.unheld = some (t, x)) (read : s.taskRead t 3 t.codeVa 64 = (.ok r, s1))
include picked read

theorem State.startNmTask_refused (refused : lowCode (nmCode (s1.tenant t.tenant).verTask r true) (decide (t.codeVa % 64 ≠ 0)) = n) (some : n ≠ 0) :
    s.startNmTask sl = ((s1.setSlice sl (x.charge t)).updTask t.id fun t => { t with detail := nmDetail 3 n 0 0 }).endTask t.id ⟨3, 0, 0, 0⟩ := by
  have pick : (s.pickKind sl 2 fun t => t.hdrWait.all fun e => !s.faults.any fun f => f.id == e) = Option.some (t, x) := picked
  simp only [State.startNmTask, pick, read, bne_eq_decide, refused, decide_eq_true_eq]
  rw [if_pos some]

theorem State.startNmTask_posts {t' : Task} (good : lowCode (nmCode (s1.tenant t.tenant).verTask r true) (decide (t.codeVa % 64 ≠ 0)) = 0)
    (begun : (s1.setSlice sl (x.charge t)).beginTask t.id = u) (task : u.task? t.id = some t') :
    s.startNmTask sl = u.postNm (u.taskPoster t') r true := by
  have pick : (s.pickKind sl 2 fun t => t.hdrWait.all fun e => !s.faults.any fun f => f.id == e) = Option.some (t, x) := picked
  simp only [State.startNmTask, pick, read, bne_eq_decide, good, begun, task]
  rfl

end

/-! ## Copy tasks -/

/-- A copy descriptor that 15 R338 and R343 allow under a version. -/
def CopyDescGood (chosen d : Nat) : Prop :=
  verOk (fld d 15 0) chosen = true ∧ fld d 31 25 = 0 ∧ fld d 127 42 = 0 ∧ fld d 263 256 = 0
    ∧ fld d 511 504 = 0 ∧ fld d 24 22 ≠ 7 ∧ (fld d 21 20 = 0 → fld d 24 22 = 0) ∧ (fld d 17 16 = 1 ∨ fld d 17 16 = 2 → bit d 18 = false)
    ∧ (bit d 19 = true → fld d 17 16 = 0 ∨ fld d 17 16 = 2) ∧ fld d 255 192 < 2 ^ 60
    ∧ fld d 255 192 % (if fld d 17 16 = 1 then 8 else if fld d 17 16 = 2 then 4096 else 16) = 0

theorem copyDescBad_false {chosen d : Nat} : copyDescBad chosen d = false ↔ CopyDescGood chosen d := by
  have mode : fld d 17 16 < 4 := by
    rw [fld_eq_div_mod]
    exact Nat.mod_lt _ (by decide)
  have carries : (bit d 19 = false ∨ ¬fld d 17 16 = 1 ∧ ¬fld d 17 16 = 3) ↔ (bit d 19 = true → fld d 17 16 = 0 ∨ fld d 17 16 = 2) := by
    cases bit d 19
    · simp
    · simp only [Bool.true_eq_false, false_or, true_implies]
      omega
  simp only [copyDescBad, CopyDescGood, canonical, Bool.or_eq_false_iff, Bool.and_eq_false_iff, bne_eq_false_iff_eq, Bool.not_eq_false',
    decide_eq_true_eq, beq_eq_false_iff_ne, beq_iff_eq, ne_eq, and_assoc, carries]
  constructor
  · rintro ⟨ver, a, b, c, e, reserved, scope, dir, flags, canon, aligned⟩
    exact ⟨ver, e, c, b, a, reserved, fun z => scope.resolve_left (not_not.2 z), fun m => dir.resolve_left (by omega), flags, canon, aligned⟩
  · rintro ⟨ver, e, c, b, a, reserved, scope, dir, flags, canon, aligned⟩
    refine ⟨ver, a, b, c, e, reserved, ?_, ?_, flags, canon, aligned⟩
    · exact or_iff_not_imp_left.2 fun z => scope (not_not.1 z)
    · exact or_iff_not_imp_left.2 fun z => dir (by omega)

section
variable {d : Nat} (picked : s.pickKind sl 3 (fun t => !s.mustWait t.strand && s.unheld t) = some (t, x)) (outside : t.strand = none)
  (read : s.taskRead t 3 t.codeVa 64 = (.ok d, s1))
include picked outside read

theorem State.startCopyTask_refused (bad : ¬ CopyDescGood (s1.tenant t.tenant).verTask d) :
    s.startCopyTask sl = (s1.setSlice sl (x.charge t)).endCopyTask t.id 4 0 0 0 := by
  have pick : (s.pickKind sl 3 fun t => !s.mustWait t.strand && t.hdrWait.all fun e => !s.faults.any fun f => f.id == e) = some (t, x) := picked
  have refuses : copyDescBad (s1.tenant t.tenant).verTask d = true := Bool.eq_true_of_not_eq_false fun e => bad (copyDescBad_false.1 e)
  have head : Op.attempt (awaitHead t.strand) s = (.ok (), s) := by rw [outside]; rfl
  simp only [State.startCopyTask, pick, head, read, refuses, if_true]

theorem State.startCopyTask_starts {t' : Task} (good : CopyDescGood (s1.tenant t.tenant).verTask d)
    (begun : (s1.setSlice sl (x.charge t)).beginTask t.id = u) (task : u.task? t.id = some t') :
    s.startCopyTask sl = { u.newId.2 with copies := u.copies
      ++ [descCopy u.nextId (u.newId.2.taskPoster t') sl (u.newId.2.snapshot t'.tenant t'.id (fld d 41 32)) d] } := by
  have pick : (s.pickKind sl 3 fun t => !s.mustWait t.strand && t.hdrWait.all fun e => !s.faults.any fun f => f.id == e) = some (t, x) := picked
  have head : Op.attempt (awaitHead t.strand) s = (.ok (), s) := by rw [outside]; rfl
  simp only [State.startCopyTask, pick, head, read, copyDescBad_false.2 good, Bool.false_eq_true, if_false, begun, task]
  rfl

end

/-! ## The obligation -/

/-- Settles O38: the blocks of a gang are placed one after another, and each other task begins and posts what its record asks for. -/
theorem gangsAndOtherTasksStart : Obligations.GangsAndOtherTasksStart := by
  refine ⟨⟨fun s s1 s2 inst h c0 sl t x rest ht gang level picked launch ht1 => ⟨fun big => ?tooBig, fun small placed => ?placed⟩,
    fun s inst t ht kernel gang ready going free long mine unreserved => ?reserves⟩,
    fun s sl t x picked held ready => ?host, fun s s1 sl r t x picked read held ready => ⟨fun good => ?posts, fun bad => ?nmRefused⟩,
    fun s s1 sl e d t x picked outside read held ready => ⟨fun good => ?copies, fun bad => ?copyRefused⟩⟩
  case tooBig =>
    exact ⟨_, congrArg Host.Outcome.next (State.dispatchGang_tooBig ht gang level picked launch big), State.endTask_sameRun, State.endTask_task? ht1⟩
  case placed =>
    obtain ⟨mem, ⟨bs, blocks, length, each⟩, ⟨ws, waves⟩, t', task, next, count⟩ := placeGang_started ht1 placed
    refine ⟨_, congrArg Host.Outcome.next (State.dispatchGang_placed ht gang level picked launch small placed), mem, ?_, ?_, ?_, fun i b hb => ?_,
      _, State.task?_updTask_some (fun _ => rfl) task, next, count, rfl⟩
    · exact (congrArg List.length blocks).trans (List.length_append.trans (congrArg _ length))
    · exact (congrArg (List.take _) blocks).trans List.take_left
    · exact (congrArg (List.take _) waves).trans List.take_left
    · refine each i b (Eq.trans ?_ hb)
      refine Eq.trans ?_ (congrArg (·[s1.blocks.length + i]?) blocks.symm)
      rw [List.getElem?_append_right (Nat.le_add_right ..), Nat.add_sub_cancel_left]
  case reserves =>
    exact ⟨_, congrArg Host.Outcome.next (State.reserveGang_reserves ht kernel gang ready going free long mine unreserved), ⟨rfl, rfl, rfl, rfl⟩,
      State.task?_updTask_some (fun _ => rfl) ht⟩
  case host =>
    obtain ⟨u, run, spec⟩ := State.hostDispatch_spec picked held ready
    exact ⟨u, congrArg Host.Outcome.next run, spec⟩
  case posts =>
    obtain ⟨u, t', begun, same, tenants, nms, -, -, task, running, -, id, tenant, -⟩ := State.chargeBegin_spec (sl := sl) (x := x) held.1 ready
    refine ⟨_, _, congrArg Host.Outcome.next (State.startNmTask_posts picked read ((lowCode_eq ..).trans good) begun task), same,
      congrArg (· ++ [_]) nms, rfl, rfl, rfl, id, rfl, ?_, t', task, running⟩
    change ((u.tenant t'.tenant).root.toNat) = _
    rw [tenant, State.tenant, tenants]
    rfl
  case nmRefused =>
    refine ⟨_, congrArg Host.Outcome.next (State.startNmTask_refused picked read (lowCode_eq ..) bad), ⟨rfl, rfl, rfl, rfl⟩, rfl, ?_⟩
    rw [← nmDetail_refusal]
    exact State.endTask_detailed held.1
  case copies =>
    obtain ⟨u, t', begun, same, -, -, copies, -, task, running, -, id, -⟩ := State.chargeBegin_spec (sl := sl) (x := x) held.1 ready
    refine ⟨_, _, congrArg Host.Outcome.next (State.startCopyTask_starts picked outside read good begun task), same,
      congrArg (· ++ [_]) copies, rfl, rfl, rfl, rfl, rfl, id,
      ⟨u.newId.2.snapshot t'.tenant t'.id (fld d 41 32), ?_⟩, t', task, running⟩
    simp only [descCopy, beq_iff_eq]
  case copyRefused =>
    exact ⟨_, congrArg Host.Outcome.next (State.startCopyTask_refused picked outside read bad), ⟨rfl, rfl, rfl, rfl⟩, rfl,
      State.task?_updTask_some (fun _ => rfl) held.1⟩

end Sys2Proof.Machine
end

section
/-! What a record written or read through a tenant's translation leaves alone besides blocks and tasks: the loops. One lemma for each function on its
way, in the order of the model's files. -/
namespace Sys2Proof.Machine
variable {s t : State}

theorem State.loops_of_eq {α : Type} {p : α × State} {a : α} (is : p = (a, t)) (kept : p.2.loops = s.loops) : t.loops = s.loops := by
  rwa [is] at kept

/-! ## Operations -/

/-- An operation leaves the loops alone, whether it ends or stops. -/
def Op.KeepsLoops {α : Type} (x : Op α) : Prop := ∀ s : State, (x.attempt s).2.loops = s.loops

theorem Op.keepsLoops_bind {α β : Type} {x : Op α} {f : α → Op β} (hx : Op.KeepsLoops x) (hf : ∀ a, Op.KeepsLoops (f a)) : Op.KeepsLoops (x >>= f) := by
  intro s
  have first := hx s
  rw [Op.attempt] at first ⊢
  change (match EStateM.bind x f s with | .ok a u => ((.ok a, u) : Except Stop β × State) | .error e u => (.error e, u)).2.loops = s.loops
  rw [EStateM.bind]
  cases run : x s with
  | ok a u =>
    rw [run] at first
    exact (hf a u).trans first
  | error e u =>
    rw [run] at first
    exact first

theorem State.forEach_loops {α : Type} {l : List α} {f : α → State → State} (hf : ∀ a s, (f a s).loops = s.loops) : (s.forEach l f).loops = s.loops := by
  induction l generalizing s with
  | nil => rfl
  | cons a l ih => rw [State.forEach_cons, ih, hf]

/-! ## What changes a part of the state that is no loop -/

@[simp] theorem State.recall_loops (l : Nat) : (s.recall l).loops = s.loops := rfl
@[simp] theorem State.perfHubEvent_loops (tenant hub ev n : Nat) : (s.perfHubEvent tenant hub ev n).loops = s.loops := rfl

/-! ## Home -/

@[simp] theorem State.hubError_loops (h unit pa : Nat) : (s.hubError h unit pa).loops = s.loops := rfl
@[simp] theorem State.dieError_loops (d unit pa : Nat) : (s.dieError d unit pa).loops = s.loops := rfl
@[simp] theorem State.lostError_loops (pa : Nat) : (s.lostError pa).loops = s.loops := rfl
@[simp] theorem State.setFrame_loops (f : FrameState) : (s.setFrame f).loops = s.loops := rfl
@[simp] theorem State.countError_loops (p : ErrPlace) : (s.countError p).loops = s.loops := by
  unfold State.countError
  grind [State.hubError_loops, State.dieError_loops]
@[simp] theorem State.findErrors_loops (p : ErrPlace → Bool) : (s.findErrors p).loops = s.loops := by
  unfold State.findErrors
  split
  · rfl
  · exact State.forEach_loops fun p s => s.countError_loops p
@[simp] theorem State.updFrame_loops (ppn : Nat) (g : FrameState → FrameState) : (s.updFrame ppn g).loops = s.loops := by
  grind [State.updFrame, State.setFrame_loops]
@[simp] theorem trigger_loops (f : FrameState) (die : Option Nat) : (trigger s f die).loops = s.loops := by
  unfold trigger
  extract_lets
  split <;> rfl
@[simp] theorem countAt_loops (die : Option Nat) (pa : Nat) : (countAt die pa s).loops = s.loops := by
  grind [countAt, State.updMove_loops, State.setFrame_loops, State.updFrame_loops, trigger_loops]
@[simp] theorem State.markDirty_loops (tenant pa : Nat) : (s.markDirty tenant pa).loops = s.loops := by
  grind [State.markDirty, State.poke_loops]
@[simp] theorem State.markDirtyAll_loops (pa : Nat) : (s.markDirtyAll pa).loops = s.loops := State.forEach_loops fun n s => s.markDirty_loops n pa
@[simp] theorem State.loseResv_loops (line : Nat) : (s.loseResv line).loops = s.loops := by
  unfold State.loseResv
  split <;> rfl
@[simp] theorem State.put_loops (tenant pa : Nat) (bs : List Byte) : (s.put tenant pa bs).loops = s.loops := by
  grind [State.put, State.lostError_loops, State.markDirtyAll_loops, State.markDirty_loops, State.loseResv_loops, State.poke_loops]
@[simp] theorem State.setBad_loops (pa : Nat) (b : Bool) : (s.setBad pa b).loops = s.loops := by
  grind [State.setBad, State.setPoison_loops]
@[simp] theorem State.putLine_loops (tenant pa : Nat) (bs : List Byte) : (s.putLine tenant pa bs).loops = s.loops := by
  grind [State.putLine, State.lostError_loops, State.put_loops, State.setBad_loops]
@[simp] theorem State.noteRead_loops (pa n : Nat) : (s.noteRead pa n).loops = s.loops := by
  grind [State.noteRead, State.forEach_loops, State.findErrors_loops, State.setBad_loops]
@[simp] theorem State.copyLine_loops (src dst : Nat) : (s.copyLine src dst).loops = s.loops := by
  grind [State.copyLine, State.lostError_loops, State.setPoison_loops, State.markDirtyAll_loops, State.noteRead_loops, State.poke_loops]
@[simp] theorem State.putPte_loops (tenant pa e : Nat) : (s.putPte tenant pa e).loops = s.loops := by
  rw [State.putPte, State.put_loops, State.recall_loops]
@[simp] theorem State.putNow_loops (tenant pa : Nat) (count : Bool) (bs : List Byte) : (s.putNow tenant pa count bs).loops = s.loops := by
  grind [State.putNow, countAt_loops, State.recall_loops, State.put_loops, State.putLine_loops]
@[simp] theorem State.putHome_loops (tenant pa : Nat) (count : Bool) (bs : List Byte) : (s.putHome tenant pa count bs).loops = s.loops := by
  grind [State.putHome, State.updMove_loops, State.recall_loops, State.putNow_loops]

/-! ## Walk -/

@[simp] theorem State.noteWalk_loops (root va : Nat) : (s.noteWalk root va).loops = s.loops := by
  grind [State.noteWalk, State.lostError_loops, State.noteRead_loops]
@[simp] theorem State.touchLeaf_loops (tenant : Nat) (a : Access) (l : Leaf) : (s.touchLeaf tenant a l).2.loops = s.loops := by
  grind [State.touchLeaf, State.putPte_loops]
@[simp] theorem State.shootPage_loops (asid va : Nat) : (s.shootPage asid va).loops = s.loops := rfl
@[simp] theorem State.recordFault_loops (hub tenant asid : Nat) (f : FInfo) (engine : Bool) :
    (s.recordFault hub tenant asid f engine).2.loops = s.loops := by
  unfold State.recordFault
  split <;> rfl
@[simp] theorem State.devLookAt_loops (root tenant hub : Nat) (a : Access) (va : Nat) : (s.devLookAt root tenant hub a va).2.loops = s.loops := by
  have unpaged : ∀ (u : State) pages, ({ u with badPages := pages } : State).loops = u.loops := fun _ _ => rfl
  grind [State.devLookAt, State.noteWalk_loops, State.touchLeaf_loops, State.recordFault_loops]
@[simp] theorem State.devLook_loops (tenant hub : Nat) (a : Access) (va : Nat) : (s.devLook tenant hub a va).2.loops = s.loops := State.devLookAt_loops ..

/-! ## Frames -/

@[simp] theorem State.badFrame_loops (hub : Nat) : (s.badFrame hub).loops = s.loops := rfl
@[simp] theorem State.takeRing_loops (hub place size dpa fuel : Nat) : (s.takeRing hub place size dpa fuel).2.loops = s.loops := by
  induction fuel generalizing s with
  | zero => rfl
  | succ n ih => grind [State.takeRing, State.poke_loops, State.badFrame_loops]
@[simp] theorem State.takeFrame_loops (hub place size : Nat) : (s.takeFrame hub place size).2.loops = s.loops := by
  grind [State.takeFrame, State.takeRing_loops]
@[simp] theorem State.initFrame_loops (f : FrameState) : (s.initFrame f).loops = s.loops := by
  grind [State.initFrame, State.poke_loops, State.setFrame_loops]
@[simp] theorem State.countReq_loops (w : Who) (pa : Nat) : (s.countReq w pa).loops = s.loops := by
  grind [State.countReq, State.perfHubEvent_loops, countAt_loops]
@[simp] theorem State.countLines_loops (w : Who) (pa n : Nat) : (s.countLines w pa n).loops = s.loops :=
  State.forEach_loops fun l s => s.countReq_loops w (64 * l)
@[simp] theorem State.putDdwEntry_loops (w : Who) (pa i e : Nat) : (s.putDdwEntry w pa i e).loops = s.loops := by
  rw [State.putDdwEntry, State.putHome_loops, State.countReq_loops]
@[simp] theorem State.readBucket_loops (w : Who) (pa : Nat) : (s.readBucket w pa).2.loops = s.loops := by
  grind [State.readBucket, State.lostError_loops, State.noteRead_loops, State.countLines_loops]
@[simp] theorem State.copyFrame_loops (src dst : Nat) : (s.copyFrame src dst).loops = s.loops := State.forEach_loops fun _ s => s.copyLine_loops _ _
@[simp] theorem State.cowDone_loops (w : Who) (l : Leaf) (ppn : Nat) : (s.cowDone w l ppn).loops = s.loops := by
  rw [State.cowDone, State.shootPage_loops, State.putPte_loops]
@[simp] theorem State.cowLarge_loops (w : Who) (l : Leaf) : (s.cowLarge w l).loops = s.loops := by
  unfold State.cowLarge
  extract_lets
  rw [State.shootPage_loops]
  exact State.forEach_loops fun _ s => s.putPte_loops _ _ _

/-! ## Copy-on-write resolution -/

theorem cowCopy_keepsLoops (w : Who) (l : Leaf) : Op.KeepsLoops (cowCopy w l) := by
  intro s
  rw [cowCopy, Op.attempt_get]
  extract_lets ppn h
  split
  · rename_i u taken
    exact State.loops_of_eq taken (s.takeFrame_loops ..)
  · rename_i n u taken
    have found : u.loops = s.loops := State.loops_of_eq taken (s.takeFrame_loops ..)
    change (State.cowDone _ w l n).loops = s.loops
    rw [State.cowDone_loops]
    split <;> simp only [State.initFrame_loops, State.copyFrame_loops, found]

theorem cowResolve_keepsLoops (w : Who) (l : Leaf) : Op.KeepsLoops (cowResolve w l) := by
  intro s
  rw [cowResolve, Op.attempt_get]
  extract_lets ppn r s1 fp va
  have read : s1.loops = s.loops := State.noteRead_loops ..
  clear_value s1 fp va
  split
  · rfl
  split
  · exact State.cowLarge_loops w l
  split
  · exact State.cowDone_loops w l ppn
  split
  · exact State.lostError_loops _
  split
  case h_1 id u looked => exact (State.loops_of_eq looked (State.devLook_loops ..)).trans read
  case h_2 f u looked => exact (cowCopy_keepsLoops w l u).trans ((State.loops_of_eq looked (State.devLook_loops ..)).trans read)
  case h_3 bl u looked =>
    have leaf : u.loops = s.loops := (State.loops_of_eq looked (State.devLook_loops ..)).trans read
    extract_lets pa
    split
    case h_1 u' bucket => exact (cowCopy_keepsLoops w l u').trans ((State.loops_of_eq bucket (State.readBucket_loops ..)).trans leaf)
    case h_2 b u' bucket =>
      have found : u'.loops = s.loops := (State.loops_of_eq bucket (State.readBucket_loops ..)).trans leaf
      split
      case h_1 none => exact (State.cowDone_loops w l ppn).trans found
      case h_2 i entry =>
        extract_lets e
        have lowered : Op.KeepsLoops (modify fun s => s.putDdwEntry w pa i (setFld e 187 172 (fld e 187 172 - 1))) :=
          fun s => State.putDdwEntry_loops w pa i _
        split
        · exact (Op.keepsLoops_bind (cowCopy_keepsLoops w l) (fun _ => lowered) u').trans found
        · exact (State.cowDone_loops w l ppn).trans ((State.putDdwEntry_loops ..).trans found)

/-! ## Records -/

@[simp] theorem State.devStore_loops (tenant va : Nat) (bs : List Byte) : (s.devStore tenant va bs).2.loops = s.loops := by
  unfold State.devStore
  extract_lets w
  split
  · exact State.noteWalk_loops ..
  · rename_i l _
    have cow : Op.KeepsLoops (if bit l.pte 2 then pure () else cowResolve w l) := by
      split
      · exact fun _ => rfl
      · exact cowResolve_keepsLoops w l
    have resolved := cow s
    revert resolved
    generalize Op.attempt _ s = p
    grind [State.touchLeaf_loops, State.lostError_loops, State.putHome_loops]
@[simp] theorem State.devWrite_loops (tenant va : Nat) (bs : List Byte) : (s.devWrite tenant va bs).2.loops = s.loops := by
  grind [State.devWrite, State.devStore_loops]

@[simp] theorem State.devRead_loops (tenant va n : Nat) : (s.devRead tenant va n).2.loops = s.loops := by
  grind [State.devRead, State.noteWalk_loops, State.touchLeaf_loops, State.lostError_loops, State.noteRead_loops]
@[simp] theorem State.devRead_work (tenant va n : Nat) : (s.devRead tenant va n).2.work = s.work := by
  grind [State.devRead, State.noteWalk_work, State.touchLeaf_work, State.lostError_work, State.noteRead_work]

end Sys2Proof.Machine
end

section
/-! Rejection, verdicts and cancellation (09 R223, R224, R231, R235; 06 R152): what they leave of the pool. Strands that are rejected lose their
instances; every other task stands as it did, and every loop keeps its name, its guess routine's end and which inputs are sealed. -/
namespace Sys2Proof.Machine
variable {s t u : State} {l k : Nat}

/-! ## A pool that has lost instances of strands at most -/

/-- What no verdict, rejection or cancellation changes of a loop. -/
def Loop.standing (l : Loop) : Nat × Option Bool × List Bool := (l.task, l.guessEnd, l.strands.map (·.sealedIn))

/-- `u` has the pool of `s` but for instances of strands that are gone. -/
structure Sheds (s u : State) : Prop where
  loops : u.loops.map Loop.standing = s.loops.map Loop.standing
  fewer : u.tasks.Sublist s.tasks
  plain : ∀ t ∈ s.tasks, t.strand = none → t ∈ u.tasks

theorem Sheds.of_same (tasks : u.tasks = s.tasks) (loops : u.loops = s.loops) : Sheds s u := by
  refine ⟨by rw [loops], ?_, ?_⟩
  · rw [tasks]
  · rw [tasks]
    exact fun _ mem _ => mem

theorem Sheds.refl (s : State) : Sheds s s := .of_same rfl rfl

theorem Sheds.trans (h : Sheds s t) (k : Sheds t u) : Sheds s u :=
  ⟨k.loops.trans h.loops, k.fewer.trans h.fewer, fun y mem plain => k.plain y (h.plain y mem plain) plain⟩

theorem Sheds.forEach {α : Type} {f : α → State → State} (hf : ∀ a u, Sheds u (f a u)) (l : List α) (s : State) : Sheds s (s.forEach l f) :=
  State.forEach_keeps (Sheds s) f (fun a u h => h.trans (hf a u)) l s (.refl s)

theorem Sheds.of_work (work : u.work = s.work) (loops : u.loops = s.loops) : Sheds s u := .of_same (congrArg Prod.snd work) loops

theorem State.updLoop_sheds {f : Loop → Loop} (same : ∀ x, (f x).standing = x.standing) : Sheds s (s.updLoop l f) := by
  refine ⟨?_, .refl _, fun _ mem _ => mem⟩
  rw [State.updLoop_loops, List.map_map]
  refine List.map_congr_left fun x _ => ?_
  simp only [Function.comp]
  split
  · exact same x
  · rfl

theorem Loop.updStrand_standing {f : Strand → Strand} (same : ∀ x, (f x).sealedIn = x.sealedIn) (lp : Loop) (k : Nat) :
    (lp.updStrand k f).standing = lp.standing := by
  have inputs : (lp.strands.modify k f).map (·.sealedIn) = lp.strands.map (·.sealedIn) := by
    refine List.ext_getElem (by simp) fun i _ _ => ?_
    simp only [List.getElem_map, List.getElem_modify]
    split
    · exact same _
    · rfl
  rw [Loop.standing, Loop.standing, Loop.updStrand, inputs]

theorem State.updStrand_sheds {f : Strand → Strand} (same : ∀ x, (f x).sealedIn = x.sealedIn) : Sheds s (s.updStrand l k f) :=
  State.updLoop_sheds fun x => Loop.updStrand_standing same x k

/-! ## Waits, fault entries and slots -/

theorem State.releaseIf_sheds {p : ThreadRef → Wait → Option (Operand × Reg)} : Sheds s (s.releaseIf p) := by
  have places := State.samePlaces_releaseIf (s := s) (p := p)
  refine .of_same ?_ ?_ <;> rw [places.rest]

/-- A fault entry that is freed leaves the list of entries, and nothing else changes. -/
theorem State.freeFault_only (s : State) (id : Nat) : ∃ fs, s.freeFault id = { s with faults := fs } := by
  unfold State.freeFault
  split
  · exact ⟨_, rfl⟩
  · extract_lets rest
    split <;> exact ⟨_, rfl⟩

theorem State.sweepFaults_only (s : State) : ∃ fs, s.sweepFaults = { s with faults := fs } := by
  refine State.forEach_keeps (fun u => ∃ fs, u = { s with faults := fs }) _ (fun e u => ?_) _ s ⟨_, rfl⟩
  rintro ⟨fs, rfl⟩
  split
  · exact ⟨fs, rfl⟩
  · obtain ⟨fs', freed⟩ := State.freeFault_only { s with faults := fs } e.id
    exact ⟨fs', freed⟩

theorem State.sweepFaults_sheds : Sheds s s.sweepFaults := by
  obtain ⟨fs, only⟩ := s.sweepFaults_only
  rw [only]
  exact .of_same rfl rfl

theorem State.devRead_sheds {tenant va n : Nat} : Sheds s (s.devRead tenant va n).2 := .of_work (s.devRead_work ..) (s.devRead_loops ..)

theorem State.devWrite_sheds {tenant va : Nat} {bs : List Byte} : Sheds s (s.devWrite tenant va bs).2 :=
  .of_work (s.devWrite_work ..) (s.devWrite_loops ..)

theorem Sheds.of_read {tenant va n : Nat} {o : Option Nat} (read : s.devRead tenant va n = (o, u)) : Sheds s u := by
  have kept := State.devRead_sheds (s := s) (tenant := tenant) (va := va) (n := n)
  rwa [read] at kept

theorem State.clearSlot_sheds {tenant cursor k : Nat} : Sheds s (s.clearSlot tenant cursor k) := by
  unfold State.clearSlot
  split
  · exact .of_read ‹_›
  rename_i r u1 read1
  split
  · exact .of_read read1
  dsimp only
  split
  · exact (Sheds.of_read read1).trans (.of_read ‹_›)
  rename_i e u2 read2
  have wrote : ∀ va bs, Sheds s (u2.devWrite tenant va bs).2 := fun va bs =>
    (Sheds.of_read read1).trans ((Sheds.of_read read2).trans State.devWrite_sheds)
  split
  · exact (wrote ..).trans (.of_read ‹_›)
  · rename_i read3
    exact ((wrote ..).trans (.of_read read3)).trans State.devWrite_sheds

theorem State.setSpec_sheds {tenant cursor n : Nat} : Sheds s (s.setSpec tenant cursor n) := by
  unfold State.setSpec
  split
  · exact .of_read ‹_›
  · rename_i read
    exact (Sheds.of_read read).trans State.devWrite_sheds

theorem State.discardSlots_sheds {lp : Loop} : Sheds s (s.discardSlots lp k) := by
  refine Sheds.forEach (fun i u => ?_) _ s
  exact ((Sheds.forEach (fun _ _ => State.clearSlot_sheds) _ u).trans State.releaseIf_sheds).trans State.setSpec_sheds

/-! ## Rejection, verdicts, cancellation -/

theorem State.dropBlock_sheds : Sheds s (s.dropBlock k) := .of_same rfl rfl

theorem State.rejectOne_sheds {byExit : Bool} : Sheds s (s.rejectOne l k byExit) := by
  unfold State.rejectOne
  split
  · exact .refl s
  split
  · exact .refl s
  split
  · extract_lets s1 s2 s3
    have blocks : Sheds s s1 := Sheds.forEach (fun _ _ => State.dropBlock_sheds) _ s
    have instances : Sheds s1 s2 :=
      ⟨rfl, List.filter_sublist, fun t mem plain => List.mem_filter.2 ⟨mem, by simp [plain]⟩⟩
    have rejected : Sheds s s3 := (blocks.trans instances).trans (State.updStrand_sheds fun _ => rfl)
    split
    · exact (rejected.trans State.discardSlots_sheds).trans State.sweepFaults_sheds
    · exact rejected
  · exact .refl s

theorem State.rejectAbove_sheds {byExit : Bool} : Sheds s (s.rejectAbove l k byExit) := by
  unfold State.rejectAbove
  split
  · exact .refl s
  · exact Sheds.forEach (fun _ _ => State.rejectOne_sheds) _ s

theorem State.putVerdict_sheds {v : Verdict} : Sheds s (s.putVerdict l k v) := by
  unfold State.putVerdict
  split
  · exact .refl s
  extract_lets s1 s2
  have recorded : Sheds s s1 := State.updStrand_sheds fun _ => rfl
  have rejected : Sheds s s2 := by
    unfold s2
    split
    · exact recorded
    · exact recorded.trans State.rejectAbove_sheds
  split
  · exact rejected.trans State.releaseIf_sheds
  · exact rejected

theorem State.tryVerdict_sheds : Sheds s (s.tryVerdict l k) := by
  unfold State.tryVerdict
  split
  · unfold State.recordVerdict
    split
    · exact State.putVerdict_sheds
    · exact .refl s
  · exact .refl s

theorem State.tryVerdicts_sheds : Sheds s (s.tryVerdicts l) := by
  unfold State.tryVerdicts
  split
  · exact .refl s
  · exact Sheds.forEach (fun _ _ => State.tryVerdict_sheds) _ s

theorem State.cancelLoop_sheds : Sheds s (s.cancelLoop l) := by
  unfold State.cancelLoop
  split
  · exact .refl s
  · have cancelled : Sheds s (s.updLoop l fun x => { x with cancel := true }) := State.updLoop_sheds fun _ => rfl
    exact (cancelled.trans (Sheds.forEach (fun _ _ => State.rejectOne_sheds) _ _)).trans State.tryVerdicts_sheds

/-! ## A signal to a task -/

/-- What names a task: its id, and what a record address finds it by (06 R149). -/
def Task.name (t : Task) : Nat × Nat × Nat × Option (Nat × Nat) × Option Nat := (t.id, t.tenant, t.addr, t.strand, t.guessOf)

theorem Task.id_of_name {x y : Task} (same : x.name = y.name) : x.id = y.id := congrArg Prod.fst same

theorem Task.signalled_name (t : Task) (clock : Nat) : (t.signalled clock).name = t.name := by
  rw [Task.signalled_eq]
  rfl

theorem State.updTask_id (s : State) (k : Nat) : s.updTask k id = s := by
  simp [State.updTask]

/-- A cancellation changes its task and not the task's name, and takes from the pool what the loop of a loop task sheds. -/
theorem State.cancelTask_sheds (s : State) (k status : Nat) :
    ∃ f : Task → Task, (∀ y, (f y).name = y.name) ∧ Sheds (s.updTask k f) (s.cancelTask k status) := by
  have nothing : ∃ f : Task → Task, (∀ y, (f y).name = y.name) ∧ Sheds (s.updTask k f) s :=
    ⟨id, fun _ => rfl, by rw [State.updTask_id]; exact .refl s⟩
  unfold State.cancelTask
  split
  · exact nothing
  split
  · exact nothing
  extract_lets e
  have ends : ∃ f : Task → Task, (∀ y, (f y).name = y.name)
      ∧ Sheds (s.updTask k f) (s.updTask k fun t => { t with ending := some e, phase := .ending }) :=
    ⟨fun t => { t with ending := some e, phase := .ending }, fun _ => rfl, .refl _⟩
  split
  · exact ends
  · exact ends
  · split
    · exact ⟨fun t => { t with ending := some e }, fun _ => rfl, State.cancelLoop_sheds⟩
    · exact ends

theorem State.signalTask_sheds (s : State) (y : Task) (failed : Bool) :
    ∃ f : Task → Task, (∀ z, (f z).name = z.name) ∧ Sheds (s.updTask y.id f) (s.signalTask y failed) := by
  unfold State.signalTask
  split
  · exact s.cancelTask_sheds y.id 5
  · exact ⟨fun z => z.signalled s.clock, fun z => z.signalled_name _, .refl _⟩

/-! ## A guess routine that has ended (09 R220) -/

/-- A loop found after a change of the pool is the loop that stood there before, as far as its standing goes. -/
theorem Sheds.loop? (h : Sheds s u) {lp : Loop} (found : s.loop? l = some lp) : ∃ lp', u.loop? l = some lp' ∧ lp'.standing = lp.standing := by
  have byName : ∀ ls : List Loop, (ls.find? fun x => x.task == l).map Loop.standing = (ls.map Loop.standing).find? fun n => n.1 == l := by
    intro ls
    rw [List.find?_map]
    rfl
  have same : (u.loop? l).map Loop.standing = (s.loop? l).map Loop.standing := by
    rw [State.loop?, State.loop?, byName, byName, h.loops]
  rw [found, Option.map_some] at same
  exact Option.map_eq_some_iff.1 same

theorem State.loop?_updLoop_some {f : Loop → Loop} (same : ∀ x, (f x).task = x.task) {lp : Loop} (found : s.loop? l = some lp) :
    (s.updLoop l f).loop? l = some (f lp) := by
  have names : (fun x : Loop => (if x.task == l then f x else x).task == l) = fun x => x.task == l := by
    funext x
    split
    · rw [same]
    · rfl
  have own : lp.task = l := by simpa using List.find?_some found
  rw [State.loop?, State.updLoop_loops, List.find?_map, Function.comp_def, names]
  rw [State.loop?] at found
  simp [found, own]

/-- A loop whose guess routine has ended: where it ended well, every input is sealed. -/
def Loop.guessed (ok : Bool) (x : Loop) : Loop :=
  { x with guessEnd := some ok, strands := if ok then x.strands.map fun y => { y with sealedIn := true } else x.strands }

theorem State.guessDone_sheds (s : State) (l : Nat) (ok : Bool) : Sheds (s.updLoop l (Loop.guessed ok)) (s.guessDone l ok) := State.tryVerdicts_sheds

theorem State.guessDone_loop {ok : Bool} {lp : Loop} (found : s.loop? l = some lp) : ∃ lp', (s.guessDone l ok).loop? l = some lp'
    ∧ lp'.guessEnd = some ok ∧ (ok = true → ∀ x ∈ lp'.strands, x.sealedIn = true) := by
  have ended : (s.updLoop l (Loop.guessed ok)).loop? l = some (lp.guessed ok) := State.loop?_updLoop_some (f := Loop.guessed ok) (fun _ => rfl) found
  obtain ⟨lp', found', standing⟩ := (s.guessDone_sheds l ok).loop? ended
  obtain ⟨-, rest⟩ := Prod.mk.inj standing
  obtain ⟨guess, inputs⟩ := Prod.mk.inj rest
  refine ⟨lp', found', guess, ?_⟩
  rintro rfl x mem
  have input : x.sealedIn ∈ lp'.strands.map (·.sealedIn) := List.mem_map_of_mem mem
  rw [inputs] at input
  obtain ⟨y, among, same⟩ := List.mem_map.1 input
  obtain ⟨z, -, rfl⟩ := List.mem_map.1 among
  exact same.symm

end Sys2Proof.Machine
end

section
/-! The completion of a task (06 R150-R152, R157, R158; 09 R220) and its abort (17 R371): the task leaves the pool, its signals are counted off one
after another, and a guess routine's end seals the guesses. -/
namespace Sys2Proof.Machine
variable {s t u v : State} {x y : Task} {k l n a clock : Nat}

/-! ## Tasks under their names -/

/-- A task of the pool whose id no other task has, and whose record address finds no other (06 R149). -/
structure Sole (s : State) (x : Task) : Prop where
  named : s.tasks.Pairwise fun p q => p.id ≠ q.id
  mem   : x ∈ s.tasks
  plain : x.strand = none ∧ x.guessOf = none
  only  : ∀ y ∈ s.tasks, y.tenant = x.tenant → y.addr = x.addr → y.strand = none → y.guessOf = none → y = x

theorem Sole.task? (h : Sole s x) : s.task? x.id = some x := State.task?_of_mem h.named h.mem

theorem Sole.liveTask? (h : Sole s x) : s.liveTask? x.tenant x.addr = some x := by
  obtain ⟨strand, guess⟩ := h.plain
  have found : (s.liveTask? x.tenant x.addr).isSome := List.find?_isSome.2 ⟨x, h.mem, by simp [strand, guess]⟩
  obtain ⟨y, is⟩ := Option.isSome_iff_exists.1 found
  obtain ⟨mem, tenant, addr, strand', guess'⟩ := State.liveTask?_some is
  rw [is, h.only y mem tenant addr strand' guess']

theorem Sole.id_ne (h : Sole s x) (mem : y ∈ s.tasks) (other : y ≠ x) : y.id ≠ x.id := fun same =>
  other (Option.some.inj ((State.task?_of_mem h.named mem).symm.trans (same ▸ h.task?)))

/-- Every task of the pool changed, and none of their names. -/
theorem Sole.map (h : Sole s x) {g : Task → Task} (same : ∀ y, (g y).name = y.name) (tasks : u.tasks = s.tasks.map g) : Sole u (g x) := by
  have parts : ∀ y, (g y).id = y.id ∧ (g y).tenant = y.tenant ∧ (g y).addr = y.addr ∧ (g y).strand = y.strand ∧ (g y).guessOf = y.guessOf :=
    fun y => by simpa [Task.name] using same y
  obtain ⟨-, tenant, addr, strand, guess⟩ := parts x
  refine ⟨?_, ?_, ?_, ?_⟩
  · rw [tasks, List.pairwise_map]
    exact h.named.imp fun {p q} ne => by rwa [(parts p).1, (parts q).1]
  · rw [tasks]
    exact List.mem_map_of_mem h.mem
  · rw [strand, guess]
    exact h.plain
  · intro y mem tenant' addr' strand' guess'
    rw [tasks] at mem
    obtain ⟨z, zmem, rfl⟩ := List.mem_map.1 mem
    obtain ⟨-, ztenant, zaddr, zstrand, zguess⟩ := parts z
    exact congrArg g (h.only z zmem (ztenant.symm.trans (tenant'.trans tenant)) (zaddr.symm.trans (addr'.trans addr)) (zstrand.symm.trans strand')
      (zguess.symm.trans guess'))

theorem Sole.updTask (h : Sole s x) {f : Task → Task} (same : ∀ y, (f y).name = y.name) (k : Nat) :
    Sole (s.updTask k f) (if x.id == k then f x else x) :=
  h.map (g := fun y => if y.id == k then f y else y) (fun y => by split; exacts [same y, rfl]) rfl

theorem Sole.updTask_self (h : Sole s x) {f : Task → Task} (same : ∀ y, (f y).name = y.name) : Sole (s.updTask x.id f) (f x) := by
  have kept := h.updTask same x.id
  rwa [beq_self_eq_true, if_pos rfl] at kept

theorem Sole.updTask_other (h : Sole s x) {f : Task → Task} (same : ∀ y, (f y).name = y.name) (other : k ≠ x.id) : Sole (s.updTask k f) x := by
  have kept := h.updTask same k
  rwa [beq_false_of_ne (Ne.symm other), if_neg Bool.false_ne_true] at kept

theorem Sole.sheds (h : Sole s x) (k : Sheds s u) : Sole u x :=
  ⟨h.named.sublist k.fewer, k.plain x h.mem h.plain.1, h.plain, fun y mem => h.only y (k.fewer.subset mem)⟩

/-- A signal to another address leaves a task as it is. -/
theorem Sole.signalAddr_other (h : Sole s x) (other : a ≠ x.addr) (tenant : Nat) (failed : Bool) : Sole (s.signalAddr tenant a failed) x := by
  unfold State.signalAddr
  split
  · rename_i y live
    obtain ⟨mem, -, addr, -⟩ := State.liveTask?_some live
    obtain ⟨f, same, sheds⟩ := s.signalTask_sheds y failed
    have ne : y.id ≠ x.id := h.id_ne mem fun is => other (addr.symm.trans (congrArg Task.addr is))
    exact (h.updTask_other same ne).sheds sheds
  · exact ⟨h.named, h.mem, h.plain, h.only⟩

theorem Sole.signalAddr_self (h : Sole s x) (failed : Bool) : s.signalAddr x.tenant x.addr failed = s.signalTask x failed := by
  rw [State.signalAddr, h.liveTask?]

/-! ## Signals that count (06 R150) -/

/-- A waiting task after n signals. -/
def Task.after (x : Task) (clock n : Nat) : Task :=
  if n ≠ 0 ∧ x.count ≤ n ∧ x.evWait = false then { x with count := 0, phase := .ready, readyAt := clock } else { x with count := x.count - n }

theorem Task.after_zero (x : Task) (clock : Nat) : x.after clock 0 = x := by
  rw [Task.after, if_neg (fun h => h.1 rfl)]
  rfl

theorem Task.after_signalled (waits : x.phase = .waiting) (clock n : Nat) : (x.after clock n).signalled clock = x.after clock (n + 1) := by
  by_cases ready : n ≠ 0 ∧ x.count ≤ n ∧ x.evWait = false
  · obtain ⟨some, le, event⟩ := ready
    rw [Task.after, if_pos ⟨some, le, event⟩, Task.after, if_pos ⟨Nat.succ_ne_zero n, Nat.le_succ_of_le le, event⟩, Task.signalled_eq]
    simp
  · have left : x.count - n - 1 = x.count - (n + 1) := Nat.sub_sub ..
    rw [Task.after, if_neg ready, Task.signalled_eq, Task.after]
    simp only [waits, left, Nat.sub_eq_zero_iff_le, true_and]
    by_cases now : x.count ≤ n + 1 ∧ x.evWait = false
    · rw [if_pos now, if_pos now, if_pos ⟨Nat.succ_ne_zero n, now⟩, Nat.sub_eq_zero_of_le now.1]
    · rw [if_neg now, if_neg now, if_neg fun h => now h.2]

theorem Task.after_name (x : Task) (clock n : Nat) : (x.after clock n).name = x.name := by
  unfold Task.after
  split <;> rfl

theorem State.signalAddr_clock (s : State) (tenant a : Nat) : (s.signalAddr tenant a false).clock = s.clock := by
  unfold State.signalAddr
  split <;> rfl

/-- A waiting task counts one signal for each time that its address is signalled. -/
theorem Sole.signals (waits : x.phase = .waiting) (sigs : List Nat) (h : Sole s (x.after s.clock n)) :
    Sole (s.forEach sigs fun a s => s.signalAddr x.tenant a false) (x.after s.clock (n + sigs.countP (· == x.addr))) := by
  induction sigs generalizing s n with
  | nil => exact h
  | cons a sigs ih =>
    have parts : (x.after s.clock n).tenant = x.tenant ∧ (x.after s.clock n).addr = x.addr := by
      unfold Task.after
      split <;> exact ⟨rfl, rfl⟩
    have clock := s.signalAddr_clock x.tenant a
    rw [State.forEach_cons, List.countP_cons, ← clock]
    by_cases here : a = x.addr
    · subst here
      have one : Sole (s.signalAddr x.tenant x.addr false) (x.after s.clock (n + 1)) := by
        have self := h.signalAddr_self false
        rw [parts.1, parts.2] at self
        rw [self, State.signalTask, Bool.false_and, if_neg Bool.false_ne_true, ← Task.after_signalled waits]
        exact h.updTask_self (f := fun y => y.signalled s.clock) fun y => y.signalled_name _
      rw [beq_self_eq_true, if_pos rfl, Nat.add_comm (List.countP ..), ← Nat.add_assoc]
      exact ih (clock ▸ one)
    · rw [beq_false_of_ne here, if_neg Bool.false_ne_true, Nat.add_zero]
      exact ih (clock ▸ h.signalAddr_other (fun same => here (same.trans parts.2)) _ _)

/-! ## Signals of a failed task (06 R152) -/

/-- A task that has ended is not changed by a predecessor's failure. -/
theorem Sole.failures_ended (ended : x.ending.isSome = true) (onFail : x.onFail = false) (sigs : List Nat) (h : Sole s x) :
    Sole (s.forEach sigs fun a s => s.signalAddr x.tenant a true) x := by
  induction sigs generalizing s with
  | nil => exact h
  | cons a sigs ih =>
    refine ih ?_
    by_cases here : a = x.addr
    · subst here
      have same : s.cancelTask x.id 5 = s := by simp [State.cancelTask, h.task?, ended]
      change Sole (s.signalAddr x.tenant x.addr true) x
      rw [h.signalAddr_self, State.signalTask, onFail, Bool.not_false, Bool.and_self, if_pos rfl, same]
      exact h
    · exact h.signalAddr_other here _ _

/-- A waiting task without ON_FAIL that a failed predecessor signals ends with DEP_FAILED. -/
theorem Sole.failures (waits : x.phase = .waiting) (going : x.ending = none) (onFail : x.onFail = false) (sigs : List Nat) (h : Sole s x) :
    Sole (s.forEach sigs fun a s => s.signalAddr x.tenant a true)
      (if x.addr ∈ sigs then { x with ending := some ⟨5, 0, 0, 0⟩, phase := .ending } else x) := by
  induction sigs generalizing s with
  | nil => exact h
  | cons a sigs ih =>
    by_cases here : a = x.addr
    · subst here
      rw [if_pos List.mem_cons_self, State.forEach_cons, h.signalAddr_self, State.signalTask, onFail, Bool.not_false, Bool.and_self, if_pos rfl,
        State.cancelTask_unstarted h.task? going (.inl waits)]
      exact Sole.failures_ended (x := { x with ending := some ⟨5, 0, 0, 0⟩, phase := .ending }) rfl onFail sigs
        (h.updTask_self (f := fun y => { y with ending := some ⟨5, 0, 0, 0⟩, phase := .ending }) fun _ => rfl)
    · have rest : x.addr ∈ a :: sigs ↔ x.addr ∈ sigs := by
        rw [List.mem_cons]
        exact or_iff_right (Ne.symm here)
      simp only [rest]
      exact ih (h.signalAddr_other here _ _)

/-! ## Early signals (06 R150) -/

theorem State.liveTask?_updTask {f : Task → Task} (same : ∀ y, (f y).name = y.name) {tenant : Nat} (absent : s.liveTask? tenant a = none) :
    (s.updTask k f).liveTask? tenant a = none := by
  unfold State.liveTask? at absent ⊢
  rw [List.find?_eq_none] at absent ⊢
  intro y mem
  obtain ⟨z, zmem, rfl⟩ := List.mem_map.1 mem
  split
  · obtain ⟨-, tenant, addr, strand, guess⟩ : (f z).id = z.id ∧ (f z).tenant = z.tenant ∧ (f z).addr = z.addr ∧ (f z).strand = z.strand
      ∧ (f z).guessOf = z.guessOf := by simpa [Task.name] using same z
    rw [tenant, addr, strand, guess]
    exact absent z zmem
  · exact absent z zmem

/-- The early signals of an address that names no live task: one more for each signal there. -/
theorem State.signals_early {tenant : Nat} (sigs : List Nat) (absent : s.liveTask? tenant a = none) (own : tenant < s.tenants.length) :
    ((s.forEach sigs fun b s => s.signalAddr tenant b false).tenant tenant).early.countP (· == a)
      = (s.tenant tenant).early.countP (· == a) + sigs.countP (· == a) := by
  induction sigs generalizing s with
  | nil => rfl
  | cons b sigs ih =>
    rw [State.forEach_cons, List.countP_cons]
    cases live : s.liveTask? tenant b with
    | some y =>
      have other : b ≠ a := by
        rintro rfl
        rw [absent] at live
        cases live
      have counted : s.signalAddr tenant b false = s.updTask y.id fun y => y.signalled s.clock := by
        rw [State.signalAddr, live]
        rfl
      rw [counted, ih (State.liveTask?_updTask (fun y => y.signalled_name _) absent) own, beq_false_of_ne other]
      rfl
    | none =>
      have early : s.signalAddr tenant b false = s.updTenant tenant fun n => { n with early := b :: n.early } := by
        rw [State.signalAddr, live]
      have counted := ih (s := s.updTenant tenant fun n => { n with early := b :: n.early }) absent ((State.updTenant_tenants_length ..).symm ▸ own)
      rw [early, counted, State.tenant_updTenant own, List.countP_cons]
      omega

/-! ## The pool without a task -/

/-- A task that is in the pool no more, with its loop. -/
def State.gone (s : State) (k : Nat) : Prop := (∀ y ∈ s.tasks, y.id ≠ k) ∧ ∀ l ∈ s.loops, l.task ≠ k

theorem State.gone.updTask (h : s.gone k) {f : Task → Task} (same : ∀ y, (f y).id = y.id) (n : Nat) : (s.updTask n f).gone k := by
  refine ⟨fun y mem => ?_, h.2⟩
  obtain ⟨z, zmem, rfl⟩ := List.mem_map.1 mem
  split
  · rw [same]
    exact h.1 z zmem
  · exact h.1 z zmem

theorem State.gone.sheds (h : s.gone k) (sheds : Sheds s u) : u.gone k := by
  refine ⟨fun y mem => h.1 y (sheds.fewer.subset mem), fun l mem => ?_⟩
  have standing : l.standing ∈ s.loops.map Loop.standing := sheds.loops ▸ List.mem_map_of_mem mem
  obtain ⟨l', mem', same⟩ := List.mem_map.1 standing
  have name : l'.task = l.task := congrArg Prod.fst same
  exact name ▸ h.2 l' mem'

theorem State.gone.signalAddr (h : s.gone k) (tenant a : Nat) (failed : Bool) : (s.signalAddr tenant a failed).gone k := by
  unfold State.signalAddr
  split
  · rename_i y _
    obtain ⟨f, same, sheds⟩ := s.signalTask_sheds y failed
    exact (h.updTask (fun z => Task.id_of_name (same z)) _).sheds sheds
  · exact h

theorem State.gone.fireEvent (h : s.gone k) (tenant code : Nat) : (s.fireEvent tenant code).gone k := by
  unfold State.fireEvent
  split
  · refine h.updTask (fun y => ?_) _
    unfold Task.tryReady
    split <;> rfl
  · exact h

theorem State.gone.postEvent (h : s.gone k) (tenant kind addr graph num code : Nat) : (s.postEvent tenant kind addr graph num code).gone k := by
  unfold State.postEvent State.tryEvent
  extract_lets ten seq s1 q size tail head rec_
  split
  · exact h
  have counted : s1.gone k := h
  split
  rename_i ok s2 record
  have written : s2.gone k := by
    split at record
    · have put := counted.sheds (State.devWrite_sheds (tenant := tenant) (va := fld q 59 12 * 4096 + 32 * (tail % size)) (bs := natBytes 32 rec_))
      rwa [record] at put
    · obtain ⟨-, rfl⟩ := Prod.mk.inj record
      exact counted
  split
  · exact State.gone.fireEvent (s := s2.updTenant tenant _) written _ _
  · exact written

/-- A task that waits for another no more. -/
def Task.unwaited (k : Nat) (y : Task) : Task := { y with waitsOn := y.waitsOn.filter (· != k) }

theorem State.leavePool_gone (s : State) (t : Task) : (s.leavePool t).gone t.id := by
  refine State.forEach_keeps (fun u => u.gone t.id) _ (fun y u h => ?_) _ _ ?_
  · refine h.updTask (fun z => ?_) _
    exact Task.id_of_name ((z.unwaited t.id).signalled_name _)
  · exact ⟨fun y mem => by simpa using (List.mem_filter.1 mem).2, fun l mem => by simpa using (List.mem_filter.1 mem).2⟩

/-- A loop over tasks of different names that changes each of them: the tasks of the list changed, and no other. -/
theorem State.forEach_updTask {f : Nat → Task → Task} (same : ∀ c y, (f c y).id = y.id) (ts : List Task) (named : ts.Pairwise fun p q => p.id ≠ q.id) :
    s.forEach ts (fun y u => u.updTask y.id (f u.clock))
      = { s with tasks := s.tasks.map fun y => if ts.any fun p => p.id == y.id then f s.clock y else y } := by
  induction ts generalizing s with
  | nil => simp
  | cons p ts ih =>
    obtain ⟨first, rest⟩ := List.pairwise_cons.1 named
    rw [State.forEach_cons, ih rest]
    have changed : ∀ y : Task, (if ts.any fun q => q.id == (if y.id == p.id then f s.clock y else y).id
        then f s.clock (if y.id == p.id then f s.clock y else y) else if y.id == p.id then f s.clock y else y)
        = if (p :: ts).any fun q => q.id == y.id then f s.clock y else y := by
      intro y
      by_cases own : y.id = p.id
      · have last : (ts.any fun q => q.id == y.id) = false := by
          rw [List.any_eq_false]
          exact fun q mem => by simpa [own] using Ne.symm (first q mem)
        simp [own, same, own ▸ last]
      · simp [own, Ne.symm own]
    simp only [State.updTask, List.map_map, Function.comp_def, changed]

/-- What the end of a task with an id changes of another one (06 R151). -/
def Task.released (k clock : Nat) (y : Task) : Task := if y.waitsOn.contains k then (y.unwaited k).signalled clock else y

theorem Task.unwaited_eq (free : k ∉ y.waitsOn) : y.unwaited k = y := by
  have all : y.waitsOn.filter (· != k) = y.waitsOn := List.filter_eq_self.2 fun m mem => by
    rw [bne_iff_ne]
    rintro rfl
    exact free mem
  rw [Task.unwaited, all]

theorem Task.released_name (k clock : Nat) (y : Task) : (y.released k clock).name = y.name := by
  unfold Task.released
  split
  · exact Task.signalled_name _ _
  · rfl

theorem Task.released_eq_after (k clock : Nat) (waits : y.phase = .waiting) :
    y.released k clock = (y.unwaited k).after clock (if k ∈ y.waitsOn then 1 else 0) := by
  unfold Task.released
  by_cases conflict : k ∈ y.waitsOn
  · have one := Task.after_signalled (x := y.unwaited k) waits clock 0
    rw [Task.after_zero] at one
    rw [if_pos (List.contains_iff_mem.2 conflict), if_pos conflict, one]
  · rw [if_neg (by simpa using conflict), if_neg conflict, Task.after_zero, Task.unwaited_eq conflict]

theorem State.leavePool_eq {t : Task} (named : s.tasks.Pairwise fun p q => p.id ≠ q.id) : s.leavePool t = { s with
    tasks := (s.tasks.filter fun y => y.id != t.id).map (Task.released t.id s.clock), loops := s.loops.filter fun l => l.task != t.id } := by
  have rest : (s.tasks.filter fun y => y.id != t.id).Pairwise fun p q => p.id ≠ q.id := named.filter _
  unfold State.leavePool
  extract_lets s1
  refine (State.forEach_updTask (f := fun c y => (y.unwaited t.id).signalled c)
    (fun c y => Task.id_of_name (Task.signalled_name _ _)) _ (rest.filter _)).trans ?_
  have waiting : ∀ y ∈ s1.tasks, ((s1.tasks.filter fun z => z.waitsOn.contains t.id).any fun z => z.id == y.id) = y.waitsOn.contains t.id := by
    intro y mem
    rw [List.any_filter, Bool.eq_iff_iff, List.any_eq_true]
    constructor
    · rintro ⟨z, memz, both⟩
      obtain ⟨waits, same⟩ : z.waitsOn.contains t.id = true ∧ z.id = y.id := by simpa using both
      have found := State.task?_of_mem (s := s1) rest memz
      rw [same, State.task?_of_mem (s := s1) rest mem] at found
      rwa [Option.some.inj found]
    · exact fun waits => ⟨y, mem, by simpa using waits⟩
  have changed : s1.tasks.map (fun y => if (s1.tasks.filter fun z => z.waitsOn.contains t.id).any fun z => z.id == y.id
      then (y.unwaited t.id).signalled s1.clock else y) = s1.tasks.map (Task.released t.id s.clock) :=
    List.map_congr_left fun y mem => by rw [waiting y mem]; rfl
  rw [changed]

end Sys2Proof.Machine
end

section
/-! TASK_COMPLETE (06 R150-R152, R157, R158) and TASK_ABORT (17 R371). -/
namespace Sys2Proof.Machine
variable {s s1 t u : State} {x y : Task} {k l n a : Nat} {o : DevOut}

/-! ## The discard of an aborted task's threads -/

/-- The threads of a block discarded: its waves are gone; no byte, task or tenant has changed. -/
theorem State.discardThreads_spec (s : State) (k : Nat) : (s.discardThreads k).waves = s.waves.filter (fun w => !(w.block == k))
    ∧ (s.discardThreads k).tasks = s.tasks ∧ (s.discardThreads k).tenants = s.tenants := by
  unfold State.discardThreads
  extract_lets s1
  obtain ⟨fs, swept⟩ := ((s1.endWaves k).endBlock k).sweepHeld.sweepFaults_only
  have ended : ((s1.endWaves k).endBlock k).waves = s.waves.filter (fun w => !(w.block == k))
      ∧ ((s1.endWaves k).endBlock k).tasks = s.tasks ∧ ((s1.endWaves k).endBlock k).tenants = s.tenants := by
    have same : ((s1.endWaves k).endBlock k).waves = (s1.endWaves k).waves ∧ ((s1.endWaves k).endBlock k).tasks = s.tasks
        ∧ ((s1.endWaves k).endBlock k).tenants = s.tenants := by
      unfold State.endBlock
      split <;> exact ⟨rfl, rfl, rfl⟩
    refine ⟨same.1.trans ?_, same.2⟩
    unfold State.endWaves
    dsimp only [s1]
    rw [List.filter_map]
    have kept : s.waves.filter ((fun w : Wave => !(w.block == k && w.threads.all fun t => t.status == .exited)) ∘ fun w =>
        if w.block == k then { w with threads := w.threads.map fun t => { t.seal with status := .exited } } else w)
        = s.waves.filter fun w => !(w.block == k) := by
      refine List.filter_congr fun w _ => ?_
      by_cases own : w.block = k <;> simp [own]
    rw [kept]
    refine List.map_congr_left (g := id) (fun w mem => ?_) |>.trans (List.map_id _)
    have other : (w.block == k) = false := by simpa using (List.mem_filter.1 mem).2
    simp [other]
  rw [swept]
  exact ended

theorem State.forEach_discardThreads (s : State) (bs : List Block) :
    (s.forEach bs fun b s => s.discardThreads b.id).waves = s.waves.filter (fun w => !(bs.any fun b => b.id == w.block))
      ∧ (s.forEach bs fun b s => s.discardThreads b.id).tasks = s.tasks
      ∧ (s.forEach bs fun b s => s.discardThreads b.id).tenants = s.tenants := by
  induction bs generalizing s with
  | nil => exact ⟨(List.filter_eq_self.2 fun _ _ => rfl).symm, rfl, rfl⟩
  | cons b bs ih =>
    obtain ⟨waves, tasks, tenants⟩ := s.discardThreads_spec b.id
    obtain ⟨waves', tasks', tenants'⟩ := ih (s.discardThreads b.id)
    refine ⟨waves'.trans ?_, tasks'.trans tasks, tenants'.trans tenants⟩
    rw [waves, List.filter_filter]
    refine List.filter_congr fun w _ => ?_
    rw [List.any_cons, Bool.not_or, Bool.and_comm, Bool.beq_comm (a := b.id)]

theorem State.discardTask_spec (s : State) (k : Nat) :
    (s.discardTask k).waves = (s.waves.filter fun w => !(s.blocks.any fun b => b.task == k && b.id == w.block)) ∧ (s.discardTask k).tasks = s.tasks
      ∧ ∀ n ∈ (s.discardTask k).tenants, ∀ r ∈ n.rest, r.block.task ≠ k := by
  unfold State.discardTask
  extract_lets s1
  obtain ⟨waves, tasks, tenants⟩ := s1.forEach_discardThreads (s1.blocks.filter fun b => b.task == k)
  refine ⟨waves.trans ?_, tasks, fun n mem r rest => ?_⟩
  · refine List.filter_congr fun w _ => ?_
    rw [List.any_filter]
  · rw [tenants] at mem
    obtain ⟨n', -, rfl⟩ := List.mem_map.1 mem
    simpa using (List.mem_filter.1 rest).2

/-! ## What completes -/

/-- A plain task that has ended, or started all its blocks, with nothing of it left (06 R157). -/
theorem State.mayComplete_true (ends : x.phase = .ending ∨ x.kind = 0 ∧ x.phase = .running ∧ x.blocks ≤ x.nextBlk)
    (blocks : ∀ b ∈ s.blocks, b.task ≠ x.id) (rest : ∀ r ∈ (s.tenant x.tenant).rest, r.block.task ≠ x.id) (saved : x.saved = 0 ∨ x.aborting = true)
    (pending : x.pending = []) (host : x.kind = 1 → x.addr ∉ (s.tenant x.tenant).hostQ ∧ x.addr ∉ (s.tenant x.tenant).taken)
    (loop : x.kind = 4 → ∀ l, s.loop? x.id = some l → l.width = 0)
    (engines : x.kind ≠ 1 → x.kind ≠ 4 → (∀ c ∈ s.copies, c.by_.task ≠ x.id) ∧ ∀ c ∈ s.nms, c.by_.task ≠ x.id) : s.mayComplete x = true := by
  have isOver : (x.phase == .ending || (x.kind == 0 && x.phase == .running && decide (x.blocks ≤ x.nextBlk))) = true := by
    obtain phase | ⟨kernel, running, all⟩ := ends
    · simp [phase]
    · simp [kernel, running, all]
  have idle : (x.saved == 0 || x.aborting) = true := by simpa using saved
  unfold State.mayComplete
  simp only [isOver, State.hasBlocks_false blocks rest, idle, pending, List.isEmpty_nil, Bool.not_false, Bool.and_self, Bool.true_and]
  split
  · rename_i kind
    obtain ⟨queued, taken⟩ := host kind
    simp [queued, taken]
  · rename_i kind
    rw [Option.all_eq_true]
    exact fun l found => by simpa using loop kind l found
  · rename_i notHost notLoop
    obtain ⟨copies, commands⟩ := engines notHost notLoop
    simpa using ⟨copies, commands⟩

/-! ## TASK_COMPLETE of a task of no loop -/

theorem settleOp_devPut {tenant va : Nat} {bs : List Byte} (wrote : s.devStore tenant va bs = (o, s1)) (goes : o ≠ .wait) :
    s.settleOp (devPut tenant va bs) = (some (), s1) := by
  have run : devPut tenant va bs s = .ok () s1 := by
    rw [devPut, Op.get_bind, wrote]
    cases o with
    | wait => exact absurd rfl goes
    | done => rfl
    | lost => rfl
  rw [State.settleOp, run]

/-- A completed task's end as its successors see it: it leaves the pool, and its signals are sent one after another. -/
def State.completes (s : State) (t : Task) : State :=
  (if bit t.record 28 then (s.leavePool t).postEvent t.tenant 2 t.complVa t.graphId t.taskNum t.evtCode else s.leavePool t).forEach (t.succs ++ t.added)
    fun a s => s.signalAddr t.tenant a (t.endOf.status != 1)

theorem State.completeTask_eq {t : Task} (found : s.task? t.id = some t) (may : s.mayComplete t = true) (strand : t.strand = none)
    (guess : t.guessOf = none) (room : (s.tenant t.tenant).early.length + s.earlySignals t ≤ 16384)
    (wrote : s.devStore t.tenant t.complVa (natBytes 64 (s.taskCompletion t)) = (o, s1)) (goes : o ≠ .wait) :
    s.completeTask t.id = s1.completes t := by
  have fits : decide (16384 < (s.tenant t.tenant).early.length + s.earlySignals t) = false := decide_eq_false (Nat.not_lt.2 room)
  simp only [State.completeTask, found, may, strand, guess, fits, settleOp_devPut wrote goes, Bool.not_true, Bool.and_false, Bool.false_eq_true, if_false]
  rfl

theorem State.completes_gone (s : State) (t : Task) : (s.completes t).gone t.id := by
  refine State.forEach_keeps (fun u => u.gone t.id) _ (fun a u h => h.signalAddr _ _ _) _ _ ?_
  split
  · exact (s.leavePool_gone t).postEvent ..
  · exact s.leavePool_gone t

theorem State.signalAddr_sameRun (s : State) (tenant a : Nat) : SameRun s (s.signalAddr tenant a false) := by
  unfold State.signalAddr
  split <;> exact ⟨rfl, rfl, rfl, rfl⟩

/-- A task that no other shares its record address with is alone in the pool that its predecessor has left. -/
theorem State.sole_released {t : Task} (named : s.tasks.Pairwise fun p q => p.id ≠ q.id) (mem : x ∈ s.tasks) (other : x.id ≠ t.id) (strand : x.strand = none) (guess : x.guessOf = none)
    (only : ∀ y ∈ s.tasks, y.id ≠ t.id → y.tenant = x.tenant → y.addr = x.addr → y.strand = none → y.guessOf = none → y = x) :
    Sole ({ s with tasks := (s.tasks.filter fun y => y.id != t.id).map (Task.released t.id s.clock), loops := s.loops.filter fun l => l.task != t.id } : State)
      (x.released t.id s.clock) := by
  have before : Sole ({ s with tasks := s.tasks.filter fun y => y.id != t.id } : State) x := by
    refine ⟨named.filter _, List.mem_filter.2 ⟨mem, by simpa using other⟩, ⟨strand, guess⟩, fun y ymem => ?_⟩
    obtain ⟨ymem, ne⟩ := List.mem_filter.1 ymem
    exact only y ymem (by simpa using ne)
  exact before.map (Task.released_name t.id s.clock) rfl

section
variable {t : Task} (named : s.tasks.Pairwise fun p q => p.id ≠ q.id) (silent : bit t.record 28 = false)
include named silent

theorem State.completes_eq : s.completes t = ({ s with
    tasks := (s.tasks.filter fun y => y.id != t.id).map (Task.released t.id s.clock), loops := s.loops.filter fun l => l.task != t.id } : State).forEach
      (t.succs ++ t.added) fun a s => s.signalAddr t.tenant a (t.endOf.status != 1) := by
  rw [State.completes, silent, if_neg Bool.false_ne_true, State.leavePool_eq named]

theorem State.completes_sameRun (ok : t.endOf.status = 1) : SameRun s (s.completes t) := by
  rw [State.completes_eq named silent, ok]
  exact State.forEach_keeps (SameRun s) _ (fun a u h => h.trans (u.signalAddr_sameRun _ a)) _ _ ⟨rfl, rfl, rfl, rfl⟩

theorem State.completes_early (ok : t.endOf.status = 1) (own : t.tenant < s.tenants.length)
    (absent : ∀ y ∈ s.tasks, y.id ≠ t.id → y.tenant = t.tenant → y.strand = none → y.guessOf = none → y.addr ≠ a) :
    ((s.completes t).tenant t.tenant).early.countP (· == a)
      = (s.tenant t.tenant).early.countP (· == a) + (t.succs ++ t.added).countP (· == a) := by
  rw [State.completes_eq named silent, ok]
  refine State.signals_early (t.succs ++ t.added) (List.find?_eq_none.2 fun y mem live => ?_) own
  obtain ⟨z, zmem, rfl⟩ := List.mem_map.1 mem
  obtain ⟨zmem, other⟩ := List.mem_filter.1 zmem
  obtain ⟨-, tenant, addr, strand, guess⟩ : _ ∧ (z.released t.id s.clock).tenant = z.tenant ∧ (z.released t.id s.clock).addr = z.addr
      ∧ (z.released t.id s.clock).strand = z.strand ∧ (z.released t.id s.clock).guessOf = z.guessOf := by
    simpa [Task.name] using Task.released_name t.id s.clock z
  rw [tenant, addr, strand, guess] at live
  obtain ⟨ztenant, zaddr, zstrand, zguess⟩ : z.tenant = t.tenant ∧ z.addr = a ∧ z.strand = none ∧ z.guessOf = none := by
    simpa [and_assoc] using live
  exact absent z zmem (by simpa using other) ztenant zstrand zguess zaddr

end

/-! ## TASK_COMPLETE of a guess routine (09 R220) -/

theorem State.gone.updLoop (h : s.gone k) {f : Loop → Loop} (same : ∀ y, (f y).task = y.task) (n : Nat) : (s.updLoop n f).gone k := by
  refine ⟨h.1, fun y mem => ?_⟩
  obtain ⟨z, zmem, rfl⟩ := List.mem_map.1 mem
  split
  · rw [same]
    exact h.2 z zmem
  · exact h.2 z zmem

/-- The end of a task leaves every loop but its own. -/
theorem State.leavePool_loop? {t : Task} {lp : Loop} (other : l ≠ t.id) (found : s.loop? l = some lp) : (s.leavePool t).loop? l = some lp := by
  refine State.forEach_keeps (fun u => u.loop? l = some lp) _ (fun y u h => ?_) _ _ ?_
  · exact h
  rw [State.loop?, List.find?_filter]
  refine (List.find?_congr fun x _ => ?_).trans found
  by_cases own : x.task = l <;> simp [own, other]

/-! ## The obligation -/

/-- Settles O39: signals are followed task by task, and an abort block by block. -/
theorem tasksEnd : Obligations.TasksEnd := by
  refine ⟨?completes, ?guess, ?abort⟩
  case completes =>
    intro s s1 t o found strand guess ends blocks rest saved pending host loop engines sigs room e wrote goes named
    have may := State.mayComplete_true ends blocks rest saved pending host loop engines
    have run : exec (.taskComplete t.id) s = .next (s1.completes t) :=
      congrArg Host.Outcome.next (State.completeTask_eq found may strand guess room wrote goes)
    obtain ⟨tasks, loops⟩ := s1.completes_gone t
    refine ⟨s1.completes t, run, tasks, loops, fun silent ok => ⟨State.completes_sameRun named silent ok, fun a absent own =>
      State.completes_early named silent ok own absent⟩, fun x mem silent other waits tenant xstrand xguess only => ?_⟩
    have alone := State.sole_released (t := t) named mem other xstrand xguess only
    refine ⟨fun ok => ?_, fun failed signalled onFail free going => ?_⟩
    · rw [Task.released_eq_after _ _ waits] at alone
      have after := (Sole.signals (x := x.unwaited t.id) waits sigs alone).task?
      rw [Task.id_of_name (Task.after_name ..), Nat.add_comm] at after
      rw [State.completes_eq named silent, ← tenant, show t.endOf.status = 1 from ok]
      exact after
    · rw [Task.released_eq_after _ _ waits, if_neg free, Task.after_zero, Task.unwaited_eq free] at alone
      have ended := Sole.failures waits going onFail sigs alone
      rw [if_pos signalled] at ended
      have bad : (t.endOf.status != 1) = true := bne_iff_ne.2 failed
      rw [State.completes_eq named silent, ← tenant, bad]
      exact ended.task?
  case guess =>
    intro s t l lp found may strand guess other loop
    have stays : (s.leavePool t).loop? l = some lp := State.leavePool_loop? other loop
    obtain ⟨lp', loop', ended, inputs⟩ := State.guessDone_loop (ok := !(t.endOf.status != 1)) stays
    have gone : ((s.leavePool t).guessDone l !(t.endOf.status != 1)).gone t.id :=
      State.gone.sheds (s := (s.leavePool t).updLoop l (Loop.guessed _)) ((s.leavePool_gone t).updLoop (f := Loop.guessed _) (fun _ => rfl) _) (State.guessDone_sheds ..)
    have well : (!(t.endOf.status != 1)) = decide ((t.ending.getD ⟨1, 0, 0, 0⟩).status = 1) := by
      rw [bne, Bool.not_not, beq_eq_decide]
      rfl
    refine ⟨_, lp', congrArg Host.Outcome.next ?_, gone.1, loop', ended.trans (congrArg some well),
      fun ok => inputs (well.trans (decide_eq_true ok))⟩
    simp only [State.completeTask, found, may, strand, guess, Bool.not_true, Bool.false_eq_true, if_false]
  case abort =>
    intro s t found aborting
    obtain ⟨waves, tasks, rest⟩ := s.discardTask_spec t.id
    refine ⟨s.discardTask t.id, congrArg Host.Outcome.next (if_pos ?_), State.discardTask_mem, tasks, waves, rest⟩
    rw [found]
    exact aborting

end Sys2Proof.Machine
end

section
/-! A record read by the pool on behalf of a submitter (06 R153) leaves every block where it is and every task its tenant. -/
namespace Sys2Proof.Machine
open Std.Do
set_option mvcgen.warning false
variable {s t : State}

/-! ## Who owns what -/

/-- The blocks, and the tasks by their names and tenants. -/
def State.owners (s : State) : List Block × List (Nat × Nat) := (s.blocks, s.tasks.map fun t => (t.id, t.tenant))

theorem State.owners_of_work (same : t.work = s.work) : t.owners = s.owners := by
  have blocks : t.blocks = s.blocks := congrArg Prod.fst same
  have tasks : t.tasks = s.tasks := congrArg Prod.snd same
  rw [State.owners, State.owners, blocks, tasks]

/-- The tenant of a wave, from the blocks and the tasks' tenants alone. -/
def ownerOf (o : List Block × List (Nat × Nat)) (w : Wave) : Nat :=
  ((o.1.find? fun b => b.id == w.block).bind fun b => (o.2.find? fun p => p.1 == b.task).map (·.2)).getD 0

theorem State.tenantOfWave_eq_ownerOf (s : State) (w : Wave) : s.tenantOfWave w = ownerOf s.owners w := by
  unfold State.tenantOfWave State.taskOfWave State.block? ownerOf State.owners
  rw [Option.map_bind]
  congr 2
  funext b
  rw [List.find?_map, Option.map_map]
  rfl

/-- One more task of a wave's own tenant changes nothing of the wave's tenant. -/
theorem ownerOf_append {bs : List Block} {ts : List (Nat × Nat)} {w : Wave} {n : Nat} (k : Nat) (own : ownerOf (bs, ts) w = n) :
    ownerOf (bs, ts ++ [(k, n)]) w = n := by
  unfold ownerOf at own ⊢
  cases block : bs.find? fun b => b.id == w.block with
  | none => simpa [block] using own
  | some b =>
    simp only [block, Option.bind_some, List.find?_append] at own ⊢
    cases task : ts.find? fun p => p.1 == b.task with
    | some p => simpa [task] using own
    | none =>
      obtain rfl : 0 = n := by simpa [task] using own
      by_cases here : k = b.task <;> simp [here]

/-! ## Operations -/

/-- An operation keeps a property of the state, whether it ends or stops. -/
abbrev Op.Holds (p : State → Prop) {α : Type} (x : Op α) : Prop :=
  Triple (m := EStateM Stop State) x (ps := .except Stop (.arg State .pure)) (fun s => ⌜p s⌝) (post⟨fun _ s => ⌜p s⌝, fun _ s => ⌜p s⌝⟩)

theorem Op.Holds.ok {p : State → Prop} {α : Type} {x : Op α} {a : α} (hx : Op.Holds p x) (before : p s) (run : x s = .ok a t) : p t := by
  have after := hx s before
  simpa [wp, PredTrans.apply, EStateM.run, run] using after

theorem Op.holds_pure {p : State → Prop} {α : Type} {a : α} : Op.Holds p (pure a) := by mvcgen

theorem Op.holds_bind {p : State → Prop} {α β : Type} {x : Op α} {f : α → Op β} (hx : Op.Holds p x) (hf : ∀ a, Op.Holds p (f a)) :
    Op.Holds p (x >>= f) := by mvcgen [hx, hf]

theorem Op.holds_mapM {p : State → Prop} {α β : Type} {f : α → Op β} (hf : ∀ a, Op.Holds p (f a)) (l : List α) : Op.Holds p (l.mapM f) := by
  induction l with
  | nil => rw [List.mapM_nil]; exact Op.holds_pure
  | cons a l ih => rw [List.mapM_cons]; exact Op.holds_bind (hf a) fun _ => Op.holds_bind ih fun _ => Op.holds_pure

/-! ## Requests at homes and caches -/

@[simp] theorem State.setDir_work (line : Nat) (e : Option DirEntry) : (s.setDir line e).work = s.work := rfl
@[simp] theorem State.unL1_work (gone : Nat → Nat → Bool) : (s.unL1 gone).work = s.work := rfl
@[simp] theorem State.victim_work (l : List Nat) : (s.victim l).2.work = s.work := rfl
@[simp] theorem State.dropHolder_work (x : Holder) (line : Nat) : (s.dropHolder x line).work = s.work := by
  grind [State.dropHolder, State.dropL1, State.setDir_work, State.unL1_work]
@[simp] theorem State.dirRoom_work (line : Nat) : (s.dirRoom line).work = s.work := by
  grind [State.dirRoom, State.recall_work, State.victim_work]
theorem State.l2Room_work {die line : Nat} (made : s.l2Room die line = some t) : t.work = s.work := by
  grind [State.l2Room, State.dropHolder_work, State.victim_work]
theorem State.room_work {x : Holder} {line : Nat} (made : s.room x line = some t) : t.work = s.work := by
  grind [State.room, State.l2Room_work, State.dirRoom_work, Option.map_eq_some_iff]
@[simp] theorem State.fillL1_work (core line : Nat) : (s.fillL1 core line).work = s.work := by
  unfold State.fillL1
  grind [State.unL1_work, State.victim_work, State.work]
@[simp] theorem State.lockLine_work (die : Nat) (core : Option Nat) (leaf asid line : Nat) : (s.lockLine die core leaf asid line).work = s.work := by
  unfold State.lockLine
  grind [State.work]
@[simp] theorem State.homeRead_work (x : Holder) (line : Nat) : (s.homeRead x line).work = s.work := by
  grind [State.homeRead, State.setDir_work, State.room_work]
@[simp] theorem State.homeOwn_work (x : Holder) (line : Nat) : (s.homeOwn x line).work = s.work := by
  grind [State.homeOwn, State.setDir_work, State.unL1_work, State.recall_work, State.room_work]
@[simp] theorem State.serveHolder_work (x : Holder) (kind line : Nat) : (s.serveHolder x kind line).work = s.work := by
  grind [State.serveHolder, countAt_work, State.recall_work, State.homeRead_work, State.homeOwn_work]
@[simp] theorem State.drainCuff_work (id fuel : Nat) : (s.drainCuff id fuel).work = s.work := by
  fun_induction s.drainCuff id fuel <;> grind [State.updMove_work, State.putNow_work, State.serveHolder_work]
@[simp] theorem State.drainCuffs_work : s.drainCuffs.work = s.work := by
  unfold State.drainCuffs
  split
  · rfl
  · exact State.forEach_work fun m s => s.drainCuff_work _ _
@[simp] theorem State.leaveCuffs_work (b : HeldBy) (pa : Nat) (write : Bool) : (s.leaveCuffs b pa write).work = s.work := by
  unfold State.leaveCuffs
  split
  · rfl
  · exact State.drainCuffs_work
@[simp] theorem State.joinCuff_work (m : Move) (b : HeldBy) (line : Nat) (write : Bool) : (s.joinCuff m b line write).work = s.work := by
  grind [State.joinCuff, State.updMove_work]
@[simp] theorem State.perfCoreEvent_work (tenant ev n : Nat) : (s.perfCoreEvent tenant ev n).work = s.work := rfl
@[simp] theorem State.readRequest_work (w : Who) (leaf pa : Nat) : (s.readRequest w leaf pa).work = s.work := by
  grind [State.readRequest, State.perfCoreEvent_work, State.recall_work, State.fillL1_work, State.lockLine_work, State.homeRead_work,
    State.countReq_work]

/-! ## Translation -/

@[simp] theorem State.tlbFill_work (e : TlbEntry) : (s.tlbFill e).work = s.work := by
  grind [State.tlbFill, State.work]
@[simp] theorem State.tlbFillAll_work (w : Who) (page size leaf : Nat) : (s.tlbFillAll w page size leaf).work = s.work :=
  State.forEach_work fun _ s => s.tlbFill_work _
theorem State.updTask_owners {f : Task → Task} (same : ∀ y, (f y).id = y.id ∧ (f y).tenant = y.tenant) (n : Nat) :
    (s.updTask n f).owners = s.owners := by
  refine congrArg (Prod.mk s.blocks) ?_
  rw [State.updTask_tasks, List.map_map]
  refine List.map_congr_left fun y _ => ?_
  simp only [Function.comp]
  split
  · rw [(same y).1, (same y).2]
  · rfl
@[simp] theorem State.fireEvent_owners (tenant code : Nat) : (s.fireEvent tenant code).owners = s.owners := by
  unfold State.fireEvent
  split
  · refine State.updTask_owners (fun y => ?_) _
    unfold Task.tryReady
    split <;> exact ⟨rfl, rfl⟩
  · rfl
@[simp] theorem State.tryEvent_owners (tenant kind addr graph num code : Nat) : (s.tryEvent tenant kind addr graph num code).2.owners = s.owners := by
  grind [State.tryEvent, State.owners_of_work, State.updTenant_work, State.devWrite_work, State.fireEvent_owners]
@[simp] theorem State.tierMiss_owners (w : Who) (a : Access) (e va : Nat) : (s.tierMiss w a e va).owners = s.owners := by
  grind [State.tierMiss, State.owners_of_work, State.perfHubEvent_work, State.tryEvent_owners]

section
variable {o : List Block × List (Nat × Nat)}

theorem walkFill_owners {w : Who} {a : Access} {va : Nat} {fresh : Bool} : Op.Holds (fun s => s.owners = o) (walkFill w a va fresh) := by
  mvcgen [walkFill] with grind [State.owners_of_work, State.noteWalk_work, State.touchLeaf_work, State.tierMiss_owners, State.tlbFillAll_work]
theorem translate_owners {w : Who} {a : Access} {va : Nat} : Op.Holds (fun s => s.owners = o) (translate w a va) := by
  mvcgen [translate, walkFill_owners] with grind [State.owners_of_work, State.tlbFillAll_work]

/-! ## Records -/

theorem cuffCheck_owners {b : HeldBy} {pa : Nat} {write : Bool} : Op.Holds (fun s => s.owners = o) (cuffCheck b pa write) := by
  mvcgen [cuffCheck] with grind [State.owners_of_work, State.joinCuff_work]
theorem readPa_owners {w : Who} {b : HeldBy} {a : Access} {leaf pa va n : Nat} : Op.Holds (fun s => s.owners = o) (readPa w b a leaf pa va n) := by
  mvcgen [readPa, cuffCheck_owners] with grind [State.owners_of_work, State.lostError_work, State.noteRead_work, State.leaveCuffs_work,
    State.readRequest_work]
theorem curRead_owners {c : Self} {va n : Nat} : Op.Holds (fun s => s.owners = o) (curRead c va n) := by
  mvcgen [curRead, translate_owners, readPa_owners] with grind
theorem readSpan_owners {c : Self} {fuel va n : Nat} : Op.Holds (fun s => s.owners = o) (readSpan c fuel va n) := by
  induction fuel generalizing va n with
  | zero => exact Op.holds_pure
  | succ k ih => mvcgen [readSpan, curRead_owners, ih] with grind
theorem readRecord_owners {c : Self} {va n : Nat} : Op.Holds (fun s => s.owners = o) (readRecord c va n) := readSpan_owners
theorem readExtras_owners {c : Self} {r : Nat} : Op.Holds (fun s => s.owners = o) (readExtras c r) := by
  unfold readExtras
  extract_lets nops nsucc oa sa rest
  have tail : ∀ ops, Op.Holds (fun s => s.owners = o) (rest ops) := fun ops => by
    unfold rest
    extract_lets last
    split
    · exact Op.holds_pure
    · exact Op.holds_bind readRecord_owners fun _ => Op.holds_pure
  clear_value rest
  split
  · exact tail _
  · exact Op.holds_bind readRecord_owners fun _ => tail _
theorem readInstance_owners {c : Self} {chosen va : Nat} {body : Option (List Nat)} :
    Op.Holds (fun s => s.owners = o) (readInstance c chosen va body) := by
  mvcgen [readInstance, readRecord_owners, readExtras_owners] with grind
theorem readLoop_owners {c : Self} {chosen va : Nat} : Op.Holds (fun s => s.owners = o) (readLoop c chosen va) := by
  unfold readLoop
  refine Op.holds_bind readRecord_owners fun r => ?_
  extract_lets codes
  split
  · exact Op.holds_pure
  · exact Op.holds_bind (Op.holds_mapM (fun _ => readInstance_owners) _) fun _ =>
      Op.holds_bind readInstance_owners fun _ => Op.holds_pure

end

end Sys2Proof.Machine
end

section
/-! The submission of a record outside strands (06 R149-R151, R153; 07 R178; 09 R218, R237): its least code, or the task that it enters. -/
namespace Sys2Proof.Machine
variable {s s1 s2 s3 t u : State}

/-! ## The least code (06 R149) -/

theorem leastCode_eq_min? (l : List Nat) : leastCode l = l.min?.getD 0 := by
  cases l with
  | nil => rfl
  | cons a l =>
    unfold leastCode
    rw [List.min?_cons', List.foldl_cons]
    congr 1
    induction l generalizing a with
    | nil => rfl
    | cons b l ih => exact ih (min a b)

theorem leastCode_of_le {l : List Nat} {n : Nat} (mem : n ∈ l) (least : ∀ m ∈ l, n ≤ m) : leastCode l = n := by
  rw [leastCode_eq_min?, List.min?_eq_some_iff.2 ⟨mem, least⟩, Option.getD_some]

theorem leastCode_mem {l : List Nat} (nonzero : leastCode l ≠ 0) : leastCode l ∈ l ∧ ∀ m ∈ l, leastCode l ≤ m := by
  rw [leastCode_eq_min?] at nonzero ⊢
  cases least : l.min? with
  | none => simp [least] at nonzero
  | some n => exact List.min?_eq_some_iff.1 least

theorem zero_notMem_recordCodes (chosen r : Nat) (inst : Bool) : 0 ∉ recordCodes chosen r inst := by
  simp [recordCodes]

theorem zero_notMem_loopCodes (chosen va r : Nat) : 0 ∉ loopCodes chosen va r := by
  simp [loopCodes]

/-- What an operation answers, where it ends, has a property. -/
def Op.Gives {α : Type} (q : α → Prop) (x : Op α) : Prop := ∀ s a t, x s = .ok a t → q a

section
variable {α β : Type} {q : β → Prop}

theorem Op.gives_pure {b : β} (has : q b) : Op.Gives q (pure b) := fun _ _ _ run => by
  cases run
  exact has

theorem Op.gives_bind {p : α → Prop} {x : Op α} {f : α → Op β} (hx : Op.Gives p x) (hf : ∀ a, p a → Op.Gives q (f a)) : Op.Gives q (x >>= f) :=
  fun s b t run => by
    obtain ⟨a, u, first, rest⟩ := Op.bind_ok run
    exact hf a (hx s a u first) u b t rest

theorem Op.gives_any (x : Op α) : Op.Gives (fun _ => True) x := fun _ _ _ _ => trivial

theorem Op.gives_mapM {f : α → Op β} (hf : ∀ a, Op.Gives q (f a)) (l : List α) : Op.Gives (fun bs => ∀ b ∈ bs, q b) (l.mapM f) := by
  induction l with
  | nil =>
    rw [List.mapM_nil]
    exact Op.gives_pure (by simp)
  | cons a l ih =>
    rw [List.mapM_cons]
    exact Op.gives_bind (hf a) fun b hb => Op.gives_bind ih fun bs hbs => Op.gives_pure (List.forall_mem_cons.2 ⟨hb, hbs⟩)

end

theorem readExtras_codes (c : Self) (r : Nat) : Op.Gives (fun e => 0 ∉ e.2.2) (readExtras c r) := by
  unfold readExtras
  extract_lets nops nsucc oa sa rest
  have tail : ∀ ops, Op.Gives (fun e => 0 ∉ e.2.2) (rest ops) := fun ops => by
    unfold rest
    extract_lets bad last
    have codes : ∀ succs, Op.Gives (fun e => 0 ∉ e.2.2) (last succs) := fun succs => Op.gives_pure (by simp)
    clear_value last
    split
    · exact codes _
    · exact Op.gives_bind (Op.gives_any _) fun _ _ => codes _
  clear_value rest
  split
  · exact tail _
  · exact Op.gives_bind (Op.gives_any _) fun _ _ => tail _

theorem readInstance_codes (c : Self) (chosen va : Nat) (body : Option (List Nat)) :
    Op.Gives (fun i => 0 ∉ i.2) (readInstance c chosen va body) := by
  refine Op.gives_bind (Op.gives_any _) fun r _ => Op.gives_bind (readExtras_codes c r) fun e extras => Op.gives_pure ?_
  simp [zero_notMem_recordCodes, extras]

theorem readLoop_codes (c : Self) (chosen va : Nat) : Op.Gives (fun l => 0 ∉ l.2.2.2) (readLoop c chosen va) := by
  refine Op.gives_bind (Op.gives_any _) fun r _ => ?_
  have own := zero_notMem_loopCodes chosen va r
  dsimp only
  split
  · exact Op.gives_pure own
  · refine Op.gives_bind (Op.gives_mapM (readInstance_codes c chosen · _) _) fun bodies hb =>
      Op.gives_bind (readInstance_codes c chosen _ none) fun g hg => Op.gives_pure ?_
    simpa [own, hg] using fun i codes mem => (hb (i, codes) mem)

/-! ## Entering the pool (06 R150, R151) -/

/-- The early signals of a record address taken out of the pool. -/
def State.takeEarly (s : State) (tn va : Nat) : State :=
  if (s.tenant tn).early.countP (· == va) == 0 then s else s.updTenant tn fun t => { t with early := t.early.filter (· != va) }

section
variable {tn va : Nat}

@[simp] theorem State.takeEarly_tasks : (s.takeEarly tn va).tasks = s.tasks := by unfold State.takeEarly; split <;> rfl
@[simp] theorem State.takeEarly_mem : (s.takeEarly tn va).mem = s.mem := by unfold State.takeEarly; split <;> rfl
@[simp] theorem State.takeEarly_blocks : (s.takeEarly tn va).blocks = s.blocks := by unfold State.takeEarly; split <;> rfl
@[simp] theorem State.takeEarly_waves : (s.takeEarly tn va).waves = s.waves := by unfold State.takeEarly; split <;> rfl
@[simp] theorem State.takeEarly_loops : (s.takeEarly tn va).loops = s.loops := by unfold State.takeEarly; split <;> rfl

theorem State.takeEarly_keeps {α : Type} (g : Tenant → α) (same : ∀ t l, g { t with early := l } = g t) (k : Nat) :
    g ((s.takeEarly tn va).tenant k) = g (s.tenant k) := by
  unfold State.takeEarly
  split
  · rfl
  · exact State.updTenant_keeps g (fun t => same t _) tn k

theorem State.takeEarly_early : ((s.takeEarly tn va).tenant tn).early.countP (· == va) = 0 := by
  unfold State.takeEarly
  split
  next none => exact beq_iff_eq.1 none
  next =>
    by_cases here : tn < s.tenants.length
    · rw [State.tenant_updTenant here, List.countP_eq_zero]
      simp
    · rw [State.tenant, List.getD_eq_default _ _ (by simpa using here)]
      rfl

end

/-- The tasks that a new task waits for: those of its tenant, graph and loop whose operands conflict with its own (06 R151). -/
def State.waitsFor (s : State) (n : NewTask) : List Nat :=
  (s.tasks.filter fun t => t.tenant == n.tenant && t.graphId == fld n.copy.record 575 544 && t.strand == n.strand && t.guessOf == n.guessOf
    && opsConflict t.ops n.copy.ops).map (·.id)

/-- A new task with the early signals that it has had, before it is tried. -/
def State.poolTask (s : State) (n : NewTask) (early : Nat) : Task :=
  let r := n.copy.record
  { id := s.nextId, tenant := n.tenant, addr := n.copy.addr, record := r, ops := n.copy.ops, succs := n.copy.succs, added := []
    slice := n.slice, seq := (s.slice n.slice).nextSeq, count := fld r 223 208 + (s.waitsFor n).length - early, evWait := bit r 31
    waitsOn := s.waitsFor n, phase := .waiting, readyAt := 0, nextBlk := 0, started := 0, startClk := 0, ending := none, aborting := false
    detail := 0, pending := [], bound := [], dieOf := n.die, strand := n.strand, guessOf := n.guessOf
    hdrWait := none, gang := none, begun := false, saved := 0 }

/-- A task tried, field by field. -/
theorem Task.tryReady_eq (t : Task) (clock : Nat) : t.tryReady clock = { t with
    phase := if t.phase = .waiting ∧ t.count = 0 ∧ t.evWait = false then .ready else t.phase
    readyAt := if t.phase = .waiting ∧ t.count = 0 ∧ t.evWait = false then clock else t.readyAt } := by
  simp only [Task.tryReady, Bool.and_eq_true, beq_iff_eq, Bool.not_eq_true', and_assoc]
  split <;> rfl

/-- What a submission leaves: one more task with the record's copy, and the early signals of its address gone. -/
structure Entered (s : State) (n : NewTask) (t : Task) (u : State) : Prop where
  tasks : u.tasks = s.tasks ++ [t]
  mem : u.mem = s.mem
  blocks : u.blocks = s.blocks
  waves : u.waves = s.waves
  loops : u.loops = s.loops
  watch : ∀ k, (u.tenant k).watch = (s.tenant k).watch
  phase : ∀ k, (u.tenant k).phase = (s.tenant k).phase
  early : (u.tenant n.tenant).early.countP (· == n.copy.addr) = 0
  owner : t.tenant = n.tenant
  addr : t.addr = n.copy.addr
  record : t.record = n.copy.record
  operands : t.ops = n.copy.ops
  succs : t.succs = n.copy.succs
  slice : t.slice = n.slice
  waitsOn : t.waitsOn = s.waitsFor n
  count : t.count = fld n.copy.record 223 208 + (s.waitsFor n).length - (s.tenant n.tenant).early.countP (· == n.copy.addr)
  evWait : t.evWait = bit n.copy.record 31
  ready : t.phase = if t.count = 0 ∧ t.evWait = false then .ready else .waiting
  ending : t.ending = none
  started : t.started = 0
  strand : t.strand = none
  guessOf : t.guessOf = none

theorem State.enterTask_entered {n : NewTask} (strand : n.strand = none) (guess : n.guessOf = none) :
    ∃ t, (s.enterTask n).1 = t.id ∧ Entered s n t (s.enterTask n).2 := by
  obtain ⟨tenant, copy, slice, die, _, _⟩ := n
  cases strand
  cases guess
  let n : NewTask := ⟨tenant, copy, slice, die, none, none⟩
  let e := s.takeEarly tenant copy.addr
  let early := (s.tenant tenant).early.countP (· == copy.addr)
  refine ⟨(e.poolTask n early).tryReady e.clock, ?_, ?_⟩
  · rw [Task.tryReady_eq]
    rfl
  have entered : s.enterTask n = ((e.poolTask n early).id,
      { e.newId.2.updSlice slice (fun x => { x with nextSeq := x.nextSeq + 1 }) with
        tasks := e.tasks ++ [(e.poolTask n early).tryReady e.clock] }) := rfl
  have waits : e.waitsFor n = s.waitsFor n := by rw [State.waitsFor, State.waitsFor, State.takeEarly_tasks]
  rw [entered, Task.tryReady_eq]
  exact {
    tasks := by rw [State.takeEarly_tasks]
    mem := State.takeEarly_mem
    blocks := State.takeEarly_blocks
    waves := State.takeEarly_waves
    loops := State.takeEarly_loops
    watch := State.takeEarly_keeps (·.watch) fun _ _ => rfl
    phase := State.takeEarly_keeps (·.phase) fun _ _ => rfl
    early := State.takeEarly_early
    owner := rfl
    addr := rfl
    record := rfl
    operands := rfl
    succs := rfl
    slice := rfl
    waitsOn := waits
    count := by rw [← waits]; rfl
    evWait := rfl
    ready := if_congr (by simp [State.poolTask]) rfl rfl
    ending := rfl
    started := rfl
    strand := rfl
    guessOf := rfl }

/-- The new task is live at its record address, which had no live task. -/
theorem Entered.liveTask? {t : Task} {n : NewTask} (entered : Entered s n t u)
    (free : s.liveTask? n.tenant n.copy.addr = none) : u.liveTask? n.tenant n.copy.addr = some t := by
  rw [State.liveTask?] at free ⊢
  rw [entered.tasks, List.find?_append, free]
  simp [entered.owner, entered.addr, entered.strand, entered.guessOf]

/-! ## The checks, and what they end with (06 R149, R153; 09 R218) -/

/-- The pool once a task has entered it, and the loop that its record names with it. -/
def State.enterLoop (s : State) (n : NewTask) (lp : Option (Nat × List RecCopy × RecCopy)) : State :=
  { (s.enterTask n).2 with
    loops := (s.enterTask n).2.loops ++ (lp.toList.map fun p => newLoop (s.enterTask n).1 n.tenant p.1 p.2.1 p.2.2) }

theorem State.enterLoop_none (s : State) (n : NewTask) : s.enterLoop n none = (s.enterTask n).2 := by
  rw [State.enterLoop, Option.toList_none, List.map_nil, List.append_nil]

/-- What a record that has been read ends with, by the codes found: its code, and the state. -/
def State.judge (s : State) (n : NewTask) (lp : Option (Nat × List RecCopy × RecCopy)) (codes : List Nat) : Nat × State :=
  if leastCode codes ≠ 0 then (leastCode codes, s)
  else if 65536 ≤ s.sliceTasks n.slice then (5, s)
  else if (s.liveTask? n.tenant n.copy.addr).isSome then (6, s)
  else (0, s.enterLoop n lp)

section
variable {n : NewTask} {lp : Option (Nat × List RecCopy × RecCopy)}

theorem State.judge_code {codes : List Nat} {k : Nat} (mem : k ∈ codes) (least : ∀ m ∈ codes, k ≤ m) (positive : 0 ∉ codes) :
    s.judge n lp codes = (k, s) := by
  have lowest := leastCode_of_le mem least
  rw [State.judge, if_pos (lowest ▸ ne_of_mem_of_not_mem mem positive), lowest]

theorem State.judge_full (full : 65536 ≤ s.sliceTasks n.slice) : s.judge n lp [] = (5, s) := if_pos full

theorem State.judge_live (room : s.sliceTasks n.slice < 65536) (live : (s.liveTask? n.tenant n.copy.addr).isSome = true) :
    s.judge n lp [] = (6, s) := (if_neg (Nat.not_le.2 room)).trans (if_pos live)

theorem State.judge_enter (room : s.sliceTasks n.slice < 65536) (free : s.liveTask? n.tenant n.copy.addr = none) :
    s.judge n lp [] = (0, s.enterLoop n lp) := (if_neg (Nat.not_le.2 room)).trans (if_neg (by simp [free]))

end

section
variable {c : Self} {by_ : Submitter} {va r : Nat} {loop : Bool} {codes ops succs oc lc : List Nat} {lp : Option (Nat × List RecCopy × RecCopy)}

theorem submit_least (read : readRecord c va 128 s = .ok r s1) (own : submitCodes by_ (s.tenant c.who.tenant).verTask va r = codes)
    (kind : (fld r 19 16 == 4 && by_ != .tspawn) = loop) (lowest : leastCode codes = 1 ∨ leastCode codes = 2 ∧ loop = false) :
    submit c by_ va s = .ok (leastCode codes) s1 := by
  unfold submit
  rw [Op.get_bind, Op.bind_run read]
  simp only [own, kind]
  rw [if_pos (by simpa using lowest)]
  rfl

/-- How the bodies and the guess routine of a loop record are read: the loop, its codes, and the state that the reads leave. -/
def LoopRead (c : Self) (loop : Bool) (chosen r : Nat) (s : State) (lp : Option (Nat × List RecCopy × RecCopy)) (lc : List Nat) (t : State) : Prop :=
  loop = false ∧ t = s ∧ lp = none ∧ lc = []
    ∨ loop = true ∧ ∃ lr b g, readLoop c chosen (fld r 127 64) s = .ok (lr, b, g, lc) t ∧ lp = some (lr, b, g)

theorem submit_run (read : readRecord c va 128 s = .ok r s1) (own : submitCodes by_ (s.tenant c.who.tenant).verTask va r = codes)
    (kind : (fld r 19 16 == 4 && by_ != .tspawn) = loop) (passed : ¬(leastCode codes = 1 ∨ leastCode codes = 2 ∧ loop = false))
    (extras : readExtras c r s1 = .ok (ops, succs, oc) s2) (inner : LoopRead c loop (s.tenant c.who.tenant).verTask r s2 lp lc s3)
    (die : c.who.die < 8) :
    let a := s3.judge ⟨c.who.tenant, ⟨va, r, ops, succs⟩, s3.sliceFor c.who.tenant r (hubOfDie c.who.die), c.who.die, none, none⟩ lp
      (codes ++ oc ++ lc)
    submit c by_ va s = .ok a.1 a.2 := by
  unfold submit
  rw [Op.get_bind, Op.bind_run read]
  subst own
  intro a
  extract_lets done
  rw [if_neg (by simpa [kind] using passed), Op.bind_run extras]
  dsimp -zeta only
  extract_lets tail
  have judged : ∀ found : Option (Nat × List RecCopy × RecCopy × List Nat), lp = found.map (fun p => (p.1, p.2.1, p.2.2.1)) →
      lc = (match found with | some p => p.2.2.2 | none => []) → tail found s3 = .ok a.1 a.2 := by
    rintro found rfl rfl
    unfold tail a
    rw [State.judge]
    extract_lets code
    rw [show leastCode _ = code by cases found <;> rfl]
    clear_value code
    by_cases refused : code ≠ 0
    · rw [if_pos (bne_iff_ne.2 refused), if_pos refused]
      rfl
    rw [if_neg (by simpa using refused), if_neg refused, Op.get_bind, if_pos die]
    dsimp only
    generalize s3.sliceFor c.who.tenant r (hubOfDie c.who.die) = slice
    by_cases full : 65536 ≤ s3.sliceTasks slice
    · rw [if_pos full, if_pos full]
      rfl
    rw [if_neg full, if_neg full]
    by_cases live : (s3.liveTask? c.who.tenant va).isSome = true
    · rw [if_pos live, if_pos live]
      rfl
    rw [if_neg live, if_neg live]
    cases found with
    | some p => rfl
    | none => exact congrArg (EStateM.Result.ok 0) (State.enterLoop_none ..).symm
  clear_value tail
  rw [kind]
  obtain ⟨rfl, rfl, noLoop, noCodes⟩ | ⟨rfl, lr, b, g, run, theLoop⟩ := inner
  · rw [if_neg Bool.false_ne_true]
    exact judged none noLoop noCodes
  · rw [if_pos rfl, Op.bind_run run]
    exact judged (some (lr, b, g, lc)) theLoop rfl

end

/-! ## The submitter -/

section
variable {c : Cohort} {w : Wave} {x : Dev} {l : LaneCtx}

theorem OneLane.self_die (hs : OneLane s c w x l) : (s.idle.self l.ref).who.die = dieOfCore w.ref.core := by
  rw [hs.ref, hs.ready.ref]
  rfl

/-- A task that a wave's tenant submits leaves the wave's cohort ready. -/
theorem Ready.enterLoop (ready : Ready s c w) {n : NewTask} (strand : n.strand = none) (guess : n.guessOf = none)
    (own : s.tenantOfWave w = n.tenant) (lp : Option (Nat × List RecCopy × RecCopy)) : Ready (s.enterLoop n lp) c w := by
  obtain ⟨t, -, entered⟩ := State.enterTask_entered (s := s) strand guess
  refine ready.of_same entered.waves ?_ (entered.watch _) (entered.phase _)
  have tasks : (s.enterLoop n lp).tasks = s.tasks ++ [t] := entered.tasks
  have blocks : (s.enterLoop n lp).blocks = s.blocks := entered.blocks
  have owners : (s.enterLoop n lp).owners = (s.blocks, s.owners.2 ++ [(t.id, n.tenant)]) := by
    rw [State.owners, State.owners, tasks, blocks, List.map_append, List.map_singleton, entered.owner]
  rw [own, State.tenantOfWave_eq_ownerOf, owners]
  exact ownerOf_append _ ((State.tenantOfWave_eq_ownerOf s w).symm.trans own)

end

theorem LoopRead.owners {c : Self} {loop : Bool} {chosen r : Nat} {lp : Option (Nat × List RecCopy × RecCopy)} {lc : List Nat}
    (read : LoopRead c loop chosen r s lp lc t) : t.owners = s.owners := by
  obtain ⟨-, rfl, -, -⟩ | ⟨-, lr, b, g, run, -⟩ := read
  · rfl
  · exact readLoop_owners.ok rfl run

theorem LoopRead.codes {c : Self} {loop : Bool} {chosen r : Nat} {lp : Option (Nat × List RecCopy × RecCopy)} {lc : List Nat}
    (read : LoopRead c loop chosen r s lp lc t) : 0 ∉ lc := by
  obtain ⟨-, -, -, rfl⟩ | ⟨-, lr, b, g, run, -⟩ := read
  · exact List.not_mem_nil
  · exact readLoop_codes c chosen _ _ _ _ run

/-- The instruction that submits a record: GLOOP for a loop record, TSPAWN for another. -/
def deviceSubmitter (loopKind : Bool) : Submitter := if loopKind then .gloop else .tspawn

theorem submitCodes_device (loopKind : Bool) (chosen va r : Nat) : submitCodes (deviceSubmitter loopKind) chosen va r
    = recordCodes chosen r false ++ (if va % 128 ≠ 0 then [4] else []) ++ if (fld r 19 16 == 4) != loopKind then [3] else [] := by
  cases loopKind <;> simp [submitCodes, deviceSubmitter]

theorem zero_notMem_submitCodes (by_ : Submitter) (chosen va r : Nat) : 0 ∉ submitCodes by_ chosen va r := by
  simp [submitCodes, zero_notMem_recordCodes]

theorem isLoop_device (loopKind : Bool) (r : Nat) :
    (fld r 19 16 == 4 && deviceSubmitter loopKind != .tspawn) = decide (loopKind = true ∧ fld r 19 16 = 4) := by
  cases loopKind with
  | false => simp [deviceSubmitter]
  | true =>
    rw [show (deviceSubmitter true != .tspawn) = true from rfl, Bool.and_true]
    simp [beq_eq_decide]

/-- Settles O30: the submission is run to its codes or to the new task, and the cohort is ready in the state that it leaves. -/
theorem submission : Obligations.Submission := by
  intro s s1 c w x l r i loopKind hs outside core which va self tn chosen code read ready1 own loops
  have tenant : self.who.tenant = tn := hs.self_tenant
  have meaning : exec (i x) s = .next (runOp x (taskOp x fun self l => submit self (deviceSubmitter loopKind) (l.srcWN x.a)) s) := by
    obtain ⟨rfl, rfl⟩ | ⟨rfl, rfl⟩ := which <;> rfl
  have answers : ∀ {n u}, submit self (deviceSubmitter loopKind) va s.idle = .ok n u → Ready u c w → code u n := fun run ready =>
    meaning.trans (congrArg Host.Outcome.next (runOp_taskOp hs outside run ready))
  have codes : submitCodes (deviceSubmitter loopKind) (s.idle.tenant self.who.tenant).verTask va r = own := by
    rw [tenant]
    exact submitCodes_device ..
  have positive : ∀ n ∈ own, 1 ≤ n := fun n mem => Nat.one_le_iff_ne_zero.2 fun zero =>
    zero_notMem_submitCodes _ _ _ _ (codes ▸ zero ▸ mem)
  have kind := isLoop_device loopKind r
  have one : 1 ∈ own → leastCode own = 1 := fun mem => leastCode_of_le mem positive
  have two : 2 ∈ own → 1 ∉ own → leastCode own = 2 := fun mem not => leastCode_of_le mem fun m hm =>
    Nat.lt_of_le_of_ne (positive m hm) fun one => not (one ▸ hm)
  refine ⟨fun mem => ?version, fun mem not plain => ?reserved, fun ops succs oc s2 s3 lp lc not1 not2 extras ready inner => ?rest⟩
  case version => exact answers (one mem ▸ submit_least read codes kind (.inl (one mem))) ready1
  case reserved => exact answers (two mem not ▸ submit_least read codes kind (.inr ⟨two mem not, decide_eq_false plain⟩)) ready1
  case rest =>
    have passed : ¬(leastCode own = 1 ∨ leastCode own = 2 ∧ decide loops = false) := by
      rintro (lowest | ⟨lowest, plain⟩)
      · exact not1 (lowest ▸ (leastCode_mem (lowest ▸ one_ne_zero)).1)
      · exact of_decide_eq_false plain (not2 (lowest ▸ (leastCode_mem (lowest ▸ two_ne_zero)).1))
    have inner : LoopRead self (decide loops) (s.idle.tenant self.who.tenant).verTask r s2 lp lc s3 := by
      rw [tenant]
      exact inner.imp (And.imp_left decide_eq_false) (And.imp_left decide_eq_true)
    have die : self.who.die = w.ref.core / 32 := hs.self_die
    let n : NewTask := ⟨tn, ⟨va, r, ops, succs⟩, s3.sliceFor tn r (w.ref.core / 32 / 2), w.ref.core / 32, none, none⟩
    have run : ∀ {codes m u}, own ++ oc ++ lc = codes → s3.judge n lp codes = (m, u) →
        submit self (deviceSubmitter loopKind) va s.idle = .ok m u := by
      rintro _ m u rfl judged
      have run := submit_run read codes kind passed extras inner (by omega)
      rw [tenant, die] at run
      change submit _ _ _ _ = .ok (s3.judge n lp (own ++ oc ++ lc)).1 (s3.judge n lp (own ++ oc ++ lc)).2 at run
      rwa [judged] at run
    refine ⟨fun m mem least => answers (run rfl (State.judge_code mem least ?positive)) ready,
      fun none => ⟨fun full => answers (run none (State.judge_full full)) ready,
        fun room live => answers (run none (State.judge_live room live)) ready, fun room free => ?entered⟩⟩
    case positive =>
      have ownPositive : 0 ∉ own := codes ▸ zero_notMem_submitCodes _ _ _ _
      have extrasPositive : 0 ∉ oc := readExtras_codes self r _ _ _ extras
      simp [ownPositive, extrasPositive, inner.codes]
    case entered =>
      have owners : s3.owners = s.owners := calc
        s3.owners = s2.owners := inner.owners
        _ = s1.owners := readExtras_owners.ok rfl extras
        _ = s.idle.owners := readRecord_owners.ok rfl read
      have owner : s3.tenantOfWave w = tn := by
        rw [State.tenantOfWave_eq_ownerOf, owners, ← State.tenantOfWave_eq_ownerOf]
      have done := answers (run none (State.judge_enter room free)) (ready.enterLoop rfl rfl owner lp)
      obtain ⟨t, name, entered⟩ := State.enterTask_entered (s := s3) (n := n) rfl rfl
      have waits : s3.waitsFor n = (s3.tasks.filter fun t => t.tenant == tn && t.graphId == fld r 575 544 && t.strand.isNone
          && t.guessOf.isNone && opsConflict t.ops ops).map (·.id) := by simp [State.waitsFor, n]
      refine ⟨_, t, done, entered.tasks, entered.mem, entered.blocks, ?waves, entered.owner, entered.addr, entered.record, entered.operands,
        entered.succs, entered.slice, ?count, ?waitsOn, entered.evWait, ?phase, entered.ending, entered.started, entered.early, ?loops, ?live⟩
      case waves => exact congrArg (List.map _) entered.waves
      case count => rw [entered.count, waits]
      case waitsOn => rw [entered.waitsOn, waits]
      case phase => rw [entered.ready, entered.count, entered.evWait, waits]
      case loops =>
        change (s3.enterTask n).2.loops ++ (lp.toList.map fun p => newLoop (s3.enterTask n).1 tn p.1 p.2.1 p.2.2) = _
        rw [entered.loops, name]
      case live => exact entered.liveTask? free

end Sys2Proof.Machine
end

section
/-! The cross-lane instructions that carry words, predicates and masks between the active lanes (07 R162, R164 to R167). -/
namespace Sys2Proof.Machine
variable {x : Dev} {act : List LaneCtx} {l : LaneCtx}

/-! ## Lanes that see each other -/

/-- An instruction of one function of the active lanes does in every lane what the function answers. -/
theorem crossDo_of_lane {i : Dev → Instr} {f : Dev → List LaneCtx → LaneCtx → LaneRes} {normal : Dev → List LaneCtx → Prop}
    {out : Dev → List LaneCtx → LaneCtx → LaneOut} (run : ∀ x s, exec (i x) s = .next (runCross x f s))
    (done : ∀ x act, normal x act → ∀ l ∈ act, f x act l = .done (out x act l)) (plain : ∀ x act l, (out x act l).plain) :
    CrossDo i normal out := fun s c w x hs takes => by
  rw [run, runCross, runCross_done hs (done x _ takes) fun l _ => plain x _ l]

theorem laneAt_eq (act : List LaneCtx) (n : Nat) : laneAt act n = lane? act n := by
  simp only [laneAt, lane?, Nat.cast_inj, beq_eq_decide]

theorem laneMask_eq (act : List LaneCtx) (p : LaneCtx → Bool) : laneMask act p = maskOf act p := by
  have from_ : ∀ n, act.foldl (fun m c => if p c then m + 2 ^ c.lane else m) n = n + maskOf act p := by
    unfold maskOf
    induction act with
    | nil => exact fun n => rfl
    | cons a as ih =>
      intro n
      rw [List.foldl_cons, ih]
      cases picked : p a <;> simp [picked, Nat.add_assoc]
  exact (from_ 0).trans (Nat.zero_add _)

/-! ## SHFL (07 R164) -/

/-- Lanes of one segment of 2^k, as a range. -/
theorem segment_iff (k lane n : Nat) : n / 2 ^ k = lane / 2 ^ k ↔ lane / 2 ^ k * 2 ^ k ≤ n ∧ n < lane / 2 ^ k * 2 ^ k + 2 ^ k := by
  rw [Nat.div_eq_iff (Nat.two_pow_pos k)]
  have := Nat.two_pow_pos k
  omega

theorem xor_same_segment {k r : Nat} (low : r < 2 ^ k) (lane : Nat) : (lane ^^^ r) / 2 ^ k = lane / 2 ^ k := by
  rw [Nat.xor_div_two_pow, Nat.div_eq_of_lt low, Nat.xor_zero]

theorem shflLane?_eq (x : Dev) (act : List LaneCtx) (l : LaneCtx) :
    (shflSrc (fld x.m 1 0) (fld x.m 4 2) l.lane (l.srcN x.b)).bind (laneAt act) = shflLane? x act l := by
  unfold shflLane? shflFrom shflSrc LaneCtx.srcN
  generalize fld x.m 4 2 = k, (l.src x.b).val.toNat = b, l.lane = lane
  have base : lane - lane % 2 ^ k = lane / 2 ^ k * 2 ^ k := by
    have := Nat.div_add_mod' lane (2 ^ k)
    omega
  have inside : ∀ n : Nat, n / 2 ^ k = lane / 2 ^ k → ((some n).bind (laneAt act) : Option LaneCtx)
      = if ((lane / 2 ^ k * 2 ^ k : Nat) : Int) ≤ n ∧ (n : Int) < ((lane / 2 ^ k * 2 ^ k + 2 ^ k : Nat) : Int) then lane? act n else none := by
    intro n same
    rw [if_pos (by exact_mod_cast (segment_iff k lane n).1 same), Option.bind_some, laneAt_eq]
  have offset : ∀ r < 2 ^ k, (lane / 2 ^ k * 2 ^ k + r) / 2 ^ k = lane / 2 ^ k := fun r low =>
    (segment_iff k lane _).2 ⟨Nat.le_add_right _ _, Nat.add_lt_add_left low _⟩
  simp only [base]
  rcases fld x.m 1 0 with _ | _ | _ | mode
  · exact inside _ (offset _ (Nat.mod_lt _ (Nat.two_pow_pos k)))
  · have rest : lane - lane / 2 ^ k * 2 ^ k = lane % 2 ^ k := by
      have := Nat.div_add_mod' lane (2 ^ k)
      omega
    simp only [rest]
    exact inside _ (offset _ (Nat.mod_lt _ (Nat.two_pow_pos k)))
  · simp only [sextN_eq_toInt (by decide : 0 < 32)]
    generalize (lane : Int) + (BitVec.ofNat 32 b).toInt = src
    by_cases held : ((lane / 2 ^ k * 2 ^ k : Nat) : Int) ≤ src ∧ src < ((lane / 2 ^ k * 2 ^ k + 2 ^ k : Nat) : Int)
    · rw [if_pos held, if_pos held, Option.bind_some, laneAt_eq, Int.toNat_of_nonneg (by omega)]
    · rw [if_neg held, if_neg held, Option.bind_none]
  · exact inside _ (xor_same_segment (Nat.mod_lt _ (Nat.two_pow_pos k)) lane)

theorem shflLane_done (x : Dev) (act : List LaneCtx) (l : LaneCtx) : shflLane x act l = .done
    { regs := [(x.d, ((shflLane? x act l).getD l).src x.a)], preds := [(fld x.m 7 5, (shflLane? x act l).isSome)] } := by
  unfold shflLane
  simp only [shflLane?_eq]
  cases shflLane? x act l <;> rfl

/-! ## VOTE, ELECT and MATCH (07 R165 to R167) -/

/-- The vote of mode 2: all the tests agree. -/
theorem all_or_not_any (act : List LaneCtx) (q : LaneCtx → Bool) :
    (act.all q || !act.any q) = decide (∀ l ∈ act, ∀ k ∈ act, q l = q k) := by
  rw [Bool.eq_iff_iff, decide_eq_true_iff, iff_comm, Bool.or_eq_true, List.all_eq_true, Bool.not_eq_true', List.any_eq_false]
  constructor
  · intro agree
    by_cases some : ∃ l ∈ act, q l = true
    · obtain ⟨l, mem, holds⟩ := some
      exact .inl fun k hk => (agree l mem k hk).symm.trans holds
    · exact .inr fun l mem holds => some ⟨l, mem, holds⟩
  · rintro (all | none) l hl k hk
    · rw [all l hl, all k hk]
    · rw [Bool.eq_false_iff.2 (none l hl), Bool.eq_false_iff.2 (none k hk)]

theorem voteLane_test (mode : fld x.m 1 0 < 3) : voteLane x act l = .done (outP x.d (
    let q := fun (l : LaneCtx) => l.pred x.a ^^ bit x.m 2
    if fld x.m 1 0 = 0 then decide (∀ l ∈ act, q l = true) else if fld x.m 1 0 = 1 then decide (∃ l ∈ act, q l = true)
    else decide (∀ l ∈ act, ∀ k ∈ act, q l = q k))) := by
  obtain mode | mode | mode : fld x.m 1 0 = 0 ∨ fld x.m 1 0 = 1 ∨ fld x.m 1 0 = 2 := by omega
  · simp only [voteLane, mode, resultP, outP, List.all_eq, if_true]
  · simp only [voteLane, mode, resultP, outP, List.any_eq, if_true, Nat.one_ne_zero, if_false]
  · simp only [voteLane, mode]
    exact congrArg (fun b => LaneRes.done (outP x.d b)) (all_or_not_any act fun l => l.pred x.a ^^ bit x.m 2)

theorem voteLane_mask (mode : fld x.m 1 0 = 3) :
    voteLane x act l = .done (outR x.d (maskOf act fun l => l.pred x.a ^^ bit x.m 2) .n32) := by
  rw [← laneMask_eq]
  simp only [voteLane, mode]
  rfl

theorem electLane_done (active : l ∈ act) : electLane x act l = .done
    { regs := if bit x.m 0 then (act.take 1).map fun k => (x.a, ⟨BitVec.ofNat 32 k.lane, .n32⟩) else []
      preds := [(x.d.predNo, (act.take 1).any fun k => k.lane == l.lane)] } := by
  cases act with
  | nil => cases active
  | cons leader rest => simp [electLane, Bool.beq_comm (a := l.lane)]

/-- A pair of words as one number is the pair. -/
theorem srcWN_beq (k l : LaneCtx) (o : Operand) : (k.srcWN o == l.srcWN o)
    = ((k.src o).val == (l.src o).val && (k.src (o.plus 1)).val == (l.src (o.plus 1)).val) := by
  rw [Bool.eq_iff_iff, Bool.and_eq_true, beq_iff_eq, beq_iff_eq, beq_iff_eq, ← BitVec.toNat_inj, ← BitVec.toNat_inj, LaneCtx.srcWN, LaneCtx.srcWN]
  have := (k.src o).val.isLt
  have := (l.src o).val.isLt
  omega

theorem matchLanesLane_done (x : Dev) (act : List LaneCtx) (l : LaneCtx) : matchLanesLane x act l = .done
    (outR x.d (maskOf act fun k => (k.src x.a).val == (l.src x.a).val
      && (!bit x.m 0 || (k.src (x.a.plus 1)).val == (l.src (x.a.plus 1)).val)) .n32) := by
  have alike : ∀ k : LaneCtx, (k.srcN x.a == l.srcN x.a) = ((k.src x.a).val == (l.src x.a).val) := fun k => by
    rw [Bool.eq_iff_iff, beq_iff_eq, beq_iff_eq, ← BitVec.toNat_inj, LaneCtx.srcN, LaneCtx.srcN]
  unfold matchLanesLane
  simp only [laneMask_eq]
  cases bit x.m 0
  · simp only [Bool.false_eq_true, if_false, alike, Bool.not_false, Bool.true_or, Bool.and_true]
    rfl
  · simp only [if_true, srcWN_beq, Bool.not_true, Bool.false_or]
    rfl

/-- Settles O5: each instruction is one function of the active lanes, whose answer its own rule gives. -/
theorem shuffles : Obligations.Shuffles := by
  refine ⟨?_, ?_, ?_, ?_, ?_, ?_⟩
  · exact crossDo_of_lane (fun _ _ => rfl) (fun x act _ l _ => shflLane_done x act l) fun _ _ _ => ⟨rfl, rfl⟩
  · exact crossDo_of_lane (fun _ _ => rfl) (fun x act mode l _ => voteLane_test mode) fun _ _ _ => ⟨rfl, rfl⟩
  · exact crossDo_of_lane (fun _ _ => rfl) (fun x act mode l _ => voteLane_mask mode) fun _ _ _ => ⟨rfl, rfl⟩
  · refine crossDo_of_lane (fun _ _ => rfl) (fun x act _ l _ => ?_) fun _ _ _ => ⟨rfl, rfl⟩
    rw [actmaskLane, laneMask_eq]
    rfl
  · exact crossDo_of_lane (fun _ _ => rfl) (fun x act _ l active => electLane_done active) fun _ _ _ => ⟨rfl, rfl⟩
  · exact crossDo_of_lane (fun _ _ => rfl) (fun x act _ l _ => matchLanesLane_done x act l) fun _ _ _ => ⟨rfl, rfl⟩

end Sys2Proof.Machine
end

section
/-! Reductions and scans by their fixed trees (07 R168, R169): the lists of 32 positions that the model folds hold the subtrees and the scan steps of the
statement, application by application. -/
namespace Sys2Proof.Machine
variable {x : Dev} {act : List LaneCtx} {t : Tag} {p : Nat → Int} {head : Nat → Bool} {l : LaneCtx}

/-! ## The operator, its identity and its operands (07 R168) -/

theorem redStep_eq_combined (x : Dev) (t : Tag) (a b : Int) : redStep (fld x.m 11 9) t (Dev.ftz x) a b = combined x t a b := by
  unfold redStep combined
  simp only [minMaxCode_eq_lesser, beq_iff_eq]

theorem redIdentity_eq_redUnit (x : Dev) (t : Tag) : redIdentity (fld x.m 11 9) t = redUnit x t := by
  unfold redIdentity redUnit
  rcases fld x.m 11 9 with _ | _ | _ | _ | op
  case succ.zero | succ.succ.zero => cases t <;> rfl
  case zero => simp only [beq_iff_eq]
  all_goals rfl

theorem redExact_iff (x : Dev) (t : Tag) : redExact (fld x.m 11 9) t = true ↔ fld x.m 11 9 < 3 ∧ t ≠ .f32 := by
  simp [redExact]

theorem redInput_eq_redValue (x : Dev) (r : Reg) : redInput (fld x.m 11 9) r = redValue x r := by
  simp only [redInput, redValue, redExact_iff, ival_eq_numOf]

/-- Where the operator works on codes and words, an application gives one. -/
theorem combined_nonneg (words : ¬(fld x.m 11 9 < 3 ∧ t ≠ .f32)) (a b : Int) : 0 ≤ (combined x t a b).1 := by
  have float : fld x.m 11 9 < 3 → t = .f32 := fun small => not_not.1 fun other => words ⟨small, other⟩
  unfold combined
  dsimp only
  split
  case h_1 op | h_2 op | h_3 op =>
    rw [if_pos (float (by omega))]
    exact Int.natCast_nonneg _
  all_goals exact Int.natCast_nonneg _

theorem redUnit_nonneg (words : ¬(fld x.m 11 9 < 3 ∧ t ≠ .f32)) : 0 ≤ redUnit x t := by
  have float : fld x.m 11 9 < 3 → t = .f32 := fun small => not_not.1 fun other => words ⟨small, other⟩
  unfold redUnit
  split
  case h_1 op | h_2 op | h_3 op =>
    rw [if_pos (float (by omega))]
    decide
  all_goals decide

/-! ## Lists of the 32 positions -/

/-- What a function gives at the positions. -/
def positions {α : Type} (f : Nat → α) : List α := (List.range 32).map f

theorem positions_getD {α : Type} (f : Nat → α) {i : Nat} (inside : i < 32) (d : α) : (positions f).getD i d = f i := by
  simp [positions, List.getD_eq_getElem?_getD, inside]

theorem positions_congr {α : Type} {f g : Nat → α} (same : ∀ i < 32, f i = g i) : positions f = positions g :=
  List.map_congr_left fun i mem => same i (List.mem_range.1 mem)

theorem positions_set {α : Type} (f : Nat → α) (i : Nat) (a : α) : (positions f).set i a = positions (Function.update f i a) := by
  refine List.ext_getElem (by simp [positions]) fun j _ _ => ?_
  simp only [positions, List.getElem_set, List.getElem_map, List.getElem_range, Function.update_apply, eq_comm]

theorem redInputs_eq (x : Dev) (act : List LaneCtx) (t : Tag) : redInputs x t act = positions (redAt x act t) := by
  refine List.map_congr_left fun i _ => ?_
  rw [laneAt_eq, redAt]
  cases lane? act i with
  | none => exact redIdentity_eq_redUnit x t
  | some l => exact redInput_eq_redValue x (l.src x.a)

theorem redHeads_eq (seg : Bool) (x : Dev) (act : List LaneCtx) : redHeads seg x act = positions (headAt seg x act) := by
  unfold redHeads headAt
  simp only [laneAt_eq]
  rfl

/-! ## Conditions of many applications -/

/-- The conditions of applications 0 to n − 1. -/
def orRange (n : Nat) (f : Nat → Flags) : Flags := (List.range n).foldl (fun fl k => fl ||| f k) 0

theorem orRange_succ (n : Nat) (f : Nat → Flags) : orRange (n + 1) f = orRange n f ||| f n := by
  simp only [orRange, List.range_succ, List.foldl_append, List.foldl_cons, List.foldl_nil]

/-- The conditions of two kinds of applications by pairs of one kind. -/
theorem orRange_pairs (f g h : Nat → Flags) (n : Nat) (pairs : ∀ k < n, h k = f (2 * k) ||| f (2 * k + 1) ||| g k) :
    orRange n h = orRange (2 * n) f ||| orRange n g := by
  induction n with
  | zero => simp [orRange]
  | succ n ih =>
    rw [orRange_succ, ih fun k less => pairs k (by omega), pairs n (by omega), Nat.mul_succ, orRange_succ, orRange_succ, orRange_succ]
    ac_rfl

/-! ## The tree of WRED (07 R169) -/

/-- The application at the root of the subtree of 2^(s+1) positions from i on. -/
def treeRoot (x : Dev) (t : Tag) (p : Nat → Int) (s i : Nat) : Int × Flags := combined x t (treeAt x t p s i).1 (treeAt x t p s (i + 2 ^ s)).1

/-- A list of positions holds the subtrees of 2^s positions, each at its first. -/
def HoldsTrees (x : Dev) (t : Tag) (p : Nat → Int) (s : Nat) (ts : List Int) : Prop :=
  ts.length = 32 ∧ ∀ k, (k + 1) * 2 ^ s ≤ 32 → ts.getD (k * 2 ^ s) 0 = (treeAt x t p s (k * 2 ^ s)).1

/-- What the applications of one level do to the list, and their conditions: those of the pairs below n are done. -/
theorem redLevel_run {s : Nat} {ts : List Int} (holds : HoldsTrees x t p s ts) (fl : Flags) (n : Nat) (inside : n * 2 ^ (s + 1) ≤ 32) :
    let u := (List.range n).foldl (fun (acc : List Int × Flags) k =>
      let i := k * 2 ^ (s + 1)
      let (v, fl) := redCombine (fld x.m 11 9) t (Dev.ftz x) acc.1 acc.2 i (i + 2 ^ s)
      (acc.1.set i v, fl)) (ts, fl)
    u.1.length = 32 ∧ (∀ k < n, u.1.getD (k * 2 ^ (s + 1)) 0 = (treeAt x t p (s + 1) (k * 2 ^ (s + 1))).1)
      ∧ (∀ i, n * 2 ^ (s + 1) ≤ i → u.1.getD i 0 = ts.getD i 0)
      ∧ u.2 = fl ||| orRange n fun k => (treeRoot x t p s (k * 2 ^ (s + 1))).2 := by
  induction n with
  | zero => exact ⟨holds.1, fun k less => absurd less (Nat.not_lt_zero k), fun _ _ => rfl, by simp [orRange]⟩
  | succ n ih =>
    obtain ⟨len, done, rest, flags⟩ := ih (Nat.le_trans (Nat.mul_le_mul_right _ (Nat.le_succ n)) inside)
    rw [List.range_succ, List.foldl_append, List.foldl_cons, List.foldl_nil]
    generalize (List.range n).foldl _ (ts, fl) = u at len done rest flags ⊢
    have double : 2 ^ (s + 1) = 2 * 2 ^ s := Nat.pow_succ'
    have pos := Nat.two_pow_pos s
    rw [Nat.succ_mul] at inside
    have left : u.1.getD (n * 2 ^ (s + 1)) 0 = (treeAt x t p s (n * 2 ^ (s + 1))).1 := by
      have at_ : n * 2 ^ (s + 1) = 2 * n * 2 ^ s := by rw [double]; ring
      rw [rest _ (Nat.le_refl _), at_]
      exact holds.2 _ (by rw [Nat.succ_mul]; omega)
    have right : u.1.getD (n * 2 ^ (s + 1) + 2 ^ s) 0 = (treeAt x t p s (n * 2 ^ (s + 1) + 2 ^ s)).1 := by
      have at_ : n * 2 ^ (s + 1) + 2 ^ s = (2 * n + 1) * 2 ^ s := by rw [double]; ring
      rw [rest _ (by omega), at_]
      exact holds.2 _ (by rw [Nat.succ_mul]; omega)
    have root : redStep (fld x.m 11 9) t (Dev.ftz x) (u.1.getD (n * 2 ^ (s + 1)) 0) (u.1.getD (n * 2 ^ (s + 1) + 2 ^ s) 0)
        = treeRoot x t p s (n * 2 ^ (s + 1)) := by rw [left, right, redStep_eq_combined, treeRoot]
    simp only [redCombine, root]
    refine ⟨by rw [List.length_set, len], fun k less => ?_, fun i above => ?_, ?_⟩
    · obtain rfl | below := Nat.eq_or_lt_of_le (Nat.le_of_lt_succ less)
      · rw [List.getD_eq_getElem?_getD, List.getElem?_set_self (by omega)]
        rfl
      · have other : k * 2 ^ (s + 1) < n * 2 ^ (s + 1) := Nat.mul_lt_mul_of_pos_right below (Nat.two_pow_pos _)
        rw [← done k below, List.getD_eq_getElem?_getD, List.getElem?_set_ne (by omega), List.getD_eq_getElem?_getD]
    · rw [Nat.succ_mul] at above
      rw [← rest i (by omega), List.getD_eq_getElem?_getD, List.getElem?_set_ne (by omega), List.getD_eq_getElem?_getD]
    · rw [flags, orRange_succ, BitVec.or_assoc]

/-- The conditions of the subtrees of 2^s positions. -/
def treesFlags (x : Dev) (t : Tag) (p : Nat → Int) (s : Nat) : Flags := orRange (32 / 2 ^ s) fun k => (treeAt x t p s (k * 2 ^ s)).2

theorem treesFlags_succ {s : Nat} (level : s < 5) : treesFlags x t p (s + 1)
    = treesFlags x t p s ||| orRange (32 / 2 ^ (s + 1)) fun k => (treeRoot x t p s (k * 2 ^ (s + 1))).2 := by
  have halves : 32 / 2 ^ s = 2 * (32 / 2 ^ (s + 1)) := (by decide : ∀ s < 5, 32 / 2 ^ s = 2 * (32 / 2 ^ (s + 1))) s level
  rw [treesFlags, treesFlags, halves]
  refine orRange_pairs _ _ _ _ fun k _ => ?_
  have left : k * 2 ^ (s + 1) = 2 * k * 2 ^ s := by rw [Nat.pow_succ']; ring
  have right : k * 2 ^ (s + 1) + 2 ^ s = (2 * k + 1) * 2 ^ s := by rw [Nat.pow_succ']; ring
  rw [← left, ← right]
  rfl

theorem redTree_run (x : Dev) (t : Tag) (p : Nat → Int) (s : Nat) (levels : s ≤ 5) :
    let u := (List.range s).foldl (fun acc s =>
      (List.range (32 / 2 ^ (s + 1))).foldl (fun (acc : List Int × Flags) k =>
        let i := k * 2 ^ (s + 1)
        let (v, fl) := redCombine (fld x.m 11 9) t (Dev.ftz x) acc.1 acc.2 i (i + 2 ^ s)
        (acc.1.set i v, fl)) acc) (positions p, (0 : Flags))
    HoldsTrees x t p s u.1 ∧ u.2 = treesFlags x t p s := by
  induction s with
  | zero =>
    refine ⟨⟨by simp [positions], fun k inside => positions_getD p (by simpa using inside) 0⟩, ?_⟩
    have none : ∀ n, orRange n (fun _ => 0) = 0 := fun n => List.foldl_fixed' (fun _ => BitVec.or_zero) _
    exact (none _).symm
  | succ s ih =>
    obtain ⟨holds, flags⟩ := ih (by omega)
    have whole : 32 / 2 ^ (s + 1) * 2 ^ (s + 1) = 32 := (by decide : ∀ s < 5, 32 / 2 ^ (s + 1) * 2 ^ (s + 1) = 32) s (by omega)
    rw [List.range_succ, List.foldl_append, List.foldl_cons, List.foldl_nil]
    generalize (List.range s).foldl _ (positions p, (0 : Flags)) = u at holds flags ⊢
    obtain ⟨len, done, -, conds⟩ := redLevel_run holds u.2 (32 / 2 ^ (s + 1)) (by omega)
    refine ⟨⟨len, fun k inside => done k ?_⟩, ?_⟩
    · exact Nat.lt_of_mul_lt_mul_right (a := 2 ^ (s + 1)) (by rw [whole]; have := Nat.two_pow_pos (s + 1); rw [Nat.succ_mul] at inside; omega)
    · rw [treesFlags_succ (by omega), ← flags]
      exact conds

theorem redTree_eq (x : Dev) (t : Tag) (p : Nat → Int) :
    (redTree (fld x.m 11 9) t (Dev.ftz x) (positions p)).1.getD 0 0 = (treeAt x t p 5 0).1
      ∧ (redTree (fld x.m 11 9) t (Dev.ftz x) (positions p)).2 = (treeAt x t p 5 0).2 := by
  obtain ⟨holds, flags⟩ := redTree_run x t p 5 (Nat.le_refl 5)
  exact ⟨(congrArg (List.getD _ · 0) (Nat.zero_mul _).symm).trans ((holds.2 0 (by decide)).trans (by rw [Nat.zero_mul])), flags.trans BitVec.zero_or⟩

/-! ## The scan tree (07 R169) -/

/-- The position after a step of the scan that has reached the positions below n. -/
def scanMix (x : Dev) (t : Tag) (p : Nat → Int) (head : Nat → Bool) (s n i : Nat) : Int × Bool :=
  if i < n then scanAt x t p head (s + 1) i else scanAt x t p head s i

theorem scanMix_below {s n i : Nat} (done : i < n) : scanMix x t p head s n i = scanAt x t p head (s + 1) i := if_pos done

theorem scanMix_succ (s n : Nat) : scanMix x t p head s (n + 1) = Function.update (scanMix x t p head s n) n (scanAt x t p head (s + 1) n) := by
  funext i
  rw [Function.update_apply, scanMix, scanMix]
  by_cases here : i = n
  · rw [if_pos here, if_pos (by omega), here]
  · simp only [if_neg here, show i < n + 1 ↔ i < n by omega]

theorem scanAt_keeps {k i : Nat} (keeps : i < 2 ^ k ∨ (scanAt x t p head k i).2 = true) :
    scanAt x t p head (k + 1) i = scanAt x t p head k i := if_pos keeps

theorem scanAt_combines {k i : Nat} (combines : ¬(i < 2 ^ k ∨ (scanAt x t p head k i).2 = true)) : scanAt x t p head (k + 1) i
    = ((combined x t (scanAt x t p head k (i - 2 ^ k)).1 (scanAt x t p head k i).1).1, (scanAt x t p head k (i - 2 ^ k)).2) := if_neg combines

/-- The conditions after position i in a step of the scan. -/
def scanFlag (x : Dev) (t : Tag) (p : Nat → Int) (head : Nat → Bool) (s : Nat) (fl : Flags) (i : Nat) : Flags :=
  if i < 2 ^ s ∨ (scanAt x t p head s i).2 = true then fl
  else fl ||| (combined x t (scanAt x t p head s (i - 2 ^ s)).1 (scanAt x t p head s i).1).2

/-- One step of the scan over the positions below n: each reads the values of the step before. -/
theorem scanStep_run (s : Nat) (fl : Flags) (n : Nat) (inside : n ≤ 32) :
    let vs := positions fun i => (scanAt x t p head s i).1
    let fs := positions fun i => (scanAt x t p head s i).2
    (List.range n).foldl (fun (acc : List Int × List Bool × Flags) i =>
      if i < 2 ^ s || fs.getD i true then acc
      else
        let (v, fl) := redCombine (fld x.m 11 9) t (Dev.ftz x) vs acc.2.2 (i - 2 ^ s) i
        (acc.1.set i v, acc.2.1.set i (fs.getD (i - 2 ^ s) true), fl)) (vs, fs, fl)
      = (positions fun i => (scanMix x t p head s n i).1, positions fun i => (scanMix x t p head s n i).2,
          (List.range n).foldl (scanFlag x t p head s) fl) := by
  intro vs fs
  induction n with
  | zero => simp only [scanMix, Nat.not_lt_zero, if_false]; rfl
  | succ n ih =>
    have old : ∀ i ≤ n, vs.getD i 0 = (scanAt x t p head s i).1 ∧ fs.getD i true = (scanAt x t p head s i).2 := fun i le =>
      ⟨positions_getD _ (by omega) 0, positions_getD _ (by omega) true⟩
    rw [List.range_succ, List.foldl_append, List.foldl_append, ih (by omega)]
    simp only [List.foldl_cons, List.foldl_nil, scanMix_succ, redCombine, (old n (Nat.le_refl n)).1, (old n (Nat.le_refl n)).2,
      (old (n - 2 ^ s) (Nat.sub_le _ _)).1, (old (n - 2 ^ s) (Nat.sub_le _ _)).2, redStep_eq_combined, positions_set]
    by_cases keeps : n < 2 ^ s ∨ (scanAt x t p head s n).2 = true
    · have same : scanAt x t p head (s + 1) n = scanMix x t p head s n n := by
        rw [scanMix, if_neg (Nat.lt_irrefl n), scanAt_keeps keeps]
      rw [if_pos (by simpa using keeps), scanFlag, if_pos keeps, same, Function.update_eq_self]
    · have part : ∀ {α : Type} (f : Int × Bool → α), (fun i => f (Function.update (scanMix x t p head s n) n (scanAt x t p head (s + 1) n) i))
          = Function.update (fun i => f (scanMix x t p head s n i)) n (f (scanAt x t p head (s + 1) n)) := fun f => Function.comp_update f ..
      rw [if_neg (by simpa using keeps), scanFlag, if_neg keeps, part Prod.fst, part Prod.snd, scanAt_combines keeps]

theorem scanStep_eq (s : Nat) (fl : Flags) :
    scanStep (fld x.m 11 9) t (Dev.ftz x) (positions fun i => (scanAt x t p head s i).1, positions fun i => (scanAt x t p head s i).2, fl) s
      = (positions fun i => (scanAt x t p head (s + 1) i).1, positions fun i => (scanAt x t p head (s + 1) i).2,
          (List.range 32).foldl (scanFlag x t p head s) fl) := by
  rw [scanStep, scanStep_run s fl 32 (Nat.le_refl 32), positions_congr fun i inside => congrArg Prod.fst (scanMix_below inside),
    positions_congr fun i inside => congrArg Prod.snd (scanMix_below inside)]

theorem redScan_eq (x : Dev) (t : Tag) (p : Nat → Int) (head : Nat → Bool) :
    redScan (fld x.m 11 9) t (Dev.ftz x) (positions p) (positions head)
      = (positions fun i => (scanAt x t p head 5 i).1, scanFlags x t p head) := by
  have steps : ∀ n, (List.range n).foldl (scanStep (fld x.m 11 9) t (Dev.ftz x)) (positions p, positions head, 0)
      = (positions fun i => (scanAt x t p head n i).1, positions fun i => (scanAt x t p head n i).2,
          (List.range n).foldl (fun fl k => (List.range 32).foldl (scanFlag x t p head k) fl) 0) := by
    intro n
    induction n with
    | zero => rfl
    | succ n ih => rw [List.range_succ, List.foldl_append, List.foldl_append, ih]; exact scanStep_eq n _
  unfold redScan
  rw [steps 5]
  rfl

/-! ## Results (07 R168) -/

theorem treeAt_nonneg (words : ¬(fld x.m 11 9 < 3 ∧ t ≠ .f32)) (inputs : ∀ i, 0 ≤ p i) (k i : Nat) : 0 ≤ (treeAt x t p k i).1 := by
  cases k with
  | zero => exact inputs i
  | succ k => exact combined_nonneg words _ _

theorem scanAt_nonneg (words : ¬(fld x.m 11 9 < 3 ∧ t ≠ .f32)) (inputs : ∀ i, 0 ≤ p i) (k i : Nat) : 0 ≤ (scanAt x t p head k i).1 := by
  induction k with
  | zero => exact inputs i
  | succ k ih =>
    by_cases keeps : i < 2 ^ k ∨ (scanAt x t p head k i).2 = true
    · rwa [scanAt_keeps keeps]
    · rw [scanAt_combines keeps]
      exact combined_nonneg words _ _

theorem redResult_done {v : Int} (word : ¬(fld x.m 11 9 < 3 ∧ t ≠ .f32) → 0 ≤ v) (fl : Flags) :
    redResult x (fld x.m 11 9) t fl v = .done (redOut x t v fl) := by
  unfold redResult redOut
  by_cases exact_ : fld x.m 11 9 < 3 ∧ t ≠ .f32
  · have unsigned : (t != .n32) = !decide (t = .n32) := by cases t <;> rfl
    rw [if_pos ((redExact_iff x t).2 exact_), if_pos exact_, unsigned, narrowInt_eq_narrowed]
    rfl
  · obtain ⟨n, rfl⟩ := Int.eq_ofNat_of_zero_le (word exact_)
    rw [if_neg (fun e => exact_ ((redExact_iff x t).1 e)), if_neg exact_]
    rfl

theorem redOut_plain (x : Dev) (t : Tag) (v : Int) (fl : Flags) : (redOut x t v fl).plain := by
  unfold redOut
  split <;> exact ⟨rfl, rfl⟩

/-! ## The active lanes -/

theorem redTagOf_mem (same : reducible x act) (active : l ∈ act) : (l.src x.a).tag = redTagOf x act := by
  cases act with
  | nil => cases active
  | cons a as => exact same.1 l active a List.mem_cons_self

theorem redTag_eq (same : reducible x act) (active : l ∈ act) : redTag x act = some (redTagOf x act) := by
  cases act with
  | nil => cases active
  | cons a as =>
    obtain ⟨tags, -, pass⟩ := same
    obtain ⟨check, class_⟩ := pass a List.mem_cons_self
    have uniform : (as.any fun d => (d.src x.a).tag != (a.src x.a).tag) = false :=
      List.any_eq_false.2 fun d mem => by simpa using tags d (List.mem_cons_of_mem a mem) a List.mem_cons_self
    have known : (decide (fld x.m 11 9 < 3) && !(scalarTag (a.src x.a).tag || (a.src x.a).tag == .f32)) = false := by
      rw [Bool.and_eq_false_iff, decide_eq_false_iff_not, or_iff_not_imp_left, not_not]
      intro arith
      obtain (i32 | n32) | f32 := class_ arith
      · rw [i32]; rfl
      · rw [n32]; rfl
      · rw [f32]; rfl
    simp only [redTag, uniform, check, known, Bool.false_eq_true, if_false]
    rfl

theorem redAt_nonneg (same : reducible x act) (words : ¬(fld x.m 11 9 < 3 ∧ redTagOf x act ≠ .f32)) (i : Nat) :
    0 ≤ redAt x act (redTagOf x act) i := by
  unfold redAt
  cases found : lane? act i with
  | none => exact redUnit_nonneg words
  | some l =>
    have tag := redTagOf_mem same (List.mem_of_find?_eq_some found)
    rw [Option.map_some, Option.getD_some, redValue, tag, if_neg words]
    exact Int.natCast_nonneg _

theorem segEnd_eq (head : Nat → Bool) {i : Nat} (inside : i < 32) :
    segEnd (positions head) i = i + ((List.range (31 - i)).takeWhile fun k => !head (i + 1 + k)).length := by
  unfold segEnd
  split
  case h_1 q found =>
    rw [List.find?_range_eq_some] at found
    obtain ⟨here, within, before⟩ := found
    obtain ⟨later, isHead⟩ := Bool.and_eq_true_iff.1 here
    have later : i < q := of_decide_eq_true later
    have within : q < 32 := List.mem_range.1 within
    rw [positions_getD head within] at isHead
    rw [length_takeWhile_range (k := q - 1 - i) (by omega) (fun k less => ?_) fun _ => ?_]
    · omega
    · have silent := before (i + 1 + k) (by omega)
      rw [positions_getD head (by omega), decide_eq_true (by omega : i < i + 1 + k), Bool.true_and] at silent
      exact silent
    · rw [show i + 1 + (q - 1 - i) = q by omega, isHead]
      rfl
  case h_2 none =>
    rw [List.find?_eq_none] at none
    rw [length_takeWhile_range (Nat.le_refl _) (fun k less => ?_) fun less => absurd less (Nat.lt_irrefl _)]
    · omega
    · have := none (i + 1 + k) (List.mem_range.2 (by omega))
      rw [positions_getD head (by omega)] at this
      simpa [Nat.add_assoc] using this

/-! ## The instructions -/

theorem wredLane_done (same : reducible x act) (active : l ∈ act) : wredLane x act l = .done (
    let t := redTagOf x act
    let r := treeAt x t (redAt x act t) 5 0
    redOut x t r.1 r.2) := by
  obtain ⟨value, flags⟩ := redTree_eq x (redTagOf x act) (redAt x act (redTagOf x act))
  unfold wredLane
  simp only [redTag_eq same active, redInputs_eq, value, flags]
  exact redResult_done (fun words => treeAt_nonneg words (redAt_nonneg same words) 5 0) _

/-- What WSCAN and SEGSCAN give a lane (07 R169). -/
def scanOut (seg : Bool) (x : Dev) (act : List LaneCtx) (l : LaneCtx) : LaneOut :=
  let t := redTagOf x act
  let scan := fun i => (scanAt x t (redAt x act t) (headAt seg x act) 5 i).1
  redOut x t (if bit x.m 0 then (if headAt seg x act l.lane then redUnit x t else scan (l.lane - 1)) else scan l.lane)
    (scanFlags x t (redAt x act t) (headAt seg x act))

theorem scanLane_done (seg : Bool) (same : reducible x act) (active : l ∈ act) (lane : l.lane < 32) :
    scanLane seg x act l = .done (scanOut seg x act l) := by
  unfold scanLane scanOut
  simp only [redTag_eq same active, redInputs_eq, redHeads_eq, redScan_eq, positions_getD _ lane, positions_getD _ (Nat.lt_of_le_of_lt (Nat.sub_le l.lane 1) lane),
    redIdentity_eq_redUnit]
  refine redResult_done (fun words => ?_) _
  have scan := fun i => scanAt_nonneg (head := headAt seg x act) words (redAt_nonneg same words) 5 i
  split
  · split
    · exact redUnit_nonneg words
    · exact scan _
  · exact scan _

theorem segredLane_done (same : reducible x act) (active : l ∈ act) (lane : l.lane < 32) : segredLane x act l = .done (
    let t := redTagOf x act
    let last := l.lane + ((List.range (31 - l.lane)).takeWhile fun k => !headAt true x act (l.lane + 1 + k)).length
    redOut x t (scanAt x t (redAt x act t) (headAt true x act) 5 last).1 (scanFlags x t (redAt x act t) (headAt true x act))) := by
  have within : ((List.range (31 - l.lane)).takeWhile fun k => !headAt true x act (l.lane + 1 + k)).length ≤ 31 - l.lane :=
    (List.takeWhile_sublist _).length_le.trans_eq List.length_range
  unfold segredLane
  simp only [redTag_eq same active, redInputs_eq, redHeads_eq, redScan_eq, segEnd_eq _ lane]
  rw [positions_getD _ (by omega)]
  exact redResult_done (fun words => scanAt_nonneg words (redAt_nonneg same words) 5 _) _

/-- Settles O6: the folds of the model over 32 positions are the trees of R169, application by application. -/
theorem reductions : Obligations.Reductions := by
  refine ⟨?_, ?_, ?_, ?_⟩
  · exact crossDo_of_lane (fun _ _ => rfl) (fun x act ⟨same, _⟩ l active => wredLane_done same active) fun _ _ _ => redOut_plain _ _ _ _
  · exact crossDo_of_lane (fun _ _ => rfl) (fun x act ⟨same, lanes⟩ l active => scanLane_done false same active (lanes l active))
      fun _ _ _ => redOut_plain _ _ _ _
  · exact crossDo_of_lane (fun _ _ => rfl) (fun x act ⟨same, lanes⟩ l active => scanLane_done true same active (lanes l active))
      fun _ _ _ => redOut_plain _ _ _ _
  · exact crossDo_of_lane (fun _ _ => rfl) (fun x act ⟨same, lanes⟩ l active => segredLane_done same active (lanes l active))
      fun _ _ _ => redOut_plain _ _ _ _

end Sys2Proof.Machine
end

section
/-! RAGLD (07 R170): the statement fails at a cohort with a lane above 31. The model walks the rows for lanes 0 to 31, the lanes that a wave has (06
R141); at any other lane number it gives row 0 with no entry, where the statement goes on counting. -/
namespace Sys2Proof.Machine

/-- A cohort of 33 lanes at a RAGLD of one row: v1 leads to the table, v4 holds the number of rows. -/
def wideRag : State := bench ([(1, ⟨0x10, .n32⟩), (4, ⟨1, .n32⟩)] :: List.replicate 32 [])

/-- The row lengths of its table, and the state after they are read. -/
def wideRagRead : Option (List Nat × State) := wordsFrom (wideRag.self (wideRag.l0 ragX).ref) 0x10 1 wideRag

/-- The state after its row lengths are read. -/
def wideRagEnd : State := (wideRagRead.getD ([], wideRag)).2

/-- The register that RAGLD writes the row to, in lane 32. -/
def row32 (o : Host.Outcome State Fault Refusal) : Option Reg := (after o).bind fun s => (s.thread? ⟨⟨0, 0⟩, 32⟩).bind fun t => t.regs[21]?

theorem wideRag_stage : wideRag.stageB = true := by decide +kernel

/-- The one row is empty. -/
theorem wideRag_reads : WordsRead (wideRag.self (wideRag.l0 ragX).ref) 0x10 [0] wideRag wideRagEnd := by
  have lens : wideRagRead.map (·.1) = some [0] := by decide +kernel
  obtain ⟨⟨_, _⟩, read, rfl⟩ := Option.map_eq_some_iff.1 lens
  refine wordsRead_of (n := 1) ?_
  rw [wideRagEnd, read]
  exact read

/-- Its 33 lanes are active, the lowest first. -/
theorem wideRag_active : wideRag.c0.active wideRag.w0 ragX = wideRag.l0 ragX :: (wideRag.c0.active wideRag.w0 ragX).tail := by
  obtain ⟨l, ls, act⟩ := List.exists_cons_of_ne_nil (by decide +kernel : wideRag.c0.active wideRag.w0 ragX ≠ [])
  rw [State.l0, act]
  rfl

/-- Refutes O7: of a table of one empty row every lane is past the entries, and the statement gives it row 1; the model gives lane 32 row 0. -/
theorem not_raggedRows : ¬ Obligations.RaggedRows := by
  intro holds
  have answer := congrArg row32 <| holds wideRag wideRagEnd wideRag.c0 wideRag.w0 ragX (wideRag.l0 ragX) _ [0] (stage_of _ wideRag_stage) wideRag_active
    (by decide +kernel) (by decide +kernel) (by decide +kernel) (.inl (by decide +kernel)) (by decide +kernel) wideRag_reads
    (stage_same wideRag_stage (by decide +kernel) (by decide +kernel))
  revert answer
  decide +kernel

end Sys2Proof.Machine
end

section
/-! The end of waits (07 R172, 10 R263): the threads of all waves whose wait a test picks go on, and nothing else of the state changes. -/
namespace Sys2Proof.Machine
variable {s : State} {c : Cohort} {v w : Wave} {x : Dev}

/-! ## Threads changed one after another -/

theorem State.updThread_id (s : State) (r : ThreadRef) : s.updThread r id = s := by
  have same : ∀ w : Wave, w.updThread r.lane id = w := fun w => by rw [Wave.updThread, List.modify_id]
  simp only [State.updThread, State.updWave, same, ite_self, List.map_id']

/-- A list of changes of threads changes each wave by those of its own threads. -/
theorem State.forEach_updThread {α : Type} (k : α → ThreadRef) (f : α → Thread → Thread) (l : List α) (s : State) :
    s.forEach l (fun a s => s.updThread (k a) (f a)) = { s with
      waves := s.waves.map fun w => (l.filter fun a => w.ref == (k a).wave).foldl (fun w a => w.updThread (k a).lane (f a)) w } := by
  induction l generalizing s with
  | nil => simp
  | cons a l ih =>
    rw [State.forEach_cons, ih, State.updThread, State.updWave, List.map_map]
    refine congrArg (fun ws => { s with waves := ws }) (List.map_congr_left fun w _ => ?_)
    rw [Function.comp, List.filter_cons]
    by_cases here : w.ref = (k a).wave
    · simp [here, Wave.updThread]
    · simp [here]

/-- Of all threads, those of a wave are the ones under its name. -/
theorem State.threads_of_wave (named : s.distinct) (hw : w ∈ s.waves) :
    (s.threads.filter fun a => w.ref == a.1.wave) = w.threads.mapIdx fun i t => (⟨w.ref, i⟩, w, t) := by
  unfold State.threads
  unfold State.distinct at named
  generalize s.waves = ws at named hw ⊢
  induction ws with
  | nil => cases hw
  | cons u us ih =>
    obtain ⟨first, rest⟩ := List.pairwise_cons.1 named
    have own : ∀ v : Wave, ∀ a ∈ v.threads.mapIdx fun i t => ((⟨v.ref, i⟩ : ThreadRef), v, t), a.1.wave = v.ref := by
      intro v a mem
      obtain ⟨i, inside, rfl⟩ := List.mem_mapIdx.1 mem
      rfl
    rw [List.flatMap_cons, List.filter_append]
    obtain rfl | later := List.mem_cons.1 hw
    · rw [List.filter_eq_self.2 fun a mem => by simp [own w a mem], List.filter_eq_nil_iff.2 fun a mem => ?_, List.append_nil]
      obtain ⟨v, hv, mem⟩ := List.mem_flatMap.1 mem
      rw [own v a mem]
      simpa using first v hv
    · rw [List.filter_eq_nil_iff.2 fun a mem => ?_, List.nil_append, ih rest later]
      rw [own u a mem]
      simpa using Ne.symm (first w later)

/-! ## Waits that end -/

/-- A thread after the waits that a test picks have ended. -/
def Thread.endsWait (p : Wait → Bool) (t : Thread) : Thread :=
  match t.status with
  | .waiting wt next => if p wt then t.goesOn next else t
  | _ => t

/-- A wave after the waits that a test picks have ended. -/
def Wave.released (p : ThreadRef → Wait → Bool) (w : Wave) : Wave :=
  { w with threads := w.threads.mapIdx fun i t => t.endsWait (p ⟨w.ref, i⟩) }

theorem State.released_waves (p : ThreadRef → Wait → Bool) : (s.released p).waves = s.waves.map (Wave.released p) := rfl

theorem Thread.endsWait_preds (p : Wait → Bool) (t : Thread) : (t.endsWait p).preds = t.preds := by
  unfold Thread.endsWait
  split
  · split <;> rfl
  · rfl

theorem Thread.endsWait_inst {p : Wait → Bool} {t : Thread} (fresh : t.inst = none) : (t.endsWait p).inst = none := by
  unfold Thread.endsWait
  split
  · split
    · rfl
    · exact fresh
  · exact fresh

/-- Whether a test picks the wait that a thread is in. -/
def Thread.picked (p : Wait → Bool) (t : Thread) : Bool :=
  match t.status with
  | .waiting wt _ => p wt
  | _ => false

theorem Thread.endsWait_eq (p : Wait → Bool) (t : Thread) : t.endsWait p = if t.picked p then t.release else t := by
  unfold Thread.endsWait Thread.picked Thread.release
  cases t.status <;> rfl

/-- The release of a thread whose wait writes nothing is one change of it. -/
theorem State.releaseIf_eq_forEach (p : ThreadRef → Wait → Bool) : s.releaseIf (fun r wt => if p r wt then some noDest else none)
    = s.forEach s.threads fun a s => s.updThread a.1 (if a.2.2.picked (p a.1) then Thread.release else id) := by
  unfold State.releaseIf
  refine congrFun (congrArg (State.forEach s.threads) (funext fun ⟨r, w, t⟩ => funext fun u => ?_)) s
  have nothing : u.writeDest r noDest.1 noDest.2 = u := u.updThread_id r
  unfold Thread.picked
  dsimp only
  cases t.status with
  | waiting wt next =>
    cases picks : p r wt with
    | true => simp only [picks, if_true, nothing]
    | false => simp only [picks, Bool.false_eq_true, if_false, State.updThread_id]
  | _ => simp only [Bool.false_eq_true, if_false, State.updThread_id]

/-- Where waves have distinct names, the model's loop over all threads releases each thread that a test picks, once. -/
theorem State.releaseIf_eq_released {q : ThreadRef → Wait → Option (Operand × Reg)} {p : ThreadRef → Wait → Bool} (named : s.distinct)
    (picks : ∀ r wt, q r wt = if p r wt then some noDest else none) : s.releaseIf q = s.released p := by
  obtain rfl : q = fun r wt => if p r wt then some noDest else none := funext fun r => funext (picks r)
  rw [State.releaseIf_eq_forEach, State.forEach_updThread]
  change _ = { s with waves := s.waves.map (Wave.released p) }
  refine congrArg (fun ws => { s with waves := ws }) (List.map_congr_left fun w hw => ?_)
  rw [State.threads_of_wave named hw, foldl_updThread (fun a : ThreadRef × Wave × Thread => a.1.lane), Wave.released]
  · simp only [Wave.mk.injEq, true_and]
    refine List.ext_getElem (by simp) fun i here _ => ?_
    have inside : i < w.threads.length := by simpa using here
    have found : (w.threads.mapIdx fun i t => ((⟨w.ref, i⟩ : ThreadRef), w, t)).find? (fun a => a.1.lane == i)
        = some (⟨w.ref, i⟩, w, w.threads[i]) := by
      rw [List.find?_eq_some_iff_getElem]
      exact ⟨beq_self_eq_true i, i, by simpa using inside, List.getElem_mapIdx, fun j less => by simpa using Nat.ne_of_lt less⟩
    rw [List.getElem_mapIdx, List.getElem_mapIdx, found, Thread.endsWait_eq]
    dsimp only
    split <;> rfl
  · rw [List.pairwise_iff_getElem]
    exact fun i j _ _ less => by simpa using Nat.ne_of_lt less

/-! ## A cohort among waits that end -/

/-- The wave of a name after the waits. -/
theorem State.wave?_released {r : WaveRef} (found : s.wave? r = some w) (p : ThreadRef → Wait → Bool) : (s.released p).wave? r = some (w.released p) := by
  rw [State.wave?, State.released_waves, List.find?_map]
  exact congrArg (Option.map (Wave.released p)) found

theorem Ready.released (ready : Ready s c w) (p : ThreadRef → Wait → Bool) : Ready (s.released p) c (w.released p) := by
  refine ⟨State.wave?_released ready.wave p, fun v hv name => ?_, ready.watch, ready.phase⟩
  rw [State.released_waves] at hv
  obtain ⟨u, hu, rfl⟩ := List.mem_map.1 hv
  rw [ready.only u hu name]

theorem Stage.released (hs : Stage s c w) (p : ThreadRef → Wait → Bool) : Stage (s.released p) c (w.released p) := by
  refine ⟨hs.cur, Ready.released hs.ready p, hs.asc, fun i hi => ?_, fun i hi t ht => ?_⟩
  · simpa [Wave.released] using hs.exist i hi
  · rw [Wave.released, List.getElem?_mapIdx, Option.map_eq_some_iff] at ht
    obtain ⟨t0, ht0, rfl⟩ := ht
    exact Thread.endsWait_inst (hs.fresh i hi t0 ht0)

theorem active_lane_released (c : Cohort) (w : Wave) (x : Dev) (p : ThreadRef → Wait → Bool) :
    (c.active (w.released p) x).map (·.lane) = (c.active w x).map (·.lane) := by
  rw [active_lane, active_lane]
  refine List.filter_congr fun i _ => ?_
  rw [Wave.released, List.getElem?_mapIdx, Option.any_map]
  congr 1
  funext t
  simp only [Thread.guard, Thread.pred, Thread.endsWait_preds]

/-- A block changed with its name and task kept, and waits that end: the cohort is as ready as before. -/
theorem Ready.updBlock (ready : Ready s c w) {f : Block → Block} (same : ∀ b, (f b).id = b.id ∧ (f b).task = b.task) (k : Nat) :
    Ready (s.updBlock k f) c w :=
  ready.of_same rfl (State.tenantOfWave_eq_of_task rfl ((State.samePlaces_updBlock same).block?_task _)) rfl rfl

end Sys2Proof.Machine
end

section
/-! Sync words (10 R263; 12 R292): arming and contribution, the end of a phase and of its waits, SWTEST and SWWAIT. -/
namespace Sys2Proof.Machine
variable {s : State} {c : Cohort} {v w : Wave} {x : Dev} {l : LaneCtx} {b : Block} {o : Nat}

/-! ## The word -/

/-- Whether an armed word has its target. -/
def SyncWord.ends (y : SyncWord) : Bool := y.armed && decide (y.target ≤ y.count)

theorem SyncWord.settle_eq (y : SyncWord) : y.settle
    = if y.ends then { y with gen := (y.gen + 1) % 2 ^ 32, count := y.count - y.target, target := 0, armed := false } else y := rfl

theorem SyncWord.settle_gen (y : SyncWord) : y.settle.gen = if y.ends then (y.gen + 1) % 2 ^ 32 else y.gen := by
  rw [SyncWord.settle_eq, apply_ite SyncWord.gen]

/-- The record of a word after the rule of 10 R263, field by field. -/
theorem SyncWord.settle_toNat (y : SyncWord) (top : Nat) : y.settle.toNat top
    = (if y.ends then 0 else y.target) + (if y.ends then y.count - y.target else y.count) * 2 ^ 32 + y.settle.gen * 2 ^ 64
      + b2n (y.armed && !y.ends) * 2 ^ 96 + b2n y.ovf * 2 ^ 97 + top * 2 ^ 98 := by
  rw [SyncWord.settle_gen, SyncWord.settle_eq, SyncWord.toNat]
  cases ends : y.ends with
  | true => simp only [if_true, Bool.not_true, Bool.and_false]
  | false => simp only [Bool.false_eq_true, if_false, Bool.not_false, Bool.and_true]

theorem SyncWord.step_arm (y : SyncWord) (n : Nat) : y.step (.arm n)
    = SyncWord.settle ⟨min (y.target + n) (2 ^ 32 - 1), y.count, y.gen, true, y.ovf || decide (2 ^ 32 ≤ y.target + n)⟩ := rfl

theorem SyncWord.step_contribute (y : SyncWord) (n : Nat) : y.step (.contribute n)
    = SyncWord.settle ⟨y.target, min (y.count + n) (2 ^ 32 - 1), y.gen, y.armed, y.ovf || decide (2 ^ 32 ≤ y.count + n)⟩ := rfl

theorem SyncWord.passed_eq (y : SyncWord) (g : Nat) : y.passed g = decide ((y.gen + 2 ^ 32 - g) % 2 ^ 32 ∈ Set.Icc 1 (2 ^ 31)) := by
  rw [SyncWord.passed, ← Bool.decide_and]
  rfl

/-! ## The lane's word -/

/-- The offset of a lane's sync word (12 R292). -/
def LaneCtx.syncAddr (l : LaneCtx) (x : Dev) : Nat := (l.srcWN x.a + 16 * fld x.m 11 5) % 2 ^ 64

theorem State.block?_id {k : Nat} (found : s.block? k = some b) : b.id = k := by simpa using List.find?_some found

section
variable (hs : OneLane s c w x l) (block : s.block? w.block = some b)
include hs block

theorem OneLane.self_block : (s.idle.self l.ref).block = some w.block := by
  have wave : s.wave? l.ref.wave = some w := by rw [hs.ref]; exact hs.ready.wave
  change ((s.wave? l.ref.wave).bind s.blockOf).map (·.id) = some w.block
  rw [wave, Option.bind_some, State.blockOf, block, Option.map_some, State.block?_id block]

theorem OneLane.syncOffset_run (aligned : l.syncAddr x % 16 = 0) (inside : l.syncAddr x + 16 ≤ b.scratchLen) (acc : Nat) :
    syncOffset x acc (s.idle.self l.ref) l s.idle = .ok (l.syncAddr x) s.idle := by
  have len : ((((s.idle.self l.ref).block.bind s.idle.block?).map (·.scratchLen)).getD 0) = b.scratchLen := by
    rw [hs.self_block block, Option.bind_some, show s.idle.block? w.block = some b from block]
    rfl
  have offset : (l.srcWN x.a + 16 * fld x.m 11 5) % 2 ^ 64 = l.syncAddr x := rfl
  unfold syncOffset
  simp only [offset, aligned]
  change (get >>= _ : Op Nat) s.idle = _
  rw [Op.get_bind]
  simp only [len, if_neg (Nat.not_lt.2 inside)]
  rfl

theorem OneLane.syncPassed_run (o g : Nat) : syncPassed (s.idle.self l.ref) o g s.idle = .ok ((b.sync o).passed g) s.idle := by
  have found : s.idle.block? w.block = some b := block
  rw [syncPassed, Op.get_bind, hs.self_block block, Option.getD_some, found, Option.map_some, Option.getD_some]
  generalize (b.sync o).passed g = passed
  rfl

end

/-! ## A step on a word -/

/-- The state with a sync word replaced and the waits that it ends released. -/
def State.putSync (s : State) (k o : Nat) (y : SyncWord) (top : Nat) : State :=
  (s.updBlock k fun b => { b with scratch := b.scratch.writeBytes o (natBytes 16 (y.toNat top)) }).released fun r wt =>
    match wt with
    | .sync o' g => o' == o && s.inBlock r k && y.passed g.toNat
    | _ => false

theorem State.syncStep_eq {k : Nat} (named : s.distinct) (block : s.block? k = some b) (aligned : o % 16 = 0) (inside : o + 16 ≤ b.scratchLen)
    (a : SyncAct) : s.syncStep k o a = s.putSync k o ((b.sync o).step a) (fld (b.scratch.readNat o 16) 127 98) := by
  have within : ¬(o % 16 != 0 || decide (b.scratchLen < o + 16)) = true := by simp [aligned, inside]
  unfold State.syncStep
  rw [block]
  dsimp only
  rw [if_neg within]
  refine State.releaseIf_eq_released named fun r wt => ?_
  cases wt with
  | sync o' g => rfl
  | _ => rfl

theorem Ready.putSync (ready : Ready s c w) (k o : Nat) (y : SyncWord) (top : Nat) (found : (s.putSync k o y top).wave? c.wave = some v) :
    Ready (s.putSync k o y top) c v := by
  have put := ready.updBlock (f := fun b => { b with scratch := b.scratch.writeBytes o (natBytes 16 (y.toNat top)) }) (fun _ => ⟨rfl, rfl⟩) k
  rw [State.putSync] at found ⊢
  rw [State.wave?_released put.wave] at found
  exact Option.some.inj found ▸ put.released _

/-! ## The instructions (12 R292) -/

section
variable (hs : OneLane s c w x l) (block : s.block? w.block = some b) (aligned : l.syncAddr x % 16 = 0)
  (inside : l.syncAddr x + 16 ≤ b.scratchLen)
include hs block aligned inside

/-- SWARM and SWADD are one step on the lane's word. -/
theorem OneLane.runOp_syncAct (named : s.distinct) {act : Nat → SyncAct} {y u}
    (steps : (b.sync (l.syncAddr x)).step (act (l.srcN x.b)) = y)
    (puts : s.idle.putSync w.block (l.syncAddr x) y (fld (b.scratch.readNat (l.syncAddr x) 16) 127 98) = u)
    (found : u.wave? c.wave = some v) : runOp x (syncAct act x) s = u.issued c v w x fun _ => {} := by
  subst steps puts
  refine runOp_one hs ?_ (hs.ready.putSync _ _ _ _ found) rfl rfl
  rw [syncAct, Op.get_bind, Op.bind_run (hs.syncOffset_run block aligned inside 2), hs.self_block block]
  exact congrArg (EStateM.Result.ok _) (State.syncStep_eq (s := s.idle) named block aligned inside _)

theorem OneLane.runOp_swtest : runOp x (swtestOp x) s
    = s.idle.issued c w w x fun _ => outP x.d ((b.sync (l.syncAddr x)).passed (l.srcN x.b)) := by
  refine runOp_one hs ?_ hs.ready rfl rfl
  rw [swtestOp, Op.get_bind, Op.bind_run (hs.syncOffset_run block aligned inside 1), Op.bind_run (hs.syncPassed_run block _ _)]
  rfl

theorem OneLane.runOp_swwait_passed (passed : (b.sync (l.syncAddr x)).passed (l.srcN x.b) = true) :
    runOp x (swwaitOp x) s = s.idle.issued c w w x fun _ => {} := by
  refine runOp_one hs ?_ hs.ready rfl rfl
  rw [swwaitOp, Op.get_bind, Op.bind_run (hs.syncOffset_run block aligned inside 1), Op.bind_run (hs.syncPassed_run block _ _), if_pos passed]
  rfl

theorem OneLane.runOp_swwait_waits (open_ : (b.sync (l.syncAddr x)).passed (l.srcN x.b) = false) :
    runOp x (swwaitOp x) s = s.idle.waiting c w x l (.sync (l.syncAddr x) (l.src x.b).val) := by
  refine runLanes_waitsOne hs hs.ready ?_
  have run : swwaitOp x l s.idle = .ok (.wait (.sync (l.syncAddr x) (l.src x.b).val)) s.idle := by
    rw [swwaitOp, Op.get_bind, Op.bind_run (hs.syncOffset_run block aligned inside 1), Op.bind_run (hs.syncPassed_run block _ _),
      if_neg (Bool.eq_false_iff.1 open_)]
    rfl
  rw [laneOp, run]

end

/-- What the statement says of SWARM and SWADD is one step on the word. -/
theorem putSync_settle (s : State) (k o : Nat) (y : SyncWord) (top : Nat) : s.putSync k o y.settle top
    = (s.updBlock k fun b => { b with scratch := b.scratch.writeBytes o (natBytes 16 (
        (if y.ends then 0 else y.target) + (if y.ends then y.count - y.target else y.count) * 2 ^ 32
          + (if y.ends then (y.gen + 1) % 2 ^ 32 else y.gen) * 2 ^ 64
          + b2n (y.armed && !y.ends) * 2 ^ 96 + b2n y.ovf * 2 ^ 97 + top * 2 ^ 98)) }).released fun r wt =>
        match wt with
        | .sync o' g => o' == o && s.inBlock r k && decide (((if y.ends then (y.gen + 1) % 2 ^ 32 else y.gen) + 2 ^ 32 - g.toNat) % 2 ^ 32 ∈ Set.Icc 1 (2 ^ 31))
        | _ => false := by
  simp only [State.putSync, SyncWord.settle_toNat, SyncWord.settle_gen, SyncWord.passed_eq]

end Sys2Proof.Machine
end

section
/-! Barriers (07 R171 to R173): counts and arrivals, the phase that they end with its waits, and the waits of a cohort. -/
namespace Sys2Proof.Machine
variable {s : State} {c : Cohort} {v w : Wave} {x : Dev} {l : LaneCtx} {rest : List LaneCtx} {b : Block} {k : Barrier} {i n : Nat}

/-! ## A barrier replaced -/

/-- The state with a barrier of a block replaced and the waits for another phase released. -/
def State.putBarrier (s : State) (n i : Nat) (k : Barrier) : State :=
  (s.updBlock n fun b => { b with barriers := b.barriers.set i k }).released fun r wt =>
    match wt with
    | .barrier j tok _ => j == i && tok != k.phase && s.inBlock r n
    | _ => false

/-- A barrier of a block of a name. -/
def State.barrier? (s : State) (n i : Nat) : Option Barrier := (s.block? n).bind fun b => b.barriers[i]?

theorem State.block?_updBlock (block : s.block? n = some b) {f : Block → Block} (same : ∀ b, (f b).id = b.id) :
    (s.updBlock n f).block? n = some (f b) := by
  have ids : (fun u : Block => u.id == n) ∘ (fun u => if u.id == n then f u else u) = fun u => u.id == n := funext fun u => by
    simp only [Function.comp, apply_ite Block.id, same, ite_self]
  change (s.blocks.map fun u => if u.id == n then f u else u).find? (fun u => u.id == n) = _
  rw [List.find?_map, ids, show s.blocks.find? (fun u => u.id == n) = some b from block, Option.map_some, if_pos (List.find?_some block)]

theorem State.barrier?_set (found : s.barrier? n i = some k) (k' : Barrier) :
    (s.updBlock n fun b => { b with barriers := b.barriers.set i k' }).barrier? n i = some k' := by
  obtain ⟨b, block, here⟩ := Option.bind_eq_some_iff.1 found
  rw [State.barrier?, State.block?_updBlock block (f := fun b => { b with barriers := b.barriers.set i k' }) fun _ => rfl, Option.bind_some, List.getElem?_set_self (List.getElem?_eq_some_iff.1 here).1]

theorem State.setBarrier_eq (named : s.distinct) (found : s.barrier? n i = some k) (k' : Barrier) : s.setBarrier n i k' = s.putBarrier n i k' := by
  have put := State.barrier?_set found k'
  rw [State.barrier?] at put
  rw [State.setBarrier, State.releaseBarrier, put]
  refine State.releaseIf_eq_released named fun r wt => ?_
  cases wt with
  | barrier j tok barw => rfl
  | _ => rfl

theorem State.putBarrier_barrier? (found : s.barrier? n i = some k) (k' : Barrier) : (s.putBarrier n i k').barrier? n i = some k' :=
  State.barrier?_set found k'

/-! ## The cohort after it -/

/-- The wave of a cohort after a barrier is replaced: it is the only one of its name, its lanes are the cohort's still, and they are as active as
before. -/
structure Follows (s : State) (c : Cohort) (w : Wave) (x : Dev) (u : State) (v : Wave) : Prop where
  stage : Stage u c v
  lanes : (c.active v x).map (·.lane) = (c.active w x).map (·.lane)

theorem Stage.putBarrier (hs : Stage s c w) (x : Dev) (n i : Nat) (k : Barrier) (found : (s.putBarrier n i k).wave? c.wave = some v) :
    Follows s c w x (s.putBarrier n i k) v := by
  have put := hs.ready.updBlock (f := fun b => { b with barriers := b.barriers.set i k }) (fun _ => ⟨rfl, rfl⟩) n
  have stage : Stage (s.updBlock n fun b => { b with barriers := b.barriers.set i k }) c w := ⟨hs.cur, put, hs.asc, hs.exist, hs.fresh⟩
  rw [State.putBarrier, State.wave?_released (show (s.updBlock n _).wave? c.wave = some w from put.wave)] at found
  obtain rfl := Option.some.inj found
  exact ⟨stage.released _, active_lane_released c w x _⟩

theorem Follows.issued {u : State} (h : Follows s c w x u v) (t : State) (o : LaneOut) : t.issued c v v x (fun _ => o) = t.issued c v w x fun _ => o := by
  simp only [State.issued, Wave.after_const _ _ h.lanes]

theorem Follows.waitingAll {u : State} (h : Follows s c w x u v) (t : State) (wt : Wait) :
    t.waitingAll c v x (c.active v x) wt = t.waitingAll c v x (c.active w x) wt := by
  have any : ∀ (act : List LaneCtx) (i : Nat), (act.any fun l => l.lane == i) = (act.map (·.lane)).any (· == i) := fun act i => by
    rw [List.any_map]
    rfl
  simp only [State.waitingAll, any, h.lanes]

/-- Where every active lane completes with the same, that is all that changes. -/
theorem Follows.runLanes_done {u : State} (h : Follows s c w x u v) (o : LaneOut) (after : o.after = none) (exits : o.exits = false) :
    runLanes x.guard (lenBytes x.len) (fun _ s => (.done o, s)) u = u.idle.issued c v w x fun _ => o := by
  rw [runLanes_pure h.stage (out := fun _ => o) (fun _ _ => rfl) fun _ _ => ⟨after, exits⟩, h.issued]

/-- Where every active lane begins the same wait, that is all that changes. -/
theorem Follows.runLanes_waits {u : State} (h : Follows s c w x u v) {wt : Wait} (plain : wt.dropDest = wt) :
    runLanes x.guard (lenBytes x.len) (fun _ s => (.wait wt none, s)) u = u.idle.waitingAll c v x (c.active w x) wt := by
  rw [Sys2Proof.Machine.runLanes_waits h.stage plain, h.waitingAll]

/-! ## An instruction that acts once for its cohort -/

/-- Only what the active lanes answer counts. -/
theorem runLanes_congr {f g : LaneCtx → LaneRes} (hs : Stage s c w) (same : ∀ l ∈ c.active w x, f l = g l) :
    runLanes x.guard (lenBytes x.len) (fun l s => (f l, s)) s = runLanes x.guard (lenBytes x.len) (fun l s => (g l, s)) s := by
  have folds : ∀ (act : List LaneCtx) (t : State), (∀ l ∈ act, f l = g l) → foldLanes (fun l s => (f l, s)) act t = foldLanes (fun l s => (g l, s)) act t := by
    intro act t same
    induction act with
    | nil => rfl
    | cons a as ih => simp only [foldLanes, same a List.mem_cons_self, ih fun l mem => same l (List.mem_cons_of_mem a mem)]
  have wave : s.wave? c.wave = some w := hs.ready.wave
  unfold runLanes runActing
  rw [hs.cur]
  simp only [wave]
  exact congrArg (fun p : List (LaneCtx × LaneRes) × State => finishLanes c.wave (lenBytes x.len) _ p.1 p.2) (folds _ s.idle same)

/-- It acts, and every active lane completes with the same or begins the same wait. -/
theorem runCohort_run {m : List LaneCtx → Op (LaneCtx → LaneRes)} {f : LaneCtx → LaneRes} {u : State} (hs : Stage s c w)
    (acts : c.active w x ≠ []) (run : m (c.active w x) s = .ok f u) :
    runCohort x m s = runLanes x.guard (lenBytes x.len) (fun l s => (f l, s)) u := by
  unfold runCohort
  simp only [activeLanes_stage hs]
  have some_ : (c.active w x).isEmpty = false := by simpa using acts
  simp only [some_, run, Bool.false_eq_true, if_false]

theorem runBarrier_run {m : List LaneCtx → LaneCtx → Op (LaneCtx → LaneRes)} {f : LaneCtx → LaneRes} {u : State} (hs : Stage s c w)
    (act : c.active w x = l :: rest) (run : m (l :: rest) l s = .ok f u) :
    runBarrier x m s = runLanes x.guard (lenBytes x.len) (fun l s => (f l, s)) u := by
  refine runCohort_run hs (act ▸ List.cons_ne_nil l rest) ?_
  rw [act]
  exact run

/-! ## The operations -/

section
variable (wave : l.wave = w) (found : s.barrier? w.block (barIndex x l) = some k)
include wave found

theorem barrierOf_run : barrierOf x l s = .ok (barIndex x l, k) s := by
  rw [barrierOf, Op.get_bind, wave]
  rw [State.barrier?] at found
  rw [found]
  rfl

theorem binitOp_run (named : s.distinct) (act : List LaneCtx) : binitOp x act l s
    = .ok (fun _ => .done {}) (s.putBarrier w.block (barIndex x l) (k.initCount (l.srcN x.a) (s.liveThreads w.block))) := by
  rw [binitOp, Op.bind_run (barrierOf_run wave found), wave]
  exact congrArg _ (State.setBarrier_eq named found _)

theorem btestOp_run (act : List LaneCtx) : btestOp x act l s = .ok (fun l => resultP x.d (k.phase != (l.src x.a).val)) s := by
  rw [btestOp, Op.bind_run (barrierOf_run wave found)]
  rfl

theorem bwaitOp_run (act : List LaneCtx) : bwaitOp x act l s
    = .ok (fun l' => if k.phase != (l'.src x.a).val then .done {} else .wait (.barrier (barIndex x l) (l'.src x.a).val false)) s := by
  rw [bwaitOp, Op.bind_run (barrierOf_run wave found)]
  rfl

end

/-! ## Arrivals (07 R172) -/

/-- ARRIVED after n more arrivals, and how many free values it draws (log entry 25). -/
def State.arrival (s : State) (k : Barrier) (n : Nat) : Nat × Nat :=
  if k.arrived + n < 4096 then (k.arrived + n, 0) else (s.drawWord.1 % 4096, 1)

theorem State.arrive_eq (s : State) (k : Barrier) (n : Nat) :
    s.arrive k n = ({ k with arrived := (s.arrival k n).1 }, { s with free := s.free + (s.arrival k n).2 }) := by
  unfold State.arrive State.arrival
  split <;> rfl

theorem State.arrival_fits (fits : k.arrived + n < 4096) : s.arrival k n = (k.arrived + n, 0) := if_pos fits

theorem State.arrival_bounds (s : State) (k : Barrier) (n : Nat) : (s.arrival k n).1 < 4096 ∧ (s.arrival k n).2 ≤ 1 := by
  unfold State.arrival
  split
  · exact ⟨‹_›, Nat.zero_le 1⟩
  · exact ⟨Nat.mod_lt _ (by decide), Nat.le_refl 1⟩

/-- The barrier after a cohort's arrivals. -/
def State.arrived (s : State) (k : Barrier) (n : Nat) : Barrier := Barrier.settle { k with arrived := (s.arrival k n).1 }

/-- The state after a cohort's arrivals at barrier i of block b. -/
def State.arrives (s : State) (b i : Nat) (k : Barrier) (n : Nat) : State :=
  ({ s with free := s.free + (s.arrival k n).2 } : State).putBarrier b i (s.arrived k n)

theorem arriveOp_run (wave : l.wave = w) (found : s.barrier? w.block (barIndex x l) = some k) (named : s.distinct) (act : List LaneCtx) :
    arriveOp x act l s = .ok (barIndex x l, k.phase) (s.arrives w.block (barIndex x l) k act.length) := by
  have put := State.setBarrier_eq (s := { s with free := s.free + (s.arrival k act.length).2 }) named found (s.arrived k act.length)
  rw [arriveOp, Op.bind_run (barrierOf_run wave found)]
  dsimp only
  rw [Op.get_bind, State.arrive_eq, wave]
  exact congrArg _ put

theorem barvOp_run (wave : l.wave = w) (found : s.barrier? w.block (barIndex x l) = some k) (named : s.distinct) (act : List LaneCtx) :
    barvOp x act l s = .ok (fun _ => result x.d k.phase .n32) (s.arrives w.block (barIndex x l) k act.length) := by
  rw [barvOp, Op.bind_run (arriveOp_run wave found named act)]
  rfl

theorem barwOp_run (wave : l.wave = w) (found : s.barrier? w.block (barIndex x l) = some k) (named : s.distinct) (act : List LaneCtx) :
    barwOp x act l s = .ok (fun _ => if (s.arrived k act.length).phase != k.phase then .done {} else .wait (.barrier (barIndex x l) k.phase true))
      (s.arrives w.block (barIndex x l) k act.length) := by
  have put : (s.arrives w.block (barIndex x l) k act.length).barrier? w.block (barIndex x l) = some (s.arrived k act.length) :=
    State.putBarrier_barrier? (s := { s with free := s.free + (s.arrival k act.length).2 }) found _
  rw [barwOp, Op.bind_run (arriveOp_run wave found named act)]
  dsimp only
  rw [Op.bind_run (barrierOf_run wave put)]
  rfl

theorem Barrier.settle_phase_ends (k : Barrier) (ends : k.expected ≤ k.arrived) : k.settle.phase ≠ k.phase := by
  rw [Barrier.settle, if_pos (decide_eq_true ends)]
  exact fun same => absurd (add_eq_left.1 same) (by decide)

theorem Barrier.settle_phase_stays (k : Barrier) (stays : k.arrived < k.expected) : k.settle.phase = k.phase := by
  rw [Barrier.settle, if_neg (by simpa using stays)]

theorem State.liveThreads_eq (s : State) (n : Nat) : s.liveThreads n
    = ((s.waves.filter fun v => v.block == n).map fun v => (v.threads.filter fun t => t.status != .exited).length).sum := by
  rw [State.liveThreads, List.sum_eq_foldl, List.foldl_map]
  rfl

end Sys2Proof.Machine
end

section
/-! The barrier instructions (07 R173), and sync words and barriers together. -/
namespace Sys2Proof.Machine
variable {s : State} {c : Cohort} {v w : Wave} {x : Dev} {l : LaneCtx} {rest : List LaneCtx} {b : Block} {k k' : Barrier} {m n : Nat}

/-! ## The barrier instructions -/

section
variable (hs : Stage s c w) (act : c.active w x = l :: rest) (found : s.barrier? w.block (barIndex x l) = some k)
include hs act found

theorem runBarrier_btest : runBarrier x (btestOp x) s = s.idle.issued c w w x fun l => outP x.d (k.phase != (l.src x.a).val) := by
  rw [runBarrier_run hs act (btestOp_run (leader_wave act) found _)]
  exact runLanes_pure hs (fun _ _ => rfl) fun _ _ => ⟨rfl, rfl⟩

theorem runBarrier_bwait_ended (ended : ∀ l ∈ c.active w x, k.phase ≠ (l.src x.a).val) :
    runBarrier x (bwaitOp x) s = s.idle.issued c w w x fun _ => {} := by
  rw [runBarrier_run hs act (bwaitOp_run (leader_wave act) found _)]
  exact runLanes_pure hs (fun l mem => if_pos (bne_iff_ne.2 (ended l mem))) fun _ _ => ⟨rfl, rfl⟩

theorem runBarrier_bwait_waits (open_ : ∀ l ∈ c.active w x, k.phase = (l.src x.a).val) :
    runBarrier x (bwaitOp x) s = s.idle.waitingAll c w x (c.active w x) (.barrier (barIndex x l) k.phase false) := by
  rw [runBarrier_run hs act (bwaitOp_run (leader_wave act) found _),
    runLanes_congr (g := fun _ => .wait (.barrier (barIndex x l) k.phase false)) hs fun l mem => by simp [← open_ l mem]]
  exact runLanes_waits hs rfl

variable (named : s.distinct)
include named

theorem runBarrier_binit (init : k.initCount (l.srcN x.a) (s.liveThreads w.block) = k')
    (after : (s.putBarrier w.block (barIndex x l) k').wave? c.wave = some v) :
    runBarrier x (binitOp x) s = (s.putBarrier w.block (barIndex x l) k').idle.issued c v w x fun _ => {} := by
  subst init
  rw [runBarrier_run hs act (binitOp_run (leader_wave act) found named _)]
  exact (hs.putBarrier x _ _ _ after).runLanes_done {} rfl rfl

variable (after : (s.arrives w.block (barIndex x l) k (rest.length + 1)).wave? c.wave = some v)
include after

omit act found named in
theorem Stage.arrives : Follows s c w x (s.arrives w.block (barIndex x l) k (rest.length + 1)) v := by
  have free : Stage { s with free := s.free + (s.arrival k (rest.length + 1)).2 } c w :=
    ⟨hs.cur, hs.ready.of_same rfl rfl rfl rfl, hs.asc, hs.exist, hs.fresh⟩
  obtain ⟨stage, lanes⟩ := free.putBarrier x _ _ _ after
  exact ⟨stage, lanes⟩

theorem runBarrier_barv : runBarrier x (barvOp x) s
    = (s.arrives w.block (barIndex x l) k (rest.length + 1)).idle.issued c v w x fun _ => outR x.d k.phase.toNat .n32 := by
  rw [runBarrier_run hs act (barvOp_run (leader_wave act) found named _)]
  have phase : result x.d k.phase .n32 = .done (outR x.d k.phase.toNat .n32) := by rw [result, outR, BitVec.ofNat_toNat, BitVec.setWidth_eq]
  rw [phase]
  exact (hs.arrives after).runLanes_done _ rfl rfl

theorem runBarrier_barw_ended (ends : k.expected ≤ (s.arrival k (rest.length + 1)).1) : runBarrier x (barwOp x) s
    = (s.arrives w.block (barIndex x l) k (rest.length + 1)).idle.issued c v w x fun _ => {} := by
  have ended : ((s.arrived k (rest.length + 1)).phase != k.phase) = true :=
    bne_iff_ne.2 (Barrier.settle_phase_ends { k with arrived := (s.arrival k (rest.length + 1)).1 } ends)
  rw [runBarrier_run hs act (barwOp_run (leader_wave act) found named _)]
  simp only [List.length_cons, ended, if_true]
  exact (hs.arrives after).runLanes_done {} rfl rfl

theorem runBarrier_barw_waits (stays : (s.arrival k (rest.length + 1)).1 < k.expected) : runBarrier x (barwOp x) s
    = (s.arrives w.block (barIndex x l) k (rest.length + 1)).idle.waitingAll c v x (c.active w x) (.barrier (barIndex x l) k.phase true) := by
  have same : (s.arrived k (rest.length + 1)).phase = k.phase :=
    Barrier.settle_phase_stays { k with arrived := (s.arrival k (rest.length + 1)).1 } stays
  rw [runBarrier_run hs act (barwOp_run (leader_wave act) found named _)]
  simp only [List.length_cons, same, bne_self_eq_false, Bool.false_eq_true, if_false]
  exact (hs.arrives after).runLanes_waits rfl

end

/-! ## The statement -/

/-- Settles O27: a sync word's instructions are one step of its rule or a look at its generation, a barrier's are one replacement of it, and
the threads of waves with distinct names are released each once. -/
theorem barriersAndSyncWords : Obligations.BarriersAndSyncWords := by
  refine ⟨?_, ?_⟩
  · intro s c w x l b hs block named o g old target count gen passed aligned inside
    have word : b.sync o = ⟨target, count, gen, bit old 96, bit old 97⟩ := rfl
    have test : (b.sync o).passed g = passed gen g := SyncWord.passed_eq (b.sync o) g
    refine ⟨?_, ?_, fun goes => ?_, fun stays => ?_⟩
    · intro i target' count' armed ovf which ends gen' new s1 v found
      have puts : s.idle.putSync w.block o (SyncWord.settle ⟨target', count', gen, armed, bit old 97 || ovf⟩) (fld old 127 98) = s1 :=
        putSync_settle s.idle w.block o ⟨target', count', gen, armed, bit old 97 || ovf⟩ (fld old 127 98)
      rcases which with ⟨arms, ht, hc, ha, ho⟩ | ⟨adds, ht, hc, ha, ho⟩
      · have step : (b.sync o).step (.arm g) = SyncWord.settle ⟨target', count', gen, armed, bit old 97 || ovf⟩ := by
          rw [word, SyncWord.step_arm, ht, hc, ha, ho]
        subst arms
        exact congrArg Host.Outcome.next (hs.runOp_syncAct block aligned inside named step puts found)
      · have step : (b.sync o).step (.contribute g) = SyncWord.settle ⟨target', count', gen, armed, bit old 97 || ovf⟩ := by
          rw [word, SyncWord.step_contribute, ht, hc, ha, ho]
        subst adds
        exact congrArg Host.Outcome.next (hs.runOp_syncAct block aligned inside named step puts found)
    · rw [← test]
      exact congrArg Host.Outcome.next (hs.runOp_swtest block aligned inside)
    · exact congrArg Host.Outcome.next (hs.runOp_swwait_passed block aligned inside (test.trans goes))
    · exact congrArg Host.Outcome.next (hs.runOp_swwait_waits block aligned inside (test.trans stays))
  · intro s c w x l rest b k hs named act block i here rule put live cnt init
    have found : s.barrier? w.block (barIndex x l) = some k := by
      rw [State.barrier?, block]
      exact here
    have settles : ∀ k : Barrier, k.settle = rule k := fun k => by simp only [Barrier.settle, decide_eq_true_eq, rule]
    refine ⟨fun v after => ?_, ?_, fun ended => ?_, fun open_ => ?_, (s.arrival k (rest.length + 1)).1, (s.arrival k (rest.length + 1)).2,
      fun fits => ?_, (s.arrival_bounds k _).1, (s.arrival_bounds k _).2, fun v after => ?_⟩
    · have count : k.initCount (l.srcN x.a) (s.liveThreads w.block) = init := by
        simp only [Barrier.initCount, State.liveThreads_eq, settles, beq_iff_eq]
        rfl
      exact congrArg Host.Outcome.next (runBarrier_binit hs act found named count after)
    · simp only [decide_not, ← beq_eq_decide]
      exact congrArg Host.Outcome.next (runBarrier_btest hs act found)
    · exact congrArg Host.Outcome.next (runBarrier_bwait_ended hs act found ended)
    · exact congrArg Host.Outcome.next (runBarrier_bwait_waits hs act found open_)
    · rw [State.arrival_fits fits]
      exact ⟨rfl, rfl⟩
    · have puts : put (rule { k with arrived := (s.arrival k (rest.length + 1)).1 }) (s.arrival k (rest.length + 1)).2
          = (s.arrives w.block (barIndex x l) k (rest.length + 1)).idle := by
        rw [← settles]
        rfl
      rw [puts] at after ⊢
      exact ⟨congrArg Host.Outcome.next (runBarrier_barv hs act found named after),
        fun ends => congrArg Host.Outcome.next (runBarrier_barw_ended hs act found named after ends),
        fun stays => congrArg Host.Outcome.next (runBarrier_barw_waits hs act found named after stays)⟩

end Sys2Proof.Machine
end

section
/-! Matrix operations posted by a lane (08 R194, R196, R199, R203, R207, R211, R212; 15 R356), MSYNC (08 R213) and MRST (08 R214). -/
namespace Sys2Proof.Machine
variable {s : State} {c : Cohort} {w : Wave} {x : Dev} {l : LaneCtx} {b : Block} {k : Task} {kind : MatKind} {off pb : Nat}

/-! ## What a lane posts -/

theorem nextTicketOf_eq {n : Nat} (word : n < 2 ^ 32) : nextTicketOf n = if n = 2 ^ 32 - 1 then 1 else n + 1 := by
  rw [nextTicketOf]
  by_cases last : n = 2 ^ 32 - 1
  · rw [if_pos last, last]
    rfl
  · have next : (n + 1) % 2 ^ 32 = n + 1 := Nat.mod_eq_of_lt (by omega)
    rw [if_neg last, next]
    rfl

/-- The entry that a lane of a block posts (08 R199, R207), with the code that it has failed with at once. -/
def State.postedMat (s : State) (x : Dev) (l : LaneCtx) (b : Block) (kind : MatKind) (off pb : Nat) : MatOp :=
  let by_ := s.posterOf l
  let o : MatOp :=
    { id := s.nextId, by_, engine := engineOfCore l.wave.ref.core, kind, ticket := nextTicketOf b.nextTicket, postedAt := s.clock, off, pb
      sem := Dev.sem x, scope := Dev.scope x, snapA := (kind.tids pb).1.map (s.snapshot by_.tenant by_.task)
      snapB := (kind.tids pb).2.map (s.snapshot by_.tenant by_.task), phase := .waiting, code := 0, flags := 0, rowsDone := 0, chunk := 0
      vPass := false, probs := [], begun := false, qrows := [], work := [], park := .clear }
  { o with code := o.postCode b.accRows.length b.scratchLen }

/-- The state with an entry appended to the tables, its block's ticket drawn and its task's count raised. -/
def State.withPosted (s : State) (o : MatOp) (k : Nat) : State :=
  ({ ({ s with nextId := s.nextId + 1 } : State).updBlock k (fun b => { b with nextTicket := o.ticket }) with
     mats := s.mats ++ [o] } : State).addPending o.by_.task o.by_.core

/-- A posting with room in the core's table, outside strands, ends with the operation in the table. -/
theorem postMat_run (room : (s.mats.filter fun o => o.by_.core == l.wave.ref.core).length < 16) (outside : (s.self l.ref).strand = none)
    (block : s.block? l.wave.block = some b) : postMat x l kind off pb s
      = .ok (resultN x.d (nextTicketOf b.nextTicket)) (s.withPosted (s.postedMat x l b kind off pb) b.id) := by
  have found : s.blockOf l.wave = some b := block
  rw [postMat, Op.get_bind, if_neg (Nat.not_le.2 room), outside]
  beta_reduce
  extract_lets post
  have posts : post () s = .ok (resultN x.d (nextTicketOf b.nextTicket)) (s.withPosted (s.postedMat x l b kind off pb) b.id) := by
    unfold post
    rw [Op.get_bind, found]
    rfl
  split
  · exact (Op.bind_run (awaitHead_none s)).trans posts
  · exact posts

/-- The posting of a parameter block that is aligned, inside the scratchpad and whole is that of what it holds. -/
theorem postBlock_run (block : s.block? l.wave.block = some b) (aligned : l.srcN x.a % 64 = 0) (inside : l.srcN x.a + 64 ≤ b.scratchLen)
    (whole : b.granulesBad (l.srcN x.a) 64 = false) :
    postBlock kind x l s = postMat x l kind (l.srcN x.a) (b.scratch.readNat (l.srcN x.a) 64) s := by
  have found : s.blockOf l.wave = some b := block
  rw [postBlock]
  simp only [aligned, bne_self_eq_false, Bool.false_eq_true, if_false]
  refine (Op.get_bind (f := fun t => _)).trans ?_
  simp only [found, if_neg (Nat.not_lt.2 inside), whole]
  rfl

theorem accscOp_run (scale : (l.src x.c).tag = .f32) : accscOp x l s
    = postMat x l .accsc 0 (pbPlain (l.srcN x.a) (l.srcN x.b) (l.srcN x.c)) s := by
  rw [accscOp]
  simp only [scale, bne_self_eq_false, Bool.false_eq_true, if_false]
  rfl

/-! ## The posting lane -/

theorem OneLane.wave (hs : OneLane s c w x l) : l.wave = w := leader_wave hs.act

theorem OneLane.self_taskId (hs : OneLane s c w x l) (block : s.block? w.block = some b) : (s.idle.self l.ref).who.task = some b.task := by
  have wave : s.wave? l.ref.wave = some w := by rw [hs.ref]; exact hs.ready.wave
  change ((s.wave? l.ref.wave).bind s.blockOf).map (·.task) = some b.task
  rw [wave, Option.bind_some, State.blockOf, block, Option.map_some]

/-- Who posts for a lane: its tenant, its block and its block's task, its thread, and its core. -/
theorem OneLane.posterOf (hs : OneLane s c w x l) (block : s.block? w.block = some b) (task : s.task? b.task = some k) :
    (s.idle.posterOf l).tenant = k.tenant ∧ (s.idle.posterOf l).task = b.task ∧ (s.idle.posterOf l).block = some b.id
      ∧ (s.idle.posterOf l).thread = some l.ref ∧ (s.idle.posterOf l).core = w.ref.core := by
  refine ⟨?_, ?_, ?_, rfl, ?_⟩
  · exact hs.self_tenant.trans (State.tenantOfWave_eq block task)
  · exact congrArg (Option.getD · 0) (hs.self_taskId block)
  · exact (hs.self_block block).trans (congrArg some (State.block?_id block).symm)
  · rw [← hs.wave]
    rfl

theorem Ready.withPosted (ready : Ready s c w) (o : MatOp) (n : Nat) : Ready (s.withPosted o n) c w := by
  have drawn := ready.updBlock (f := fun b => { b with nextTicket := o.ticket }) (fun _ => ⟨rfl, rfl⟩) n
  have appended : Ready { ({ s with nextId := s.nextId + 1 } : State).updBlock n (fun b => { b with nextTicket := o.ticket }) with
      mats := s.mats ++ [o] } c w := drawn.of_same rfl rfl rfl rfl
  exact appended.updTask fun _ => ⟨rfl, rfl⟩

theorem State.withPosted_block? (block : s.block? w.block = some b) (o : MatOp) :
    (s.withPosted o b.id).block? w.block = some { b with nextTicket := o.ticket } := by
  have drawn := State.block?_updBlock block (f := fun b => { b with nextTicket := o.ticket }) fun _ => rfl
  rwa [← State.block?_id block] at drawn ⊢

/-- A task named by the poster has one more operation outstanding. -/
theorem State.withPosted_tasks {o : MatOp} {n : Nat} {t : Task} (mem : t ∈ (s.withPosted o n).tasks) (named : t.id = o.by_.task) :
    ∃ t' ∈ s.tasks, t = { t' with pending := bump t'.pending o.by_.core (· + 1) } := by
  obtain ⟨t', mem', rfl⟩ := List.mem_map.1 (show t ∈ s.tasks.map fun y => if y.id == o.by_.task then _ else y from mem)
  refine ⟨t', mem', ?_⟩
  by_cases here : t'.id == o.by_.task
  · rw [if_pos here]
  · rw [if_neg here] at named
    simp [named] at here

/-! ## MSYNC and MRST -/

theorem msyncLane_open (block : s.block? l.wave.block = some b)
    (open_ : (s.mats.any fun o => o.by_.block == some b.id && covered (l.srcN x.a) b.nextTicket o.ticket) = true) :
    msyncLane x s l = .wait (.msync (l.srcN x.a + 2 ^ 32 * b.nextTicket) x.d) := by
  have found : s.blockOf l.wave = some b := block
  rw [msyncLane, found]
  exact if_pos open_

theorem msyncLane_ended (block : s.block? l.wave.block = some b)
    (ended : (s.mats.any fun o => o.by_.block == some b.id && covered (l.srcN x.a) b.nextTicket o.ticket) = false) :
    msyncLane x s l = resultN x.d (msyncCode b (l.srcN x.a) b.nextTicket) := by
  have found : s.blockOf l.wave = some b := block
  rw [msyncLane, found]
  exact if_neg (Bool.eq_false_iff.1 ended)

theorem mrstOp_clears (clears : bit x.m 0 = true) : mrstOp x l s = .ok (.done {}) (s.updBlock l.wave.block fun b => { b with rstpc := 1 }) := by
  rw [mrstOp]
  simp only [clears, if_true]
  rfl

theorem mrstOp_records (records : bit x.m 0 = false) (canon : l.srcWN x.a < 2 ^ 60) (aligned : l.srcWN x.a % 4 = 0) :
    mrstOp x l s = .ok (.done {}) (s.updBlock l.wave.block fun b => { b with rstpc := l.srcWN x.a }) := by
  rw [mrstOp]
  simp only [records, canonical, canon, aligned, decide_true, Bool.not_true, bne_self_eq_false, Bool.false_eq_true, if_false]
  rfl

/-! ## The statement -/

/-- Settles O22: every posting is one appended entry whose fields are the lane's, and MSYNC and MRST are one look or one write at the block. -/
theorem matrixOperations : Obligations.MatrixOperations := by
  refine ⟨?_, ?_⟩
  · intro s c w x l b k hs outside block task core word room ticket posts off
    have here : s.idle.block? l.wave.block = some b := by rw [hs.wave]; exact block
    have drawn : nextTicketOf b.nextTicket = ticket := nextTicketOf_eq word
    have posted : ∀ {i : Dev → Instr} {f : LaneCtx → Op LaneRes} {kind off pb}, exec (i x) s = .next (runOp x f s) →
        f l s.idle = postMat x l kind off pb s.idle → posts i kind off pb := by
      intro i f kind off pb instr run
      have free : (s.idle.mats.filter fun o => o.by_.core == l.wave.ref.core).length < 16 := by rw [hs.wave]; exact room
      rw [postMat_run free (hs.self_strand outside) here, drawn] at run
      obtain ⟨tenant, task', block', thread, core'⟩ := hs.posterOf block task
      have done := runOp_one hs run (hs.ready.withPosted _ _) rfl rfl
      refine ⟨_, s.idle.postedMat x l b kind off pb, instr.trans (congrArg Host.Outcome.next done), rfl, rfl, rfl, ?_, rfl, drawn, ?_, rfl, rfl,
        rfl, rfl, rfl, rfl, block', task', thread, ?_, ?_, rfl, fun t mem named => ?_⟩
      · rw [← drawn]
        exact State.withPosted_block? (s := s.idle) block _
      · exact congrArg (·.ref.core / 4) hs.wave
      · exact congrArg₂ (fun n t => (kind.tids pb).1.map (s.snapshot n t)) tenant task'
      · exact congrArg₂ (fun n t => (kind.tids pb).2.map (s.snapshot n t)) tenant task'
      · obtain ⟨t', mem', is⟩ := State.withPosted_tasks (s := s.idle) mem (named.trans task'.symm)
        exact ⟨t', mem', core' ▸ is⟩
    refine ⟨fun p mem aligned inside whole => ?_, posted (f := mzroOp x) rfl rfl, fun scale => posted (f := accscOp x) rfl (accscOp_run scale)⟩
    have run := fun kind => postBlock_run (s := s.idle) (kind := kind) here aligned inside whole
    simp only [List.mem_cons, List.not_mem_nil, or_false] at mem
    obtain rfl | rfl | rfl | rfl | rfl | rfl | rfl | rfl := mem <;> exact posted rfl (run _)
  · intro s c w x l b hs block t open_
    have here : s.block? l.wave.block = some b := by rw [hs.wave]; exact block
    have records : ∀ v, mrstOp x l s.idle = .ok (.done {}) (s.idle.updBlock l.wave.block fun b => { b with rstpc := v }) →
        exec (.mrst x) s = .next ((s.idle.updBlock w.block fun b => { b with rstpc := v }).issued c w w x fun _ => {}) := fun v run => by
      rw [hs.wave] at run
      exact congrArg Host.Outcome.next (runOp_one hs run (hs.ready.updBlock (f := fun b => { b with rstpc := v }) (fun _ => ⟨rfl, rfl⟩) _) rfl rfl)
    refine ⟨fun ended => ?_, fun waits => ?_, fun clears => records _ (mrstOp_clears clears),
      fun sets canon aligned => records _ (mrstOp_records sets canon aligned)⟩
    · exact congrArg Host.Outcome.next (runLanes_one hs (congrArg (·, s.idle) (msyncLane_ended here ended)) hs.ready rfl rfl)
    · exact congrArg Host.Outcome.next (runLanes_waitsOne hs hs.ready (congrArg (·, s.idle) (msyncLane_open here waits)))

end Sys2Proof.Machine
end

section
/-! Entries and engines under their names, planes and runs (08 R195, R201), and the end of a matrix operation (08 R205, R211). -/
namespace Sys2Proof.Machine
variable {s t u : State} {o : MatOp} {b : Block} {e blk : Nat}

/-! ## Entries and engines under their names -/

theorem State.mat?_updMat (found : s.mat? o.id = some o) {f : MatOp → MatOp} (same : ∀ y, (f y).id = y.id) :
    (s.updMat o.id f).mat? o.id = some (f o) := by
  have ids : (fun y : MatOp => y.id == o.id) ∘ (fun y => if y.id == o.id then f y else y) = fun y => y.id == o.id := funext fun y => by
    simp only [Function.comp, apply_ite MatOp.id, same, ite_self]
  change (s.mats.map fun y => if y.id == o.id then f y else y).find? (fun y => y.id == o.id) = _
  rw [List.find?_map, ids, show s.mats.find? (fun y => y.id == o.id) = some o from found, Option.map_some, if_pos (beq_self_eq_true o.id)]

theorem State.engine_updEngine (inside : e < s.engines.length) (f : Engine → Engine) : (s.updEngine e f).engine e = f (s.engine e) := by
  simp [State.engine, State.updEngine, List.getD_eq_getElem?_getD, List.getElem?_eq_getElem inside]

/-- What a change does to an engine matters only on the engine there is. -/
theorem State.updEngine_congr {f g : Engine → Engine} (inside : e < s.engines.length) (same : f (s.engine e) = g (s.engine e)) :
    s.updEngine e f = s.updEngine e g := by
  have here : s.engine e = s.engines[e] := by simp [State.engine, List.getD_eq_getElem?_getD, List.getElem?_eq_getElem inside]
  rw [here] at same
  simp only [State.updEngine, List.modify_eq_set_getElem?, List.getElem?_eq_getElem inside, Option.map_eq_map, Option.map_some, same]

/-- An engine changed in a way that leaves it what it was. -/
theorem State.updEngine_same {f : Engine → Engine} (inside : e < s.engines.length) (same : f (s.engine e) = s.engine e) : s.updEngine e f = s := by
  rw [State.updEngine_congr (g := id) inside same, State.updEngine, List.modify_id]

/-! ## Requests left behind, and steps that end -/

theorem State.forgetHeld_only (s : State) (r : HeldBy) : ∃ ms, s.forgetHeld r = { s with moves := ms } := by
  unfold State.forgetHeld
  split <;> exact ⟨_, rfl⟩

section
variable (r : HeldBy)

@[simp] theorem State.forgetHeld_waves : (s.forgetHeld r).waves = s.waves := by obtain ⟨ms, only⟩ := s.forgetHeld_only r; rw [only]
@[simp] theorem State.forgetHeld_blocks : (s.forgetHeld r).blocks = s.blocks := by obtain ⟨ms, only⟩ := s.forgetHeld_only r; rw [only]
@[simp] theorem State.forgetHeld_tasks : (s.forgetHeld r).tasks = s.tasks := by obtain ⟨ms, only⟩ := s.forgetHeld_only r; rw [only]
@[simp] theorem State.forgetHeld_harts : (s.forgetHeld r).harts = s.harts := by obtain ⟨ms, only⟩ := s.forgetHeld_only r; rw [only]
@[simp] theorem State.forgetHeld_engines : (s.forgetHeld r).engines = s.engines := by obtain ⟨ms, only⟩ := s.forgetHeld_only r; rw [only]
@[simp] theorem State.forgetHeld_mats : (s.forgetHeld r).mats = s.mats := by obtain ⟨ms, only⟩ := s.forgetHeld_only r; rw [only]

end

theorem engStep_ok {α : Type} {c : Self} {m : Op α} {a : α} (run : m s = .ok a t) : engStep c m s = (.ok a, t.forgetHeld c.by_) := by
  rw [engStep, run]

/-! ## Planes (08 R195, R201) -/

/-- SHADOW may become ACTIVE, with the old ACTIVE kept or not; nothing else of the engines or the state but the count of free values changes. -/
theorem State.promotePlane_cases (s : State) (e : Nat) : s.promotePlane e = s
    ∨ ∃ keep : Bool, s.promotePlane e = ({ s with free := s.free + 1 } : State).updEngine e fun g =>
        { g with active := g.shadow, shadow := if keep then g.active else none } := by
  unfold State.promotePlane
  extract_lets g ready names
  split
  · exact .inl rfl
  · split
    · exact .inr ⟨_, rfl⟩
    · exact .inl rfl

theorem State.promotePlane_sameRun (s : State) (e : Nat) : SameRun s (s.promotePlane e) := by
  obtain same | ⟨keep, promotes⟩ := s.promotePlane_cases e
  · rw [same]
    exact ⟨rfl, rfl, rfl, rfl⟩
  · rw [promotes]
    exact ⟨rfl, rfl, rfl, rfl⟩

theorem State.promotePlane_mats (s : State) (e : Nat) : (s.promotePlane e).mats = s.mats := by
  obtain same | ⟨keep, promotes⟩ := s.promotePlane_cases e
  · rw [same]
  · rw [promotes]
    rfl

/-- The engine after it: as it was, or with its SHADOW plane ACTIVE. -/
theorem State.promotePlane_engine (inside : e < s.engines.length) : (s.promotePlane e).engine e = s.engine e
    ∨ ∃ keep : Bool, (s.promotePlane e).engine e
        = { s.engine e with active := (s.engine e).shadow, shadow := if keep then (s.engine e).active else none } := by
  obtain same | ⟨keep, promotes⟩ := s.promotePlane_cases e
  · exact .inl (congrArg (·.engine e) same)
  · refine .inr ⟨keep, ?_⟩
    rw [promotes]
    exact State.engine_updEngine (s := { s with free := s.free + 1 }) inside _

/-- Of the entries in the arbiter's order, the first that names a plane which no slot holds has it loaded into SHADOW. -/
theorem State.startLoad_first {p : PlaneId} {pre post : List MatOp} (idle : (s.engine e).loading = none)
    (over_ : ∀ a, (s.engine e).shadow = some a → s.planeNamed e a.id = false)
    (order : s.arbiter (s.mats.filter fun o => o.waits e && o.park.entry.isNone) = pre ++ o :: post)
    (held : ∀ y ∈ pre, ∀ q, y.planeId? = some q → (s.engine e).holds q = true) (names : o.planeId? = some p)
    (wanted : (s.engine e).holds p = false) : s.startLoad e = s.updEngine e fun g => { g with shadow := none, loading := some (p, o.id) } := by
  have unused : ((s.engine e).shadow.map fun p => s.planeNamed e p.id).getD false = false := by
    cases here : (s.engine e).shadow with
    | none => rfl
    | some a => exact over_ a here
  have passed : pre.findSome? (fun o => o.planeId?.bind fun p => if (s.engine e).holds p then none else some (p, o.id)) = none := by
    refine List.findSome?_eq_none_iff.2 fun y mem => ?_
    cases plane : y.planeId? with
    | none => rfl
    | some q => exact if_pos (held y mem q plane)
  unfold State.startLoad
  simp only [idle, unused, order, Option.isSome_none, Bool.or_self, Bool.false_eq_true, if_false, List.findSome?_append, passed,
    List.findSome?_cons, names, Option.bind_some, wanted, Option.none_or]

theorem Op.gives_mapM_length {α β : Type} (f : α → Op β) (l : List α) : Op.Gives (fun bs => bs.length = l.length) (l.mapM f) := by
  induction l with
  | nil =>
    rw [List.mapM_nil]
    exact Op.gives_pure rfl
  | cons a l ih =>
    rw [List.mapM_cons]
    exact Op.gives_bind (Op.gives_any _) fun b _ => Op.gives_bind ih fun bs len => Op.gives_pure (congrArg (· + 1) len)

/-- A plane read from its tensor is the one asked for, and has 256 columns (08 R186). -/
theorem loadPlane_gives (c : Self) (p : PlaneId) (r : Nat) (f : ArrFmt) : Op.Gives (fun pl => pl.id = p ∧ pl.cols.length = 256) (loadPlane c p r f) :=
  Op.gives_bind (Op.gives_mapM_length _ _) fun _ len => Op.gives_pure ⟨rfl, len.trans (List.length_range ..)⟩

/-- A load that ends puts its plane into SHADOW, whence it may become ACTIVE. -/
theorem State.finishLoad_ends {p q : PlaneId} {r : Nat} {f : ArrFmt} {pl : Plane} (loading : (s.engine e).loading = some (p, o.id))
    (found : s.mat? o.id = some o) (plane : o.plane? = some (q, r, f)) (going : o.code = 0) (clear : o.park = .clear)
    (run : loadPlane (o.by_.self o.id) p r f s = .ok pl t) : s.finishLoad e
      = ((t.forgetHeld (.op o.id)).updEngine e fun g => { g with loading := none, shadow := some pl }).promotePlane e := by
  unfold State.finishLoad
  simp only [loading, found, plane, going, clear, engStep_ok run]
  rfl

/-! ## The start of an operation, and its rows -/

/-- An entry whose checks of KIND are done. -/
def State.begunMat (s : State) (o : MatOp) : MatOp := { o with begun := true, work := if o.kind == .attn then s.attnStart o else [] }

theorem State.beginMat_fresh (fresh : o.begun = false) (good : s.kindBad o = false) : s.beginMat o = s.updMat o.id s.begunMat := by
  rw [State.beginMat, if_neg (Bool.eq_false_iff.1 fresh), if_neg (Bool.eq_false_iff.1 good)]
  rfl

theorem State.begunMat_eq (plain : o.kind ≠ .attn) : s.begunMat o = { o with begun := true, work := [] } := by
  rw [State.begunMat, if_neg (by simpa using plain)]

/-- An entry that has done one row more. -/
def MatOp.countRow (fl : Flags) (o : MatOp) : MatOp := { o with rowsDone := o.rowsDone + 1, flags := o.flags ||| fl }

/-! ## The end of a run (08 R201) -/

/-- A run all of whose passes have streamed, or failed, has nothing left to stream. -/
theorem State.streamAll_streamed (ids : List Nat) (streamed : ∀ o ∈ s.mats, o.id ∈ ids → o.phase = .inRun ∨ o.code ≠ 0) :
    s.streamAll e ids = (true, s) := by
  induction ids with
  | nil => rfl
  | cons id ids ih =>
    have rest := ih fun o mem here => streamed o mem (List.mem_cons_of_mem id here)
    rw [State.streamAll]
    cases found : s.mat? id with
    | none => exact rest
    | some o =>
      have id_ : o.id = id := by simpa using List.find?_some found
      have over_ : (o.phase == .inRun || o.code != 0) = true := by
        simpa using streamed o (List.mem_of_find?_eq_some found) (id_ ▸ List.mem_cons_self)
      simp only [over_, if_true]
      exact rest

theorem State.streamRun_streamed (inside : e < s.engines.length)
    (streamed : ∀ o ∈ s.mats, o.id ∈ (s.engine e).run → o.phase = .inRun ∨ o.code ≠ 0) : s.streamRun e [] = (true, s) := by
  have same : s.updEngine e (fun g => { g with run := g.run ++ [] }) = s := State.updEngine_same inside (by rw [List.append_nil])
  unfold State.streamRun
  rw [same]
  exact State.streamAll_streamed _ streamed

theorem MatOp.leaveRun_id (o : MatOp) : o.leaveRun.id = o.id := by
  unfold MatOp.leaveRun
  split <;> rfl

theorem MatOp.leaveRun_leaveRun (o : MatOp) : o.leaveRun.leaveRun = o.leaveRun := by
  unfold MatOp.leaveRun
  by_cases inRun : o.phase = .inRun
  · by_cases attn : o.kind = .attn <;> simp [inRun, attn]
  · simp [inRun]

/-- Operations leave a run once, however often it names them. -/
theorem State.forEach_leaveRun (ids : List Nat) (s : State) : s.forEach ids (fun id s => s.updMat id MatOp.leaveRun)
    = { s with mats := s.mats.map fun o => if o.id ∈ ids then o.leaveRun else o } := by
  induction ids generalizing s with
  | nil => simp
  | cons id ids ih =>
    rw [State.forEach_cons, ih, State.updMat, List.map_map]
    refine congrArg (fun ms => { s with mats := ms }) (List.map_congr_left fun o _ => ?_)
    by_cases here : o.id = id
    · by_cases again : id ∈ ids <;> simp [here, MatOp.leaveRun_id, MatOp.leaveRun_leaveRun, again]
    · simp [here]

/-- The end of a run that has streamed and that no pass joins. -/
theorem State.endRun_streamed (inside : e < s.engines.length) (running : (s.engine e).run ≠ []) (none_ : s.joiners e = [])
    (streamed : ∀ o ∈ s.mats, o.id ∈ (s.engine e).run → o.phase = .inRun ∨ o.code ≠ 0) : s.endRun e
      = (({ s with mats := s.mats.map fun o => if o.id ∈ (s.engine e).run then o.leaveRun else o } : State).updEngine e fun g =>
          { g with run := [] }).promotePlane e := by
  have busy : (s.engine e).run.isEmpty = false := by simpa using running
  unfold State.endRun
  simp only [busy, Bool.false_eq_true, if_false, State.streamRun_streamed inside streamed, none_, State.forEach_leaveRun]

/-! ## The end of an operation (08 R205) -/

/-- What changes nothing but threads and registers of waves leaves them their names and blocks. -/
structure State.OnlyWaves (s t : State) : Prop where
  rest : t = { s with waves := t.waves }
  blocks : t.waves.map (·.block) = s.waves.map (·.block)

theorem State.OnlyWaves.refl (s : State) : s.OnlyWaves s := ⟨rfl, rfl⟩

theorem State.OnlyWaves.trans (h : s.OnlyWaves t) (k : t.OnlyWaves u) : s.OnlyWaves u := ⟨by rw [k.rest, h.rest], k.blocks.trans h.blocks⟩

theorem State.onlyWaves_updWave {r : WaveRef} {f : Wave → Wave} (same : ∀ w, (f w).block = w.block) : s.OnlyWaves (s.updWave r f) := by
  refine ⟨rfl, ?_⟩
  rw [State.updWave_waves, List.map_map]
  refine List.map_congr_left fun w _ => ?_
  simp only [Function.comp]
  split
  · exact same w
  · rfl

theorem State.onlyWaves_releaseIf {p : ThreadRef → Wait → Option (Operand × Reg)} : s.OnlyWaves (s.releaseIf p) := by
  refine State.forEach_keeps (fun u => s.OnlyWaves u) _ (fun a u h => ?_) _ s (.refl s)
  have written : ∀ d v, u.OnlyWaves (u.writeDest a.1 d v) := fun d v => by
    unfold State.writeDest
    split <;> exact State.onlyWaves_updWave fun _ => rfl
  dsimp only
  split
  · split
    · exact h.trans ((written _ _).trans (State.onlyWaves_updWave fun _ => rfl))
    · exact h
  · exact h

theorem State.onlyWaves_releaseMsync : s.OnlyWaves (s.releaseMsync blk) := by
  unfold State.releaseMsync
  split
  · exact .refl s
  · exact State.onlyWaves_releaseIf

theorem State.onlyWaves_raiseMat : s.OnlyWaves (s.raiseMat o) := by
  unfold State.raiseMat
  split
  · split
    · exact State.onlyWaves_updWave fun _ => rfl
    · exact .refl s
  · exact .refl s

/-- A block that has a wave has not ended. -/
theorem State.endBlock_stays (here : blk ∈ s.waves.map (·.block)) : s.endBlock blk = s := by
  obtain ⟨w, mem, block⟩ := List.mem_map.1 here
  have some_ : s.blockWaves blk ≠ [] := List.ne_nil_of_mem (List.mem_filter.2 ⟨mem, by simpa using block⟩)
  unfold State.endBlock
  rw [List.isEmpty_eq_false_iff.2 some_, Bool.false_and, if_neg Bool.false_ne_true]

/-- What the end of an operation without a sync word leaves but for the threads that its completion releases: STATUS, the entry, the count and
the code. -/
def State.matEnded (s : State) (o : MatOp) (blk code : Nat) : State :=
  (({ s.writeStatus o code with mats := s.mats.filter fun y => y.id != o.id } : State).subPending o.by_.task o.by_.core).updBlock blk
    fun b => b.addCode o.ticket code

theorem State.writeStatus_only (s : State) (o : MatOp) (code : Nat) : ∃ bs, s.writeStatus o code = { s with blocks := bs } := by
  unfold State.writeStatus
  split
  · split <;> exact ⟨_, rfl⟩
  · exact ⟨_, rfl⟩

theorem State.endMat_onlyWaves (block : o.by_.block = some blk) (staying : s.blockWaves blk ≠ [])
    (quiet : (o.kind.hasBlock && pbSwEn o.pb) = false) (code : Nat) : (s.matEnded o blk code).OnlyWaves (s.endMat o code) := by
  obtain ⟨bs, status⟩ := s.writeStatus_only o code
  have raised := State.onlyWaves_raiseMat (s := s.writeStatus o code) (o := o)
  unfold State.endMat State.matEnded
  simp only [block, quiet, Bool.false_and, Bool.false_eq_true, if_false]
  rw [status] at raised ⊢
  generalize State.raiseMat _ o = r at raised
  obtain ⟨rest, blocks⟩ := raised
  generalize r.waves = ws at rest blocks
  subst rest
  have named := State.onlyWaves_releaseMsync (blk := blk)
    (s := (({ s with blocks := bs, waves := ws, mats := s.mats.filter fun y => y.id != o.id } : State).subPending o.by_.task o.by_.core).updBlock blk
      fun b => b.addCode o.ticket code)
  have here : blk ∈ s.waves.map (·.block) := by
    obtain ⟨w, mem⟩ := List.exists_mem_of_ne_nil _ staying
    obtain ⟨mem, block⟩ := List.mem_filter.1 mem
    exact List.mem_map.2 ⟨w, mem, by simpa using block⟩
  rw [State.endBlock_stays (by rw [named.blocks]; exact blocks ▸ here)]
  exact .trans ⟨rfl, blocks⟩ named

end Sys2Proof.Machine
end

section
/-! MZRO (08 R211), and MATRIX_OP_COMPLETE of an operation that has failed or streamed (08 R205). -/
namespace Sys2Proof.Machine
variable {s u : State} {o : MatOp} {b : Block} {e blk i : Nat}

/-! ## What an ended operation leaves -/

theorem State.OnlyWaves.mem (h : s.OnlyWaves u) : u.mem = s.mem := by rw [h.rest]
theorem State.OnlyWaves.mats (h : s.OnlyWaves u) : u.mats = s.mats := by rw [h.rest]
theorem State.OnlyWaves.tasks (h : s.OnlyWaves u) : u.tasks = s.tasks := by rw [h.rest]
theorem State.OnlyWaves.block? (h : s.OnlyWaves u) (k : Nat) : u.block? k = s.block? k := by rw [h.rest]; rfl

/-- The codes kept for MSYNC, and STATUS (08 R205, R213). -/
theorem Block.addCode_ok (b : Block) (ticket : Nat) : b.addCode ticket 1 = b := rfl

theorem Block.addCode_opCodes (b : Block) (ticket : Nat) {code : Nat} (failed : code ≠ 1) : (ticket, code) ∈ (b.addCode ticket code).opCodes := by
  simp [Block.addCode, failed]

theorem Block.addCode_keeps (b : Block) (ticket code : Nat) : (b.addCode ticket code).id = b.id ∧ (b.addCode ticket code).accRows = b.accRows
    ∧ (b.addCode ticket code).scratch = b.scratch := by
  unfold Block.addCode
  split <;> exact ⟨rfl, rfl, rfl⟩

/-- STATUS in a block's scratchpad, for an operation that has a parameter block. -/
def Block.withStatus (b : Block) (o : MatOp) (code : Nat) : Block :=
  if o.kind.hasBlock then { b with scratch := b.scratch.writeBytes (o.off + 60) (natBytes 4 (matStatus o code)) } else b

theorem Block.withStatus_keeps (b : Block) (o : MatOp) (code : Nat) : (b.withStatus o code).id = b.id ∧ (b.withStatus o code).accRows = b.accRows
    ∧ (b.withStatus o code).opCodes = b.opCodes := by
  unfold Block.withStatus
  split <;> exact ⟨rfl, rfl, rfl⟩

theorem Block.withStatus_scratch (canon : b.scratch.wf = true) (o : MatOp) (code : Nat) :
    if o.kind.hasBlock = true then BytesPut b.scratch (b.withStatus o code).scratch (o.off + 60) (natBytes 4 (matStatus o code))
    else (b.withStatus o code).scratch = b.scratch := by
  unfold Block.withStatus
  split
  · exact fun a => Memory.read_writeBytes canon _ a _
  · rfl

theorem State.writeStatus_block? (block : o.by_.block = some blk) (found : s.block? blk = some b) (code : Nat) :
    (s.writeStatus o code).block? blk = some (b.withStatus o code) := by
  unfold State.writeStatus Block.withStatus
  rw [block]
  dsimp only
  split
  · exact State.block?_updBlock found (f := fun b => { b with scratch := b.scratch.writeBytes (o.off + 60) (natBytes 4 (matStatus o code)) })
      fun _ => rfl
  · exact found

theorem State.matEnded_block? (block : o.by_.block = some blk) (found : s.block? blk = some b) (code : Nat) :
    (s.matEnded o blk code).block? blk = some ((b.withStatus o code).addCode o.ticket code) :=
  State.block?_updBlock (f := fun b => b.addCode o.ticket code) (State.writeStatus_block? block found code) fun b => (b.addCode_keeps ..).1

theorem State.writeStatus_tasks (s : State) (o : MatOp) (code : Nat) : (s.writeStatus o code).tasks = s.tasks := by
  obtain ⟨bs, only⟩ := s.writeStatus_only o code
  rw [only]

theorem State.matEnded_mem (s : State) (o : MatOp) (blk code : Nat) : (s.matEnded o blk code).mem = s.mem := by
  obtain ⟨bs, only⟩ := s.writeStatus_only o code
  change (s.writeStatus o code).mem = s.mem
  rw [only]

/-- A task named by the poster has one operation less outstanding. -/
theorem State.matEnded_tasks {code : Nat} {t : Task} (mem : t ∈ (s.matEnded o blk code).tasks) (named : t.id = o.by_.task) :
    ∃ t' ∈ s.tasks, t = { t' with pending := bump t'.pending o.by_.core (· - 1) } := by
  obtain ⟨t', mem', rfl⟩ := List.mem_map.1 (show t ∈ (s.writeStatus o code).tasks.map fun y => if y.id == o.by_.task then _ else y from mem)
  rw [s.writeStatus_tasks] at mem'
  refine ⟨t', mem', ?_⟩
  by_cases here : t'.id == o.by_.task
  · rw [if_pos here]
  · rw [if_neg here] at named
    simp [named] at here

/-! ## Operations that have failed or streamed -/

/-- What has failed, or has streamed as a pass, ends with its code. -/
theorem State.completeMat_over (found : s.mat? o.id = some o) (clear : o.park = .clear)
    (over_ : o.code ≠ 0 ∨ o.kind.isPass = true ∧ o.phase = .streamed) (failed : o.code ≠ 1) :
    s.completeMat o.engine o.id = s.endMat o (if o.code ≠ 0 then o.code else 1) := by
  have still : (o.engine != o.engine || o.park.entry.isSome) = false := by simp [clear, Park.clear]
  unfold State.completeMat
  simp only [found, still, Bool.false_eq_true, if_false]
  by_cases code : o.code = 0
  · obtain ⟨pass, streamed⟩ := over_.resolve_left (not_not_intro code)
    have kind : o.kind = .mpass ∨ o.kind = .mstrm := by simpa [MatKind.isPass] using pass
    obtain kind | kind := kind <;> simp [State.matDone, MatKind.usesPlane, MatKind.isPass, code, streamed, found, kind]
  · have done : s.matDone o = o.code := by simp [State.matDone, code]
    have port : (o.code == 0) = false := by simpa using code
    have attn : (o.kind == .attn && o.code == 1) = false := by simp [failed]
    simp only [port, Bool.false_and, Bool.false_eq_true, if_false, found, done, attn, ne_eq, code, not_false_eq_true, if_true]

/-! ## MZRO -/

/-- Rows of which some are zeroed, with a kind. -/
def zeroRows (rows : List AccRow) (first n kind : Nat) : List AccRow :=
  rows.mapIdx fun i r => if first ≤ i ∧ i < first + n then accZero kind else r

theorem zeroRows_zero (rows : List AccRow) (first kind : Nat) : zeroRows rows first 0 kind = rows := by
  refine List.ext_getElem (by simp [zeroRows]) fun i _ _ => ?_
  simp only [zeroRows, List.getElem_mapIdx]
  rw [if_neg (by omega)]

theorem zeroRows_set (rows : List AccRow) (first n kind : Nat) :
    (zeroRows rows first n kind).set (first + n) (accZero kind) = zeroRows rows first (n + 1) kind := by
  refine List.ext_getElem (by simp [zeroRows]) fun i _ _ => ?_
  simp only [zeroRows, List.getElem_set, List.getElem_mapIdx]
  by_cases here : first + n = i
  · rw [if_pos here, if_pos (by omega)]
  · rw [if_neg here]
    exact if_congr (by omega) rfl rfl

/-- An operation of the accumulator's ports whose rows are done stays as it is. -/
theorem State.runPort_done (found : s.mat? o.id = some o) (done : o.rowCount ≤ o.rowsDone) (fuel : Nat) : s.runPort o.id fuel = s := by
  cases fuel with
  | zero => rfl
  | succ n =>
    unfold State.runPort
    simp only [found, decide_eq_true done, Bool.or_true, if_true]

/-- A row of such an operation, with more to come. -/
theorem State.runPort_row {fl : Flags} (found : s.mat? o.id = some o) (going : o.code = 0) (clear : o.park = .clear) (left : o.rowsDone < o.rowCount)
    (run : portRow (o.by_.self o.id) o o.rowsDone s = .ok fl u) (fuel : Nat) : s.runPort o.id (fuel + 1)
      = ((u.forgetHeld (.op o.id)).updMat o.id (MatOp.countRow fl)).runPort o.id fuel := by
  rw [State.runPort]
  simp only [found, going, clear, Park.clear, decide_eq_false (Nat.not_le.2 left), engStep_ok run]
  rfl

/-- The entry of an operation of the accumulator's ports after some of its rows, none of which raised a condition. -/
def MatOp.atRow (o : MatOp) (i : Nat) : MatOp := { o with begun := true, work := [], rowsDone := i }

/-- A state in which MZRO has zeroed its first i rows. -/
structure Zeroed (s : State) (o : MatOp) (b : Block) (blk i : Nat) (u : State) : Prop where
  op : u.mat? o.id = some (o.atRow i)
  block : u.block? blk = some { b with accRows := zeroRows b.accRows o.plainRow i o.plainVal }
  mem : u.mem = s.mem
  tasks : u.tasks = s.tasks
  waves : u.waves = s.waves

section
variable (kind : o.kind = .mzro) (going : o.code = 0) (clear : o.park = .clear) (block : o.by_.block = some blk)
include kind

theorem MatOp.atRow_rowCount (i : Nat) : (o.atRow i).rowCount = o.plainRows := by
  unfold MatOp.rowCount
  rw [show (o.atRow i).kind = .mzro from kind]
  rfl

include going clear block

/-- One row more, and what is left is done from there. -/
theorem Zeroed.row (h : Zeroed s o b blk i u) (left : i < o.plainRows) (fuel : Nat) :
    ∃ v, Zeroed s o b blk (i + 1) v ∧ u.runPort o.id (fuel + 1) = v.runPort o.id fuel := by
  have row : portRow (o.by_.self o.id) (o.atRow i) i u
      = .ok 0 (u.updBlock blk fun b => { b with accRows := b.accRows.set (o.plainRow + i) (accZero o.plainVal) }) := by
    rw [portRow, Op.get_bind]
    simp only [show (o.atRow i).kind = .mzro from kind, State.setAcc, show (o.atRow i).by_.block = some blk from block]
    rfl
  have step := State.runPort_row (o := o.atRow i) h.op going clear (by rw [MatOp.atRow_rowCount kind]; exact left) row fuel
  refine ⟨_, ⟨?_, ?_, ?_, ?_, ?_⟩, step⟩
  · have counted : MatOp.countRow 0 (o.atRow i) = o.atRow (i + 1) := by simp [MatOp.countRow, MatOp.atRow]
    rw [← counted]
    refine State.mat?_updMat (o := o.atRow i) (f := MatOp.countRow 0) ?_ fun _ => rfl
    rw [State.mat?, State.forgetHeld_mats]
    exact h.op
  · rw [State.block?, State.updMat_blocks, State.forgetHeld_blocks]
    have put := State.block?_updBlock h.block (f := fun b => { b with accRows := b.accRows.set (o.plainRow + i) (accZero o.plainVal) }) fun _ => rfl
    rwa [zeroRows_set] at put
  · rw [State.updMat_mem, State.forgetHeld_mem]
    exact h.mem
  · rw [State.updMat_tasks, State.forgetHeld_tasks]
    exact h.tasks
  · rw [State.updMat_waves, State.forgetHeld_waves]
    exact h.waves

/-- All rows. -/
theorem Zeroed.runPort (h : Zeroed s o b blk i u) (within : i ≤ o.plainRows) {fuel : Nat} (enough : o.plainRows - i ≤ fuel) :
    Zeroed s o b blk o.plainRows (u.runPort o.id fuel) := by
  induction fuel generalizing i u with
  | zero =>
    obtain rfl : i = o.plainRows := by omega
    exact h
  | succ n ih =>
    by_cases left : i < o.plainRows
    · obtain ⟨v, more, step⟩ := h.row kind going clear block left n
      rw [step]
      exact ih more left (by omega)
    · obtain rfl : i = o.plainRows := by omega
      have done := State.runPort_done (o := o.atRow o.plainRows) h.op (MatOp.atRow_rowCount kind _).le (n + 1)
      exact done.symm ▸ h

/-- MATRIX_OP_COMPLETE of MZRO on free rows zeroes them all and ends it. -/
theorem State.completeMat_mzro (found : s.mat? o.id = some o) (here : s.block? blk = some b) (fresh : o.begun = false) (start : o.rowsDone = 0)
    (free : s.rowsFree o = true) : ∃ u, Zeroed s o b blk o.plainRows u ∧ s.completeMat o.engine o.id = u.endMat (o.atRow o.plainRows) 1 := by
  have still : (o.engine != o.engine || o.park.entry.isSome) = false := by simp [clear, Park.clear]
  have good : s.kindBad o = false := by rw [State.kindBad, MatOp.needKind, kind]
  have plain : o.kind ≠ .attn := by rw [kind]; decide
  have begins : (s.beginMat o).mat? o.id = some (o.atRow 0) := by
    rw [State.beginMat_fresh fresh good, State.mat?_updMat found (f := s.begunMat) fun _ => rfl, State.begunMat_eq plain, MatOp.atRow, ← start]
  have begun := State.beginMat_fresh fresh good
  have starts : Zeroed s o b blk 0 (s.beginMat o) :=
    ⟨begins, by rw [zeroRows_zero, begun]; exact here, by rw [begun]; rfl, by rw [begun]; rfl, by rw [begun]; rfl⟩
  have zeroed := starts.runPort kind going clear block (Nat.zero_le _) (fuel := o.rowCount + 1) (by simp [MatOp.rowCount, kind])
  refine ⟨_, zeroed, ?_⟩
  have done : ∀ u : State, u.matDone (o.atRow o.plainRows) = 1 := fun u => by
    rw [State.matDone, MatOp.atRow_rowCount kind]
    simp [MatOp.atRow, going, kind]
  have acts : (o.code == 0 && (!o.kind.usesPlane || (o.kind == .attn && o.attnOver)) && s.rowsFree o) = true := by
    rw [going, kind, free]
    rfl
  unfold State.completeMat
  simp only [found]
  rw [if_neg (Bool.eq_false_iff.1 still), if_pos acts, if_neg (by simpa using plain)]
  simp only [zeroed.op, done]
  rw [if_neg (by decide), if_neg (by simpa [MatOp.atRow] using plain)]

end

end Sys2Proof.Machine
end

section
/-! The reservation tables are read by the matrix engines' own rules alone (08 R194): a walk, a home agent, a cache, a frame's move or an event
does the same whatever they hold. -/
namespace Sys2Proof.Machine
variable {s : State} {ms : List MatOp}

/-- The state with other reservation tables. -/
def State.withMats (ms : List MatOp) (s : State) : State := { s with mats := ms }

/-! ## What is read -/

section
variable (s ms)

@[simp] theorem State.withMats_mem : (s.withMats ms).mem = s.mem := rfl
@[simp] theorem State.withMats_poison : (s.withMats ms).poison = s.poison := rfl
@[simp] theorem State.withMats_latent : (s.withMats ms).latent = s.latent := rfl
@[simp] theorem State.withMats_moves : (s.withMats ms).moves = s.moves := rfl
@[simp] theorem State.withMats_dir : (s.withMats ms).dir = s.dir := rfl
@[simp] theorem State.withMats_l1 : (s.withMats ms).l1 = s.l1 := rfl
@[simp] theorem State.withMats_tasks : (s.withMats ms).tasks = s.tasks := rfl
@[simp] theorem State.withMats_faults : (s.withMats ms).faults = s.faults := rfl
@[simp] theorem State.withMats_badPages : (s.withMats ms).badPages = s.badPages := rfl

variable {a n : Nat} {q : HeldBy} {m : Move} {b : Bool} {w : Who}

@[simp] theorem State.tenant_withMats : (s.withMats ms).tenant n = s.tenant n := rfl
@[simp] theorem State.block?_withMats : (s.withMats ms).block? n = s.block? n := rfl
@[simp] theorem State.loop?_withMats : (s.withMats ms).loop? n = s.loop? n := rfl
@[simp] theorem State.move?_withMats : (s.withMats ms).move? n = s.move? n := rfl
@[simp] theorem State.clockOf_withMats : (s.withMats ms).clockOf n = s.clockOf n := rfl
@[simp] theorem State.poisoned_withMats : (s.withMats ms).poisoned a n = s.poisoned a n := rfl
@[simp] theorem State.peek_withMats : (s.withMats ms).peek a n = s.peek a n := rfl
@[simp] theorem State.peekDev_withMats : (s.withMats ms).peekDev a n = s.peekDev a n := rfl
@[simp] theorem State.frame?_withMats : (s.withMats ms).frame? n = s.frame? n := rfl
@[simp] theorem State.framePa?_withMats : (s.withMats ms).framePa? n = s.framePa? n := rfl
@[simp] theorem State.ringPa_withMats : (s.withMats ms).ringPa a n = s.ringPa a n := rfl
@[simp] theorem State.moveOf?_withMats : (s.withMats ms).moveOf? n = s.moveOf? n := rfl
@[simp] theorem State.cuff?_withMats : (s.withMats ms).cuff? n = s.cuff? n := rfl
@[simp] theorem State.route_withMats : (s.withMats ms).route n = s.route n := rfl
@[simp] theorem State.mirror?_withMats : (s.withMats ms).mirror? n = s.mirror? n := rfl
@[simp] theorem State.dirEntry?_withMats : (s.withMats ms).dirEntry? n = s.dirEntry? n := rfl
@[simp] theorem State.isLocked_withMats {c : Option Nat} : (s.withMats ms).isLocked n c a = s.isLocked n c a := rfl
@[simp] theorem State.tlbFind_withMats : (s.withMats ms).tlbFind w n = s.tlbFind w n := rfl
@[simp] theorem State.hubWho_withMats : (s.withMats ms).hubWho n = s.hubWho n := rfl
@[simp] theorem State.taskName_withMats : (s.withMats ms).taskName w = s.taskName w := rfl
@[simp] theorem State.tierPa_withMats : (s.withMats ms).tierPa n = s.tierPa n := rfl
@[simp] theorem State.opTouched_withMats : (s.withMats ms).opTouched q n b = s.opTouched q n b := rfl
@[simp] theorem homeHere_withMats : homeHere (s.withMats ms) a = homeHere s a := rfl
@[simp] theorem sharedRo_withMats : sharedRo (s.withMats ms) a = sharedRo s a := rfl
@[simp] theorem poolLost_withMats : poolLost (s.withMats ms) a = poolLost s a := rfl
@[simp] theorem handoverHold_withMats : handoverHold (s.withMats ms) a = handoverHold s a := rfl
@[simp] theorem cacheable_withMats : cacheable (s.withMats ms) n a = cacheable s n a := rfl
@[simp] theorem leafFault_withMats {c : Access} : leafFault (s.withMats ms) c n a = leafFault s c n a := rfl
@[simp] theorem walkRoot_withMats : walkRoot (s.withMats ms) n a = walkRoot s n a := rfl
@[simp] theorem lookLeaf_withMats {c : Access} : lookLeaf (s.withMats ms) n c a = lookLeaf s n c a := rfl
@[simp] theorem State.lastBehind_withMats : (s.withMats ms).lastBehind m n = s.lastBehind m n := by
  induction n generalizing m with
  | zero => rfl
  | succ n ih =>
    unfold State.lastBehind
    simp only [ih]
    rfl
end

/-! ## Steps that only write -/

@[simp] theorem State.setPoison_withMats (line : Nat) (bad : Bool) :
    (s.withMats ms).setPoison line bad = (s.setPoison line bad).withMats ms := rfl
@[simp] theorem State.poke_withMats (pa : Nat) (bs : List Byte) : (s.withMats ms).poke pa bs = (s.poke pa bs).withMats ms := rfl
@[simp] theorem State.updTenant_withMats (n : Nat) (f : Tenant → Tenant) : (s.withMats ms).updTenant n f = (s.updTenant n f).withMats ms := rfl
@[simp] theorem State.updMove_withMats (n : Nat) (f : Move → Move) : (s.withMats ms).updMove n f = (s.updMove n f).withMats ms := rfl
@[simp] theorem State.perfCoreEvent_withMats (tenant ev n : Nat) :
    (s.withMats ms).perfCoreEvent tenant ev n = (s.perfCoreEvent tenant ev n).withMats ms := rfl
@[simp] theorem State.perfHubEvent_withMats (tenant hub ev n : Nat) :
    (s.withMats ms).perfHubEvent tenant hub ev n = (s.perfHubEvent tenant hub ev n).withMats ms := rfl
@[simp] theorem State.lostError_withMats (pa : Nat) : (s.withMats ms).lostError pa = (s.lostError pa).withMats ms := rfl
@[simp] theorem State.setFrame_withMats (f : FrameState) : (s.withMats ms).setFrame f = (s.setFrame f).withMats ms := rfl
@[simp] theorem State.recall_withMats (line : Nat) : (s.withMats ms).recall line = (s.recall line).withMats ms := rfl
@[simp] theorem State.victim_withMats (l : List Nat) : (s.withMats ms).victim l = ((s.victim l).1, (s.victim l).2.withMats ms) := rfl
@[simp] theorem State.shootPage_withMats (asid va : Nat) : (s.withMats ms).shootPage asid va = (s.shootPage asid va).withMats ms := rfl
@[simp] theorem State.badFrame_withMats (hub : Nat) : (s.withMats ms).badFrame hub = (s.badFrame hub).withMats ms := rfl

/-! ## Choices and repetitions -/

@[simp] theorem State.ite_withMats {c : Prop} [Decidable c] {u v : State} :
    (if c then u else v).withMats ms = if c then u.withMats ms else v.withMats ms := apply_ite ..

theorem State.ite_map_withMats {c : Prop} [Decidable c] {u v : Option State} :
    (if c then u else v).map (State.withMats ms) = if c then u.map (State.withMats ms) else v.map (State.withMats ms) := apply_ite ..

/-- Two choices on one condition, branch by branch. -/
theorem State.ite_eq_withMats {c : Prop} [Decidable c] {u v u' v' : State} (yes : u' = u.withMats ms) (no : v' = v.withMats ms) :
    (if c then u' else v') = (if c then u else v).withMats ms := by rw [yes, no, State.ite_withMats]

theorem State.forEach_withMats {α : Type} {l : List α} {f : α → State → State} (hf : ∀ a s, f a (s.withMats ms) = (f a s).withMats ms) :
    (s.withMats ms).forEach l f = (s.forEach l f).withMats ms := by
  induction l generalizing s with
  | nil => rfl
  | cons a l ih => rw [State.forEach_cons, State.forEach_cons, hf, ih]

/-! ## Errors, frames and counts -/

@[simp] theorem State.countError_withMats (p : ErrPlace) : (s.withMats ms).countError p = (s.countError p).withMats ms := by
  cases p with
  | scratch b g =>
    simp only [State.countError, State.block?_withMats]
    cases s.block? b <;> rfl
  | _ => rfl

@[simp] theorem State.findErrors_withMats (p : ErrPlace → Bool) : (s.withMats ms).findErrors p = (s.findErrors p).withMats ms :=
  State.ite_eq_withMats rfl (State.forEach_withMats (s := { s with latent := _ }) fun x _ => State.countError_withMats x)

@[simp] theorem State.updFrame_withMats (ppn : Nat) (g : FrameState → FrameState) :
    (s.withMats ms).updFrame ppn g = (s.updFrame ppn g).withMats ms := by
  simp only [State.updFrame, State.frame?_withMats]
  cases s.frame? ppn <;> rfl

@[simp] theorem State.joinCuff_withMats (m : Move) (r : HeldBy) (line : Nat) (write : Bool) :
    (s.withMats ms).joinCuff m r line write = (s.joinCuff m r line write).withMats ms := State.ite_eq_withMats rfl rfl

@[simp] theorem trigger_withMats (f : FrameState) (die : Option Nat) : trigger (s.withMats ms) f die = (trigger s f die).withMats ms := by
  simp only [trigger, State.setFrame_withMats, State.lastBehind_withMats, State.ite_withMats]
  rfl

@[simp] theorem countAt_withMats (die : Option Nat) (pa : Nat) : countAt die pa (s.withMats ms) = (countAt die pa s).withMats ms := by
  unfold countAt
  refine State.ite_eq_withMats rfl ?_
  simp only [State.moveOf?_withMats]
  cases s.moveOf? (pa / 4096) with
  | some m =>
    dsimp only
    cases m.dest <;> simp
  | none =>
    simp only [State.frame?_withMats]
    cases s.frame? (pa / 4096) with
    | none => rfl
    | some f =>
      refine State.ite_eq_withMats ?_ (State.ite_eq_withMats (trigger_withMats (s := s.setFrame _) _ _) rfl)
      simp only [State.withMats_moves]
      cases s.moves.find? _ <;> rfl

/-! ## Home agents and caches -/

@[simp] theorem State.dropHolder_withMats (x : Holder) (line : Nat) : (s.withMats ms).dropHolder x line = (s.dropHolder x line).withMats ms := by
  unfold State.dropHolder
  generalize holderDie x = die
  have drops (u : State) : (match (u.withMats ms).dirEntry? line with | some e => (u.withMats ms).setDir line (dirDrop x e) | none => u.withMats ms)
      = (match u.dirEntry? line with | some e => u.setDir line (dirDrop x e) | none => u).withMats ms := by
    rw [State.dirEntry?_withMats]
    cases u.dirEntry? line <;> rfl
  cases die with
  | none => exact drops s
  | some d => exact drops (s.dropL1 d line none)

@[simp] theorem State.dirRoom_withMats (line : Nat) : (s.withMats ms).dirRoom line = (s.dirRoom line).withMats ms := by
  simp only [State.dirRoom, State.withMats_dir, State.dirEntry?_withMats, State.victim_withMats, State.ite_withMats]
  rcases s.victim _ with ⟨_ | v, u⟩ <;> rfl

@[simp] theorem State.l2Room_withMats (die line : Nat) : (s.withMats ms).l2Room die line = (s.l2Room die line).map (State.withMats ms) := by
  simp only [State.l2Room, State.withMats_dir, State.isLocked_withMats, State.victim_withMats, State.ite_map_withMats, Option.map_some]
  rcases s.victim _ with ⟨_ | v, u⟩
  · rfl
  · simp only [Option.map_some, State.dropHolder_withMats]

@[simp] theorem State.room_withMats (x : Holder) (line : Nat) : (s.withMats ms).room x line = (s.room x line).map (State.withMats ms) := by
  simp only [State.room, State.dirEntry?_withMats, State.ite_map_withMats, Option.map_some, State.l2Room_withMats]
  cases holderDie x <;> simp [Function.comp_def]

@[simp] theorem State.fillL1_withMats (core line : Nat) : (s.withMats ms).fillL1 core line = (s.fillL1 core line).withMats ms := by
  simp only [State.fillL1, State.withMats_l1, State.isLocked_withMats, State.victim_withMats, State.ite_withMats]
  rcases s.victim _ with ⟨_ | v, u⟩ <;> rfl

@[simp] theorem State.lockLine_withMats (die : Nat) (core : Option Nat) (leaf asid line : Nat) :
    (s.withMats ms).lockLine die core leaf asid line = (s.lockLine die core leaf asid line).withMats ms := by
  unfold State.lockLine
  extract_lets place
  clear_value place
  cases place with
  | none => rfl
  | some at_ => exact State.ite_eq_withMats rfl rfl

@[simp] theorem State.homeRead_withMats (x : Holder) (line : Nat) : (s.withMats ms).homeRead x line = (s.homeRead x line).withMats ms := by
  simp only [State.homeRead, State.room_withMats]
  cases s.room x line <;> rfl

@[simp] theorem State.homeOwn_withMats (x : Holder) (line : Nat) : (s.withMats ms).homeOwn x line = (s.homeOwn x line).withMats ms := by
  simp only [State.homeOwn, State.room_withMats]
  cases s.room x line <;> rfl

/-! ## Bytes put at home -/

@[simp] theorem State.markDirty_withMats (tenant pa : Nat) : (s.withMats ms).markDirty tenant pa = (s.markDirty tenant pa).withMats ms :=
  State.ite_eq_withMats rfl rfl

@[simp] theorem State.markDirtyAll_withMats (pa : Nat) : (s.withMats ms).markDirtyAll pa = (s.markDirtyAll pa).withMats ms :=
  State.forEach_withMats fun tenant _ => State.markDirty_withMats tenant pa

@[simp] theorem State.loseResv_withMats (line : Nat) : (s.withMats ms).loseResv line = (s.loseResv line).withMats ms :=
  State.ite_eq_withMats rfl rfl

@[simp] theorem State.put_withMats (tenant pa : Nat) (bs : List Byte) : (s.withMats ms).put tenant pa bs = (s.put tenant pa bs).withMats ms := by
  simp only [State.put, poolLost_withMats, State.lostError_withMats, State.poke_withMats, State.loseResv_withMats,
    State.markDirty_withMats, State.mirror?_withMats, State.ite_withMats]
  cases State.mirror? _ _ <;> simp

@[simp] theorem State.setBad_withMats (pa : Nat) (bad : Bool) : (s.withMats ms).setBad pa bad = (s.setBad pa bad).withMats ms := by
  unfold State.setBad
  cases mirror : s.mirror? pa with
  | none =>
    simp only [State.mirror?_withMats, mirror]
    exact State.ite_eq_withMats rfl rfl
  | some d =>
    simp only [State.mirror?_withMats, mirror, poolLost_withMats]
    by_cases lost : poolLost s d = true <;> simp [lost]

@[simp] theorem State.putLine_withMats (tenant pa : Nat) (bs : List Byte) :
    (s.withMats ms).putLine tenant pa bs = (s.putLine tenant pa bs).withMats ms := by
  simp [State.putLine]

@[simp] theorem State.noteRead_withMats (pa n : Nat) : (s.withMats ms).noteRead pa n = (s.noteRead pa n).withMats ms := by
  refine State.ite_eq_withMats rfl ?_
  dsimp only
  rw [State.withMats_latent, State.forEach_withMats, State.findErrors_withMats]
  intro x u
  cases x.line? <;> simp

@[simp] theorem State.copyLine_withMats (src dst : Nat) : (s.withMats ms).copyLine src dst = (s.copyLine src dst).withMats ms := by
  simp [State.copyLine]

@[simp] theorem State.putPte_withMats (tenant pa pte : Nat) : (s.withMats ms).putPte tenant pa pte = (s.putPte tenant pa pte).withMats ms := by
  simp [State.putPte]

@[simp] theorem State.putNow_withMats (tenant pa : Nat) (count : Bool) (bs : List Byte) :
    (s.withMats ms).putNow tenant pa count bs = (s.putNow tenant pa count bs).withMats ms := by
  simp only [State.putNow, State.route_withMats, poolLost_withMats, countAt_withMats, ← State.ite_withMats, State.recall_withMats,
    State.putLine_withMats, State.put_withMats]

@[simp] theorem State.serveHolder_withMats (x : Holder) (kind line : Nat) :
    (s.withMats ms).serveHolder x kind line = (s.serveHolder x kind line).withMats ms := by
  simp only [State.serveHolder, State.route_withMats, poolLost_withMats, homeHere_withMats, sharedRo_withMats, countAt_withMats]
  refine State.ite_eq_withMats rfl ?_
  match kind with
  | 0 => exact State.homeRead_withMats ..
  | 1 => exact State.homeOwn_withMats ..
  | _ + 2 => rfl

@[simp] theorem State.drainCuff_withMats (id fuel : Nat) : (s.withMats ms).drainCuff id fuel = (s.drainCuff id fuel).withMats ms := by
  induction fuel generalizing s with
  | zero => rfl
  | succ fuel ih =>
    simp only [State.drainCuff, State.move?_withMats]
    cases s.move? id with
    | none => rfl
    | some m =>
      refine State.ite_eq_withMats rfl ?_
      rcases m.held with _ | ⟨⟨_ | _ | _, line, write, at_⟩, rest⟩ <;> simp [ih]

@[simp] theorem State.drainCuffs_withMats : (s.withMats ms).drainCuffs = s.drainCuffs.withMats ms :=
  State.ite_eq_withMats rfl (State.forEach_withMats fun m _ => State.drainCuff_withMats m.id m.held.length)

@[simp] theorem State.leaveCuffs_withMats (r : HeldBy) (pa : Nat) (write : Bool) :
    (s.withMats ms).leaveCuffs r pa write = (s.leaveCuffs r pa write).withMats ms :=
  State.ite_eq_withMats rfl (State.drainCuffs_withMats (s := { s with moves := _ }))

@[simp] theorem State.putHome_withMats (tenant pa : Nat) (count : Bool) (bs : List Byte) :
    (s.withMats ms).putHome tenant pa count bs = (s.putHome tenant pa count bs).withMats ms := by
  simp only [State.putHome, State.cuff?_withMats]
  cases s.cuff? pa with
  | none => exact State.putNow_withMats ..
  | some m => exact State.ite_eq_withMats rfl (State.putNow_withMats ..)

/-! ## Walks, faults and frames -/

@[simp] theorem State.noteWalk_withMats (root va : Nat) : (s.withMats ms).noteWalk root va = (s.noteWalk root va).withMats ms := by
  simp only [State.noteWalk, walkRoot_withMats]
  cases walkRoot s root va <;> simp

@[simp] theorem State.touchLeaf_withMats (tenant : Nat) (a : Access) (l : Leaf) :
    (s.withMats ms).touchLeaf tenant a l = ((s.touchLeaf tenant a l).1, (s.touchLeaf tenant a l).2.withMats ms) := by
  unfold State.touchLeaf
  extract_lets used written
  by_cases same : (written == l.pte) = true <;> simp [same]

@[simp] theorem State.recordFault_withMats (hub tenant asid : Nat) (f : FInfo) (engine : Bool) :
    (s.withMats ms).recordFault hub tenant asid f engine
      = ((s.recordFault hub tenant asid f engine).1, (s.recordFault hub tenant asid f engine).2.withMats ms) := by
  simp only [State.recordFault, State.withMats_faults]
  cases s.faults.find? _ <;> rfl

@[simp] theorem State.devLookAt_withMats (root tenant hub : Nat) (a : Access) (va : Nat) :
    (s.withMats ms).devLookAt root tenant hub a va
      = ((s.devLookAt root tenant hub a va).1, (s.devLookAt root tenant hub a va).2.withMats ms) := by
  unfold State.devLookAt
  rw [lookLeaf_withMats]
  cases lookLeaf s root a va with
  | ok l => simp only [State.touchLeaf_withMats]
  | error f =>
    cases replay : f.replay
    · simp [replay]
    · by_cases bad : (tenant, alignDown va 4096) ∈ s.badPages
      · simp [replay, bad]
        rfl
      · simp [replay, bad]

@[simp] theorem State.devLook_withMats (tenant hub : Nat) (a : Access) (va : Nat) : (s.withMats ms).devLook tenant hub a va
      = ((s.devLook tenant hub a va).1, (s.devLook tenant hub a va).2.withMats ms) := State.devLookAt_withMats ..

@[simp] theorem State.takeRing_withMats (hub place size dpa fuel : Nat) : (s.withMats ms).takeRing hub place size dpa fuel
      = ((s.takeRing hub place size dpa fuel).1, (s.takeRing hub place size dpa fuel).2.withMats ms) := by
  induction fuel generalizing s with
  | zero => rfl
  | succ fuel ih =>
    simp only [State.takeRing, State.peek_withMats, State.poke_withMats, State.badFrame_withMats, ih]
    split
    · rfl
    · split <;> rfl

@[simp] theorem State.takeFrame_withMats (hub place size : Nat) :
    (s.withMats ms).takeFrame hub place size = ((s.takeFrame hub place size).1, (s.takeFrame hub place size).2.withMats ms) := by
  simp only [State.takeFrame, State.ringPa_withMats]
  cases s.ringPa hub (4 * place + size) <;> simp

@[simp] theorem State.initFrame_withMats (f : FrameState) : (s.withMats ms).initFrame f = (s.initFrame f).withMats ms := by
  simp only [State.initFrame, State.framePa?_withMats]
  cases s.framePa? f.ppn <;> rfl

@[simp] theorem State.countReq_withMats (w : Who) (pa : Nat) : (s.withMats ms).countReq w pa = (s.countReq w pa).withMats ms := by
  simp [State.countReq]

@[simp] theorem State.countLines_withMats (w : Who) (pa n : Nat) : (s.withMats ms).countLines w pa n = (s.countLines w pa n).withMats ms :=
  State.forEach_withMats fun l _ => State.countReq_withMats w (64 * l)

@[simp] theorem State.putDdwEntry_withMats (w : Who) (pa i entry : Nat) :
    (s.withMats ms).putDdwEntry w pa i entry = (s.putDdwEntry w pa i entry).withMats ms := by
  simp [State.putDdwEntry]

@[simp] theorem State.readBucket_withMats (w : Who) (pa : Nat) :
    (s.withMats ms).readBucket w pa = ((s.readBucket w pa).1, (s.readBucket w pa).2.withMats ms) := by
  simp only [State.readBucket, State.route_withMats, poolLost_withMats, State.lostError_withMats, State.countLines_withMats,
    State.noteRead_withMats, State.poisoned_withMats, State.peekDev_withMats]
  split <;> rfl

@[simp] theorem State.copyFrame_withMats (src dst : Nat) : (s.withMats ms).copyFrame src dst = (s.copyFrame src dst).withMats ms :=
  State.forEach_withMats fun _ _ => State.copyLine_withMats ..

@[simp] theorem State.cowDone_withMats (w : Who) (l : Leaf) (ppn : Nat) : (s.withMats ms).cowDone w l ppn = (s.cowDone w l ppn).withMats ms := by
  simp [State.cowDone]

@[simp] theorem State.cowLarge_withMats (w : Who) (l : Leaf) : (s.withMats ms).cowLarge w l = (s.cowLarge w l).withMats ms := by
  unfold State.cowLarge
  dsimp only
  rw [State.forEach_withMats fun i u => ?_, State.shootPage_withMats]
  rw [State.peek_withMats, State.putPte_withMats]

/-! ## Events, translations kept, and lines read -/

@[simp] theorem State.fireEvent_withMats (tenant code : Nat) : (s.withMats ms).fireEvent tenant code = (s.fireEvent tenant code).withMats ms := by
  simp only [State.fireEvent, State.withMats_tasks]
  cases s.tasks.find? _ <;> rfl

@[simp] theorem State.tlbFill_withMats (t : TlbEntry) : (s.withMats ms).tlbFill t = (s.tlbFill t).withMats ms := State.ite_eq_withMats rfl rfl

@[simp] theorem State.tlbFillAll_withMats (w : Who) (page size leaf : Nat) :
    (s.withMats ms).tlbFillAll w page size leaf = (s.tlbFillAll w page size leaf).withMats ms :=
  State.forEach_withMats fun _ _ => State.tlbFill_withMats _

@[simp] theorem State.touchLine_withMats (r : HeldBy) (va : Nat) (write bad : Bool) :
    (s.withMats ms).touchLine r va write bad = (s.touchLine r va write bad).withMats ms := by
  cases r with
  | op id => exact State.ite_eq_withMats rfl rfl
  | _ => rfl

@[simp] theorem State.readRequest_withMats (w : Who) (leaf pa : Nat) :
    (s.withMats ms).readRequest w leaf pa = (s.readRequest w leaf pa).withMats ms := by
  unfold State.readRequest
  simp only [homeHere_withMats, cacheable_withMats, State.countReq_withMats, State.recall_withMats, State.withMats_l1, State.dirEntry?_withMats,
    State.homeRead_withMats, State.lockLine_withMats, ← State.ite_withMats, State.fillL1_withMats, State.perfCoreEvent_withMats]
  cases w.core <;> simp

@[simp] theorem State.noteScratch_withMats (blk o n : Nat) : (s.withMats ms).noteScratch blk o n = (s.noteScratch blk o n).withMats ms :=
  State.findErrors_withMats _

@[simp] theorem State.strandRead_withMats (l k va pa n : Nat) :
    (s.withMats ms).strandRead l k va pa n = ((s.strandRead l k va pa n).1, (s.strandRead l k va pa n).2.withMats ms) := by
  unfold State.strandRead
  rw [State.loop?_withMats]
  cases s.loop? l <;> rfl

end Sys2Proof.Machine
end

section
/-! Operations that do not look at the reservation tables, and among them the row that a pass reads (08 R208). -/
namespace Sys2Proof.Machine
variable {s : State} {ms : List MatOp} {α β : Type}

/-- An outcome with other reservation tables in its state. -/
def State.outcomeWithMats (ms : List MatOp) : EStateM.Result Stop State α → EStateM.Result Stop State α
  | .ok a s => .ok a (s.withMats ms)
  | .error e s => .error e (s.withMats ms)

/-- From s with other reservation tables y ends as x does from s, the tables apart. -/
def State.Follows (ms : List MatOp) (s : State) (x y : Op α) : Prop := y (s.withMats ms) = State.outcomeWithMats ms (x s)

/-- The operation neither reads nor writes the reservation tables. -/
def Op.Blind (x : Op α) : Prop := ∀ ms s, State.Follows ms s x x

/-! ## Rules -/

namespace State.Follows

theorem pure {a : α} : Follows ms s (pure a) (pure a) := rfl

theorem throw {e : Stop} : Follows ms s (throw e : Op α) (throw e) := rfl

/-- What stands after a stop is never reached. -/
theorem stop {e : Stop} {f g : α → Op β} : Follows ms s (MonadExcept.throw e >>= f) (MonadExcept.throw e >>= g) := rfl

theorem set {u v : State} (eq : v = u.withMats ms) : Follows ms s (set u : Op Unit) (set v) := by
  subst eq
  rfl

theorem modify {f : State → State} (hf : f (s.withMats ms) = (f s).withMats ms) : Follows ms s (modify f : Op Unit) (modify f) :=
  congrArg (EStateM.Result.ok ()) hf

theorem get {x y : State → Op α} (h : Follows ms s (x s) (y (s.withMats ms))) : Follows ms s (get >>= x) (get >>= y) := h

theorem bind {x y : Op α} {f g : α → Op β} (h : Follows ms s x y) (then_ : ∀ a u, Follows ms u (f a) (g a)) :
    Follows ms s (x >>= f) (y >>= g) := by
  change EStateM.bind y g _ = outcomeWithMats ms (EStateM.bind x f s)
  unfold EStateM.bind
  rw [show y (s.withMats ms) = _ from h]
  cases x s with
  | ok a u => exact then_ a u
  | error e u => rfl

theorem ite {c : Prop} [Decidable c] {x y x' y' : Op α} (yes : Follows ms s x x') (no : Follows ms s y y') :
    Follows ms s (if c then x else y) (if c then x' else y') := by
  split
  · exact yes
  · exact no

theorem attempt {x y : Op α} (h : Follows ms s x y) : y.attempt (s.withMats ms) = ((x.attempt s).1, (x.attempt s).2.withMats ms) := by
  unfold Op.attempt
  rw [h]
  cases x s <;> rfl

end State.Follows

theorem Op.Blind.bind {x : Op α} {f : α → Op β} (hx : x.Blind) (hf : ∀ a, (f a).Blind) : (x >>= f).Blind :=
  fun ms s => (hx ms s).bind fun a u => hf a ms u

theorem Op.blind_pure {a : α} : (pure a : Op α).Blind := fun _ _ => .pure

theorem Op.blind_foldlM {f : β → α → Op β} (hf : ∀ b a, (f b a).Blind) (l : List α) (b : β) : (l.foldlM f b).Blind := by
  induction l generalizing b with
  | nil => exact Op.blind_pure
  | cons a l ih =>
    rw [List.foldlM_cons]
    exact (hf b a).bind ih

/-! ## Copy on write, and the tables of devices -/

theorem cowCopy_blind (w : Who) (l : Leaf) : (cowCopy w l).Blind := fun ms s => by
  refine .get ?_
  dsimp only
  rw [State.takeFrame_withMats]
  rcases State.takeFrame s _ _ _ with ⟨_ | n, u⟩
  · exact .bind (.set rfl) fun _ _ => .throw
  · refine .set ?_
    simp only [State.copyFrame_withMats, State.frame?_withMats]
    cases State.frame? _ _ <;> simp

theorem cowResolve_blind (w : Who) (l : Leaf) : (cowResolve w l).Blind := fun ms s => by
  refine .get ?_
  simp only [State.noteRead_withMats, State.tenant_withMats, State.withMats_mem, State.devLook_withMats, poolLost_withMats]
  generalize fld l.pte 55 12 * 4096 = pa
  refine .ite .pure (.ite (.set (by simp)) (.ite (.set (by simp)) (.ite (.set (by simp)) ?_)))
  rcases State.devLook _ _ _ _ _ with ⟨bl | f | id, u⟩
  · dsimp only
    rw [State.readBucket_withMats]
    rcases State.readBucket _ _ _ with ⟨_ | bucket, v⟩
    · exact .bind (.set rfl) fun _ _ => cowCopy_blind w l _ _
    · dsimp only
      cases List.find? _ (List.range 8) with
      | none => exact .set (by simp)
      | some i =>
        exact .ite (.bind (.set rfl) fun _ _ => .bind (cowCopy_blind w l _ _) fun _ _ => .modify (by simp)) (.set (by simp))
  · exact .bind (.set rfl) fun _ _ => cowCopy_blind w l _ _
  · exact .bind (.set rfl) fun _ _ => .throw

@[simp] theorem State.devStore_withMats (tenant va : Nat) (bs : List Byte) :
    (s.withMats ms).devStore tenant va bs = ((s.devStore tenant va bs).1, (s.devStore tenant va bs).2.withMats ms) := by
  unfold State.devStore
  simp only [State.hubWho_withMats, lookLeaf_withMats]
  cases lookLeaf s _ _ va with
  | error f => simp
  | ok l =>
    have cow : (if bit l.pte 2 then pure () else cowResolve (s.hubWho tenant) l : Op Unit).Blind := fun ms s =>
      .ite .pure (cowResolve_blind _ _ ms s)
    dsimp only
    rw [(cow ms s).attempt]
    rcases Op.attempt _ s with ⟨e | _, u⟩
    · rfl
    · simp only [lookLeaf_withMats]
      cases lookLeaf u _ _ va with
      | error f => rfl
      | ok l =>
        simp only [State.touchLeaf_withMats, State.route_withMats, poolLost_withMats, State.lostError_withMats, State.putHome_withMats]
        split <;> rfl

@[simp] theorem State.devWrite_withMats (tenant va : Nat) (bs : List Byte) :
    (s.withMats ms).devWrite tenant va bs = ((s.devWrite tenant va bs).1, (s.devWrite tenant va bs).2.withMats ms) := by
  simp only [State.devWrite, State.devStore_withMats]

@[simp] theorem State.devRead_withMats (tenant va n : Nat) :
    (s.withMats ms).devRead tenant va n = ((s.devRead tenant va n).1, (s.devRead tenant va n).2.withMats ms) := by
  simp only [State.devRead, State.tenant_withMats, lookLeaf_withMats]
  cases lookLeaf s _ _ va with
  | error f => simp
  | ok l =>
    simp only [State.touchLeaf_withMats, State.route_withMats, poolLost_withMats, State.lostError_withMats, State.noteRead_withMats,
      State.poisoned_withMats, State.peekDev_withMats]
    split <;> rfl

@[simp] theorem State.tryEvent_withMats (tenant kind addr graph num code : Nat) : (s.withMats ms).tryEvent tenant kind addr graph num code
      = ((s.tryEvent tenant kind addr graph num code).1, (s.tryEvent tenant kind addr graph num code).2.withMats ms) := by
  unfold State.tryEvent
  simp only [State.tenant_withMats, State.updTenant_withMats, State.clockOf_withMats, State.devWrite_withMats]
  split
  · rfl
  · generalize s.updTenant tenant _ = u, natBytes 32 _ = bs
    generalize (bit (s.tenant tenant).evq.toNat 0 && _) = room
    cases room
    · simp
    · rcases u.devWrite tenant _ bs with ⟨_ | _, v⟩ <;> simp

@[simp] theorem State.tierMiss_withMats (w : Who) (a : Access) (pte va : Nat) :
    (s.withMats ms).tierMiss w a pte va = (s.tierMiss w a pte va).withMats ms := by
  simp [State.tierMiss]

@[simp] theorem State.touchSlots_withMats (strand : Option (Nat × Nat)) :
    (s.withMats ms).touchSlots strand = (s.touchSlots strand).withMats ms := by
  simp only [State.touchSlots, State.loop?_withMats]
  cases strand.bind fun p => s.loop? p.1 with
  | none => rfl
  | some lp =>
    refine State.forEach_withMats fun i u => ?_
    rw [State.devRead_withMats]
    rcases State.devRead u _ _ _ with ⟨_ | record, v⟩ <;> simp

/-! ## Translations and reads -/

theorem walkFill_blind (w : Who) (a : Access) (va : Nat) (fresh : Bool) : (walkFill w a va fresh).Blind := fun ms s => by
  refine .get ?_
  rw [lookLeaf_withMats]
  cases lookLeaf s w.root a va with
  | error f => exact .bind (.set (by simp)) fun _ _ => .throw
  | ok l =>
    dsimp only
    rw [State.touchLeaf_withMats]
    generalize s.touchLeaf w.tenant a l = touched
    exact .bind (.set (by simp)) fun _ _ => .pure

theorem translate_blind (w : Who) (a : Access) (va : Nat) : (translate w a va).Blind := fun ms s => by
  refine .get ?_
  simp only [State.tlbFind_withMats, leafFault_withMats]
  refine .ite .stop (.ite .stop (.ite .stop ?_))
  cases s.tlbFind w va with
  | none => exact walkFill_blind w a va true ms s
  | some t => exact .ite (.ite (.bind (.set (by simp)) fun _ _ => .pure) .pure) (walkFill_blind w a va false ms s)

theorem cuffCheck_blind (r : HeldBy) (pa : Nat) (write : Bool) : (cuffCheck r pa write).Blind := fun ms s => by
  refine .get ?_
  rw [State.cuff?_withMats]
  cases s.cuff? pa with
  | none => exact .pure
  | some m => exact .ite (.bind (.set (by simp)) fun _ _ => .throw) .pure

theorem readPa_blind (w : Who) (r : HeldBy) (a : Access) (leaf pa va n : Nat) : (readPa w r a leaf pa va n).Blind := fun ms s => by
  refine .bind (cuffCheck_blind r pa false ms s) fun _ u => .bind (.modify (by simp)) fun _ u => .get ?_
  simp only [State.route_withMats, poolLost_withMats, handoverHold_withMats, State.readRequest_withMats, State.noteRead_withMats,
    State.poisoned_withMats, State.peek_withMats]
  exact .ite (.bind (.set (by simp)) fun _ _ => .stop) (.ite .stop (.bind (.set rfl) fun _ _ => .ite .stop .pure))

/-! ## What an engine reads -/

theorem slotWait_blind (c : Self) (va : Nat) : (slotWait c va).Blind := fun _ _ =>
  .bind (.modify (by simp)) fun _ _ => .get (.ite .throw .pure)

theorem engFetch_blind (c : Self) (va n : Nat) : (engFetch c va n).Blind := fun ms s => by
  refine .bind (translate_blind _ _ _ ms s) fun (pa, leaf) u => .get (.get ?_)
  simp only [State.opTouched_withMats, (readPa_blind _ _ _ _ _ _ _ ms u).attempt]
  refine .bind (.set rfl) fun _ v => ?_
  split
  · exact .pure
  · exact .ite .pure .throw
  · exact .throw

theorem engRead_blind (c : Self) (va n : Nat) : (engRead c va n).Blind := fun ms s => by
  refine .bind (slotWait_blind _ _ ms s) fun _ u => .bind (engFetch_blind c va n ms u) fun fetched u => ?_
  rcases fetched with _ | ⟨x, pa⟩
  · exact .bind (.modify (by simp)) fun _ _ => .pure
  · refine .bind (.modify (by simp)) fun _ u => ?_
    cases c.strand with
    | none => exact .pure
    | some p =>
      refine .get ?_
      simp only [State.strandRead_withMats, State.route_withMats]
      exact .bind (.set rfl) fun _ _ => .pure

theorem engSpan_blind (c : Self) (fuel va n : Nat) : (engSpan c fuel va n).Blind := by
  induction fuel generalizing va n with
  | zero => exact Op.blind_pure
  | succ fuel ih => exact fun ms s => .ite .pure (.bind (engRead_blind _ _ _ ms s) fun _ u => .bind (ih _ _ ms u) fun _ _ => .pure)

theorem boxElems_blind (c : Self) (g : BoxGeom) (r o n : Nat) : (boxElems c g r o n).Blind :=
  .bind (engSpan_blind c _ _ _) fun _ => Op.blind_pure

theorem boxScale_blind (c : Self) (g : BoxGeom) (r j : Nat) : (boxScale c g r j).Blind := fun ms s =>
  .ite .pure (.bind (engSpan_blind _ _ _ _ ms s) fun _ _ => .pure)

theorem readRow_blind (c : Self) (f : ArrFmt) (g : BoxGeom) (r : Nat) : (readRow c f g r).Blind :=
  .bind (boxElems_blind c g r _ _) fun _ ms s => .ite .pure
    (.bind (Op.blind_foldlM (fun _ _ => .bind (boxScale_blind c g r _) fun _ => Op.blind_pure) _ _ ms s) fun _ _ => .pure)

theorem engScratchRead_blind (c : Self) (a n : Nat) : (engScratchRead c a n).Blind := fun ms s => by
  refine .get ?_
  rw [show (s.withMats ms).block? = s.block? from rfl]
  cases c.block.bind s.block? with
  | none => exact .throw
  | some b => exact .ite (.bind (.modify (by simp)) fun _ _ => .throw) .pure

/-- The row of A that a pass reads. -/
theorem passRow_blind (c : Self) (o : MatOp) (f : ArrFmt) (i : Nat) : (passRow c o f i).Blind := fun ms s =>
  .ite (.bind (readRow_blind _ _ _ _ ms s) fun _ _ => .ite .throw .pure) (.bind (engScratchRead_blind _ _ _ ms s) fun _ _ => .pure)

end Sys2Proof.Machine
end

section
/-! ARRAY_RUN_GRANT (08 R201, R208): a pass of one row streams, whatever else the reservation tables hold. -/
namespace Sys2Proof.Machine
variable {s t u : State} {o : MatOp} {b : Block} {e blk : Nat} {ms : List MatOp}

/-- An entry that has streamed one row more, with the conditions of the array and of the accumulator. -/
def MatOp.countPassRow (array sum : Flags) (o : MatOp) : MatOp := { o with rowsDone := o.rowsDone + 1, flags := o.flags ||| array ||| sum }

/-- What a row of a pass leaves once the array has given its values. -/
def State.rowStreamed (s : State) (o : MatOp) (i : Nat) (array : Flags) (acc : AccRow × Flags) : State :=
  ((s.setAcc o i acc.1).updMat o.id (MatOp.countPassRow array acc.2)).perfCoreEvent o.by_.tenant 6 1

section
variable {p : PlaneId} {r : Nat} {fa fb : ArrFmt} {pl : Plane} {row : List BandBlock}
  (found : s.mat? o.id = some o) (pass : o.kind.isPass = true) (going : o.code = 0) (clear : o.park = .clear)
  (plane : o.plane? = some (p, r, fb)) (active : (s.engine e).active = some pl)
include found pass going clear plane active

/-- A step of a pass in a run is a row of it. -/
theorem State.runStep_pass : s.runStep e o.id = s.streamRow e o pl fb := by
  have plain : (o.kind == .attn) = false := by
    cases kind : o.kind <;> simp_all [MatKind.isPass]
  unfold State.runStep
  simp [found, active, going, clear, Park.clear, plane, plain]

theorem State.runStep_done (done : o.rowCount ≤ o.rowsDone) : s.runStep e o.id = (.done, s) := by
  rw [State.runStep_pass found pass going clear plane active, State.streamRow, if_pos done]

theorem State.runStep_row (left : o.rowsDone < o.rowCount) (format : o.fmtA = some fa)
    (run : passRow (o.by_.self o.id) o fa o.rowsDone s = .ok row t) (same : t.engines = s.engines) (blocks : t.blocks = s.blocks)
    (sound : (arrRow fa fb o.tauA (recTau (snapRec o.snapB)) (s.engine e).corrupt row pl.pairs).parity = none) :
    let out := arrRow fa fb o.tauA (recTau (snapRec o.snapB)) (s.engine e).corrupt row pl.pairs
    let i := pbAcc0 o.pb + o.rowsDone
    s.runStep e o.id = (.more, (t.forgetHeld (.op o.id)).rowStreamed o i out.flags
      ((s.accRow o i).accumulate (fb.cls == .int8) (pbAccum o.pb) out.vals)) := by
  intro out i
  have engine : (t.forgetHeld (.op o.id)).engine e = s.engine e := by rw [State.engine, State.forgetHeld_engines, same]; rfl
  have acc : (t.forgetHeld (.op o.id)).accRow o i = s.accRow o i := by
    unfold State.accRow State.block?
    rw [State.forgetHeld_blocks, blocks]
  rw [State.runStep_pass found pass going clear plane active, State.streamRow, if_neg (Nat.not_le.2 left)]
  simp only [format, engStep_ok run]
  rw [show (o.by_.self o.id).by_ = HeldBy.op o.id from rfl, engine, sound, acc]
  rfl

end

/-! ## What a row leaves -/

section
variable (s o) (i : Nat) (fl : Flags) (acc : AccRow × Flags)

theorem State.rowStreamed_mem : (s.rowStreamed o i fl acc).mem = s.mem := State.setAcc_mem

theorem State.rowStreamed_engine : (s.rowStreamed o i fl acc).engine e = s.engine e := by
  change (s.setAcc o i acc.1).engine e = _
  unfold State.setAcc
  split <;> rfl

variable {s o}

theorem State.rowStreamed_mat? (found : s.mat? o.id = some o) : (s.rowStreamed o i fl acc).mat? o.id = some (o.countPassRow fl acc.2) := by
  refine State.mat?_updMat (s := s.setAcc o i acc.1) (f := MatOp.countPassRow fl acc.2) ?_ fun _ => rfl
  unfold State.setAcc
  split <;> exact found

theorem State.rowStreamed_block? (block : o.by_.block = some blk) (here : s.block? blk = some b) :
    (s.rowStreamed o i fl acc).block? blk = some { b with accRows := b.accRows.set i acc.1 } := by
  change (s.setAcc o i acc.1).block? blk = _
  rw [State.setAcc, block]
  exact State.block?_updBlock here (f := fun b => { b with accRows := b.accRows.set i acc.1 }) fun _ => rfl

end

/-! ## A run of one pass of one row -/

/-- An entry whose rows have streamed in the run. -/
def MatOp.enterRun (o : MatOp) : MatOp := { o with phase := .inRun }

theorem State.streamAll_row (found : s.mat? o.id = some o) (waiting : o.phase = .waiting) (going : o.code = 0) (one : o.rowCount = 1)
    (more : (s.beginMat o).runStep e o.id = (.more, u)) (done : u.runStep e o.id = (.done, u)) :
    s.streamAll e [o.id] = (true, u.updMat o.id MatOp.enterRun) := by
  have streams : (s.beginMat o).runPass e o.id (2 * o.rowCount + 2) = (.done, u) := by
    rw [one, State.runPass, more]
    dsimp only
    rw [State.runPass, done]
  unfold State.streamAll
  simp only [found, waiting, going, streams]
  rfl

theorem State.grantRun_joiner {id : Nat} (inside : e < s.engines.length) (idle : (s.engine e).run = []) (kept : s.promotePlane e = s)
    (joins : s.joiners e = [id]) : s.grantRun e = ((s.updEngine e fun g => { g with run := [id] }).streamAll e [id]).2 := by
  have granted : s.updEngine e (fun g => { g with run := g.run ++ [id] }) = s.updEngine e fun g => { g with run := [id] } :=
    State.updEngine_congr inside (by rw [idle]; rfl)
  have run : ((s.updEngine e fun g => { g with run := [id] }).engine e).run = [id] := by rw [State.engine_updEngine inside]
  unfold State.grantRun State.streamRun
  simp only [idle, List.isEmpty_nil, Bool.not_true, Bool.false_eq_true, if_false, kept, joins, granted, run]

/-! ## A pass of one row begins, and its row streams -/

/-- An entry whose checks of KIND are done, with no rows of its own. -/
def MatOp.begunPass (o : MatOp) : MatOp := { o with begun := true, work := [] }

/-- What the one row of a pass leaves, read up to s, over the reservation tables that its start left. -/
def State.oneRowLeft (s : State) (ms : List MatOp) (o : MatOp) (array : Flags) (acc : AccRow × Flags) : State :=
  ((s.withMats ms).forgetHeld (.op o.id)).rowStreamed o.begunPass (pbAcc0 o.pb) array acc

section
variable (s ms o) (fl : Flags) (acc : AccRow × Flags)

theorem State.oneRowLeft_mem : (s.oneRowLeft ms o fl acc).mem = s.mem := by
  rw [State.oneRowLeft, State.rowStreamed_mem, State.forgetHeld_mem]
  rfl

theorem State.oneRowLeft_engine : (s.oneRowLeft ms o fl acc).engine e = s.engine e := by
  rw [State.oneRowLeft, State.rowStreamed_engine, State.engine, State.forgetHeld_engines]
  rfl

variable {s ms o}

theorem State.oneRowLeft_mat? (begun : (s.withMats ms).mat? o.id = some o.begunPass) :
    (s.oneRowLeft ms o fl acc).mat? o.id = some (o.begunPass.countPassRow fl acc.2) := by
  refine State.rowStreamed_mat? (o := o.begunPass) _ _ _ ?_
  rw [State.mat?, State.forgetHeld_mats]
  exact begun

theorem State.oneRowLeft_block? (block : o.by_.block = some blk) (here : s.block? blk = some b) :
    (s.oneRowLeft ms o fl acc).block? blk = some { b with accRows := b.accRows.set (pbAcc0 o.pb) acc.1 } := by
  refine State.rowStreamed_block? (o := o.begunPass) (b := b) _ _ acc block ?_
  rw [State.block?, State.forgetHeld_blocks]
  exact here

end

section
variable {p : PlaneId} {r : Nat} {fa fb : ArrFmt} {pl : Plane} {row : List BandBlock} {out : RowOut} {acc : AccRow × Flags}
  (found : s.mat? o.id = some o) (pass : o.kind.isPass = true) (fresh : o.begun = false) (good : s.kindBad o = false)
include found pass fresh good

/-- The pass begun: an entry that shares its name and is not a pass may hold its rows. -/
theorem State.beginMat_pass : (s.beginMat o).mat? o.id = some o.begunPass
    ∧ s.beginMat o = (s.updMat o.id MatOp.begunPass).withMats (s.beginMat o).mats := by
  have plain : o.kind ≠ .attn := fun attn => by simp [attn, MatKind.isPass] at pass
  rw [State.beginMat_fresh fresh good]
  refine ⟨?_, rfl⟩
  rw [MatOp.begunPass, ← State.begunMat_eq (s := s) plain]
  exact State.mat?_updMat found (f := s.begunMat) fun _ => rfl

variable (going : o.code = 0) (first : o.rowsDone = 0) (one : o.rowCount = 1) (format : o.fmtA = some fa)
  (plane : o.plane? = some (p, r, fb)) (active : (s.engine e).active = some pl) (clear : o.park = .clear)
  (reads : passRow (o.by_.self o.id) o fa 0 (s.updMat o.id MatOp.begunPass) = .ok row t)
  (engines : t.engines = s.engines) (blocks : t.blocks = s.blocks)
  (gives : arrRow fa fb o.tauA (recTau (snapRec o.snapB)) (s.engine e).corrupt row pl.pairs = out) (sound : out.parity = none)
  (sums : (s.accRow o (pbAcc0 o.pb)).accumulate (fb.cls == .int8) (pbAccum o.pb) out.vals = acc)
include going first one format plane active clear reads engines blocks gives sound sums

/-- The row of a pass of one row; no other row is left after it. -/
theorem State.beginMat_row : (s.beginMat o).runStep e o.id = (.more, t.oneRowLeft (s.beginMat o).mats o out.flags acc)
    ∧ (t.oneRowLeft (s.beginMat o).mats o out.flags acc).runStep e o.id = (.done, t.oneRowLeft (s.beginMat o).mats o out.flags acc) := by
  obtain ⟨begun, apart⟩ := State.beginMat_pass found pass fresh good
  constructor
  · have read : passRow (o.by_.self o.id) o.begunPass fa o.begunPass.rowsDone (s.beginMat o) = .ok row (t.withMats (s.beginMat o).mats) := by
      change passRow _ o fa o.rowsDone _ = _
      rw [first, apart, passRow_blind, reads]
      rfl
    generalize (s.beginMat o).mats = ms at apart read ⊢
    rw [apart] at begun read ⊢
    have left : o.begunPass.rowsDone < o.begunPass.rowCount := by
      change o.rowsDone < o.rowCount
      omega
    have step := State.runStep_row (o := o.begunPass) (e := e) begun pass going clear plane active left format read engines blocks (gives ▸ sound)
    subst gives sums
    rw [show o.begunPass.rowsDone = 0 from first] at step
    exact step
  · have counted := State.oneRowLeft_mat? (s := t) out.flags acc begun
    have still : ((t.oneRowLeft (s.beginMat o).mats o out.flags acc).engine e).active = some pl := by
      rw [State.oneRowLeft_engine, State.engine, engines]
      exact active
    refine State.runStep_done (o := o.begunPass.countPassRow out.flags acc.2) counted pass going clear plane still ?_
    change o.rowCount ≤ o.rowsDone + 1
    omega

variable (waiting : o.phase = .waiting) (block : o.by_.block = some blk) (here : s.block? blk = some b)
include waiting block here

/-- A run of such a pass streams it all. -/
theorem State.streamAll_oneRow : ∃ u, s.streamAll e [o.id] = (true, u) ∧ u.mem = t.mem ∧ u.engine e = s.engine e
    ∧ u.block? blk = some { b with accRows := b.accRows.set (pbAcc0 o.pb) acc.1 }
    ∧ u.mat? o.id = some (o.begunPass.countPassRow out.flags acc.2).enterRun := by
  obtain ⟨begun, apart⟩ := State.beginMat_pass found pass fresh good
  obtain ⟨more, done⟩ := State.beginMat_row found pass fresh good going first one format plane active clear reads engines blocks gives sound sums
  refine ⟨_, State.streamAll_row found waiting going one more done, t.oneRowLeft_mem o (s.beginMat o).mats out.flags acc, ?_, ?_, ?_⟩
  · change (t.oneRowLeft (s.beginMat o).mats o out.flags acc).engine e = _
    rw [State.oneRowLeft_engine, State.engine, engines]
    rfl
  · refine State.oneRowLeft_block? out.flags acc block ?_
    rw [State.block?, blocks]
    exact here
  · have left := State.oneRowLeft_mat? (s := t) out.flags acc begun
    exact State.mat?_updMat (o := o.begunPass.countPassRow out.flags acc.2) (f := MatOp.enterRun) left fun _ => rfl

end

end Sys2Proof.Machine
end

section
/-! The events of the matrix engines (08 R190, R195, R201, R204, R205, R208, R211). -/
namespace Sys2Proof.Machine
variable {s t : State} {o : MatOp} {b : Block} {e blk : Nat}

/-! ## What each event leaves -/

/-- PLANE_LOAD_COMPLETE. -/
theorem State.finishLoad_leaves {p q : PlaneId} {r : Nat} {f : ArrFmt} {pl : Plane} (inside : e < t.engines.length)
    (loading : (s.engine e).loading = some (p, o.id)) (found : s.mat? o.id = some o) (plane : o.plane? = some (q, r, f)) (going : o.code = 0)
    (clear : o.park = .clear) (run : loadPlane (o.by_.self o.id) p r f s = .ok pl t) : SameRun t (s.finishLoad e)
      ∧ ((s.finishLoad e).engine e).loading = none ∧ (((s.finishLoad e).engine e).shadow = some pl ∨ ((s.finishLoad e).engine e).active = some pl) := by
  rw [State.finishLoad_ends loading found plane going clear run]
  have inside' : e < (t.forgetHeld (.op o.id)).engines.length := by rwa [State.forgetHeld_engines]
  have engine := State.engine_updEngine inside' fun g => { g with loading := none, shadow := some pl }
  have same : SameRun t ((t.forgetHeld (.op o.id)).updEngine e fun g => { g with loading := none, shadow := some pl }) :=
    ⟨State.forgetHeld_waves _, State.forgetHeld_blocks _, State.forgetHeld_mem, State.forgetHeld_harts _⟩
  refine ⟨same.trans (State.promotePlane_sameRun _ _), ?_⟩
  obtain stays | ⟨keep, promotes⟩ := State.promotePlane_engine (s := (t.forgetHeld (.op o.id)).updEngine e _) (by simpa [State.updEngine] using inside')
  · rw [stays, engine]
    exact ⟨rfl, .inl rfl⟩
  · rw [promotes, engine]
    exact ⟨rfl, .inr rfl⟩

/-- RUN_END of a run that has streamed. -/
theorem State.endRun_leaves (inside : e < s.engines.length) (running : (s.engine e).run ≠ []) (none_ : s.joiners e = [])
    (streamed : ∀ o ∈ s.mats, o.id ∈ (s.engine e).run → o.phase = .inRun ∨ o.code ≠ 0) : SameRun s (s.endRun e) ∧ ((s.endRun e).engine e).run = []
      ∧ ∀ o, o.id ∈ (s.engine e).run → s.mat? o.id = some o → (s.endRun e).mat? o.id = some o.leaveRun := by
  rw [State.endRun_streamed inside running none_ streamed]
  generalize left : ({ s with mats := _ } : State) = u
  have inside' : e < u.engines.length := left ▸ inside
  have engine := State.engine_updEngine inside' fun g => { g with run := [] }
  refine ⟨.trans (left ▸ ⟨rfl, rfl, rfl, rfl⟩) (State.promotePlane_sameRun (u.updEngine e _) e), ?_, fun o member found => ?_⟩
  · obtain stays | ⟨keep, promotes⟩ := State.promotePlane_engine (s := u.updEngine e fun g => { g with run := [] }) (by simpa [State.updEngine] using inside')
    · rw [stays, engine]
    · rw [promotes, engine]
  · subst left
    rw [State.mat?, State.promotePlane_mats]
    have kept : (fun y : MatOp => y.id == o.id) ∘ (fun y => if y.id ∈ (s.engine e).run then y.leaveRun else y) = fun y => y.id == o.id :=
      funext fun y => by simp only [Function.comp, apply_ite MatOp.id, MatOp.leaveRun_id, ite_self]
    change (s.mats.map fun y => if y.id ∈ (s.engine e).run then y.leaveRun else y).find? _ = _
    rw [List.find?_map, kept, show s.mats.find? (fun y => y.id == o.id) = some o from found, Option.map_some, if_pos member]

section
variable (found : s.mat? o.id = some o) (clear : o.park = .clear) (block : o.by_.block = some blk) (here : s.block? blk = some b)
  (staying : s.blockWaves blk ≠ [])
include found clear block here staying

/-- MATRIX_OP_COMPLETE of MZRO. -/
theorem State.completeMat_zeroes (kind : o.kind = .mzro) (going : o.code = 0) (fresh : o.begun = false) (start : o.rowsDone = 0)
    (free : s.rowsFree o = true) : (s.completeMat o.engine o.id).mem = s.mem ∧ (∀ y ∈ (s.completeMat o.engine o.id).mats, y.id ≠ o.id)
      ∧ (∀ v ∈ (s.completeMat o.engine o.id).tasks, v.id = o.by_.task → ∃ v' ∈ s.tasks, v = { v' with pending := bump v'.pending o.by_.core (· - 1) })
      ∧ (s.completeMat o.engine o.id).block? blk = some { b with accRows := zeroRows b.accRows o.plainRow o.plainRows o.plainVal } := by
  obtain ⟨u, zeroed, ends⟩ := State.completeMat_mzro kind going clear block found here fresh start free
  have plain : o.kind.hasBlock = false := by rw [kind]; rfl
  have waves : u.blockWaves blk ≠ [] := by
    rw [State.blockWaves, zeroed.waves]
    exact staying
  have only := State.endMat_onlyWaves (s := u) (o := o.atRow o.plainRows) block waves (by simp [MatOp.atRow, plain]) 1
  rw [ends]
  refine ⟨?_, fun y mem => ?_, fun v mem named => ?_, ?_⟩
  · rw [only.mem, State.matEnded_mem, zeroed.mem]
  · rw [only.mats] at mem
    exact bne_iff_ne.1 (List.mem_filter.1 mem).2
  · rw [only.tasks] at mem
    obtain ⟨v', mem', fewer⟩ := State.matEnded_tasks (o := o.atRow o.plainRows) mem named
    exact ⟨v', zeroed.tasks ▸ mem', fewer⟩
  · rw [only.block?, State.matEnded_block? (o := o.atRow o.plainRows) block zeroed.block, Block.addCode_ok]
    exact congrArg some (if_neg (Bool.eq_false_iff.1 plain))

/-- MATRIX_OP_COMPLETE of what has failed, or streamed, without a sync word. -/
theorem State.completeMat_leaves {code : Nat} (over_ : o.code ≠ 0 ∨ o.kind.isPass = true ∧ o.phase = .streamed) (failed : o.code ≠ 1)
    (quiet : pbSwEn o.pb = false) (ends : (if o.code ≠ 0 then o.code else 1) = code) : (s.completeMat o.engine o.id).mem = s.mem
      ∧ (s.completeMat o.engine o.id).mats = s.mats.filter (fun y => y.id != o.id)
      ∧ (∀ v ∈ (s.completeMat o.engine o.id).tasks, v.id = o.by_.task → ∃ v' ∈ s.tasks, v = { v' with pending := bump v'.pending o.by_.core (· - 1) })
      ∧ (s.completeMat o.engine o.id).block? blk = some ((b.withStatus o code).addCode o.ticket code) := by
  have only := State.endMat_onlyWaves block staying (by rw [quiet, Bool.and_false]) code
  rw [State.completeMat_over found clear over_ failed, ends]
  refine ⟨?_, ?_, fun v mem named => ?_, ?_⟩
  · rw [only.mem, State.matEnded_mem]
  · rw [only.mats]
    rfl
  · rw [only.tasks] at mem
    exact State.matEnded_tasks mem named
  · rw [only.block?, State.matEnded_block? block here]

end

theorem zeroRows_getElem? {rows : List AccRow} {first n kind i : Nat} {row : AccRow} (here : rows[i]? = some row) :
    (zeroRows rows first n kind)[i]? = some (if first ≤ i ∧ i < first + n then accZero kind else row) := by
  rw [zeroRows, List.getElem?_mapIdx, here]
  rfl

/-! ## The statement -/

/-- Settles O46. A plane's load starts and ends as its queue and its tensor say. A pass of one row reads its row in a state whose reservation
tables it does not look at, so its row is the one that `passRow` gives there, and the array's values go to its accumulator row alone. A run
that no pass joins ends. MZRO zeroes its rows one by one; an operation that failed or streamed leaves STATUS, its code and its count. -/
theorem matrixEvents : Obligations.MatrixEvents := by
  unfold Obligations.MatrixEvents
  refine ⟨?_, ?_, ?_, ?_, ?_⟩
  · intro s e o p pre post inside idle over_ order held names wanted
    refine ⟨_, rfl, ?_⟩
    rw [State.startLoad_first idle over_ order held names wanted]
    exact ⟨⟨rfl, rfl, rfl, rfl⟩, rfl, State.engine_updEngine inside _⟩
  · intro s s1 e r o p q f pl inside loading found plane going clear run
    obtain ⟨id_, columns⟩ := loadPlane_gives _ _ _ _ _ _ _ run
    obtain ⟨same, drops, slot⟩ := State.finishLoad_leaves inside loading found plane going clear run
    exact ⟨_, rfl, same, drops, id_, columns, slot⟩
  · intro s s1 s2 e blk o b p r fa fb pl row inside idle kept joins found pass waiting going fresh good first one format plane active clear block here
      _ starts reads _ engines blocks out acc sound
    subst starts
    have engine := State.engine_updEngine inside fun g => { g with run := [o.id] }
    obtain ⟨u, streams, mem, engine_, rows, entry⟩ := State.streamAll_oneRow (s := s.updEngine e fun g => { g with run := [o.id] }) (acc := acc) (out := out)
      found pass fresh good going first one format plane (by rw [engine]; exact active) clear reads engines blocks
      (by rw [engine]) sound rfl waiting block here
    refine ⟨u, ?_, mem, ?_, rows, ?_⟩
    · exact congrArg Host.Outcome.next (by rw [State.grantRun_joiner inside idle kept joins, streams])
    · rw [engine_, engine]
    · rw [entry]
      simp [MatOp.enterRun, MatOp.countPassRow, MatOp.begunPass, first]
  · intro s e inside running none_ streamed
    obtain ⟨same, free, left⟩ := State.endRun_leaves inside running none_ streamed
    refine ⟨_, rfl, same, free, fun o _ member found inRun => ?_⟩
    rw [left o member found]
    simp [MatOp.leaveRun, inRun]
  · intro s e blk o b found engine clear block here staying pend
    subst engine
    refine ⟨?_, ?_⟩
    · intro kind going fresh start free
      obtain ⟨mem, gone, counted, rows⟩ := State.completeMat_zeroes found clear block here staying kind going fresh start free
      exact ⟨_, _, rfl, mem, gone, counted, rows, rfl, List.length_mapIdx, fun i row => zeroRows_getElem?⟩
    · intro over_ failed quiet canon code
      obtain ⟨mem, gone, counted, left⟩ := State.completeMat_leaves (code := code) found clear block here staying over_ failed quiet rfl
      obtain ⟨_, keptRows, keptCodes⟩ := b.withStatus_keeps o code
      obtain ⟨_, rows, scratch⟩ := (b.withStatus o code).addCode_keeps o.ticket code
      refine ⟨_, _, rfl, mem, gone, counted, left, rows.trans keptRows, Block.addCode_opCodes _ _, fun ok => ?_, ?_⟩
      · rw [ok, Block.addCode_ok]
        exact ok ▸ keptCodes
      · rw [scratch]
        exact Block.withStatus_scratch canon o code

end Sys2Proof.Machine
end
